-- ==== Sys2Proof/Word.lean ====
section
/-! DEFINITION. The word types of the Perzil 8400 and the smallest notions over them: a byte, a 32-bit
register word, a 64-bit address and a 64-lane mask (R3, R10, R32). -/

namespace Sys2Proof

/-- One byte of memory. -/
abbrev Byte := BitVec 8

/-- One 32-bit register or instruction word (R10, R103). -/
abbrev Word := BitVec 32

/-- One 64-bit address or 64-bit quantity (R3). -/
abbrev Addr := BitVec 64

/-- A mask of lanes, bit `l` standing for lane `l` (R32). -/
abbrev Mask := BitVec 64

end Sys2Proof
end

