-- ==== Sys2Proof/Syntax.lean ====
section
/-! DEFINITION. The syntax of the Perzil 8400: one constructor of `Instr` per row of the opcode table.
Instruction words carry their fields as decoded (R103, R106, R123); the stream commands of R20, the bank
words of R191 and the events of the device carry the operands that name what they act on. -/

namespace Sys2Proof

/-- The prefix every instruction word carries besides its major: the transient bit T and the gap G (R103). -/
structure Pre where
  t : Bool
  g : BitVec 2
  deriving DecidableEq, Repr

/-- Condition codes of SCMP, VCMP, VFCMP and OCMP (R130, R204, R239). -/
inductive Cc where
  | eq | ne | lt | le | gt | ge | un | ord
  deriving DecidableEq, Repr

/-- Shuffle kinds (R150). -/
inductive ShflKind where
  | idx | up | dn | xor
  deriving DecidableEq, Repr

/-- Atomic operations (R123, R169). -/
inductive AtomOp where
  | add | min | max | and | or | xor | xchg | cas | fadd | inc
  deriving DecidableEq, Repr

/-- Reduction and scan operations (R210). -/
inductive RedOp where
  | add | fadd | fmul | min | minu | max | maxu | fmin | fmax | and | or | xor
  deriving DecidableEq, Repr

/-- The fields that the lane memory words share (R123). `disp` is the field as encoded: 14 bits, of which
STU uses the low 11 and ATOM none. -/
structure LaneMem where
  d : BitVec 7
  a : BitVec 7
  x : BitVec 7
  xv : Bool
  fs : Bool
  sz : BitVec 3
  ord : BitVec 2
  scp : BitVec 3
  disp : BitVec 14
  deriving DecidableEq, Repr

/-- The kinds of scheduling unit that grant themselves to a virtual device (R309). -/
inductive GrantUnit where
  | pipes | matrix | copy | bank
  deriving DecidableEq, Repr

/-- A memory extent of a partition: a channel set as a range entry names one (first pseudo-channel, log2 of
the number, log2 of the step) with a local window (R336, R347). -/
structure Extent where
  pcf : Nat
  pcn : Nat
  pcs : Nat
  lo : Nat
  hi : Nat
  deriving DecidableEq, Repr

/-- The resources a partition holds (R347). -/
structure Resources where
  cores : List Nat
  extents : List Extent
  bankChannels : List Nat
  keys : List Nat
  windows : List (Nat × Nat)
  links : List Nat
  deriving DecidableEq, Repr

/-- Where a host processor's access goes: an offset into a device's coherent aperture, or an address of host memory (R362). -/
structure HostAddr where
  mem : Bool
  off : Nat
  deriving DecidableEq, Repr

/-- Whose lane firmware remaps: a link's, or a stack's, with the sector at which its failure showed (R342, R345). -/
inductive LaneOf where
  | link
  | stack (sector : Nat)
  deriving DecidableEq, Repr

/-- A change of plan: the resources it gives, and those of the cores that have failed (R348). -/
structure Change where
  res : Resources
  failed : List Nat
  deriving DecidableEq, Repr

/-- For a new partition: the manager function that asks, `none` for the platform manager, and the parent (R347, R363). -/
structure Ancestry where
  asker : Option Nat
  parent : Option Nat
  deriving DecidableEq, Repr

/-- A key slot and the 64-byte key that firmware loads into it (R340). -/
structure KeyLoad where
  num : Nat
  key : BitVec 512
  deriving DecidableEq, Repr

/-- The data of a remote element: its bytes, and for one of 4 bits the half of its byte, the high one for `true` (R369). -/
structure ElemData where
  bytes : List Byte
  half : Option Bool
  deriving DecidableEq, Repr

/-- The instruction set: every row of the opcode table. -/
inductive Instr where
  /-- SADD: Adds S[A] and a register or 7-bit immediate modulo 2^32 into S[D]. (R129) -/
  | sadd (p : Pre) (d a b : BitVec 7) (n : Bool)
  /-- SSUB: Subtracts the second operand from S[A] into S[D]. (R129) -/
  | ssub (p : Pre) (d a b : BitVec 7) (n : Bool)
  /-- SMUL: Writes the low 32 bits of the product of S[A] and S[B]. (R129) -/
  | smul (p : Pre) (d a b : BitVec 7) (n : Bool)
  /-- SMULH: Writes the high 32 bits of the signed or unsigned 64-bit product. (R129) -/
  | smulh (p : Pre) (d a b : BitVec 7) (n : Bool)
  /-- SAND: Bitwise AND of S[A] with a register or immediate. (R129) -/
  | sand (p : Pre) (d a b : BitVec 7) (n : Bool)
  /-- SOR: Bitwise OR of S[A] with a register or immediate. (R129) -/
  | sor (p : Pre) (d a b : BitVec 7) (n : Bool)
  /-- SXOR: Bitwise XOR of S[A] with a register or immediate. (R129) -/
  | sxor (p : Pre) (d a b : BitVec 7) (n : Bool)
  /-- SSHL: Shifts S[A] left by a 5-bit count. (R129) -/
  | sshl (p : Pre) (d a b : BitVec 7) (n : Bool)
  /-- SSHR: Shifts S[A] right, shifting in zeros. (R129) -/
  | sshr (p : Pre) (d a b : BitVec 7) (n : Bool)
  /-- SSRA: Shifts S[A] right, shifting in the sign bit. (R129) -/
  | ssra (p : Pre) (d a b : BitVec 7) (n : Bool)
  /-- SMIN: Writes the signed or unsigned minimum of S[A] and S[B]. (R129) -/
  | smin (p : Pre) (d a b : BitVec 7) (n : Bool)
  /-- SMAX: Writes the signed or unsigned maximum of S[A] and S[B]. (R129) -/
  | smax (p : Pre) (d a b : BitVec 7) (n : Bool)
  /-- SCMP: Compares S[A] with S[B] under a condition code and writes the result to a Q register. (R130) -/
  | scmp (p : Pre) (cc : Cc) (q : BitVec 2) (a b : BitVec 7) (n : Bool)
  /-- SSEL: Copies S[A] to S[D] when the scalar guard holds. (R131) -/
  | ssel (p : Pre) (d a : BitVec 7) (gd : BitVec 4)
  /-- SMOV: Copies S[A] to S[D]. (R132) -/
  | smov (p : Pre) (d a : BitVec 7)
  /-- SRDV_FIRST: Reads V[A] of the strand's lowest active lane into S[D]. (R132) -/
  | srdvFirst (p : Pre) (d a : BitVec 7)
  /-- SRDV: Reads V[A] of a given lane into S[D]. (R132) -/
  | srdv (p : Pre) (d a : BitVec 7) (l : BitVec 6)
  /-- SRDID: Writes a selected identifier (lane, slice, strand, gang, block, core, die, launch) into S[D]. (R133) -/
  | srdid (p : Pre) (d : BitVec 7) (id : BitVec 3)
  /-- SMOVI: Loads a sign-extended 15-bit immediate into S[D]. (R134) -/
  | smovi (p : Pre) (d : BitVec 7) (imm : BitVec 15)
  /-- SLUI: Shifts S[D] left by 15 and ORs in a 15-bit immediate. (R134) -/
  | slui (p : Pre) (d : BitVec 7) (imm : BitVec 15)
  /-- BRA: Branches the whole strand when the scalar guard holds. (R135) -/
  | bra (p : Pre) (gd : BitVec 4) (off : BitVec 18)
  /-- BRL: Branches per lane on a lane guard, splitting the strand when lanes disagree. (R136) -/
  | brl (p : Pre) (gd : BitVec 4) (off : BitVec 18)
  /-- JOINAT: Pushes a join entry for a join address onto the strand's join stack. (R137) -/
  | joinat (p : Pre) (off : BitVec 18)
  /-- BCALL: Writes the return address to S58:S59 and branches when the scalar guard holds. (R138) -/
  | bcall (p : Pre) (gd : BitVec 4) (off : BitVec 18)
  /-- LOOPB: Decrements S[A] and branches back while it is nonzero, capturing the loop buffer. (R141) -/
  | loopb (p : Pre) (a : BitVec 7) (i8 : BitVec 8)
  /-- BRET: Returns to the 64-bit address in an S pair. (R140) -/
  | bret (p : Pre) (a : BitVec 7)
  /-- BIND: Branches to the 64-bit address in an S pair. (R140) -/
  | bind (p : Pre) (a : BitVec 7)
  /-- BIND_CALL: Writes the return address to an S pair and branches indirectly. (R140) -/
  | bindCall (p : Pre) (d a : BitVec 7)
  /-- REGRP: Parks the strand at a whole-gang rendezvous that combines all strands into one. (R143) -/
  | regrp (p : Pre)
  /-- EXIT: Removes the strand's active lanes from the gang. (R145) -/
  | exit (p : Pre)
  /-- YIELD: Resets the strand's age in the issue selector. (R146) -/
  | yield (p : Pre)
  /-- SLEEP: Makes the strand sleep until an absolute tick time. (R147) -/
  | sleep (p : Pre) (a : BitVec 7)
  /-- SLEEP_REL: Makes the strand sleep for a number of ticks. (R147) -/
  | sleepRel (p : Pre) (a : BitVec 7)
  /-- SWIDTH: Writes the number of the strand's active lanes. (R148) -/
  | swidth (p : Pre) (d : BitVec 7)
  /-- SWIDTH_GANG: Writes the gang's width in lanes. (R148) -/
  | swidthGang (p : Pre) (d : BitVec 7)
  /-- SMASKQ_ACT: Writes the strand's active mask to an S pair. (R148) -/
  | smaskqAct (p : Pre) (d : BitVec 7)
  /-- SMASKQ_LIVE: Writes the gang's non-exited lanes to an S pair. (R148) -/
  | smaskqLive (p : Pre) (d : BitVec 7)
  /-- SGANGQ: Writes the gang status word (width, strands, join depth, first pipe). (R148) -/
  | sgangq (p : Pre) (d : BitVec 7)
  /-- VOTE_ANY: Sets Q if a predicate holds on any active lane. (R149) -/
  | voteAny (p : Pre) (w : Bool) (q : BitVec 2) (a : BitVec 7)
  /-- VOTE_ALL: Sets Q if a predicate holds on every active lane. (R149) -/
  | voteAll (p : Pre) (w : Bool) (q : BitVec 2) (a : BitVec 7)
  /-- VOTE_EQ: Sets Q if a V register has one bit pattern on every active lane. (R149) -/
  | voteEq (p : Pre) (w : Bool) (q : BitVec 2) (a : BitVec 7)
  /-- VOTE_BAL: Writes the ballot mask of a predicate over the active lanes to an S pair. (R149) -/
  | voteBal (p : Pre) (w : Bool) (d a : BitVec 7)
  /-- SHFL: Shuffles V values between the strand's lanes by index, up, down or XOR, with fill. (R150) -/
  | shfl (p : Pre) (d a b : BitVec 7) (bk : Bool) (kind : ShflKind) (w fk : Bool) (fr : BitVec 7) (imm : Bool) (c : BitVec 6)
  /-- SETFMT: Sets FMTR from an S register. (R152) -/
  | setfmt (p : Pre) (a : BitVec 7)
  /-- SETFMT_IMM: Sets FMTR from an immediate format code. (R152) -/
  | setfmtImm (p : Pre) (code : BitVec 8)
  /-- GETFMT: Reads FMTR into S[D]. (R152) -/
  | getfmt (p : Pre) (d : BitVec 7)
  /-- SETCVM: Sets CVMR from an S register, checking the rounding fields. (R152) -/
  | setcvm (p : Pre) (a : BitVec 7)
  /-- GETCVM: Reads CVMR into S[D]. (R152) -/
  | getcvm (p : Pre) (d : BitVec 7)
  /-- SEEDSR: Seeds every active lane's stochastic-rounding state from an S register. (R152) -/
  | seedsr (p : Pre) (a : BitVec 7)
  /-- SEEDSR_V: Seeds each active lane's stochastic-rounding state from its V register. (R152) -/
  | seedsrV (p : Pre) (a : BitVec 7)
  /-- XACQ_V: Requests the extended V64-V127 block, sleeping until granted. (R154) -/
  | xacqV (p : Pre)
  /-- XACQ_ACC: Requests an accumulator tile block. (R154) -/
  | xacqAcc (p : Pre) (n : BitVec 2)
  /-- XACQ_BT: Requests the bit-tile block. (R154) -/
  | xacqBt (p : Pre)
  /-- XREL_V: Releases the extended V block after its outstanding operations. (R156) -/
  | xrelV (p : Pre)
  /-- XREL_ACC: Releases an accumulator tile block. (R156) -/
  | xrelAcc (p : Pre) (n : BitVec 2)
  /-- XREL_BT: Releases the bit-tile block. (R156) -/
  | xrelBt (p : Pre)
  /-- XQRY: Writes the gang's extended-block status word. (R157) -/
  | xqry (p : Pre) (d : BitVec 7)
  /-- FORK: Pushes a task record onto the core's deque, or sets Q to run it inline when full. (R158) -/
  | fork (p : Pre) (q : BitVec 2) (a e : BitVec 7) (loc ek : Bool) (off : BitVec 18)
  /-- JOIN: Waits until a join counter in memory reads zero, with acquire. (R159) -/
  | join (p : Pre) (scp : BitVec 3) (a : BitVec 7)
  /-- JOIN_SP: Waits until a join counter in scratchpad reads zero. (R159) -/
  | joinSp (p : Pre) (scp : BitVec 3) (a : BitVec 7)
  /-- DEQD: Writes the number of records in the core's deque. (R159) -/
  | deqd (p : Pre) (d : BitVec 7)
  /-- LD: Loads per lane from device memory, applying tile maps. (R166) -/
  | ld (p : Pre) (m : LaneMem) (raw : Bool)
  /-- LDU: Unaligned per-lane load from device memory. (R166) -/
  | ldu (p : Pre) (m : LaneMem) (raw : Bool)
  /-- LDS: Per-lane load from the block's scratchpad. (R166) -/
  | lds (p : Pre) (m : LaneMem)
  /-- LDC: Per-lane load through the constant cache. (R168) -/
  | ldc (p : Pre) (m : LaneMem) (raw : Bool)
  /-- ST: Guarded per-lane store to device memory. (R167) -/
  | st (p : Pre) (m : LaneMem) (gd : BitVec 4)
  /-- STU: Byte-masked unaligned per-lane store. (R167) -/
  | stu (p : Pre) (m : LaneMem) (gd : BitVec 4) (mv : BitVec 7)
  /-- STS: Guarded per-lane store to scratchpad. (R167) -/
  | sts (p : Pre) (m : LaneMem) (gd : BitVec 4)
  /-- ATOM: Per-lane atomic read-modify-write returning the old value. (R169) -/
  | atom (p : Pre) (m : LaneMem) (gd : BitVec 4) (raw : Bool) (aop : AtomOp) (dv cv : BitVec 7)
  /-- FENCE: Orders the strand's memory operations at a scope by kind acq, rel, ar or sc. (R170) -/
  | fence (p : Pre) (kind : BitVec 2) (scp : BitVec 3)
  /-- TLD: Reads a tile's view, converted, into a scratchpad image. (R172) -/
  | tld (p : Pre) (d a : BitVec 7) (fmt : BitVec 8) (mode : BitVec 3) (sat : Bool) (fs : Bool) (ord : BitVec 2) (scp : BitVec 3)
  /-- TST: Writes a scratchpad image as a whole tile with an identity header. (R172) -/
  | tst (p : Pre) (d a : BitVec 7) (fmt : BitVec 8) (sclw : Bool) (fs : Bool) (ord : BitVec 2) (scp : BitVec 3)
  /-- THQ: Reads a tile's eight header words into S registers. (R173) -/
  | thq (p : Pre) (d a : BitVec 7) (fs : Bool) (ord : BitVec 2) (scp : BitVec 3)
  /-- TMAT: Materialises a tile under its current map. (R173) -/
  | tmat (p : Pre) (a : BitVec 7) (fs : Bool) (ord : BitVec 2) (scp : BitVec 3)
  /-- TAFF: Composes an affine edit onto a tile header. (R174) -/
  | taff (p : Pre) (a x y : BitVec 7) (fs : Bool) (ord : BitVec 2) (scp : BitVec 3)
  /-- TSCALE: Composes a scale edit onto a tile header. (R174) -/
  | tscale (p : Pre) (a x : BitVec 7) (fs : Bool) (ord : BitVec 2) (scp : BitVec 3)
  /-- TOFFS: Composes an offset edit onto a tile header. (R174) -/
  | toffs (p : Pre) (a x : BitVec 7) (fs : Bool) (ord : BitVec 2) (scp : BitVec 3)
  /-- TCLAMP: Composes a clamp edit onto a tile header. (R174) -/
  | tclamp (p : Pre) (a x y : BitVec 7) (fs : Bool) (ord : BitVec 2) (scp : BitVec 3)
  /-- TFILL: Replaces a tile's map with a fill. (R174) -/
  | tfill (p : Pre) (a x : BitVec 7) (fs : Bool) (ord : BitVec 2) (scp : BitVec 3)
  /-- TPERM: Composes a permutation code onto a tile header. (R174) -/
  | tperm (p : Pre) (a : BitVec 7) (perm : BitVec 3) (fs : Bool) (ord : BitVec 2) (scp : BitVec 3)
  /-- BARA: Arrives at a named barrier without waiting. (R175) -/
  | bara (p : Pre) (name : BitVec 4) (a : BitVec 7) (w : Bool)
  /-- BARS: Arrives at a named barrier and waits for the phase to complete. (R175) -/
  | bars (p : Pre) (name : BitVec 4) (a : BitVec 7) (w : Bool)
  /-- BARW: Waits for the named barrier's current phase without arriving. (R175) -/
  | barw (p : Pre) (name : BitVec 4) (w : Bool)
  /-- BXINIT: Clears a byte-counting barrier and sets its expected bytes. (R179) -/
  | bxinit (p : Pre) (d a : BitVec 7)
  /-- BXEXP: Adds expected bytes to a byte-counting barrier and checks completion. (R179) -/
  | bxexp (p : Pre) (d a : BitVec 7)
  /-- BXARR: Arrives bytes at a byte-counting barrier with release. (R179) -/
  | bxarr (p : Pre) (d a : BitVec 7)
  /-- BXWAIT: Waits for a byte-counting barrier's phase to change and reads its error bit. (R179) -/
  | bxwait (p : Pre) (par : Bool) (q : BitVec 2) (a : BitVec 7)
  /-- CRWAIT_EMPTY: Waits until a chainring stage is empty in a given phase. (R180) -/
  | crwaitEmpty (p : Pre) (ring : BitVec 3) (ph : Bool) (a : BitVec 7)
  /-- CRWAIT_FULL: Waits until a chainring stage is full in a given phase. (R180) -/
  | crwaitFull (p : Pre) (ring : BitVec 3) (ph : Bool) (a : BitVec 7)
  /-- CRFILL: Marks a chainring stage full and toggles its phase. (R180) -/
  | crfill (p : Pre) (ring : BitVec 3) (a : BitVec 7)
  /-- CRFREE: Marks a chainring stage empty. (R180) -/
  | crfree (p : Pre) (ring : BitVec 3) (a : BitVec 7)
  /-- CRTAKE_EMPTY: Tests without waiting whether a stage is empty in a phase. (R180) -/
  | crtakeEmpty (p : Pre) (ring : BitVec 3) (q : BitVec 2) (ph : Bool) (a : BitVec 7)
  /-- CRTAKE_FULL: Tests without waiting whether a stage is full in a phase. (R180) -/
  | crtakeFull (p : Pre) (ring : BitVec 3) (q : BitVec 2) (ph : Bool) (a : BitVec 7)
  /-- CPY: Queues a copy command on the core's copy engine. (R185) -/
  | cpy (p : Pre) (a e b o : BitVec 7) (ds : Bool)
  /-- CPYP: Queues a copy command and writes its completion promise. (R185) -/
  | cpyp (p : Pre) (d a e b o : BitVec 7) (ds : Bool)
  /-- CWAIT: Waits for a barrier until its promise time, raising missed-promise if late. (R187) -/
  | cwait (p : Pre) (par : Bool) (d a : BitVec 7)
  /-- CSTAT: Reads a barrier's status word. (R187) -/
  | cstat (p : Pre) (d a : BitVec 7)
  /-- CSTAT_IDX: Reads a barrier's INDEX into an S pair. (R187) -/
  | cstatIdx (p : Pre) (d a : BitVec 7)
  /-- CSTAT_CLR: Reads a barrier's status word and clears CODE, KIND and INDEX. (R187) -/
  | cstatClr (p : Pre) (d a : BitVec 7)
  /-- HEDIT: Queues a multi-tile header edit on the copy engine. (R188) -/
  | hedit (p : Pre) (a e b o : BitVec 7) (ds : Bool)
  /-- BANKCMD: Sends a bank program to a set of bank engines. (R189) -/
  | bankcmd (p : Pre) (d a e b : BitVec 7)
  /-- ICINV: Releases at die scope and invalidates the core's instruction cache and loop buffers. (R193) -/
  | icinv (p : Pre)
  /-- ICINV_DEV: Invalidates instruction caches on every core of the virtual device. (R193) -/
  | icinvDev (p : Pre)
  /-- ISYNC: Discards prefetched words and refetches. (R193) -/
  | isync (p : Pre)
  /-- DCWB: Writes dirty L2 lines of a range to memory. (R193) -/
  | dcwb (p : Pre) (d a : BitVec 7)
  /-- DCINV: Invalidates the core's L1 lines of a range. (R193) -/
  | dcinv (p : Pre) (d a : BitVec 7)
  /-- VADD: Integer add per lane. (R200) -/
  | vadd (p : Pre) (d a b : BitVec 7) (n : Bool)
  /-- VSUB: Integer subtract per lane. (R200) -/
  | vsub (p : Pre) (d a b : BitVec 7) (n : Bool)
  /-- VMUL: Low 32 bits of the per-lane product. (R200) -/
  | vmul (p : Pre) (d a b : BitVec 7) (n : Bool)
  /-- VMULH: High 32 bits of the signed or unsigned per-lane product. (R200) -/
  | vmulh (p : Pre) (d a b : BitVec 7) (n : Bool)
  /-- VMAD: Integer multiply-add into V[D]. (R200) -/
  | vmad (p : Pre) (d a b : BitVec 7) (n : Bool)
  /-- VAND: Bitwise AND per lane. (R200) -/
  | vand (p : Pre) (d a b : BitVec 7) (n : Bool)
  /-- VOR: Bitwise OR per lane. (R200) -/
  | vor (p : Pre) (d a b : BitVec 7) (n : Bool)
  /-- VXOR: Bitwise XOR per lane. (R200) -/
  | vxor (p : Pre) (d a b : BitVec 7) (n : Bool)
  /-- VSHL: Shift left per lane. (R200) -/
  | vshl (p : Pre) (d a b : BitVec 7) (n : Bool)
  /-- VSHR: Logical shift right per lane. (R200) -/
  | vshr (p : Pre) (d a b : BitVec 7) (n : Bool)
  /-- VSRA: Arithmetic shift right per lane. (R200) -/
  | vsra (p : Pre) (d a b : BitVec 7) (n : Bool)
  /-- VFSHL: Funnel shift left of a 64-bit register pair. (R201) -/
  | vfshl (p : Pre) (d a b : BitVec 7) (ck : BitVec 2) (c : BitVec 7) (imm : BitVec 6)
  /-- VFSHR: Funnel shift right of a 64-bit register pair. (R201) -/
  | vfshr (p : Pre) (d a b : BitVec 7) (ck : BitVec 2) (c : BitVec 7) (imm : BitVec 6)
  /-- VMIN: Signed or unsigned minimum per lane. (R200) -/
  | vmin (p : Pre) (d a b : BitVec 7) (n : Bool)
  /-- VMAX: Signed or unsigned maximum per lane. (R200) -/
  | vmax (p : Pre) (d a b : BitVec 7) (n : Bool)
  /-- VABS: Integer absolute value per lane. (R202) -/
  | vabs (p : Pre) (d a : BitVec 7)
  /-- VCLZ: Counts leading zero bits per lane. (R202) -/
  | vclz (p : Pre) (d a : BitVec 7)
  /-- VPOP: Counts set bits per lane. (R202) -/
  | vpop (p : Pre) (d a : BitVec 7)
  /-- VBREV: Reverses the bits of each lane. (R202) -/
  | vbrev (p : Pre) (d a : BitVec 7)
  /-- VMOV: Copies a V register per lane. (R202) -/
  | vmov (p : Pre) (d a : BitVec 7)
  /-- VBCAST: Broadcasts an S register to every active lane. (R202) -/
  | vbcast (p : Pre) (d a : BitVec 7)
  /-- VLANE: Writes each lane's gang lane number. (R202) -/
  | vlane (p : Pre) (d : BitVec 7)
  /-- VCMP: Integer comparison per lane into a predicate. (R204) -/
  | vcmp (p : Pre) (pd : BitVec 3) (a b : BitVec 7) (bk : Bool) (cc : Cc) (u : Bool)
  /-- VSEL: Selects per lane between two operands under a lane guard. (R205) -/
  | vsel (p : Pre) (d a b : BitVec 7) (bk : Bool) (gd : BitVec 4)
  /-- VMOVI: Loads a 32-bit immediate into every active lane. (R203) -/
  | vmovi (p : Pre) (d : BitVec 7) (imm : Word)
  /-- VFADD: FP32 add per lane. (R206) -/
  | vfadd (p : Pre) (d a b : BitVec 7) (n : Bool)
  /-- VFSUB: FP32 subtract per lane. (R206) -/
  | vfsub (p : Pre) (d a b : BitVec 7) (n : Bool)
  /-- VFMUL: FP32 multiply per lane. (R206) -/
  | vfmul (p : Pre) (d a b : BitVec 7) (n : Bool)
  /-- VFMA: FP32 fused multiply-add into V[D]. (R206) -/
  | vfma (p : Pre) (d a b : BitVec 7) (n : Bool)
  /-- VFMIN: FP32 minimum per lane. (R206) -/
  | vfmin (p : Pre) (d a b : BitVec 7) (n : Bool)
  /-- VFMAX: FP32 maximum per lane. (R206) -/
  | vfmax (p : Pre) (d a b : BitVec 7) (n : Bool)
  /-- VFCMP: FP32 comparison per lane into a predicate. (R204) -/
  | vfcmp (p : Pre) (pd : BitVec 3) (a b : BitVec 7) (bk : Bool) (cc : Cc) (tot : Bool)
  /-- VFDIV: Correctly rounded FP32 division per lane. (R206) -/
  | vfdiv (p : Pre) (d a b : BitVec 7) (n : Bool)
  /-- VFSQRT: Correctly rounded FP32 square root. (R207) -/
  | vfsqrt (p : Pre) (d a : BitVec 7)
  /-- VRCP: Correctly rounded FP32 reciprocal. (R207) -/
  | vrcp (p : Pre) (d a : BitVec 7)
  /-- VRSQ: Correctly rounded FP32 reciprocal square root. (R207) -/
  | vrsq (p : Pre) (d a : BitVec 7)
  /-- VLOG2: Correctly rounded FP32 base-2 logarithm. (R207) -/
  | vlog2 (p : Pre) (d a : BitVec 7)
  /-- VEXP2: Correctly rounded fused 2^(s(x-m)). (R208) -/
  | vexp2 (p : Pre) (d a b : BitVec 7) (bk : Bool) (c : BitVec 7) (ck : Bool)
  /-- VHADD: Packed 16-bit add in the FMTR format. (R209) -/
  | vhadd (p : Pre) (d a b : BitVec 7) (n : Bool)
  /-- VHMUL: Packed 16-bit multiply. (R209) -/
  | vhmul (p : Pre) (d a b : BitVec 7) (n : Bool)
  /-- VHFMA: Packed 16-bit fused multiply-add. (R209) -/
  | vhfma (p : Pre) (d a b : BitVec 7) (n : Bool)
  /-- VRED: Tree reduction over the strand's active lanes into V or S. (R210) -/
  | vred (p : Pre) (d a : BitVec 7) (w ds : Bool) (op : RedOp)
  /-- VSCAN: Inclusive or exclusive left-to-right scan over the active lanes. (R210) -/
  | vscan (p : Pre) (d a : BitVec 7) (w ex : Bool) (op : RedOp)
  /-- VCVT: Converts one element per lane between formats. (R212) -/
  | vcvt (p : Pre) (d a : BitVec 7) (sfmt dfmt : BitVec 8) (mode : BitVec 3) (sat : Bool) (sel : BitVec 3)
  /-- VCVTEF: Tandem conversion writing narrowed bits, residual and range flag. (R213) -/
  | vcvtef (p : Pre) (d a e : BitVec 7) (dfmt : BitVec 8) (mode : BitVec 3) (sat : Bool) (pd : BitVec 3)
  /-- VPACK: Converts and packs consecutive registers into one packed register. (R214) -/
  | vpack (p : Pre) (d a : BitVec 7) (fmt : BitVec 8) (mode : BitVec 3) (sat : Bool)
  /-- VUNPK: Unpacks one packed register into consecutive registers. (R214) -/
  | vunpk (p : Pre) (d a : BitVec 7) (fmt : BitVec 8)
  /-- VSCLAP: Applies a block scale byte to an FP32 value per lane. (R215) -/
  | vsclap (p : Pre) (d a b : BitVec 7) (n : Bool)
  /-- VCMPRS: Compresses masked lanes' values to the low active lanes. (R216) -/
  | vcmprs (p : Pre) (d a f : BitVec 7) (fk w : Bool) (mask : BitVec 4) (sc : BitVec 7)
  /-- VEXPND: Expands low active lanes' values onto the masked lanes. (R216) -/
  | vexpnd (p : Pre) (d a f : BitVec 7) (fk w : Bool) (mask : BitVec 4) (sc : BitVec 7)
  /-- VDECODE: Starts decoding a DBP or RLE chunk into V registers; the strand waits. (R221) -/
  | vdecode (p : Pre) (d a c : BitVec 7) (te : Bool) (nreg : BitVec 7) (w : Bool)
  /-- VDSTAT: Reads the decode status word. (R221) -/
  | vdstat (p : Pre) (d : BitVec 7)
  /-- VDSTAT_CLR: Reads and clears the decode status word. (R221) -/
  | vdstatClr (p : Pre) (d : BitVec 7)
  /-- OCLAIM: Binds the lowest free operand slot to a handle, or reports none. (R228) -/
  | oclaim (p : Pre) (q : BitVec 2) (k : BitVec 7)
  /-- ORELEASE: Unbinds and frees a handle's slot after its outstanding operations. (R228) -/
  | orelease (p : Pre) (k : BitVec 7)
  /-- OQRY: Writes a handle's slot status word. (R228) -/
  | oqry (p : Pre) (d k : BitVec 7)
  /-- OLOAD: Queues a copy-engine fill of an operand slot. (R232) -/
  | oload (p : Pre) (k a e o : BitVec 7) (dfmt : BitVec 8) (ds tr scw : Bool)
  /-- OFILL: Queues a write of slot rows or scale rows from V registers. (R234) -/
  | ofill (p : Pre) (k a : BitVec 7) (fmt : BitVec 8) (fs : Bool) (row : BitVec 6) (woff : BitVec 5) (nreg : BitVec 6) (sc w : Bool)
  /-- MMA: Queues a matrix multiply-accumulate into an accumulator tile. (R235) -/
  | mma (p : Pre) (d a b : BitVec 7) (fs : Bool) (pi : BitVec 7) (arow : BitVec 6) (w : Bool)
  /-- MMAS: Queues a block-scaled matrix multiply-accumulate. (R235) -/
  | mmas (p : Pre) (d a b : BitVec 7) (fs : Bool) (pi : BitVec 7) (arow : BitVec 6) (w : Bool)
  /-- ACCZ: Queues zeroing of the active lanes' accumulator rows. (R237) -/
  | accz (p : Pre) (d : BitVec 7) (fs w : Bool)
  /-- ACCRD: Queues reading accumulator columns into V registers. (R237) -/
  | accrd (p : Pre) (d a : BitVec 7) (fs : Bool) (col : BitVec 6) (nreg : BitVec 7) (w : Bool)
  /-- ACCWR: Queues writing V registers into accumulator columns. (R237) -/
  | accwr (p : Pre) (d a : BitVec 7) (fs : Bool) (col : BitVec 6) (nreg : BitVec 7) (w : Bool)
  /-- ACCST: Queues a whole-tile write of accumulator rows to a tile. (R238) -/
  | accst (p : Pre) (d a : BitVec 7) (fmt : BitVec 8) (fs : Bool) (col : BitVec 6) (mode : BitVec 3) (sat scw : Bool) (row : BitVec 6) (ord : BitVec 2) (scp : BitVec 3)
  /-- OCMP: Queues an outer comparison writing a bit tile. (R239) -/
  | ocmp (p : Pre) (d a b : BitVec 7) (bk fs : Bool) (cc : Cc) (tie tot : Bool) (fmt : BitVec 8) (seg : BitVec 5) (w : Bool)
  /-- BTCNT: Counts set bits of each active lane's bit-tile row. (R243) -/
  | btcnt (p : Pre) (d a : BitVec 7) (fs w : Bool)
  /-- BTCOLC: Counts set bits per column over the active rows. (R243) -/
  | btcolc (p : Pre) (d a : BitVec 7) (fs w : Bool)
  /-- BTAND: ANDs two bit tiles. (R244) -/
  | btand (p : Pre) (d a b : BitVec 7) (fs : Bool)
  /-- BTOR: ORs two bit tiles. (R244) -/
  | btor (p : Pre) (d a b : BitVec 7) (fs : Bool)
  /-- BTXOR: XORs two bit tiles. (R244) -/
  | btxor (p : Pre) (d a b : BitVec 7) (fs : Bool)
  /-- BTNOT: Complements a bit tile. (R244) -/
  | btnot (p : Pre) (d a : BitVec 7) (fs : Bool)
  /-- BTT: Transposes a bit tile. (R244) -/
  | btt (p : Pre) (d a : BitVec 7) (fs : Bool)
  /-- BTCOMP: Composes two bit-tile relations. (R244) -/
  | btcomp (p : Pre) (d a b : BitVec 7) (fs : Bool)
  /-- BTCLOS: Computes a transitive closure by repeated squaring and reports the steps. (R245) -/
  | btclos (p : Pre) (d a x : BitVec 7) (fs : Bool)
  /-- BTEYE: Writes the identity relation. (R244) -/
  | bteye (p : Pre) (d : BitVec 7) (fs : Bool)
  /-- BTFIRST: Finds the first set bit of each active lane's row. (R243) -/
  | btfirst (p : Pre) (d a : BitVec 7) (fs w : Bool)
  /-- BTROW_RD: Reads each active lane's bit-tile row into a V pair. (R243) -/
  | btrowRd (p : Pre) (d a : BitVec 7) (fs w : Bool)
  /-- BTROW_WR: Writes each active lane's bit-tile row from a V pair. (R243) -/
  | btrowWr (p : Pre) (d a : BitVec 7) (fs w : Bool)
  /-- BTLD: Loads a 512-byte bit-tile image from memory or scratchpad. (R246) -/
  | btld (p : Pre) (d a : BitVec 7) (fs sp : Bool) (ord : BitVec 2) (scp : BitVec 3)
  /-- BTST: Stores a bit-tile image to memory or scratchpad. (R246) -/
  | btst (p : Pre) (d a : BitVec 7) (fs sp : Bool) (ord : BitVec 2) (scp : BitVec 3)
  /-- TRAP: Raises a software trap with a code. (R255) -/
  | trap (p : Pre) (code : BitVec 14)
  /-- TRET: Returns from a handler to TEPC. (R257) -/
  | tret (p : Pre)
  /-- TRET_KILL: Returns from a handler removing the lanes of TMASK. (R257) -/
  | tretKill (p : Pre)
  /-- TRET_IGN: Returns with debug matching suppressed for the first instruction. (R257) -/
  | tretIgn (p : Pre)
  /-- TRD: Reads a handler register into S. (R256) -/
  | trd (p : Pre) (d r : BitVec 7)
  /-- TWR: Writes a handler register from S, under its access rules. (R256) -/
  | twr (p : Pre) (r a : BitVec 7)
  /-- FLASH: Sets the recipe pointer. (R260) -/
  | flash (p : Pre) (a : BitVec 7)
  /-- FLASH_NONE: Clears the recipe pointer. (R260) -/
  | flashNone (p : Pre)
  /-- DBGBRK: Raises a breakpoint with a code. (R269) -/
  | dbgbrk (p : Pre) (code : BitVec 14)
  /-- DMBW: Writes a mailbox OUT word with release at system scope. (R269) -/
  | dmbw (p : Pre) (i : BitVec 3) (a : BitVec 7)
  /-- DMBW_POST: Writes a mailbox word, increments OSEQ and raises the debug interrupt. (R269) -/
  | dmbwPost (p : Pre) (i : BitVec 3) (a : BitVec 7)
  /-- DMBR: Reads a mailbox IN word or ISEQ with acquire. (R269) -/
  | dmbr (p : Pre) (d i : BitVec 7)
  /-- CNTRD: Reads a counter of the virtual device's counter bank. (R271) -/
  | cntrd (p : Pre) (d : BitVec 7) (n : BitVec 7)
  /-- TSRD: Reads the guest timestamp. (R271) -/
  | tsrd (p : Pre) (d : BitVec 7)
  /-- TICKRD: Reads the device tick counter. (R271) -/
  | tickrd (p : Pre) (d : BitVec 7)
  /-- FEATQ: Reads a feature word. (R271) -/
  | featq (p : Pre) (d n : BitVec 7)
  /-- NOP: Does nothing. (R273) -/
  | nop (p : Pre)
  /-- EXTENSION_ONE_WORD: An unimplemented one-word extension major raises emulation. (R114) -/
  | extensionOneWord (w : Word)
  /-- EXTENSION_LONG: An unimplemented LONG extension major raises emulation. (R114) -/
  | extensionLong (w : Word) (x : Word)
  /-- CLAUSE_HEADER: A strand begins a clause: the header is decoded and checked, WAIT met, role checked, marks and pending boundary traps taken. (R98) -/
  | clauseHeader (w : Word)
  /-- ILLEGAL_ENCODING: A strand reaches a word with an illegal major, an unassigned FN or SUB value, or a nonzero reserved field, and it raises illegal-encoding at the word. (R111) -/
  | illegalEncoding (w : Word)
  /-- FINBY_NOP: Finby command with no effect. (R20) -/
  | finbyNop (len : BitVec 4) (arg : BitVec 16)
  /-- LAUNCH: Declares a launch with kernel, parameters, record and grid. (R20) -/
  | launch (num : BitVec 8) (desc par rec : Addr) (x y z : Word)
  /-- LAUNCHI: Declares a launch whose grid is read from memory at issue. (R20) -/
  | launchi (num : BitVec 8) (desc par rec grid : Addr)
  /-- EDGE: Declares a dependence between two launches of a graph. (R22) -/
  | edge (src dst : BitVec 8)
  /-- GBEGIN: Opens a graph and names its record. (R22) -/
  | gbegin (rec : Addr)
  /-- GEND: Closes and submits the graph. (R22) -/
  | gend
  /-- PBEGIN: Opens a phase and names its record. (R22) -/
  | pbegin (rec : Addr)
  /-- PEND: Closes the phase; later commands wait for it. (R22) -/
  | pend
  /-- LOOP: Repeats stream commands from a target using a per-level counter. (R24) -/
  | loop (count : Word) (target : Addr)
  /-- WAITMEM: Waits until a masked memory word meets a condition. (R21) -/
  | waitmem (cond : BitVec 3) (value : Word) (addr : Addr) (mask timeout : Word)
  /-- COND: Continues at an else-address when a masked word fails a condition. (R21) -/
  | cond (cond : BitVec 3) (value : Word) (addr : Addr) (mask : Word) (els : Addr)
  /-- WAITCTR: Waits until a completion record reaches done. (R20) -/
  | waitctr (rec : Addr)
  /-- FINBY_FENCE: Waits until earlier commands are done and performed at a scope. (R20) -/
  | finbyFence (scope : BitVec 3)
  /-- CANCEL: Cancels a named level according to its state. (R17) -/
  | cancel (rec : Addr)
  /-- SIGNAL: Writes a 64-bit value with release and optionally raises a host interrupt. (R20) -/
  | signal (intr : Bool) (vector : BitVec 8) (addr value : Addr)
  /-- LINK: Continues interpretation at the next segment. (R19) -/
  | link (next : Addr)
  /-- END: Ends the stream. (R20) -/
  | endStream
  /-- BKNOP: Bank word with no effect. (R191) -/
  | bknop
  /-- BKCFG: Configures formats and range bases of a bank program. (R191) -/
  | bkcfg (wfmt xfmt : BitVec 8) (wscl : Bool) (gw gs go : BitVec 3)
  /-- BKLDV: Starts copying bytes into the 16 KiB buffer. (R191) -/
  | bkldv (gx : BitVec 3) (len boff : BitVec 16)
  /-- BKMAC: Accumulates weight-activation products in groups of 128. (R192) -/
  | bkmac (a : BitVec 3) (xoff n : BitVec 16)
  /-- BKSCL: Scales an accumulator. (R191) -/
  | bkscl (a : BitVec 3) (f : Word)
  /-- BKSUM: Adds one accumulator into another and clears the second. (R191) -/
  | bksum (a b : BitVec 3)
  /-- BKST: Writes accumulators as f32 at OP and clears them. (R191) -/
  | bkst (a : BitVec 3) (n : BitVec 4)
  /-- BKLOOP: Sets or decrements a loop counter and moves back while nonzero. (R196) -/
  | bkloop (c : BitVec 2) (set : Bool) (v : Word)
  /-- BKWAIT: Waits for earlier BKLDV and BKST to complete. (R191) -/
  | bkwait
  /-- BKEND: Waits, then arrives 32 bytes and ends the program. (R191) -/
  | bkend
  /-- WAITMEM_REREAD: The re-read interval of a waiting WAITMEM expires and the word is read again. (R21) -/
  | waitmemReread (vd slot : Nat)
  /-- WAITMEM_TIMEOUT: A WAITMEM timeout expires, giving stream fault 0x09. (R25) -/
  | waitmemTimeout (vd slot : Nat)
  /-- LAUNCH_ISSUE: A launch whose dependences are done issues, reading its grid and distributing blocks. (R23) -/
  | launchIssue (l : Nat)
  /-- LEVEL_DONE: A level's last child completes; TEND then STATE are written with release. (R15) -/
  | levelDone (l : Nat)
  /-- KILL_INTERVAL_EXPIRY: A cancelled unit still live after the kill interval is killed. (R18) -/
  | killIntervalExpiry (gang : Nat)
  /-- BLOCK_ADMIT: A waiting block or task gang is admitted to a core when it fits. (R28) -/
  | blockAdmit (l die : Nat)
  /-- STEAL_MESSAGE: A victim distributor answers a steal message with a grant of blocks. (R51) -/
  | stealMessage (n : Nat)
  /-- STEAL_REPLY: A thief distributor receives a grant, places the blocks or asks the next die. (R31) -/
  | stealReply (n : Nat)
  /-- TASK_TAKE: A core with room takes a task record from the head of its deque. (R44) -/
  | taskTake (core : Nat)
  /-- TASK_STEAL: A core with room and an empty deque steals a tail record from a sibling core. (R44) -/
  | taskSteal (core : Nat)
  /-- DEADLOCK_TRAP: Within 64 cycles of a gang deadlock, the lowest parked strand raises illegal-state. (R144) -/
  | deadlockTrap (gang : Nat)
  /-- LOAD_COMPLETE: A long-latency load writes its lanes; its flag may clear. (R163) -/
  | loadComplete (op : Nat) (lanes : Mask)
  /-- STORE_PERFORMED: A store is performed at the home slice or scratchpad; its flag may clear. (R163) -/
  | storePerformed (op : Nat)
  /-- ATOMIC_COMPLETE: An atomic writes its old value; its flag may clear and waiters wake. (R163) -/
  | atomicComplete (op : Nat)
  /-- TILE_STEP_COMPLETE: A tile instruction's home-slice step is done. (R163) -/
  | tileStepComplete (op : Nat)
  /-- HELD_RELEASE_APPLY: A held barrier or ring release is applied after earlier operations are performed. (R302) -/
  | heldReleaseApply (op : Nat)
  /-- JOIN_RECHECK: A JOIN sleeping 1,024 cycles re-reads its counter. (R159) -/
  | joinRecheck (gang strand : Nat)
  /-- SLEEP_WAKE: A sleeping strand's wake tick is reached. (R147) -/
  | sleepWake (gang strand : Nat)
  /-- CWAIT_DEADLINE: A CWAIT's promise time passes before its barrier completes; missed-promise. (R187) -/
  | cwaitDeadline (gang strand : Nat)
  /-- XACQ_GRANT: A pending extended-block request is granted when storage frees. (R154) -/
  | xacqGrant (gang : Nat)
  /-- COPY_EXECUTE: The copy engine performs a queued copy command, recording faults and arriving bytes. (R183) -/
  | copyExecute (core : Nat)
  /-- HEDIT_EXECUTE: The copy engine applies edit steps to each covered tile. (R188) -/
  | heditExecute (core : Nat)
  /-- OLOAD_EXECUTE: The copy engine fills an operand slot and arrives 8,192 bytes. (R233) -/
  | oloadExecute (core : Nat)
  /-- BANK_PROGRAM_START: A bank engine takes a command and loads its program. (R191) -/
  | bankProgramStart (ch : Nat)
  /-- BANK_TRANSFER_COMPLETE: A BKLDV or BKST transfer completes. (R191) -/
  | bankTransferComplete (ch i : Nat)
  /-- BANK_STEP_LIMIT: A bank program reaching 2^26 words ends with code 0x0B. (R192) -/
  | bankStepLimit (ch : Nat)
  /-- MATRIX_OP_START: The array starts the next matrix-queue operation of the granted device. (R229) -/
  | matrixOpStart (core : Nat)
  /-- MATRIX_OP_COMPLETE: A matrix operation writes its destinations and completes. (R229) -/
  | matrixOpComplete (op : Nat)
  /-- DECODE_END: A VDECODE ends, writing registers, S[C] and DSW or trapping. (R222) -/
  | decodeEnd (gang strand : Nat)
  /-- DECODE_CYCLE_LIMIT: A decode reaching 4,096 cycles ends with code 0x3. (R222) -/
  | decodeCycleLimit (gang strand values : Nat)
  /-- CONGESTION_SIGNAL: A memory controller's congestion signal lowers a core's throttle level. (R307) -/
  | congestionSignal (core : Nat)
  /-- THROTTLE_RECOVERY: 10,000 ticks without an acted-on signal raise the throttle level. (R307) -/
  | throttleRecovery (core : Nat)
  /-- GRANT_SLICE_EXPIRY: A scheduling unit's slice ends and it grants itself to the next device. (R310) -/
  | grantSliceExpiry (u : GrantUnit) (n : Nat)
  /-- PREEMPTION_REQUEST: A pre-emption is requested for blocks; strands stop or run on to a mark. (R313) -/
  | preemptionRequest (block : Nat)
  /-- PREEMPT_RUNON_END: The run-on ends; groups are rewound or saved in full. (R313) -/
  | preemptRunonEnd (block : Nat)
  /-- BLOCK_RESUME: A saved block resumes on a core of its partition after in-flight commands arrive. (R315) -/
  | blockResume (block core : Nat)
  /-- MIGRATION: A virtual device moves placement and its epoch advances. (R323) -/
  | migration (vd : Nat)
  /-- FAULT_TIMEOUT: An unanswered recoverable fault times out and raises translation-fault. (R319) -/
  | faultTimeout (vd rec : Nat)
  /-- PFANS: The driver answers a page-fault record with retry or fail. (R319) -/
  | pfans (vd : Nat) (value : Addr)
  /-- TLBI: A write starts discarding all cached translations of the device. (R334) -/
  | tlbi (vd : Nat)
  /-- TLB_INVALIDATION_DONE: BUSY clears after accesses through discarded entries are performed. (R334) -/
  | tlbInvalidationDone (vd : Nat)
  /-- RST: A write starts a virtual-device reset. (R357) -/
  | rst (vd : Nat)
  /-- PAGE_CLEAR: The background clearer zeroes a pending page's unmarked sectors and releases it. (R358) -/
  | pageClear (page : Nat)
  /-- STRM: A write starts a job at a segment address in a free job slot. (R363) -/
  | strm (vd slot : Nat) (addr : Addr)
  /-- TLOGO: A read returns and clears the trap records dropped count. (R363) -/
  | tlogo (vd : Nat)
  /-- RLOGO: A read returns and clears the race records dropped count. (R363) -/
  | rlogo (vd : Nat)
  /-- BLOGO: A read returns and clears the budget records dropped count. (R353) -/
  | blogo (vd page : Nat)
  /-- REGISTER_WRITE: A write to a register without behaviour of its own sets its RW fields. (R5) -/
  | registerWrite (vd window off : Nat) (value : Addr)
  /-- HOST_LOAD: A host processor load through the coherent aperture, acting as acquire. (R362) -/
  | hostLoad (vd : Nat) (off : HostAddr) (size : Nat)
  /-- HOST_STORE: A host processor store through the coherent aperture, acting as release. (R362) -/
  | hostStore (vd : Nat) (off : HostAddr) (size : Nat) (value : Addr)
  /-- INTERRUPT_DELIVERY: Pending interrupt vectors of a running device are delivered to the host in order. (R356) -/
  | interruptDelivery (vd : Nat)
  /-- BUDGET_PERIOD: At each 100,000-tick boundary budget counts carry over their overshoot. (R351) -/
  | budgetPeriod
  /-- GOVERNOR_PERIOD: Every 10 µs the governor estimates draw and steps clocks or governor budgets. (R373) -/
  | governorPeriod
  /-- PATROL_SCRUB: The patrol scrub passes over populated cells every 24 hours. (R341) -/
  | patrolScrub
  /-- LANE_REMAP: Firmware maps a spare DQ or link lane, pausing traffic briefly. (R345) -/
  | laneRemap (link : LaneOf) (n : Nat)
  /-- FLIT_REPLAY: A flit failing its CRC is replayed from the sender's buffer. (R368) -/
  | flitReplay (link : Nat)
  /-- LINK_DOWN: A Perzil link failing over 1 ms is reported down. (R368) -/
  | linkDown (link : Nat)
  /-- CXL_LINK_DOWN: A CXL port's link goes down; its accesses fault. (R366) -/
  | cxlLinkDown (port : Nat)
  /-- POWER_GOOD: Power-good starts bring-up of the package. (R372) -/
  | powerGood
  /-- DIE_POWER_STATE: A die enters or leaves a power state D0-D3. (R373) -/
  | diePowerState (die st : Nat)
  /-- LIVE_UPDATE: Partitions switch one at a time to a new verified firmware image. (R374) -/
  | liveUpdate (part : Nat)
  /-- UPDATE_FALLBACK: A switched partition faulting within 10 s falls back to the old slot. (R374) -/
  | updateFallback (part : Nat)
  /-- RE_PLAN: A partition's resources change after its blocks are pre-empted. (R348) -/
  | rePlan (part : Nat) (res : Change)
  /-- PARTITION_CREATE: A top-level or child partition is created. (R347) -/
  | partitionCreate (n : Nat) (parent : Ancestry) (res : Resources) (devices managers : List Nat)
  /-- KEY_SLOT_LOAD: Management firmware loads an encryption key slot. (R340) -/
  | keySlotLoad (slot : KeyLoad)
  /-- BUDGET_CONTROL_WRITE: A budget control word is written through a child's page or the management interface. (R353) -/
  | budgetControlWrite (by_ : Option Nat) (part k : Nat) (value : Addr)
  /-- FAULT_QUEUE_READ: Management firmware reads a stack's fault-address queue. (R342) -/
  | faultQueueRead (stack : Nat)
  /-- TELEMETRY_READ: The management controller returns temperatures and module power over MCTP. (R375) -/
  | telemetryRead
  /-- GET_VERSION: SPDM request for supported versions. (R371) -/
  | getVersion (viaHost : Bool)
  /-- GET_CAPABILITIES: SPDM request for capabilities. (R371) -/
  | getCapabilities (viaHost : Bool)
  /-- NEGOTIATE_ALGORITHMS: SPDM algorithm negotiation. (R371) -/
  | negotiateAlgorithms (viaHost : Bool)
  /-- GET_DIGESTS: SPDM request for certificate chain digests. (R371) -/
  | getDigests (viaHost : Bool)
  /-- GET_CERTIFICATE: SPDM request for a certificate chain. (R371) -/
  | getCertificate (viaHost : Bool)
  /-- CHALLENGE: SPDM challenge answered with a signature. (R371) -/
  | challenge (viaHost : Bool)
  /-- GET_MEASUREMENTS: SPDM request for the six measurements. (R371) -/
  | getMeasurements (viaHost : Bool)
  /-- REMOTE_ELEMENT: A copy element from another package arrives over a Perzil link and is performed at this package's home slice as a write by a system-scope party. (R369) -/
  | remoteElement (link dpa : Nat) (data : ElemData)
  /-- REMOTE_ELEMENT_PERFORMED: The remote package's report that it has performed an element returns, and the element then counts towards its command's arrival. (R369) -/
  | remoteElementPerformed (cmd : Nat) (elem : Nat)
  /-- FABRIC_WINDOW: The platform manager sets aside a fabric window in the host-memory region and routes it to Perzil links and a remote package's memory. (R369) -/
  | fabricWindow (n : Nat) (base size : Nat) (links : List Nat) (remote : Nat)
  /-- BAD_PAGE_REQUEST: At the driver's request, firmware adds a page to the non-volatile bad-page list, or reports a refusal when the list is full. (R343) -/
  | badPageRequest (page : Nat)
  deriving DecidableEq, Repr

end Sys2Proof
end

