-- ==== Sys2Proof/Machine/Format.lean ====
section
/-! DEFINITION. The number-format codes (R77), their widths and classes, and the numeric codes of the named
fields of instruction words. -/

namespace Sys2Proof

/-- What a format code names (R77): an IEEE format by exponent and fraction widths, a two's-complement or
unsigned integer by width, or a family format of `K` bits with precision `p`, `s` signed, `e` with infinities. -/
inductive Fmt where
  | ieee (ebits fbits : Nat)
  | sint (w : Nat)
  | uint (w : Nat)
  | fam (K p : Nat) (s e : Bool)
  deriving DecidableEq, Repr

/-- The destination classes that CVMR holds a mode for (R86). -/
inductive FmtClass where
  | ieee | binary8 | fourBit | integer
  deriving DecidableEq, Repr

/-- The format a code names; `none` for a reserved code (R77). -/
def fmtOf (c : BitVec 8) : Option Fmt :=
  match c.toNat with
  | 0x00 => some (.ieee 8 23)
  | 0x01 => some (.ieee 5 10)
  | 0x02 => some (.ieee 8 7)
  | 0x08 => some (.sint 32)
  | 0x09 => some (.sint 16)
  | 0x0A => some (.sint 8)
  | 0x0B => some (.sint 4)
  | 0x0C => some (.uint 32)
  | 0x0D => some (.uint 16)
  | 0x0E => some (.uint 8)
  | _ =>
    let p := (c.extractLsb' 0 3).toNat
    let s := c.getLsbD 5
    let e := c.getLsbD 4
    if c.getLsbD 3 then none
    else if c.extractLsb' 6 2 = 1#2 ∧ 1 ≤ p then some (.fam 8 p s e)
    else if c.extractLsb' 6 2 = 2#2 ∧ 1 ≤ p ∧ p ≤ 3 then some (.fam 4 p s e)
    else none

/-- The width of a format in bits (R77). -/
def Fmt.width : Fmt → Nat
  | .ieee e f => 1 + e + f
  | .sint w => w
  | .uint w => w
  | .fam K _ _ _ => K

/-- The CVMR class of a destination format (R86). -/
def Fmt.cls : Fmt → FmtClass
  | .ieee _ _ => .ieee
  | .sint _ => .integer
  | .uint _ => .integer
  | .fam K _ _ _ => if K = 8 then .binary8 else .fourBit

/-- Whether a format is a binary8 or 4-bit family format. -/
def Fmt.isFamily : Fmt → Bool
  | .fam _ _ _ _ => true
  | _ => false

/-- Whether a format is an integer format. -/
def Fmt.isInt : Fmt → Bool
  | .sint _ => true
  | .uint _ => true
  | _ => false

/-- The width that a code names, if it is assigned. -/
def fmtWidth (c : BitVec 8) : Option Nat := (fmtOf c).map Fmt.width

/-- CC codes (R130, R204, R239). -/
def Cc.code : Cc → BitVec 3
  | .eq => 0 | .ne => 1 | .lt => 2 | .le => 3 | .gt => 4 | .ge => 5 | .un => 6 | .ord => 7

/-- The condition a CC code names. -/
def ccOf (c : BitVec 3) : Cc :=
  match c.toNat with
  | 0 => .eq | 1 => .ne | 2 => .lt | 3 => .le | 4 => .gt | 5 => .ge | 6 => .un | _ => .ord

/-- KIND codes of SHFL (R150). -/
def ShflKind.code : ShflKind → BitVec 2
  | .idx => 0 | .up => 1 | .dn => 2 | .xor => 3

/-- The shuffle a KIND code names. -/
def shflKindOf (c : BitVec 2) : ShflKind :=
  match c.toNat with
  | 0 => .idx | 1 => .up | 2 => .dn | _ => .xor

/-- AOP codes (R123). -/
def AtomOp.code : AtomOp → BitVec 4
  | .add => 0 | .min => 1 | .max => 2 | .and => 3 | .or => 4 | .xor => 5 | .xchg => 6 | .cas => 7
  | .fadd => 8 | .inc => 9

/-- The atomic an AOP code names; 10-15 name none (R123). -/
def atomOpOf (c : BitVec 4) : Option AtomOp :=
  match c.toNat with
  | 0 => some .add | 1 => some .min | 2 => some .max | 3 => some .and | 4 => some .or | 5 => some .xor
  | 6 => some .xchg | 7 => some .cas | 8 => some .fadd | 9 => some .inc | _ => none

/-- OP codes of VRED and VSCAN (R210). -/
def RedOp.code : RedOp → BitVec 4
  | .add => 0 | .fadd => 1 | .fmul => 2 | .min => 3 | .minu => 4 | .max => 5 | .maxu => 6 | .fmin => 7
  | .fmax => 8 | .and => 9 | .or => 10 | .xor => 11

/-- The reduction an OP code names; 12-15 name none (R210). -/
def redOpOf (c : BitVec 4) : Option RedOp :=
  match c.toNat with
  | 0 => some .add | 1 => some .fadd | 2 => some .fmul | 3 => some .min | 4 => some .minu | 5 => some .max
  | 6 => some .maxu | 7 => some .fmin | 8 => some .fmax | 9 => some .and | 10 => some .or | 11 => some .xor
  | _ => none

end Sys2Proof
end

