-- ==== Sys2Proof/Config.lean ====
section
/-! DEFINITION. What the manual leaves to the implementation or leaves open: constants without a body, of
which nothing can be proved but that they have some value. -/

namespace Sys2Proof.Config

/-- The latency allowance, in ticks, that firmware sets for a pair of data kinds: 0 device memory, 1
scratchpad, 2 CXL or host memory, 3 remote memory (R186, R326; each is below 65,536). -/
opaque allowance : Nat → Nat → BitVec 16

/-- The key material that firmware holds in a key slot in one of its generations where no load has named it: as bring-up
leaves the slot, or as a reset assigns a fresh key (R340, R357, R372). -/
opaque keyMaterial : Nat → Nat → BitVec 512

/-- Which of the translations that a lookaside buffer may hold an access uses, by cycle, number of the next operation and
lane (R333, R334). -/
opaque staleLook : Nat → Nat → Nat → Nat

/-- The bytes of the memory expander behind a CXL port, from the base of the port's region upward, as firmware maps it
(R366). -/
opaque expanderBytes : Nat → BitVec 43

/-- What a byte of a poisoned sector reads as to a reader whose poisoned reads the manual does not describe, by
canonical address (R341). -/
opaque freeByte : Nat → Byte

/-- A byte of another package's memory as a copy reads it over a Perzil link, by its address there and the counter of
free values (R369). -/
opaque remoteByte : Nat → Nat → Byte

/-- A free Boolean, indexed by the model's counter of free values: what the manual lets go either way. -/
opaque freeBool : Nat → Bool

/-- A free natural, indexed by the model's counter of free values: a choice that the manual leaves open (the entry
that a split takes, R34), telemetry and the governor's estimate (R373, R375). -/
opaque freeNat : Nat → Nat

/-- The content of a management answer that depends on identity, keys and firmware (R371): the request's
number and the counter of free values. -/
opaque answerBytes : Nat → Nat → List Byte

/-- The guest-visible number of the counters that timing decides: cache misses and the like (R354), by device,
counter and the counter of free values. -/
opaque timingCount : Nat → Nat → Nat → Addr

end Sys2Proof.Config
end

