-- ==== Sys2Proof/Machine/Fields.lean ====
section
/-! DEFINITION. The limits of every field of an instruction word (R105, R108, R110, R111, R123 and the
layouts of the instruction chapters), and the registers each instruction reads and writes. -/

namespace Sys2Proof

/-- A register or a unit of gang storage that an instruction names: `k` V or S registers from `n` on, a
predicate, a scalar condition, an accumulator tile, the bit-tile block, or an operand-slot handle (R108). -/
inductive Reg where
  | v (n k : Nat)
  | s (n k : Nat)
  | p (n : Nat)
  | q (n : Nat)
  | acc (n : Nat)
  | bt
  | slot (n : Nat)
  deriving DecidableEq, Repr

/-- S registers are 0-63 (R108). -/
def isS (r : BitVec 7) : Bool := decide (r.toNat < 64)
/-- A 64-bit operand takes an even S pair (R108). -/
def isPair (r : BitVec 7) : Bool := decide (r.toNat < 64 ∧ r.toNat % 2 = 0)
/-- P registers are 0-7 (R108). -/
def isP (r : BitVec 7) : Bool := decide (r.toNat < 8)
/-- Operand-slot handles are 0-31 (R108). -/
def isK (r : BitVec 7) : Bool := decide (r.toNat < 32)
/-- Accumulator tiles are 0-3 (R108). -/
def isAcc (r : BitVec 7) : Bool := decide (r.toNat < 4)
/-- Bit tiles are 0-7 (R108). -/
def isBt (r : BitVec 7) : Bool := decide (r.toNat < 8)
/-- An even register number. -/
def evenReg (r : BitVec 7) : Bool := decide (r.toNat % 2 = 0)

/-- A scalar guard names Q0-Q3 or always; 4-6 are illegal (R110). -/
def scalarGuard (gd : BitVec 4) : Bool := decide (gd.toNat % 8 < 4 ∨ gd.toNat % 8 = 7)

/-- V registers that a lane access of size code `sz` occupies (R166). -/
def laneRegs (sz : BitVec 3) : Nat := if sz = 3 then 2 else if sz = 4 then 4 else 1

/-- The limits that every lane access shares: SZ 0-4, the alignment of D, and X = 0 without XV (R123, R166). -/
def laneOk (m : LaneMem) : Bool :=
  decide (m.sz.toNat ≤ 4) && decide (m.d.toNat % laneRegs m.sz = 0) && (m.xv || decide (m.x = 0))

/-- ORD and SCP of a load or store: which of acquire and release the kind takes, and SCP = 0 with ORD 0 (R123). -/
def laneOrd (m : LaneMem) (acq rel : Bool) : Bool :=
  decide (m.ord = 0 ∧ m.scp = 0) || (acq && decide (m.ord = 1)) || (rel && decide (m.ord = 2))

/-- ORD and SCP of a tile instruction, coded as in R123 (R171; DEDUCED: SCP must be 0 with ORD 0 there too). -/
def tileOrd (ord : BitVec 2) (scp : BitVec 3) (acq rel : Bool) : Bool :=
  decide (ord = 0 ∧ scp = 0) || (acq && decide (ord = 1)) || (rel && decide (ord = 2))
    || (acq && rel && decide (ord = 3))

/-- The elements that VPACK and VUNPK move per packed register; 0 where the format's width is not 16, 8 or 4
or the code is reserved, which is illegal-operand when the word executes (R214). -/
def packCount (fmt : BitVec 8) : Nat :=
  match fmtWidth fmt with
  | some 16 => 2
  | some 8 => 4
  | some 4 => 8
  | _ => 0

/-- The register group of VPACK or VUNPK stays within V127 (R214). -/
def packFits (r : BitVec 7) (fmt : BitVec 8) : Bool := decide (r.toNat + packCount fmt ≤ 128)

/-- Handler registers of 64 bits: TEPC to TADDR, TCLH to TVEC and DBGA0-DBGA3 (R248). -/
def hregWide (r : BitVec 7) : Bool :=
  match r.toNat with
  | 0 => false
  | 4 => false
  | 9 => false
  | _ => true

/-- The field limits whose breach is illegal-encoding at the word. Events and stream commands carry no word
fields; their operands are checked where they are read. -/
def Instr.fieldsOk : Instr → Bool
  | .sadd _ d a b n => isS d && isS a && (n || isS b)
  | .ssub _ d a b n => isS d && isS a && (n || isS b)
  | .smul _ d a b n => isS d && isS a && isS b && !n
  | .smulh _ d a b _ => isS d && isS a && isS b
  | .sand _ d a b n => isS d && isS a && (n || isS b)
  | .sor _ d a b n => isS d && isS a && (n || isS b)
  | .sxor _ d a b n => isS d && isS a && (n || isS b)
  | .sshl _ d a b n => isS d && isS a && (if n then b.toNat < 32 else isS b)
  | .sshr _ d a b n => isS d && isS a && (if n then b.toNat < 32 else isS b)
  | .ssra _ d a b n => isS d && isS a && (if n then b.toNat < 32 else isS b)
  | .smin _ d a b _ => isS d && isS a && isS b
  | .smax _ d a b _ => isS d && isS a && isS b
  | .scmp p cc _ a b n => !p.t && isS a && isS b && decide (cc ≠ .un ∧ cc ≠ .ord) && !(n && decide (cc = .eq ∨ cc = .ne))
  | .ssel _ d a gd => isS d && isS a && scalarGuard gd
  | .smov _ d a => isS d && isS a
  | .srdvFirst _ d _ => isS d
  | .srdv _ d _ _ => isS d
  | .srdid _ d _ => isS d
  | .smovi _ d _ => isS d
  | .slui _ d _ => isS d
  | .bra p gd _ => !p.t && scalarGuard gd
  | .brl p _ _ => !p.t
  | .joinat p _ => !p.t
  | .bcall p gd _ => !p.t && scalarGuard gd
  | .loopb p a i8 => !p.t && isS a && i8.msb
  | .bret p a => !p.t && isPair a
  | .bind p a => !p.t && isPair a
  | .bindCall p d a => !p.t && isPair d && isPair a
  | .regrp p => !p.t
  | .exit p => !p.t
  | .yield p => !p.t
  | .sleep p a => !p.t && isPair a
  | .sleepRel p a => !p.t && isS a
  | .swidth _ d => isS d
  | .swidthGang _ d => isS d
  | .smaskqAct p d => !p.t && isPair d
  | .smaskqLive p d => !p.t && isPair d
  | .sgangq _ d => isS d
  | .voteAny p _ _ a => !p.t && isP a
  | .voteAll p _ _ a => !p.t && isP a
  | .voteEq p _ _ _ => !p.t
  | .voteBal p _ d a => !p.t && isPair d && isP a
  | .shfl p _ _ b bk _ _ fk fr imm c => !p.t && (if imm then decide (b = 0 ∧ bk = false) else ((!bk || isS b) && decide (c = 0))) && (fk || decide (fr = 0))
  | .setfmt p a => !p.t && isS a
  | .setfmtImm p _ => !p.t
  | .getfmt _ d => isS d
  | .setcvm p a => !p.t && isS a
  | .getcvm _ d => isS d
  | .seedsr p a => !p.t && isS a
  | .seedsrV p _ => !p.t
  | .xacqV p => !p.t
  | .xacqAcc p _ => !p.t
  | .xacqBt p => !p.t
  | .xrelV p => !p.t
  | .xrelAcc p _ => !p.t
  | .xrelBt p => !p.t
  | .xqry _ d => isS d
  | .fork p _ a e _ ek off => !p.t && decide (a.toNat ≤ 58) && (if ek then (isPair e && decide (off = 0)) else decide (e = 0))
  | .join p _ a => !p.t && isPair a
  | .joinSp p _ a => !p.t && isS a
  | .deqd _ d => isS d
  | .ld p m _ => !p.t && laneOk m && isPair m.a && laneOrd m true false
  | .ldu p m _ => !p.t && laneOk m && isPair m.a && laneOrd m true false
  | .lds p m => !p.t && laneOk m && isS m.a && laneOrd m true false
  | .ldc p m _ => !p.t && laneOk m && isPair m.a && laneOrd m false false
  | .st p m _ => !p.t && laneOk m && isPair m.a && laneOrd m false true
  | .stu p m _ _ => !p.t && laneOk m && isPair m.a && laneOrd m false true && decide (m.disp.toNat < 2048)
  | .sts p m _ => !p.t && laneOk m && isS m.a && laneOrd m false true
  | .atom p m _ raw aop dv cv => !p.t && laneOk m && (if raw then isS m.a else isPair m.a) && decide (m.sz = 2 ∨ m.sz = 3) && decide (m.disp = 0) && (decide (m.sz = 2) || (evenReg dv && evenReg cv)) && (decide (aop ≠ .fadd) || decide (m.sz = 2)) && (decide (aop = .cas) || decide (cv = 0))
  | .fence p _ _ => !p.t
  | .tld p d a _ mode sat _ ord scp => !p.t && isS d && isPair a && (decide (mode ≠ 0) || !sat) && tileOrd ord scp true false
  | .tst p d a _ _ _ ord scp => !p.t && isS d && isPair a && tileOrd ord scp false true
  | .thq p d a _ ord scp => !p.t && decide (d.toNat ≤ 48 ∧ d.toNat % 8 = 0) && isPair a && tileOrd ord scp true false
  | .tmat p a _ ord scp => !p.t && isPair a && tileOrd ord scp true true
  | .taff p a x y _ ord scp => !p.t && isPair a && isS x && isS y && tileOrd ord scp true true
  | .tscale p a x _ ord scp => !p.t && isPair a && isS x && tileOrd ord scp true true
  | .toffs p a x _ ord scp => !p.t && isPair a && isS x && tileOrd ord scp true true
  | .tclamp p a x y _ ord scp => !p.t && isPair a && isS x && isS y && tileOrd ord scp true true
  | .tfill p a x _ ord scp => !p.t && isPair a && isS x && tileOrd ord scp true true
  | .tperm p a _ _ ord scp => !p.t && isPair a && tileOrd ord scp true true
  | .bara p _ a _ => !p.t && isS a
  | .bars p _ a _ => !p.t && isS a
  | .barw p _ _ => !p.t
  | .bxinit p d a => !p.t && isS d && isS a
  | .bxexp p d a => !p.t && isS d && isS a
  | .bxarr p d a => !p.t && isS d && isS a
  | .bxwait p _ _ a => !p.t && isS a
  | .crwaitEmpty p _ _ a => !p.t && isS a
  | .crwaitFull p _ _ a => !p.t && isS a
  | .crfill p _ a => !p.t && isS a
  | .crfree p _ a => !p.t && isS a
  | .crtakeEmpty p _ _ _ a => !p.t && isS a
  | .crtakeFull p _ _ _ a => !p.t && isS a
  | .cpy p a e b o ds => !p.t && (if ds then isS a else isPair a) && (if ds then isS b else isPair b) && isS e && decide (o.toNat ≤ 60)
  | .cpyp p d a e b o ds => !p.t && isPair d && (if ds then isS a else isPair a) && (if ds then isS b else isPair b) && isS e && decide (o.toNat ≤ 60)
  | .cwait p _ d a => !p.t && isPair d && isS a
  | .cstat p d a => !p.t && isS d && isS a
  | .cstatIdx p d a => !p.t && isPair d && isS a
  | .cstatClr p d a => !p.t && isS d && isS a
  | .hedit p a e b o ds => !p.t && (if ds then isS a else isPair a) && (if ds then isS b else isPair b) && isS e && decide (o.toNat ≤ 60)
  | .bankcmd p d a e b => !p.t && isS d && isPair a && isS e && isPair b
  | .icinv p => !p.t
  | .icinvDev p => !p.t
  | .isync p => !p.t
  | .dcwb p d a => !p.t && isPair d && isS a
  | .dcinv p d a => !p.t && isPair d && isS a
  | .vadd _ _ _ b n => (!n || isS b)
  | .vsub _ _ _ b n => (!n || isS b)
  | .vmul _ _ _ b n => (!n || isS b)
  | .vmulh _ _ _ _ _ => true
  | .vmad _ _ _ b n => (!n || isS b)
  | .vand _ _ _ b n => (!n || isS b)
  | .vor _ _ _ b n => (!n || isS b)
  | .vxor _ _ _ b n => (!n || isS b)
  | .vshl _ _ _ b n => (!n || isS b)
  | .vshr _ _ _ b n => (!n || isS b)
  | .vsra _ _ _ b n => (!n || isS b)
  | .vfshl p _ _ _ ck c imm => !p.t && decide (ck ≠ 3) && (if ck = 2 then decide (c = 0) else decide (imm = 0)) && (decide (ck ≠ 1) || isS c)
  | .vfshr p _ _ _ ck c imm => !p.t && decide (ck ≠ 3) && (if ck = 2 then decide (c = 0) else decide (imm = 0)) && (decide (ck ≠ 1) || isS c)
  | .vmin _ _ _ _ _ => true
  | .vmax _ _ _ _ _ => true
  | .vabs _ _ _ => true
  | .vclz _ _ _ => true
  | .vpop _ _ _ => true
  | .vbrev _ _ _ => true
  | .vmov _ _ _ => true
  | .vbcast _ _ a => isS a
  | .vlane _ _ => true
  | .vcmp p pd _ b bk cc u => !p.t && decide (pd ≠ 7) && (!bk || isS b) && decide (cc ≠ .un ∧ cc ≠ .ord) && !(u && decide (cc = .eq ∨ cc = .ne))
  | .vsel p _ _ b bk _ => !p.t && (!bk || isS b)
  | .vmovi p _ _ => !p.t
  | .vfadd _ _ _ b n => (!n || isS b)
  | .vfsub _ _ _ b n => (!n || isS b)
  | .vfmul _ _ _ b n => (!n || isS b)
  | .vfma _ _ _ b n => (!n || isS b)
  | .vfmin _ _ _ b n => (!n || isS b)
  | .vfmax _ _ _ b n => (!n || isS b)
  | .vfcmp p pd _ b bk cc tot => !p.t && decide (pd ≠ 7) && (!bk || isS b) && !(tot && decide (cc = .un ∨ cc = .ord))
  | .vfdiv _ _ _ b n => (!n || isS b)
  | .vfsqrt _ _ _ => true
  | .vrcp _ _ _ => true
  | .vrsq _ _ _ => true
  | .vlog2 _ _ _ => true
  | .vexp2 p _ _ b bk c ck => !p.t && (!bk || isS b) && (!ck || isS c)
  | .vhadd _ _ _ b n => (!n || isS b)
  | .vhmul _ _ _ b n => (!n || isS b)
  | .vhfma _ _ _ b n => (!n || isS b)
  | .vred _ d _ _ ds _ => (!ds || isS d)
  | .vscan _ _ _ _ _ _ => true
  | .vcvt p _ _ sfmt _ mode sat sel => !p.t && (decide (mode ≠ 0) || !sat) && (match fmtWidth sfmt with | some k => decide (sel.toNat * k < 32) | none => true)
  | .vcvtef p d _ e _ mode sat pd => !p.t && (decide (mode ≠ 0) || !sat) && decide (d ≠ e) && decide (pd ≠ 7)
  | .vpack p _ a fmt mode sat => !p.t && (decide (mode ≠ 0) || !sat) && packFits a fmt
  | .vunpk p d _ fmt => !p.t && packFits d fmt
  | .vsclap _ _ _ b n => (!n || isS b)
  | .vcmprs p _ _ f fk _ _ sc => !p.t && (fk || decide (f = 0)) && isS sc
  | .vexpnd p _ _ f fk _ _ sc => !p.t && (fk || decide (f = 0)) && isS sc
  | .vdecode p d a c _ nreg _ => !p.t && isS a && isS c && decide (1 ≤ nreg.toNat ∧ nreg.toNat ≤ 64) && decide (d.toNat + nreg.toNat ≤ 128)
  | .vdstat p d => !p.t && isS d
  | .vdstatClr p d => !p.t && isS d
  | .oclaim p _ k => !p.t && isK k
  | .orelease p k => !p.t && isK k
  | .oqry _ d k => isS d && isK k
  | .oload p k a e o _ ds _ _ => !p.t && isK k && (if ds then isS a else isPair a) && isS e && decide (o.toNat ≤ 60)
  | .ofill p k a fmt _ _ woff nreg sc _ => !p.t && isK k && decide (nreg ≠ 0) && (if sc then decide (woff.toNat + nreg.toNat ≤ 2 ∧ fmt = 0) else decide (woff.toNat + nreg.toNat ≤ 32)) && decide (a.toNat + nreg.toNat ≤ 128)
  | .mma p d a b _ _ _ _ => !p.t && isAcc d && isK a && isK b
  | .mmas p d a b _ _ _ _ => !p.t && isAcc d && isK a && isK b
  | .accz p d _ _ => !p.t && isAcc d
  | .accrd p d a _ col nreg _ => !p.t && isAcc a && decide (1 ≤ nreg.toNat ∧ col.toNat + nreg.toNat ≤ 64) && decide (d.toNat + nreg.toNat ≤ 128)
  | .accwr p d a _ col nreg _ => !p.t && isAcc d && decide (1 ≤ nreg.toNat ∧ col.toNat + nreg.toNat ≤ 64) && decide (a.toNat + nreg.toNat ≤ 128)
  | .accst p d a _ _ _ mode sat _ _ ord scp => !p.t && isAcc d && isPair a && (decide (mode ≠ 0) || !sat) && tileOrd ord scp false true
  | .ocmp p d _ b bk _ cc tie tot _ seg _ => !p.t && isBt d && decide (cc ≠ .ord) && !(decide (cc = .un) && (tie || tot)) && (if bk then isK b else decide (seg = 0))
  | .btcnt p _ a _ _ => !p.t && isBt a
  | .btcolc p _ a _ _ => !p.t && isBt a
  | .btand p d a b _ => !p.t && isBt d && isBt a && isBt b
  | .btor p d a b _ => !p.t && isBt d && isBt a && isBt b
  | .btxor p d a b _ => !p.t && isBt d && isBt a && isBt b
  | .btnot p d a _ => !p.t && isBt d && isBt a
  | .btt p d a _ => !p.t && isBt d && isBt a
  | .btcomp p d a b _ => !p.t && isBt d && isBt a && isBt b
  | .btclos p d a x _ => !p.t && isBt d && isBt a && isS x
  | .bteye p d _ => !p.t && isBt d
  | .btfirst p _ a _ _ => !p.t && isBt a
  | .btrowRd p d a _ _ => !p.t && evenReg d && isBt a
  | .btrowWr p d a _ _ => !p.t && isBt d && evenReg a
  | .btld p d a _ sp ord scp => !p.t && isBt d && (if sp then isS a else isPair a) && tileOrd ord scp true false
  | .btst p d a _ sp ord scp => !p.t && isBt d && (if sp then isS a else isPair a) && tileOrd ord scp false true
  | .trap p _ => !p.t
  | .tret p => !p.t
  | .tretKill p => !p.t
  | .tretIgn p => !p.t
  | .trd p d r => decide (r.toNat ≤ 13) && (if hregWide r then (isPair d && !p.t) else isS d)
  | .twr p r a => !p.t && decide (r.toNat ≤ 13) && (if hregWide r then isPair a else isS a)
  | .flash p a => !p.t && isPair a
  | .flashNone p => !p.t
  | .dbgbrk p _ => !p.t
  | .dmbw p _ a => !p.t && isS a
  | .dmbwPost p _ a => !p.t && isS a
  | .dmbr _ d i => isS d && decide (i.toNat ≤ 8)
  | .cntrd p d n => !p.t && isPair d && decide (n.toNat < 64)
  | .tsrd p d => !p.t && isPair d
  | .tickrd p d => !p.t && isPair d
  | .featq _ d _ => isS d
  | .nop p => !p.t && decide (p.g = 0)
  | .extensionOneWord w => decide (w.extractLsb' 28 4 = 0xE#4)
  | .extensionLong w _ => decide (w.extractLsb' 28 4 = 0xF#4)
  | _ => true

/-- The registers an instruction reads (V, S and gang storage; the reads that R105 and R108 check). -/
def Instr.reads : Instr → List Reg
  | .sadd _ _ a b n => [.s a.toNat 1] ++ (if n then [] else [.s b.toNat 1])
  | .ssub _ _ a b n => [.s a.toNat 1] ++ (if n then [] else [.s b.toNat 1])
  | .smul _ _ a b _ => [.s a.toNat 1] ++ [.s b.toNat 1]
  | .smulh _ _ a b _ => [.s a.toNat 1] ++ [.s b.toNat 1]
  | .sand _ _ a b n => [.s a.toNat 1] ++ (if n then [] else [.s b.toNat 1])
  | .sor _ _ a b n => [.s a.toNat 1] ++ (if n then [] else [.s b.toNat 1])
  | .sxor _ _ a b n => [.s a.toNat 1] ++ (if n then [] else [.s b.toNat 1])
  | .sshl _ _ a b n => [.s a.toNat 1] ++ (if n then [] else [.s b.toNat 1])
  | .sshr _ _ a b n => [.s a.toNat 1] ++ (if n then [] else [.s b.toNat 1])
  | .ssra _ _ a b n => [.s a.toNat 1] ++ (if n then [] else [.s b.toNat 1])
  | .smin _ _ a b _ => [.s a.toNat 1] ++ [.s b.toNat 1]
  | .smax _ _ a b _ => [.s a.toNat 1] ++ [.s b.toNat 1]
  | .scmp _ _ _ a b _ => [.s a.toNat 1] ++ [.s b.toNat 1]
  | .ssel _ _ a _ => [.s a.toNat 1]
  | .smov _ _ a => [.s a.toNat 1]
  | .srdvFirst _ _ a => [.v a.toNat 1]
  | .srdv _ _ a _ => [.v a.toNat 1]
  | .slui _ d _ => [.s d.toNat 1]
  | .loopb _ a _ => [.s a.toNat 1]
  | .bret _ a => [.s a.toNat 2]
  | .bind _ a => [.s a.toNat 2]
  | .bindCall _ _ a => [.s a.toNat 2]
  | .sleep _ a => [.s a.toNat 2]
  | .sleepRel _ a => [.s a.toNat 1]
  | .voteEq _ _ _ a => [.v a.toNat 1]
  | .shfl _ _ a b bk _ _ fk fr imm _ => [.v a.toNat 1] ++ (if imm then [] else if bk then [.s b.toNat 1] else [.v b.toNat 1]) ++ (if fk then [.v fr.toNat 1] else [])
  | .setfmt _ a => [.s a.toNat 1]
  | .setcvm _ a => [.s a.toNat 1]
  | .seedsr _ a => [.s a.toNat 1]
  | .seedsrV _ a => [.v a.toNat 1]
  | .fork _ _ a e _ ek _ => [.s a.toNat 6] ++ (if ek then [.s e.toNat 2] else [])
  | .join _ _ a => [.s a.toNat 2]
  | .joinSp _ _ a => [.s a.toNat 1]
  | .ld _ m _ => [.s m.a.toNat 2] ++ (if m.xv then [.v m.x.toNat 1] else [])
  | .ldu _ m _ => [.s m.a.toNat 2] ++ (if m.xv then [.v m.x.toNat 1] else [])
  | .lds _ m => [.s m.a.toNat 1] ++ (if m.xv then [.v m.x.toNat 1] else [])
  | .ldc _ m _ => [.s m.a.toNat 2] ++ (if m.xv then [.v m.x.toNat 1] else [])
  | .st _ m _ => [.s m.a.toNat 2] ++ (if m.xv then [.v m.x.toNat 1] else []) ++ [.v m.d.toNat (laneRegs m.sz)]
  | .stu _ m _ mv => [.s m.a.toNat 2] ++ (if m.xv then [.v m.x.toNat 1] else []) ++ [.v m.d.toNat (laneRegs m.sz)] ++ [.v mv.toNat 1]
  | .sts _ m _ => [.s m.a.toNat 1] ++ (if m.xv then [.v m.x.toNat 1] else []) ++ [.v m.d.toNat (laneRegs m.sz)]
  | .atom _ m _ raw aop dv cv => [.s m.a.toNat (if raw then 1 else 2)] ++ (if m.xv then [.v m.x.toNat 1] else []) ++ [.v dv.toNat (laneRegs m.sz)] ++ (if aop = .cas then [.v cv.toNat (laneRegs m.sz)] else [])
  | .tld _ d a _ _ _ _ _ _ => [.s d.toNat 1] ++ [.s a.toNat 2]
  | .tst _ d a _ _ _ _ _ => [.s d.toNat 1] ++ [.s a.toNat 2]
  | .thq _ _ a _ _ _ => [.s a.toNat 2]
  | .tmat _ a _ _ _ => [.s a.toNat 2]
  | .taff _ a x y _ _ _ => [.s a.toNat 2] ++ [.s x.toNat 1] ++ [.s y.toNat 1]
  | .tscale _ a x _ _ _ => [.s a.toNat 2] ++ [.s x.toNat 1]
  | .toffs _ a x _ _ _ => [.s a.toNat 2] ++ [.s x.toNat 1]
  | .tclamp _ a x y _ _ _ => [.s a.toNat 2] ++ [.s x.toNat 1] ++ [.s y.toNat 1]
  | .tfill _ a x _ _ _ => [.s a.toNat 2] ++ [.s x.toNat 1]
  | .tperm _ a _ _ _ _ => [.s a.toNat 2]
  | .bara _ _ a _ => [.s a.toNat 1]
  | .bars _ _ a _ => [.s a.toNat 1]
  | .bxinit _ d a => [.s d.toNat 1] ++ [.s a.toNat 1]
  | .bxexp _ d a => [.s d.toNat 1] ++ [.s a.toNat 1]
  | .bxarr _ d a => [.s d.toNat 1] ++ [.s a.toNat 1]
  | .bxwait _ _ _ a => [.s a.toNat 1]
  | .crwaitEmpty _ _ _ a => [.s a.toNat 1]
  | .crwaitFull _ _ _ a => [.s a.toNat 1]
  | .crfill _ _ a => [.s a.toNat 1]
  | .crfree _ _ a => [.s a.toNat 1]
  | .crtakeEmpty _ _ _ _ a => [.s a.toNat 1]
  | .crtakeFull _ _ _ _ a => [.s a.toNat 1]
  | .cpy _ a e b o ds => [.s a.toNat (if ds then 1 else 2)] ++ [.s b.toNat (if ds then 1 else 2)] ++ [.s e.toNat 1] ++ [.s o.toNat 4]
  | .cpyp _ _ a e b o ds => [.s a.toNat (if ds then 1 else 2)] ++ [.s b.toNat (if ds then 1 else 2)] ++ [.s e.toNat 1] ++ [.s o.toNat 4]
  | .cwait _ _ d a => [.s d.toNat 2] ++ [.s a.toNat 1]
  | .cstat _ _ a => [.s a.toNat 1]
  | .cstatIdx _ _ a => [.s a.toNat 1]
  | .cstatClr _ _ a => [.s a.toNat 1]
  | .hedit _ a e b o ds => [.s a.toNat (if ds then 1 else 2)] ++ [.s b.toNat (if ds then 1 else 2)] ++ [.s e.toNat 1] ++ [.s o.toNat 4]
  | .bankcmd _ d a e b => [.s d.toNat 1] ++ [.s a.toNat 2] ++ [.s e.toNat 1] ++ [.s b.toNat 2]
  | .dcwb _ d a => [.s d.toNat 2] ++ [.s a.toNat 1]
  | .dcinv _ d a => [.s d.toNat 2] ++ [.s a.toNat 1]
  | .vadd _ _ a b n => [.v a.toNat 1] ++ (if n then [.s b.toNat 1] else [.v b.toNat 1])
  | .vsub _ _ a b n => [.v a.toNat 1] ++ (if n then [.s b.toNat 1] else [.v b.toNat 1])
  | .vmul _ _ a b n => [.v a.toNat 1] ++ (if n then [.s b.toNat 1] else [.v b.toNat 1])
  | .vmulh _ _ a b _ => [.v a.toNat 1] ++ [.v b.toNat 1]
  | .vmad _ d a b n => [.v a.toNat 1] ++ (if n then [.s b.toNat 1] else [.v b.toNat 1]) ++ [.v d.toNat 1]
  | .vand _ _ a b n => [.v a.toNat 1] ++ (if n then [.s b.toNat 1] else [.v b.toNat 1])
  | .vor _ _ a b n => [.v a.toNat 1] ++ (if n then [.s b.toNat 1] else [.v b.toNat 1])
  | .vxor _ _ a b n => [.v a.toNat 1] ++ (if n then [.s b.toNat 1] else [.v b.toNat 1])
  | .vshl _ _ a b n => [.v a.toNat 1] ++ (if n then [.s b.toNat 1] else [.v b.toNat 1])
  | .vshr _ _ a b n => [.v a.toNat 1] ++ (if n then [.s b.toNat 1] else [.v b.toNat 1])
  | .vsra _ _ a b n => [.v a.toNat 1] ++ (if n then [.s b.toNat 1] else [.v b.toNat 1])
  | .vfshl _ _ a b ck c _ => [.v a.toNat 1] ++ [.v b.toNat 1] ++ (if ck = 0 then [.v c.toNat 1] else if ck = 1 then [.s c.toNat 1] else [])
  | .vfshr _ _ a b ck c _ => [.v a.toNat 1] ++ [.v b.toNat 1] ++ (if ck = 0 then [.v c.toNat 1] else if ck = 1 then [.s c.toNat 1] else [])
  | .vmin _ _ a b _ => [.v a.toNat 1] ++ [.v b.toNat 1]
  | .vmax _ _ a b _ => [.v a.toNat 1] ++ [.v b.toNat 1]
  | .vabs _ _ a => [.v a.toNat 1]
  | .vclz _ _ a => [.v a.toNat 1]
  | .vpop _ _ a => [.v a.toNat 1]
  | .vbrev _ _ a => [.v a.toNat 1]
  | .vmov _ _ a => [.v a.toNat 1]
  | .vbcast _ _ a => [.s a.toNat 1]
  | .vcmp _ _ a b bk _ _ => [.v a.toNat 1] ++ (if bk then [.s b.toNat 1] else [.v b.toNat 1])
  | .vsel _ _ a b bk _ => [.v a.toNat 1] ++ (if bk then [.s b.toNat 1] else [.v b.toNat 1])
  | .vfadd _ _ a b n => [.v a.toNat 1] ++ (if n then [.s b.toNat 1] else [.v b.toNat 1])
  | .vfsub _ _ a b n => [.v a.toNat 1] ++ (if n then [.s b.toNat 1] else [.v b.toNat 1])
  | .vfmul _ _ a b n => [.v a.toNat 1] ++ (if n then [.s b.toNat 1] else [.v b.toNat 1])
  | .vfma _ d a b n => [.v a.toNat 1] ++ (if n then [.s b.toNat 1] else [.v b.toNat 1]) ++ [.v d.toNat 1]
  | .vfmin _ _ a b n => [.v a.toNat 1] ++ (if n then [.s b.toNat 1] else [.v b.toNat 1])
  | .vfmax _ _ a b n => [.v a.toNat 1] ++ (if n then [.s b.toNat 1] else [.v b.toNat 1])
  | .vfcmp _ _ a b bk _ _ => [.v a.toNat 1] ++ (if bk then [.s b.toNat 1] else [.v b.toNat 1])
  | .vfdiv _ _ a b n => [.v a.toNat 1] ++ (if n then [.s b.toNat 1] else [.v b.toNat 1])
  | .vfsqrt _ _ a => [.v a.toNat 1]
  | .vrcp _ _ a => [.v a.toNat 1]
  | .vrsq _ _ a => [.v a.toNat 1]
  | .vlog2 _ _ a => [.v a.toNat 1]
  | .vexp2 _ _ a b bk c ck => [.v a.toNat 1] ++ (if bk then [.s b.toNat 1] else [.v b.toNat 1]) ++ (if ck then [.s c.toNat 1] else [.v c.toNat 1])
  | .vhadd _ _ a b n => [.v a.toNat 1] ++ (if n then [.s b.toNat 1] else [.v b.toNat 1])
  | .vhmul _ _ a b n => [.v a.toNat 1] ++ (if n then [.s b.toNat 1] else [.v b.toNat 1])
  | .vhfma _ d a b n => [.v a.toNat 1] ++ (if n then [.s b.toNat 1] else [.v b.toNat 1]) ++ [.v d.toNat 1]
  | .vred _ _ a _ _ _ => [.v a.toNat 1]
  | .vscan _ _ a _ _ _ => [.v a.toNat 1]
  | .vcvt _ _ a _ _ _ _ _ => [.v a.toNat 1]
  | .vcvtef _ _ a _ _ _ _ _ => [.v a.toNat 1]
  | .vpack _ _ a fmt _ _ => [.v a.toNat (packCount fmt)]
  | .vunpk _ _ a _ => [.v a.toNat 1]
  | .vsclap _ _ a b n => [.v a.toNat 1] ++ (if n then [.s b.toNat 1] else [.v b.toNat 1])
  | .vcmprs _ _ a f fk _ _ _ => [.v a.toNat 1] ++ (if fk then [.v f.toNat 1] else [])
  | .vexpnd _ _ a f fk _ _ _ => [.v a.toNat 1] ++ (if fk then [.v f.toNat 1] else [])
  | .vdecode _ _ a _ _ _ _ => [.s a.toNat 1]
  | .oload _ k a e o _ ds _ _ => [.slot k.toNat] ++ [.s a.toNat (if ds then 1 else 2)] ++ [.s e.toNat 1] ++ [.s o.toNat 4]
  | .ofill _ k a _ _ _ _ nreg _ _ => [.slot k.toNat] ++ [.v a.toNat nreg.toNat]
  | .mma _ d a b _ _ _ _ => [.acc d.toNat] ++ [.slot a.toNat] ++ [.slot b.toNat]
  | .mmas _ d a b _ _ _ _ => [.acc d.toNat] ++ [.slot a.toNat] ++ [.slot b.toNat]
  | .accrd _ _ a _ _ _ _ => [.acc a.toNat]
  | .accwr _ _ a _ _ nreg _ => [.v a.toNat nreg.toNat]
  | .accst _ d a _ _ _ _ _ _ _ _ _ => [.acc d.toNat] ++ [.s a.toNat 2]
  | .ocmp _ _ a b bk _ _ _ _ _ _ _ => [.v a.toNat 1] ++ (if bk then [.slot b.toNat] else [.v b.toNat 1])
  | .btcnt _ _ _ _ _ => [.bt]
  | .btcolc _ _ _ _ _ => [.bt]
  | .btand _ _ _ _ _ => [.bt]
  | .btor _ _ _ _ _ => [.bt]
  | .btxor _ _ _ _ _ => [.bt]
  | .btnot _ _ _ _ => [.bt]
  | .btt _ _ _ _ => [.bt]
  | .btcomp _ _ _ _ _ => [.bt]
  | .btclos _ _ _ _ _ => [.bt]
  | .btfirst _ _ _ _ _ => [.bt]
  | .btrowRd _ _ _ _ _ => [.bt]
  | .btrowWr _ _ a _ _ => [.v a.toNat 2]
  | .btld _ _ a _ sp _ _ => [.s a.toNat (if sp then 1 else 2)]
  | .btst _ _ a _ sp _ _ => [.s a.toNat (if sp then 1 else 2)] ++ [.bt]
  | .twr _ r a => [.s a.toNat (if hregWide r then 2 else 1)]
  | .flash _ a => [.s a.toNat 2]
  | .dmbw _ _ a => [.s a.toNat 1]
  | .dmbwPost _ _ a => [.s a.toNat 1]
  | _ => []

/-- The registers an instruction names as destinations (R105, R109). -/
def Instr.writes : Instr → List Reg
  | .sadd _ d _ _ _ => [.s d.toNat 1]
  | .ssub _ d _ _ _ => [.s d.toNat 1]
  | .smul _ d _ _ _ => [.s d.toNat 1]
  | .smulh _ d _ _ _ => [.s d.toNat 1]
  | .sand _ d _ _ _ => [.s d.toNat 1]
  | .sor _ d _ _ _ => [.s d.toNat 1]
  | .sxor _ d _ _ _ => [.s d.toNat 1]
  | .sshl _ d _ _ _ => [.s d.toNat 1]
  | .sshr _ d _ _ _ => [.s d.toNat 1]
  | .ssra _ d _ _ _ => [.s d.toNat 1]
  | .smin _ d _ _ _ => [.s d.toNat 1]
  | .smax _ d _ _ _ => [.s d.toNat 1]
  | .scmp _ _ q _ _ _ => [.q q.toNat]
  | .ssel _ d _ _ => [.s d.toNat 1]
  | .smov _ d _ => [.s d.toNat 1]
  | .srdvFirst _ d _ => [.s d.toNat 1]
  | .srdv _ d _ _ => [.s d.toNat 1]
  | .srdid _ d _ => [.s d.toNat 1]
  | .smovi _ d _ => [.s d.toNat 1]
  | .slui _ d _ => [.s d.toNat 1]
  | .bcall _ _ _ => [.s 58 2]
  | .loopb _ a _ => [.s a.toNat 1]
  | .bindCall _ d _ => [.s d.toNat 2]
  | .swidth _ d => [.s d.toNat 1]
  | .swidthGang _ d => [.s d.toNat 1]
  | .smaskqAct _ d => [.s d.toNat 2]
  | .smaskqLive _ d => [.s d.toNat 2]
  | .sgangq _ d => [.s d.toNat 1]
  | .voteAny _ _ q _ => [.q q.toNat]
  | .voteAll _ _ q _ => [.q q.toNat]
  | .voteEq _ _ q _ => [.q q.toNat]
  | .voteBal _ _ d _ => [.s d.toNat 2]
  | .shfl _ d _ _ _ _ _ _ _ _ _ => [.v d.toNat 1]
  | .getfmt _ d => [.s d.toNat 1]
  | .getcvm _ d => [.s d.toNat 1]
  | .xqry _ d => [.s d.toNat 1]
  | .fork _ q _ _ _ _ _ => [.q q.toNat]
  | .deqd _ d => [.s d.toNat 1]
  | .ld _ m _ => [.v m.d.toNat (laneRegs m.sz)]
  | .ldu _ m _ => [.v m.d.toNat (laneRegs m.sz)]
  | .lds _ m => [.v m.d.toNat (laneRegs m.sz)]
  | .ldc _ m _ => [.v m.d.toNat (laneRegs m.sz)]
  | .atom _ m _ _ _ _ _ => [.v m.d.toNat (laneRegs m.sz)]
  | .thq _ d _ _ _ _ => [.s d.toNat 8]
  | .bxwait _ _ q _ => [.q q.toNat]
  | .crtakeEmpty _ _ q _ _ => [.q q.toNat]
  | .crtakeFull _ _ q _ _ => [.q q.toNat]
  | .cpyp _ d _ _ _ _ _ => [.s d.toNat 2]
  | .cwait _ _ _ _ => [.q 3]
  | .cstat _ d _ => [.s d.toNat 1]
  | .cstatIdx _ d _ => [.s d.toNat 2]
  | .cstatClr _ d _ => [.s d.toNat 1]
  | .vadd _ d _ _ _ => [.v d.toNat 1]
  | .vsub _ d _ _ _ => [.v d.toNat 1]
  | .vmul _ d _ _ _ => [.v d.toNat 1]
  | .vmulh _ d _ _ _ => [.v d.toNat 1]
  | .vmad _ d _ _ _ => [.v d.toNat 1]
  | .vand _ d _ _ _ => [.v d.toNat 1]
  | .vor _ d _ _ _ => [.v d.toNat 1]
  | .vxor _ d _ _ _ => [.v d.toNat 1]
  | .vshl _ d _ _ _ => [.v d.toNat 1]
  | .vshr _ d _ _ _ => [.v d.toNat 1]
  | .vsra _ d _ _ _ => [.v d.toNat 1]
  | .vfshl _ d _ _ _ _ _ => [.v d.toNat 1]
  | .vfshr _ d _ _ _ _ _ => [.v d.toNat 1]
  | .vmin _ d _ _ _ => [.v d.toNat 1]
  | .vmax _ d _ _ _ => [.v d.toNat 1]
  | .vabs _ d _ => [.v d.toNat 1]
  | .vclz _ d _ => [.v d.toNat 1]
  | .vpop _ d _ => [.v d.toNat 1]
  | .vbrev _ d _ => [.v d.toNat 1]
  | .vmov _ d _ => [.v d.toNat 1]
  | .vbcast _ d _ => [.v d.toNat 1]
  | .vlane _ d => [.v d.toNat 1]
  | .vcmp _ pd _ _ _ _ _ => [.p pd.toNat]
  | .vsel _ d _ _ _ _ => [.v d.toNat 1]
  | .vmovi _ d _ => [.v d.toNat 1]
  | .vfadd _ d _ _ _ => [.v d.toNat 1]
  | .vfsub _ d _ _ _ => [.v d.toNat 1]
  | .vfmul _ d _ _ _ => [.v d.toNat 1]
  | .vfma _ d _ _ _ => [.v d.toNat 1]
  | .vfmin _ d _ _ _ => [.v d.toNat 1]
  | .vfmax _ d _ _ _ => [.v d.toNat 1]
  | .vfcmp _ pd _ _ _ _ _ => [.p pd.toNat]
  | .vfdiv _ d _ _ _ => [.v d.toNat 1]
  | .vfsqrt _ d _ => [.v d.toNat 1]
  | .vrcp _ d _ => [.v d.toNat 1]
  | .vrsq _ d _ => [.v d.toNat 1]
  | .vlog2 _ d _ => [.v d.toNat 1]
  | .vexp2 _ d _ _ _ _ _ => [.v d.toNat 1]
  | .vhadd _ d _ _ _ => [.v d.toNat 1]
  | .vhmul _ d _ _ _ => [.v d.toNat 1]
  | .vhfma _ d _ _ _ => [.v d.toNat 1]
  | .vred _ d _ _ ds _ => (if ds then [.s d.toNat 1] else [.v d.toNat 1])
  | .vscan _ d _ _ _ _ => [.v d.toNat 1]
  | .vcvt _ d _ _ _ _ _ _ => [.v d.toNat 1]
  | .vcvtef _ d _ e _ _ _ pd => [.v d.toNat 1] ++ [.v e.toNat 1] ++ [.p pd.toNat]
  | .vpack _ d _ _ _ _ => [.v d.toNat 1]
  | .vunpk _ d _ fmt => [.v d.toNat (packCount fmt)]
  | .vsclap _ d _ _ _ => [.v d.toNat 1]
  | .vcmprs _ d _ _ _ _ _ sc => [.v d.toNat 1] ++ [.s sc.toNat 1]
  | .vexpnd _ d _ _ _ _ _ sc => [.v d.toNat 1] ++ [.s sc.toNat 1]
  | .vdecode _ d _ c _ nreg _ => [.v d.toNat nreg.toNat] ++ [.s c.toNat 1]
  | .vdstat _ d => [.s d.toNat 1]
  | .vdstatClr _ d => [.s d.toNat 1]
  | .oclaim _ q _ => [.q q.toNat]
  | .oqry _ d _ => [.s d.toNat 1]
  | .ofill _ k _ _ _ _ _ _ _ _ => [.slot k.toNat]
  | .mma _ d _ _ _ _ _ _ => [.acc d.toNat]
  | .mmas _ d _ _ _ _ _ _ => [.acc d.toNat]
  | .accz _ d _ _ => [.acc d.toNat]
  | .accrd _ d _ _ _ nreg _ => [.v d.toNat nreg.toNat]
  | .accwr _ d _ _ _ _ _ => [.acc d.toNat]
  | .ocmp _ _ _ _ _ _ _ _ _ _ _ _ => [.bt]
  | .btcnt _ d _ _ _ => [.v d.toNat 1]
  | .btcolc _ d _ _ _ => [.v d.toNat 1]
  | .btand _ _ _ _ _ => [.bt]
  | .btor _ _ _ _ _ => [.bt]
  | .btxor _ _ _ _ _ => [.bt]
  | .btnot _ _ _ _ => [.bt]
  | .btt _ _ _ _ => [.bt]
  | .btcomp _ _ _ _ _ => [.bt]
  | .btclos _ _ _ x _ => [.bt] ++ [.s x.toNat 1]
  | .bteye _ _ _ => [.bt]
  | .btfirst _ d _ _ _ => [.v d.toNat 1]
  | .btrowRd _ d _ _ _ => [.v d.toNat 2]
  | .btrowWr _ _ _ _ _ => [.bt]
  | .btld _ _ _ _ _ _ _ => [.bt]
  | .trd _ d r => [.s d.toNat (if hregWide r then 2 else 1)]
  | .dmbr _ d _ => [.s d.toNat 1]
  | .cntrd _ d _ => [.s d.toNat 2]
  | .tsrd _ d => [.s d.toNat 2]
  | .tickrd _ d => [.s d.toNat 2]
  | .featq _ d _ => [.s d.toNat 1]
  | _ => []

end Sys2Proof
end

