-- ==== Sys2Proof/WellFormed.lean ====
section
/-! DEFINITION. Well-formed instructions: every field within the limits the spec gives it (Machine/Fields.lean), and
the stream that each instruction is fetched from. -/

namespace Sys2Proof

/-- Where an instruction comes from: the words of a strand's clause (R103); a word that is a header or illegal by where
it is reached (R95, R111); a bank program (R191); a job's stream (R19); or the device itself, an event. -/
inductive Stream where
  | strand
  | placed
  | bank
  | job
  | event
  deriving DecidableEq, Repr

/-- The stream of an instruction. -/
def Instr.stream : Instr → Stream
  | .sadd .. => .strand
  | .ssub .. => .strand
  | .smul .. => .strand
  | .smulh .. => .strand
  | .sand .. => .strand
  | .sor .. => .strand
  | .sxor .. => .strand
  | .sshl .. => .strand
  | .sshr .. => .strand
  | .ssra .. => .strand
  | .smin .. => .strand
  | .smax .. => .strand
  | .scmp .. => .strand
  | .ssel .. => .strand
  | .smov .. => .strand
  | .srdvFirst .. => .strand
  | .srdv .. => .strand
  | .srdid .. => .strand
  | .smovi .. => .strand
  | .slui .. => .strand
  | .bra .. => .strand
  | .brl .. => .strand
  | .joinat .. => .strand
  | .bcall .. => .strand
  | .loopb .. => .strand
  | .bret .. => .strand
  | .bind .. => .strand
  | .bindCall .. => .strand
  | .regrp .. => .strand
  | .exit .. => .strand
  | .yield .. => .strand
  | .sleep .. => .strand
  | .sleepRel .. => .strand
  | .swidth .. => .strand
  | .swidthGang .. => .strand
  | .smaskqAct .. => .strand
  | .smaskqLive .. => .strand
  | .sgangq .. => .strand
  | .voteAny .. => .strand
  | .voteAll .. => .strand
  | .voteEq .. => .strand
  | .voteBal .. => .strand
  | .shfl .. => .strand
  | .setfmt .. => .strand
  | .setfmtImm .. => .strand
  | .getfmt .. => .strand
  | .setcvm .. => .strand
  | .getcvm .. => .strand
  | .seedsr .. => .strand
  | .seedsrV .. => .strand
  | .xacqV .. => .strand
  | .xacqAcc .. => .strand
  | .xacqBt .. => .strand
  | .xrelV .. => .strand
  | .xrelAcc .. => .strand
  | .xrelBt .. => .strand
  | .xqry .. => .strand
  | .fork .. => .strand
  | .join .. => .strand
  | .joinSp .. => .strand
  | .deqd .. => .strand
  | .ld .. => .strand
  | .ldu .. => .strand
  | .lds .. => .strand
  | .ldc .. => .strand
  | .st .. => .strand
  | .stu .. => .strand
  | .sts .. => .strand
  | .atom .. => .strand
  | .fence .. => .strand
  | .tld .. => .strand
  | .tst .. => .strand
  | .thq .. => .strand
  | .tmat .. => .strand
  | .taff .. => .strand
  | .tscale .. => .strand
  | .toffs .. => .strand
  | .tclamp .. => .strand
  | .tfill .. => .strand
  | .tperm .. => .strand
  | .bara .. => .strand
  | .bars .. => .strand
  | .barw .. => .strand
  | .bxinit .. => .strand
  | .bxexp .. => .strand
  | .bxarr .. => .strand
  | .bxwait .. => .strand
  | .crwaitEmpty .. => .strand
  | .crwaitFull .. => .strand
  | .crfill .. => .strand
  | .crfree .. => .strand
  | .crtakeEmpty .. => .strand
  | .crtakeFull .. => .strand
  | .cpy .. => .strand
  | .cpyp .. => .strand
  | .cwait .. => .strand
  | .cstat .. => .strand
  | .cstatIdx .. => .strand
  | .cstatClr .. => .strand
  | .hedit .. => .strand
  | .bankcmd .. => .strand
  | .icinv .. => .strand
  | .icinvDev .. => .strand
  | .isync .. => .strand
  | .dcwb .. => .strand
  | .dcinv .. => .strand
  | .vadd .. => .strand
  | .vsub .. => .strand
  | .vmul .. => .strand
  | .vmulh .. => .strand
  | .vmad .. => .strand
  | .vand .. => .strand
  | .vor .. => .strand
  | .vxor .. => .strand
  | .vshl .. => .strand
  | .vshr .. => .strand
  | .vsra .. => .strand
  | .vfshl .. => .strand
  | .vfshr .. => .strand
  | .vmin .. => .strand
  | .vmax .. => .strand
  | .vabs .. => .strand
  | .vclz .. => .strand
  | .vpop .. => .strand
  | .vbrev .. => .strand
  | .vmov .. => .strand
  | .vbcast .. => .strand
  | .vlane .. => .strand
  | .vcmp .. => .strand
  | .vsel .. => .strand
  | .vmovi .. => .strand
  | .vfadd .. => .strand
  | .vfsub .. => .strand
  | .vfmul .. => .strand
  | .vfma .. => .strand
  | .vfmin .. => .strand
  | .vfmax .. => .strand
  | .vfcmp .. => .strand
  | .vfdiv .. => .strand
  | .vfsqrt .. => .strand
  | .vrcp .. => .strand
  | .vrsq .. => .strand
  | .vlog2 .. => .strand
  | .vexp2 .. => .strand
  | .vhadd .. => .strand
  | .vhmul .. => .strand
  | .vhfma .. => .strand
  | .vred .. => .strand
  | .vscan .. => .strand
  | .vcvt .. => .strand
  | .vcvtef .. => .strand
  | .vpack .. => .strand
  | .vunpk .. => .strand
  | .vsclap .. => .strand
  | .vcmprs .. => .strand
  | .vexpnd .. => .strand
  | .vdecode .. => .strand
  | .vdstat .. => .strand
  | .vdstatClr .. => .strand
  | .oclaim .. => .strand
  | .orelease .. => .strand
  | .oqry .. => .strand
  | .oload .. => .strand
  | .ofill .. => .strand
  | .mma .. => .strand
  | .mmas .. => .strand
  | .accz .. => .strand
  | .accrd .. => .strand
  | .accwr .. => .strand
  | .accst .. => .strand
  | .ocmp .. => .strand
  | .btcnt .. => .strand
  | .btcolc .. => .strand
  | .btand .. => .strand
  | .btor .. => .strand
  | .btxor .. => .strand
  | .btnot .. => .strand
  | .btt .. => .strand
  | .btcomp .. => .strand
  | .btclos .. => .strand
  | .bteye .. => .strand
  | .btfirst .. => .strand
  | .btrowRd .. => .strand
  | .btrowWr .. => .strand
  | .btld .. => .strand
  | .btst .. => .strand
  | .trap .. => .strand
  | .tret .. => .strand
  | .tretKill .. => .strand
  | .tretIgn .. => .strand
  | .trd .. => .strand
  | .twr .. => .strand
  | .flash .. => .strand
  | .flashNone .. => .strand
  | .dbgbrk .. => .strand
  | .dmbw .. => .strand
  | .dmbwPost .. => .strand
  | .dmbr .. => .strand
  | .cntrd .. => .strand
  | .tsrd .. => .strand
  | .tickrd .. => .strand
  | .featq .. => .strand
  | .nop .. => .strand
  | .extensionOneWord .. => .strand
  | .extensionLong .. => .strand
  | .clauseHeader .. => .placed
  | .illegalEncoding .. => .placed
  | .finbyNop .. => .job
  | .launch .. => .job
  | .launchi .. => .job
  | .edge .. => .job
  | .gbegin .. => .job
  | .gend => .job
  | .pbegin .. => .job
  | .pend => .job
  | .loop .. => .job
  | .waitmem .. => .job
  | .cond .. => .job
  | .waitctr .. => .job
  | .finbyFence .. => .job
  | .cancel .. => .job
  | .signal .. => .job
  | .link .. => .job
  | .endStream => .job
  | .bknop => .bank
  | .bkcfg .. => .bank
  | .bkldv .. => .bank
  | .bkmac .. => .bank
  | .bkscl .. => .bank
  | .bksum .. => .bank
  | .bkst .. => .bank
  | .bkloop .. => .bank
  | .bkwait => .bank
  | .bkend => .bank
  | .waitmemReread .. => .event
  | .waitmemTimeout .. => .event
  | .launchIssue .. => .event
  | .levelDone .. => .event
  | .killIntervalExpiry .. => .event
  | .blockAdmit .. => .event
  | .stealMessage .. => .event
  | .stealReply .. => .event
  | .taskTake .. => .event
  | .taskSteal .. => .event
  | .deadlockTrap .. => .event
  | .loadComplete .. => .event
  | .storePerformed .. => .event
  | .atomicComplete .. => .event
  | .tileStepComplete .. => .event
  | .heldReleaseApply .. => .event
  | .joinRecheck .. => .event
  | .sleepWake .. => .event
  | .cwaitDeadline .. => .event
  | .xacqGrant .. => .event
  | .copyExecute .. => .event
  | .heditExecute .. => .event
  | .oloadExecute .. => .event
  | .bankProgramStart .. => .event
  | .bankTransferComplete .. => .event
  | .bankStepLimit .. => .event
  | .matrixOpStart .. => .event
  | .matrixOpComplete .. => .event
  | .decodeEnd .. => .event
  | .decodeCycleLimit .. => .event
  | .congestionSignal .. => .event
  | .throttleRecovery .. => .event
  | .grantSliceExpiry .. => .event
  | .preemptionRequest .. => .event
  | .preemptRunonEnd .. => .event
  | .blockResume .. => .event
  | .migration .. => .event
  | .faultTimeout .. => .event
  | .pfans .. => .event
  | .tlbi .. => .event
  | .tlbInvalidationDone .. => .event
  | .rst .. => .event
  | .pageClear .. => .event
  | .strm .. => .event
  | .tlogo .. => .event
  | .rlogo .. => .event
  | .blogo .. => .event
  | .registerWrite .. => .event
  | .hostLoad .. => .event
  | .hostStore .. => .event
  | .interruptDelivery .. => .event
  | .budgetPeriod => .event
  | .governorPeriod => .event
  | .patrolScrub .. => .event
  | .laneRemap .. => .event
  | .flitReplay .. => .event
  | .linkDown .. => .event
  | .cxlLinkDown .. => .event
  | .powerGood => .event
  | .diePowerState .. => .event
  | .liveUpdate .. => .event
  | .updateFallback .. => .event
  | .rePlan .. => .event
  | .partitionCreate .. => .event
  | .keySlotLoad .. => .event
  | .budgetControlWrite .. => .event
  | .faultQueueRead .. => .event
  | .telemetryRead => .event
  | .getVersion .. => .event
  | .getCapabilities .. => .event
  | .negotiateAlgorithms .. => .event
  | .getDigests .. => .event
  | .getCertificate .. => .event
  | .challenge .. => .event
  | .getMeasurements .. => .event
  | .remoteElement .. => .event
  | .remoteElementPerformed .. => .event
  | .fabricWindow .. => .event
  | .badPageRequest .. => .event

/-- An instruction whose every field is one the encoding admits (R111). -/
def Instr.WellFormed (i : Instr) : Prop := i.fieldsOk = true

end Sys2Proof
end

