-- ==== Sys2Proof/Decode.lean ====
section
/-! DEFINITION. The decoder of instruction words (R103, R106, R112, R123 and the layouts of the instruction
chapters), of bank words (R191) and of stream commands (R19, R20), and the encoder written from the same
tables. Decoding is total; what it refuses, it refuses by name. -/

namespace Sys2Proof

/-- Why a word is not an instruction (R111, R112). -/
inductive Reject where
  /-- The major is illegal (R112). -/
  | illegalMajor
  /-- An FN, SUB or other selecting value names no variant of the major (R111). -/
  | noVariant
  /-- A reserved bit is nonzero, a register number is outside its class, T is not legal, or a combination
  that the description excludes (R105, R108, R111). -/
  | illegalField
  /-- The bytes end before the word or its extension word does. -/
  | truncated
  deriving DecidableEq, Repr

/-- OP, bits [31:25] (R103). -/
def fOP (w : Word) : BitVec 7 := w.extractLsb' 25 7
/-- D, bits [21:15] (R106). -/
def fD (w : Word) : BitVec 7 := w.extractLsb' 15 7
/-- A, bits [14:8] (R106). -/
def fA (w : Word) : BitVec 7 := w.extractLsb' 8 7
/-- B, bits [7:1] (R106). -/
def fB (w : Word) : BitVec 7 := w.extractLsb' 1 7
/-- N, bit [0] (R106). -/
def fN (w : Word) : Bool := w.getLsbD 0
/-- FN or I8, bits [7:0] (R106). -/
def fFN (w : Word) : BitVec 8 := w.extractLsb' 0 8
/-- T and G, bits [24] and [23:22] (R103). -/
def preOf (w : Word) : Pre := ⟨w.getLsbD 24, w.extractLsb' 22 2⟩

/-- The fields that the lane memory words share (R123). -/
def laneOf (w x : Word) : LaneMem :=
  { d := fD w, a := fA w, x := fB w, xv := fN w, fs := x.getLsbD 31, sz := x.extractLsb' 28 3,
    ord := x.extractLsb' 22 2, scp := x.extractLsb' 19 3, disp := x.extractLsb' 0 14 }

/-- Whether a major is LONG, so that an extension word follows the first word (R106, R112, R113). -/
def isLongMajor (op : Nat) : Bool :=
  decide (op = 0x1A ∨ op = 0x1D) || decide (0x20 ≤ op ∧ op ≤ 0x27) || decide (0x29 ≤ op ∧ op ≤ 0x2C)
    || decide (op = 0x30 ∨ op = 0x32 ∨ op = 0x33 ∨ op = 0x43) || decide (0x47 ≤ op ∧ op ≤ 0x49)
    || decide (op = 0x50 ∨ op = 0x53) || decide (0x58 ≤ op ∧ op ≤ 0x5A) || decide (op = 0x5C ∨ op = 0x5D)
    || decide (0x61 ≤ op ∧ op ≤ 0x66) || decide (0x78 ≤ op ∧ op ≤ 0x7F)

/-- The class of an assigned major; `none` for an illegal or extension major (R99, R112). -/
def majorClass (op : Nat) : Option Nat :=
  if op = 0x00 then none
  else if op = 0x1A then some 1
  else if op = 0x1E then some 3
  else if op ≤ 0x1E then some 0
  else if op = 0x1F then none
  else if op = 0x30 ∨ op = 0x32 ∨ op = 0x33 then some 4
  else if op ≤ 0x34 then some 3
  else if op ≤ 0x37 then none
  else if op ≤ 0x5D then some 1
  else if op ≤ 0x5F then none
  else if op ≤ 0x66 then some 2
  else if op = 0x67 then none
  else if op ≤ 0x6C then some 5
  else none

/-- Reads the fields of an instruction word, and of its extension word where the major is LONG, without
checking their limits. `none`: the major is illegal or no variant is selected (R111, R112). -/
def decodeFields (w x : Word) : Option Instr :=
  let p := preOf w
  let d := fD w
  let a := fA w
  let b := fB w
  let n := fN w
  let fn := (fFN w).toNat
  let fs := x.getLsbD 31
  let ord := x.extractLsb' 22 2
  let scp := x.extractLsb' 19 3
  let m := laneOf w x
  match (fOP w).toNat with
  | 0x01 => some (.sadd p d a b n)
  | 0x02 => some (.ssub p d a b n)
  | 0x03 => some (.smul p d a b n)
  | 0x04 => some (.smulh p d a b n)
  | 0x05 => some (.sand p d a b n)
  | 0x06 => some (.sor p d a b n)
  | 0x07 => some (.sxor p d a b n)
  | 0x08 => some (.sshl p d a b n)
  | 0x09 => some (.sshr p d a b n)
  | 0x0A => some (.ssra p d a b n)
  | 0x0B => some (.smin p d a b n)
  | 0x0C => some (.smax p d a b n)
  | 0x0D => some (.scmp p (ccOf (w.extractLsb' 19 3)) (w.extractLsb' 15 2) a b n)
  | 0x0E => some (.ssel p d a (w.extractLsb' 4 4))
  | 0x0F =>
    if fn = 0x00 then some (.smov p d a)
    else if fn = 0x01 then some (.srdvFirst p d a)
    else if fn / 64 = 1 then some (.srdv p d a (w.extractLsb' 0 6))
    else if fn / 8 = 0x10 then some (.srdid p d (w.extractLsb' 0 3))
    else none
  | 0x10 => some (.smovi p d (w.extractLsb' 0 15))
  | 0x11 => some (.slui p d (w.extractLsb' 0 15))
  | 0x12 => some (.bra p (w.extractLsb' 18 4) (w.extractLsb' 0 18))
  | 0x13 => some (.brl p (w.extractLsb' 18 4) (w.extractLsb' 0 18))
  | 0x14 => some (.joinat p (w.extractLsb' 0 18))
  | 0x15 => some (.bcall p (w.extractLsb' 18 4) (w.extractLsb' 0 18))
  | 0x16 => some (.loopb p a (fFN w))
  | 0x17 =>
    match fn with
    | 0 => some (.bret p a)
    | 1 => some (.bind p a)
    | 2 => some (.bindCall p d a)
    | 3 => some (.regrp p)
    | 4 => some (.exit p)
    | 5 => some (.yield p)
    | 6 => some (.sleep p a)
    | 7 => some (.sleepRel p a)
    | _ => none
  | 0x18 =>
    match fn with
    | 0 => some (.swidth p d)
    | 1 => some (.swidthGang p d)
    | 2 => some (.smaskqAct p d)
    | 3 => some (.smaskqLive p d)
    | 4 => some (.sgangq p d)
    | _ => none
  | 0x19 =>
    match fn % 128 with
    | 0 => some (.voteAny p (w.getLsbD 7) (w.extractLsb' 15 2) a)
    | 1 => some (.voteAll p (w.getLsbD 7) (w.extractLsb' 15 2) a)
    | 2 => some (.voteEq p (w.getLsbD 7) (w.extractLsb' 15 2) a)
    | 3 => some (.voteBal p (w.getLsbD 7) d a)
    | _ => none
  | 0x1A => some (.shfl p d a b n (shflKindOf (x.extractLsb' 27 2)) (x.getLsbD 26) (x.getLsbD 25)
      (x.extractLsb' 18 7) (x.getLsbD 6) (x.extractLsb' 0 6))
  | 0x1B =>
    match fn with
    | 0 => some (.setfmt p a)
    | 1 => some (.setfmtImm p (w.extractLsb' 14 8))
    | 2 => some (.getfmt p d)
    | 3 => some (.setcvm p a)
    | 4 => some (.getcvm p d)
    | 5 => some (.seedsr p a)
    | 6 => some (.seedsrV p a)
    | _ => none
  | 0x1C =>
    match fn with
    | 0 => some (.xacqV p)
    | 1 => some (.xacqAcc p (w.extractLsb' 15 2))
    | 2 => some (.xacqBt p)
    | 4 => some (.xrelV p)
    | 5 => some (.xrelAcc p (w.extractLsb' 15 2))
    | 6 => some (.xrelBt p)
    | 8 => some (.xqry p d)
    | _ => none
  | 0x1D => some (.fork p (w.extractLsb' 15 2) a b (x.getLsbD 31) (x.getLsbD 30) (x.extractLsb' 0 18))
  | 0x1E =>
    match fn with
    | 0 => some (.join p (w.extractLsb' 15 3) a)
    | 1 => some (.joinSp p (w.extractLsb' 15 3) a)
    | 2 => some (.deqd p d)
    | _ => none
  | 0x20 => some (.ld p m (x.getLsbD 18))
  | 0x21 => some (.ldu p m (x.getLsbD 18))
  | 0x22 => some (.lds p m)
  | 0x23 => some (.ldc p m (x.getLsbD 18))
  | 0x24 => some (.st p m (x.extractLsb' 24 4))
  | 0x25 => some (.stu p { m with disp := 0#3 ++ x.extractLsb' 0 11 } (x.extractLsb' 24 4) (x.extractLsb' 11 7))
  | 0x26 => some (.sts p m (x.extractLsb' 24 4))
  | 0x27 =>
    (atomOpOf (x.extractLsb' 14 4)).map fun op =>
      .atom p { m with disp := 0 } (x.extractLsb' 24 4) (x.getLsbD 18) op (x.extractLsb' 7 7) (x.extractLsb' 0 7)
  | 0x28 => some (.fence p (w.extractLsb' 0 2) (w.extractLsb' 15 3))
  | 0x29 => some (.tld p d a (fFN w) (x.extractLsb' 28 3) (x.getLsbD 27) fs ord scp)
  | 0x2A => some (.tst p d a (fFN w) (x.getLsbD 30) fs ord scp)
  | 0x2B =>
    match fn with
    | 0 => some (.thq p d a fs ord scp)
    | 1 => some (.tmat p a fs ord scp)
    | _ => none
  | 0x2C =>
    match fn with
    | 0 => some (.taff p a d (x.extractLsb' 24 7) fs ord scp)
    | 1 => some (.tscale p a d fs ord scp)
    | 2 => some (.toffs p a d fs ord scp)
    | 3 => some (.tclamp p a d (x.extractLsb' 24 7) fs ord scp)
    | 4 => some (.tfill p a d fs ord scp)
    | 5 => some (.tperm p a (x.extractLsb' 16 3) fs ord scp)
    | _ => none
  | 0x2D =>
    match fn % 128 with
    | 0 => some (.bara p (w.extractLsb' 15 4) a (w.getLsbD 7))
    | 1 => some (.bars p (w.extractLsb' 15 4) a (w.getLsbD 7))
    | 2 => some (.barw p (w.extractLsb' 15 4) (w.getLsbD 7))
    | _ => none
  | 0x2E =>
    match fn with
    | 0 => some (.bxinit p d a)
    | 1 => some (.bxexp p d a)
    | 2 => some (.bxarr p d a)
    | 3 => some (.bxwait p (w.getLsbD 17) (w.extractLsb' 15 2) a)
    | _ => none
  | 0x2F =>
    match fn with
    | 0 => some (.crwaitEmpty p (w.extractLsb' 19 3) (w.getLsbD 15) a)
    | 1 => some (.crwaitFull p (w.extractLsb' 19 3) (w.getLsbD 15) a)
    | 2 => some (.crfill p (w.extractLsb' 19 3) a)
    | 3 => some (.crfree p (w.extractLsb' 19 3) a)
    | 4 => some (.crtakeEmpty p (w.extractLsb' 19 3) (w.extractLsb' 16 2) (w.getLsbD 15) a)
    | 5 => some (.crtakeFull p (w.extractLsb' 19 3) (w.extractLsb' 16 2) (w.getLsbD 15) a)
    | _ => none
  | 0x30 =>
    if n then some (.cpyp p d a b (x.extractLsb' 24 7) (x.extractLsb' 17 7) (x.getLsbD 16))
    else some (.cpy p a b (x.extractLsb' 24 7) (x.extractLsb' 17 7) (x.getLsbD 16))
  | 0x31 =>
    match fn with
    | 0 => some (.cwait p false d a)
    | 1 => some (.cwait p true d a)
    | 2 => some (.cstat p d a)
    | 3 => some (.cstatIdx p d a)
    | 4 => some (.cstatClr p d a)
    | _ => none
  | 0x32 => some (.hedit p a b (x.extractLsb' 24 7) (x.extractLsb' 17 7) (x.getLsbD 16))
  | 0x33 => some (.bankcmd p d a b (x.extractLsb' 24 7))
  | 0x34 =>
    match fn with
    | 0 => some (.icinv p)
    | 1 => some (.icinvDev p)
    | 2 => some (.isync p)
    | 3 => some (.dcwb p d a)
    | 4 => some (.dcinv p d a)
    | _ => none
  | 0x38 => some (.vadd p d a b n)
  | 0x39 => some (.vsub p d a b n)
  | 0x3A => some (.vmul p d a b n)
  | 0x3B => some (.vmulh p d a b n)
  | 0x3C => some (.vmad p d a b n)
  | 0x3D => some (.vand p d a b n)
  | 0x3E => some (.vor p d a b n)
  | 0x3F => some (.vxor p d a b n)
  | 0x40 => some (.vshl p d a b n)
  | 0x41 => some (.vshr p d a b n)
  | 0x42 => some (.vsra p d a b n)
  | 0x43 =>
    if x.getLsbD 30 then some (.vfshr p d a b (x.extractLsb' 28 2) (x.extractLsb' 21 7) (x.extractLsb' 0 6))
    else some (.vfshl p d a b (x.extractLsb' 28 2) (x.extractLsb' 21 7) (x.extractLsb' 0 6))
  | 0x44 => some (.vmin p d a b n)
  | 0x45 => some (.vmax p d a b n)
  | 0x46 =>
    match fn with
    | 0 => some (.vabs p d a)
    | 1 => some (.vclz p d a)
    | 2 => some (.vpop p d a)
    | 3 => some (.vbrev p d a)
    | 4 => some (.vmov p d a)
    | 5 => some (.vbcast p d a)
    | 6 => some (.vlane p d)
    | _ => none
  | 0x47 => some (.vcmp p (w.extractLsb' 15 3) a b n (ccOf (x.extractLsb' 28 3)) (x.getLsbD 27))
  | 0x48 => some (.vsel p d a b n (x.extractLsb' 24 4))
  | 0x49 => some (.vmovi p d x)
  | 0x4A => some (.vfadd p d a b n)
  | 0x4B => some (.vfsub p d a b n)
  | 0x4C => some (.vfmul p d a b n)
  | 0x4D => some (.vfma p d a b n)
  | 0x4E => some (.vfmin p d a b n)
  | 0x4F => some (.vfmax p d a b n)
  | 0x50 => some (.vfcmp p (w.extractLsb' 15 3) a b n (ccOf (x.extractLsb' 28 3)) (x.getLsbD 27))
  | 0x51 => some (.vfdiv p d a b n)
  | 0x52 =>
    match fn with
    | 0 => some (.vfsqrt p d a)
    | 1 => some (.vrcp p d a)
    | 2 => some (.vrsq p d a)
    | 3 => some (.vlog2 p d a)
    | _ => none
  | 0x53 => some (.vexp2 p d a b n (x.extractLsb' 24 7) (x.getLsbD 23))
  | 0x54 => some (.vhadd p d a b n)
  | 0x55 => some (.vhmul p d a b n)
  | 0x56 => some (.vhfma p d a b n)
  | 0x57 =>
    (redOpOf (w.extractLsb' 0 4)).map fun op =>
      if w.getLsbD 5 then .vscan p d a (w.getLsbD 7) (w.getLsbD 4) op
      else .vred p d a (w.getLsbD 7) (w.getLsbD 6) op
  | 0x58 => some (.vcvt p d a (fFN w) (x.extractLsb' 23 8) (x.extractLsb' 20 3) (x.getLsbD 19) (x.extractLsb' 16 3))
  | 0x59 => some (.vcvtef p d a b (x.extractLsb' 23 8) (x.extractLsb' 20 3) (x.getLsbD 19) (x.extractLsb' 16 3))
  | 0x5A =>
    if x.getLsbD 30 then some (.vunpk p d a (fFN w))
    else some (.vpack p d a (fFN w) (x.extractLsb' 27 3) (x.getLsbD 26))
  | 0x5B => some (.vsclap p d a b n)
  | 0x5C =>
    if x.getLsbD 30 then some (.vexpnd p d a b n (x.getLsbD 29) (x.extractLsb' 24 4) (x.extractLsb' 17 7))
    else some (.vcmprs p d a b n (x.getLsbD 29) (x.extractLsb' 24 4) (x.extractLsb' 17 7))
  | 0x5D =>
    match (x.extractLsb' 21 2).toNat with
    | 0 => some (.vdecode p d a b n (x.extractLsb' 24 7) (x.getLsbD 23))
    | 1 => some (.vdstat p d)
    | 2 => some (.vdstatClr p d)
    | _ => none
  | 0x60 =>
    match fn with
    | 0 => some (.oclaim p (w.extractLsb' 15 2) a)
    | 1 => some (.orelease p a)
    | 2 => some (.oqry p d a)
    | _ => none
  | 0x61 => some (.oload p d a b (x.extractLsb' 24 7) (x.extractLsb' 16 8) (x.getLsbD 15) (x.getLsbD 14) (x.getLsbD 13))
  | 0x62 => some (.ofill p d a (fFN w) fs (x.extractLsb' 25 6) (x.extractLsb' 20 5) (x.extractLsb' 14 6)
      (x.getLsbD 13) (x.getLsbD 12))
  | 0x63 =>
    if n then some (.mmas p d a b fs (x.extractLsb' 24 7) (x.extractLsb' 18 6) (x.getLsbD 17))
    else some (.mma p d a b fs (x.extractLsb' 24 7) (x.extractLsb' 18 6) (x.getLsbD 17))
  | 0x64 =>
    match (x.extractLsb' 29 2).toNat with
    | 0 => some (.accz p d fs (x.getLsbD 15))
    | 1 => some (.accrd p d a fs (x.extractLsb' 23 6) (x.extractLsb' 16 7) (x.getLsbD 15))
    | 2 => some (.accwr p d a fs (x.extractLsb' 23 6) (x.extractLsb' 16 7) (x.getLsbD 15))
    | _ => some (.accst p d a (fFN w) fs (x.extractLsb' 23 6) (x.extractLsb' 20 3) (x.getLsbD 19) (x.getLsbD 18)
        (x.extractLsb' 12 6) (x.extractLsb' 10 2) (x.extractLsb' 7 3))
  | 0x65 => some (.ocmp p d a b n fs (ccOf (x.extractLsb' 28 3)) (x.getLsbD 27) (x.getLsbD 26) (x.extractLsb' 18 8)
      (x.extractLsb' 13 5) (x.getLsbD 12))
  | 0x66 =>
    match (x.extractLsb' 26 5).toNat with
    | 0 => some (.btcnt p d a fs (x.getLsbD 12))
    | 1 => some (.btcolc p d a fs (x.getLsbD 12))
    | 2 => some (.btand p d a b fs)
    | 3 => some (.btor p d a b fs)
    | 4 => some (.btxor p d a b fs)
    | 5 => some (.btnot p d a fs)
    | 6 => some (.btt p d a fs)
    | 7 => some (.btcomp p d a b fs)
    | 8 => some (.btclos p d a (x.extractLsb' 18 7) fs)
    | 9 => some (.bteye p d fs)
    | 10 => some (.btfirst p d a fs (x.getLsbD 12))
    | 11 => some (.btrowRd p d a fs (x.getLsbD 12))
    | 12 => some (.btrowWr p d a fs (x.getLsbD 12))
    | 13 => some (.btld p d a fs (x.getLsbD 25) (x.extractLsb' 16 2) (x.extractLsb' 13 3))
    | 14 => some (.btst p d a fs (x.getLsbD 25) (x.extractLsb' 16 2) (x.extractLsb' 13 3))
    | _ => none
  | 0x68 =>
    match fn with
    | 0 => some (.trap p (w.extractLsb' 8 14))
    | 1 => some (.tret p)
    | 2 => some (.tretKill p)
    | 3 => some (.tretIgn p)
    | 4 => some (.trd p d a)
    | 5 => some (.twr p d a)
    | _ => none
  | 0x69 =>
    match fn with
    | 0 => some (.flash p a)
    | 1 => some (.flashNone p)
    | _ => none
  | 0x6A =>
    match fn with
    | 0 => some (.dbgbrk p (w.extractLsb' 8 14))
    | 1 => some (.dmbw p (w.extractLsb' 15 3) a)
    | 2 => some (.dmbwPost p (w.extractLsb' 15 3) a)
    | 3 => some (.dmbr p d a)
    | _ => none
  | 0x6B =>
    match fn with
    | 0 => some (.cntrd p d a)
    | 1 => some (.tsrd p d)
    | 2 => some (.tickrd p d)
    | 3 => some (.featq p d a)
    | _ => none
  | 0x6C => if fn = 0 then some (.nop p) else none
  | 0x70 => some (.extensionOneWord w)
  | 0x71 => some (.extensionOneWord w)
  | 0x72 => some (.extensionOneWord w)
  | 0x73 => some (.extensionOneWord w)
  | 0x74 => some (.extensionOneWord w)
  | 0x75 => some (.extensionOneWord w)
  | 0x76 => some (.extensionOneWord w)
  | 0x77 => some (.extensionOneWord w)
  | 0x78 => some (.extensionLong w x)
  | 0x79 => some (.extensionLong w x)
  | 0x7A => some (.extensionLong w x)
  | 0x7B => some (.extensionLong w x)
  | 0x7C => some (.extensionLong w x)
  | 0x7D => some (.extensionLong w x)
  | 0x7E => some (.extensionLong w x)
  | 0x7F => some (.extensionLong w x)
  | _ => none

/-- The RRR body and the first words laid out like it (R106). -/
def rrr (op : BitVec 7) (p : Pre) (d a b : BitVec 7) (n : Bool) : Word :=
  op ++ BitVec.ofBool p.t ++ p.g ++ d ++ a ++ b ++ BitVec.ofBool n

/-- The RRF and RI bodies (R106). -/
def rrf (op : BitVec 7) (p : Pre) (d a : BitVec 7) (fn : BitVec 8) : Word :=
  op ++ BitVec.ofBool p.t ++ p.g ++ d ++ a ++ fn

/-- The RG body with SUB 0 (R106). -/
def rg (op : BitVec 7) (p : Pre) (d a : BitVec 7) (gd : BitVec 4) : Word :=
  op ++ BitVec.ofBool p.t ++ p.g ++ d ++ a ++ gd ++ 0#4

/-- The I15 body (R106). -/
def i15 (op : BitVec 7) (p : Pre) (d : BitVec 7) (imm : BitVec 15) : Word :=
  op ++ BitVec.ofBool p.t ++ p.g ++ d ++ imm

/-- The BR body (R106). -/
def br (op : BitVec 7) (p : Pre) (gd : BitVec 4) (off : BitVec 18) : Word :=
  op ++ BitVec.ofBool p.t ++ p.g ++ gd ++ off

/-- Splits a 64-bit quantity into its two words, the low one first (R3). -/
def words64 (a : Addr) : List Word := [a.extractLsb' 0 32, a.extractLsb' 32 32]

/-- The first word of a stream command (R19). -/
def cmdWord (arg : BitVec 16) (len : BitVec 4) (cmd : BitVec 8) : Word := arg ++ 0#4 ++ len ++ cmd

/-- The 32-bit words of a well-formed instruction, of a bank word (low word first) or of a stream command;
none for an event. -/
def encode : Instr → List Word
  | .sadd p d a b n => [rrr 0x01 p d a b n]
  | .ssub p d a b n => [rrr 0x02 p d a b n]
  | .smul p d a b n => [rrr 0x03 p d a b n]
  | .smulh p d a b n => [rrr 0x04 p d a b n]
  | .sand p d a b n => [rrr 0x05 p d a b n]
  | .sor p d a b n => [rrr 0x06 p d a b n]
  | .sxor p d a b n => [rrr 0x07 p d a b n]
  | .sshl p d a b n => [rrr 0x08 p d a b n]
  | .sshr p d a b n => [rrr 0x09 p d a b n]
  | .ssra p d a b n => [rrr 0x0A p d a b n]
  | .smin p d a b n => [rrr 0x0B p d a b n]
  | .smax p d a b n => [rrr 0x0C p d a b n]
  | .scmp p cc q a b n => [rrr 0x0D p (cc.code ++ 0#2 ++ q) a b n]
  | .ssel p d a gd => [rg 0x0E p d a gd]
  | .smov p d a => [rrf 0x0F p d a 0x00]
  | .srdvFirst p d a => [rrf 0x0F p d a 0x01]
  | .srdv p d a l => [rrf 0x0F p d a (0x1#2 ++ l)]
  | .srdid p d id => [rrf 0x0F p d 0 (0x10#5 ++ id)]
  | .smovi p d imm => [i15 0x10 p d imm]
  | .slui p d imm => [i15 0x11 p d imm]
  | .bra p gd off => [br 0x12 p gd off]
  | .brl p gd off => [br 0x13 p gd off]
  | .joinat p off => [br 0x14 p 0 off]
  | .bcall p gd off => [br 0x15 p gd off]
  | .loopb p a i8 => [rrf 0x16 p 0 a i8]
  | .bret p a => [rrf 0x17 p 0 a 0x00]
  | .bind p a => [rrf 0x17 p 0 a 0x01]
  | .bindCall p d a => [rrf 0x17 p d a 0x02]
  | .regrp p => [rrf 0x17 p 0 0 0x03]
  | .exit p => [rrf 0x17 p 0 0 0x04]
  | .yield p => [rrf 0x17 p 0 0 0x05]
  | .sleep p a => [rrf 0x17 p 0 a 0x06]
  | .sleepRel p a => [rrf 0x17 p 0 a 0x07]
  | .swidth p d => [rrf 0x18 p d 0 0x00]
  | .swidthGang p d => [rrf 0x18 p d 0 0x01]
  | .smaskqAct p d => [rrf 0x18 p d 0 0x02]
  | .smaskqLive p d => [rrf 0x18 p d 0 0x03]
  | .sgangq p d => [rrf 0x18 p d 0 0x04]
  | .voteAny p w q a => [rrf 0x19 p (0#5 ++ q) a (BitVec.ofBool w ++ 0#7)]
  | .voteAll p w q a => [rrf 0x19 p (0#5 ++ q) a (BitVec.ofBool w ++ 1#7)]
  | .voteEq p w q a => [rrf 0x19 p (0#5 ++ q) a (BitVec.ofBool w ++ 2#7)]
  | .voteBal p w d a => [rrf 0x19 p d a (BitVec.ofBool w ++ 3#7)]
  | .shfl p d a b bk kind w fk fr imm c => [rrr 0x1A p d a b bk, 0#3 ++ kind.code ++ BitVec.ofBool w ++ BitVec.ofBool fk ++ fr ++ 0#11 ++ BitVec.ofBool imm ++ c]
  | .setfmt p a => [rrf 0x1B p 0 a 0x00]
  | .setfmtImm p code => [rrf 0x1B p (code.extractLsb' 1 7) (code.extractLsb' 0 1 ++ 0#6) 0x01]
  | .getfmt p d => [rrf 0x1B p d 0 0x02]
  | .setcvm p a => [rrf 0x1B p 0 a 0x03]
  | .getcvm p d => [rrf 0x1B p d 0 0x04]
  | .seedsr p a => [rrf 0x1B p 0 a 0x05]
  | .seedsrV p a => [rrf 0x1B p 0 a 0x06]
  | .xacqV p => [rrf 0x1C p 0 0 0x00]
  | .xacqAcc p n => [rrf 0x1C p (0#5 ++ n) 0 0x01]
  | .xacqBt p => [rrf 0x1C p 0 0 0x02]
  | .xrelV p => [rrf 0x1C p 0 0 0x04]
  | .xrelAcc p n => [rrf 0x1C p (0#5 ++ n) 0 0x05]
  | .xrelBt p => [rrf 0x1C p 0 0 0x06]
  | .xqry p d => [rrf 0x1C p d 0 0x08]
  | .fork p q a e loc ek off => [rrr 0x1D p (0#5 ++ q) a e false, BitVec.ofBool loc ++ BitVec.ofBool ek ++ 0#12 ++ off]
  | .join p scp a => [rrf 0x1E p (0#4 ++ scp) a 0x00]
  | .joinSp p scp a => [rrf 0x1E p (0#4 ++ scp) a 0x01]
  | .deqd p d => [rrf 0x1E p d 0 0x02]
  | .ld p m raw => [rrr 0x20 p m.d m.a m.x m.xv, BitVec.ofBool m.fs ++ m.sz ++ 0#4 ++ m.ord ++ m.scp ++ BitVec.ofBool raw ++ 0#4 ++ m.disp]
  | .ldu p m raw => [rrr 0x21 p m.d m.a m.x m.xv, BitVec.ofBool m.fs ++ m.sz ++ 0#4 ++ m.ord ++ m.scp ++ BitVec.ofBool raw ++ 0#4 ++ m.disp]
  | .lds p m => [rrr 0x22 p m.d m.a m.x m.xv, BitVec.ofBool m.fs ++ m.sz ++ 0#4 ++ m.ord ++ m.scp ++ 0#1 ++ 0#4 ++ m.disp]
  | .ldc p m raw => [rrr 0x23 p m.d m.a m.x m.xv, BitVec.ofBool m.fs ++ m.sz ++ 0#4 ++ m.ord ++ m.scp ++ BitVec.ofBool raw ++ 0#4 ++ m.disp]
  | .st p m gd => [rrr 0x24 p m.d m.a m.x m.xv, BitVec.ofBool m.fs ++ m.sz ++ gd ++ m.ord ++ m.scp ++ 0#1 ++ 0#4 ++ m.disp]
  | .stu p m gd mv => [rrr 0x25 p m.d m.a m.x m.xv, BitVec.ofBool m.fs ++ m.sz ++ gd ++ m.ord ++ m.scp ++ 0#1 ++ mv ++ m.disp.extractLsb' 0 11]
  | .sts p m gd => [rrr 0x26 p m.d m.a m.x m.xv, BitVec.ofBool m.fs ++ m.sz ++ gd ++ m.ord ++ m.scp ++ 0#1 ++ 0#4 ++ m.disp]
  | .atom p m gd raw aop dv cv => [rrr 0x27 p m.d m.a m.x m.xv, BitVec.ofBool m.fs ++ m.sz ++ gd ++ m.ord ++ m.scp ++ BitVec.ofBool raw ++ aop.code ++ dv ++ cv]
  | .fence p kind scp => [rrf 0x28 p (0#4 ++ scp) 0 (0#6 ++ kind)]
  | .tld p d a fmt mode sat fs ord scp => [rrf 0x29 p d a fmt, BitVec.ofBool fs ++ mode ++ BitVec.ofBool sat ++ 0#3 ++ ord ++ scp ++ 0#19]
  | .tst p d a fmt sclw fs ord scp => [rrf 0x2A p d a fmt, BitVec.ofBool fs ++ BitVec.ofBool sclw ++ 0#6 ++ ord ++ scp ++ 0#19]
  | .thq p d a fs ord scp => [rrf 0x2B p d a 0x00, BitVec.ofBool fs ++ 0#7 ++ ord ++ scp ++ 0#19]
  | .tmat p a fs ord scp => [rrf 0x2B p 0 a 0x01, BitVec.ofBool fs ++ 0#7 ++ ord ++ scp ++ 0#19]
  | .taff p a x y fs ord scp => [rrf 0x2C p x a 0, BitVec.ofBool fs ++ y ++ ord ++ scp ++ 0#3 ++ 0#16]
  | .tscale p a x fs ord scp => [rrf 0x2C p x a 1, BitVec.ofBool fs ++ 0#7 ++ ord ++ scp ++ 0#3 ++ 0#16]
  | .toffs p a x fs ord scp => [rrf 0x2C p x a 2, BitVec.ofBool fs ++ 0#7 ++ ord ++ scp ++ 0#3 ++ 0#16]
  | .tclamp p a x y fs ord scp => [rrf 0x2C p x a 3, BitVec.ofBool fs ++ y ++ ord ++ scp ++ 0#3 ++ 0#16]
  | .tfill p a x fs ord scp => [rrf 0x2C p x a 4, BitVec.ofBool fs ++ 0#7 ++ ord ++ scp ++ 0#3 ++ 0#16]
  | .tperm p a perm fs ord scp => [rrf 0x2C p 0 a 5, BitVec.ofBool fs ++ 0#7 ++ ord ++ scp ++ perm ++ 0#16]
  | .bara p name a w => [rrf 0x2D p (0#3 ++ name) a (BitVec.ofBool w ++ 0#7)]
  | .bars p name a w => [rrf 0x2D p (0#3 ++ name) a (BitVec.ofBool w ++ 1#7)]
  | .barw p name w => [rrf 0x2D p (0#3 ++ name) 0 (BitVec.ofBool w ++ 2#7)]
  | .bxinit p d a => [rrf 0x2E p d a 0]
  | .bxexp p d a => [rrf 0x2E p d a 1]
  | .bxarr p d a => [rrf 0x2E p d a 2]
  | .bxwait p par q a => [rrf 0x2E p (0#4 ++ BitVec.ofBool par ++ q) a 3]
  | .crwaitEmpty p ring ph a => [rrf 0x2F p (ring ++ 0#3 ++ BitVec.ofBool ph) a 0]
  | .crwaitFull p ring ph a => [rrf 0x2F p (ring ++ 0#3 ++ BitVec.ofBool ph) a 1]
  | .crfill p ring a => [rrf 0x2F p (ring ++ 0#4) a 2]
  | .crfree p ring a => [rrf 0x2F p (ring ++ 0#4) a 3]
  | .crtakeEmpty p ring q ph a => [rrf 0x2F p (ring ++ 0#1 ++ q ++ BitVec.ofBool ph) a 4]
  | .crtakeFull p ring q ph a => [rrf 0x2F p (ring ++ 0#1 ++ q ++ BitVec.ofBool ph) a 5]
  | .cpy p a e b o ds => [rrr 0x30 p 0 a e false, 0#1 ++ b ++ o ++ BitVec.ofBool ds ++ 0#16]
  | .cpyp p d a e b o ds => [rrr 0x30 p d a e true, 0#1 ++ b ++ o ++ BitVec.ofBool ds ++ 0#16]
  | .cwait p par d a => [rrf 0x31 p d a (0#7 ++ BitVec.ofBool par)]
  | .cstat p d a => [rrf 0x31 p d a 2]
  | .cstatIdx p d a => [rrf 0x31 p d a 3]
  | .cstatClr p d a => [rrf 0x31 p d a 4]
  | .hedit p a e b o ds => [rrr 0x32 p 0 a e false, 0#1 ++ b ++ o ++ BitVec.ofBool ds ++ 0#16]
  | .bankcmd p d a e b => [rrr 0x33 p d a e false, 0#1 ++ b ++ 0#24]
  | .icinv p => [rrf 0x34 p 0 0 0]
  | .icinvDev p => [rrf 0x34 p 0 0 1]
  | .isync p => [rrf 0x34 p 0 0 2]
  | .dcwb p d a => [rrf 0x34 p d a 3]
  | .dcinv p d a => [rrf 0x34 p d a 4]
  | .vadd p d a b n => [rrr 0x38 p d a b n]
  | .vsub p d a b n => [rrr 0x39 p d a b n]
  | .vmul p d a b n => [rrr 0x3A p d a b n]
  | .vmulh p d a b n => [rrr 0x3B p d a b n]
  | .vmad p d a b n => [rrr 0x3C p d a b n]
  | .vand p d a b n => [rrr 0x3D p d a b n]
  | .vor p d a b n => [rrr 0x3E p d a b n]
  | .vxor p d a b n => [rrr 0x3F p d a b n]
  | .vshl p d a b n => [rrr 0x40 p d a b n]
  | .vshr p d a b n => [rrr 0x41 p d a b n]
  | .vsra p d a b n => [rrr 0x42 p d a b n]
  | .vfshl p d a b ck c imm => [rrr 0x43 p d a b false, 0#1 ++ 0#1 ++ ck ++ c ++ 0#15 ++ imm]
  | .vfshr p d a b ck c imm => [rrr 0x43 p d a b false, 0#1 ++ 1#1 ++ ck ++ c ++ 0#15 ++ imm]
  | .vmin p d a b n => [rrr 0x44 p d a b n]
  | .vmax p d a b n => [rrr 0x45 p d a b n]
  | .vabs p d a => [rrf 0x46 p d a 0]
  | .vclz p d a => [rrf 0x46 p d a 1]
  | .vpop p d a => [rrf 0x46 p d a 2]
  | .vbrev p d a => [rrf 0x46 p d a 3]
  | .vmov p d a => [rrf 0x46 p d a 4]
  | .vbcast p d a => [rrf 0x46 p d a 5]
  | .vlane p d => [rrf 0x46 p d 0 6]
  | .vcmp p pd a b bk cc u => [rrr 0x47 p (0#4 ++ pd) a b bk, 0#1 ++ cc.code ++ BitVec.ofBool u ++ 0#27]
  | .vsel p d a b bk gd => [rrr 0x48 p d a b bk, 0#4 ++ gd ++ 0#24]
  | .vmovi p d imm => [i15 0x49 p d 0, imm]
  | .vfadd p d a b n => [rrr 0x4A p d a b n]
  | .vfsub p d a b n => [rrr 0x4B p d a b n]
  | .vfmul p d a b n => [rrr 0x4C p d a b n]
  | .vfma p d a b n => [rrr 0x4D p d a b n]
  | .vfmin p d a b n => [rrr 0x4E p d a b n]
  | .vfmax p d a b n => [rrr 0x4F p d a b n]
  | .vfcmp p pd a b bk cc tot => [rrr 0x50 p (0#4 ++ pd) a b bk, 0#1 ++ cc.code ++ BitVec.ofBool tot ++ 0#27]
  | .vfdiv p d a b n => [rrr 0x51 p d a b n]
  | .vfsqrt p d a => [rrf 0x52 p d a 0]
  | .vrcp p d a => [rrf 0x52 p d a 1]
  | .vrsq p d a => [rrf 0x52 p d a 2]
  | .vlog2 p d a => [rrf 0x52 p d a 3]
  | .vexp2 p d a b bk c ck => [rrr 0x53 p d a b bk, 0#1 ++ c ++ BitVec.ofBool ck ++ 0#23]
  | .vhadd p d a b n => [rrr 0x54 p d a b n]
  | .vhmul p d a b n => [rrr 0x55 p d a b n]
  | .vhfma p d a b n => [rrr 0x56 p d a b n]
  | .vred p d a w ds op => [rrf 0x57 p d a (BitVec.ofBool w ++ BitVec.ofBool ds ++ 0#2 ++ op.code)]
  | .vscan p d a w ex op => [rrf 0x57 p d a (BitVec.ofBool w ++ 1#2 ++ BitVec.ofBool ex ++ op.code)]
  | .vcvt p d a sfmt dfmt mode sat sel => [rrf 0x58 p d a sfmt, 0#1 ++ dfmt ++ mode ++ BitVec.ofBool sat ++ sel ++ 0#16]
  | .vcvtef p d a e dfmt mode sat pd => [rrr 0x59 p d a e false, 0#1 ++ dfmt ++ mode ++ BitVec.ofBool sat ++ pd ++ 0#16]
  | .vpack p d a fmt mode sat => [rrf 0x5A p d a fmt, 0#2 ++ mode ++ BitVec.ofBool sat ++ 0#26]
  | .vunpk p d a fmt => [rrf 0x5A p d a fmt, 1#2 ++ 0#30]
  | .vsclap p d a b n => [rrr 0x5B p d a b n]
  | .vcmprs p d a f fk w mask sc => [rrr 0x5C p d a f fk, 0#1 ++ 0#1 ++ BitVec.ofBool w ++ 0#1 ++ mask ++ sc ++ 0#17]
  | .vexpnd p d a f fk w mask sc => [rrr 0x5C p d a f fk, 0#1 ++ 1#1 ++ BitVec.ofBool w ++ 0#1 ++ mask ++ sc ++ 0#17]
  | .vdecode p d a c te nreg w => [rrr 0x5D p d a c te, 0#1 ++ nreg ++ BitVec.ofBool w ++ 0#23]
  | .vdstat p d => [rrr 0x5D p d 0 0 false, 0#9 ++ 1#2 ++ 0#21]
  | .vdstatClr p d => [rrr 0x5D p d 0 0 false, 0#9 ++ 2#2 ++ 0#21]
  | .oclaim p q k => [rrf 0x60 p (0#5 ++ q) k 0]
  | .orelease p k => [rrf 0x60 p 0 k 1]
  | .oqry p d k => [rrf 0x60 p d k 2]
  | .oload p k a e o dfmt ds tr scw => [rrr 0x61 p k a e false, 0#1 ++ o ++ dfmt ++ BitVec.ofBool ds ++ BitVec.ofBool tr ++ BitVec.ofBool scw ++ 0#13]
  | .ofill p k a fmt fs row woff nreg sc w => [rrf 0x62 p k a fmt, BitVec.ofBool fs ++ row ++ woff ++ nreg ++ BitVec.ofBool sc ++ BitVec.ofBool w ++ 0#12]
  | .mma p d a b fs pi arow w => [rrr 0x63 p d a b false, BitVec.ofBool fs ++ pi ++ arow ++ BitVec.ofBool w ++ 0#17]
  | .mmas p d a b fs pi arow w => [rrr 0x63 p d a b true, BitVec.ofBool fs ++ pi ++ arow ++ BitVec.ofBool w ++ 0#17]
  | .accz p d fs w => [rrf 0x64 p d 0 0, BitVec.ofBool fs ++ 0#15 ++ BitVec.ofBool w ++ 0#15]
  | .accrd p d a fs col nreg w => [rrf 0x64 p d a 0, BitVec.ofBool fs ++ 1#2 ++ col ++ nreg ++ BitVec.ofBool w ++ 0#15]
  | .accwr p d a fs col nreg w => [rrf 0x64 p d a 0, BitVec.ofBool fs ++ 2#2 ++ col ++ nreg ++ BitVec.ofBool w ++ 0#15]
  | .accst p d a fmt fs col mode sat scw row ord scp => [rrf 0x64 p d a fmt, BitVec.ofBool fs ++ 3#2 ++ col ++ mode ++ BitVec.ofBool sat ++ BitVec.ofBool scw ++ row ++ ord ++ scp ++ 0#7]
  | .ocmp p d a b bk fs cc tie tot fmt seg w => [rrr 0x65 p d a b bk, BitVec.ofBool fs ++ cc.code ++ BitVec.ofBool tie ++ BitVec.ofBool tot ++ fmt ++ seg ++ BitVec.ofBool w ++ 0#12]
  | .btcnt p d a fs w => [rrr 0x66 p d a 0 false, BitVec.ofBool fs ++ 0#5 ++ 0#1 ++ 0#7 ++ 0#2 ++ 0#3 ++ BitVec.ofBool w ++ 0#12]
  | .btcolc p d a fs w => [rrr 0x66 p d a 0 false, BitVec.ofBool fs ++ 1#5 ++ 0#1 ++ 0#7 ++ 0#2 ++ 0#3 ++ BitVec.ofBool w ++ 0#12]
  | .btand p d a b fs => [rrr 0x66 p d a b false, BitVec.ofBool fs ++ 2#5 ++ 0#1 ++ 0#7 ++ 0#2 ++ 0#3 ++ 0#1 ++ 0#12]
  | .btor p d a b fs => [rrr 0x66 p d a b false, BitVec.ofBool fs ++ 3#5 ++ 0#1 ++ 0#7 ++ 0#2 ++ 0#3 ++ 0#1 ++ 0#12]
  | .btxor p d a b fs => [rrr 0x66 p d a b false, BitVec.ofBool fs ++ 4#5 ++ 0#1 ++ 0#7 ++ 0#2 ++ 0#3 ++ 0#1 ++ 0#12]
  | .btnot p d a fs => [rrr 0x66 p d a 0 false, BitVec.ofBool fs ++ 5#5 ++ 0#1 ++ 0#7 ++ 0#2 ++ 0#3 ++ 0#1 ++ 0#12]
  | .btt p d a fs => [rrr 0x66 p d a 0 false, BitVec.ofBool fs ++ 6#5 ++ 0#1 ++ 0#7 ++ 0#2 ++ 0#3 ++ 0#1 ++ 0#12]
  | .btcomp p d a b fs => [rrr 0x66 p d a b false, BitVec.ofBool fs ++ 7#5 ++ 0#1 ++ 0#7 ++ 0#2 ++ 0#3 ++ 0#1 ++ 0#12]
  | .btclos p d a x fs => [rrr 0x66 p d a 0 false, BitVec.ofBool fs ++ 8#5 ++ 0#1 ++ x ++ 0#2 ++ 0#3 ++ 0#1 ++ 0#12]
  | .bteye p d fs => [rrr 0x66 p d 0 0 false, BitVec.ofBool fs ++ 9#5 ++ 0#1 ++ 0#7 ++ 0#2 ++ 0#3 ++ 0#1 ++ 0#12]
  | .btfirst p d a fs w => [rrr 0x66 p d a 0 false, BitVec.ofBool fs ++ 10#5 ++ 0#1 ++ 0#7 ++ 0#2 ++ 0#3 ++ BitVec.ofBool w ++ 0#12]
  | .btrowRd p d a fs w => [rrr 0x66 p d a 0 false, BitVec.ofBool fs ++ 11#5 ++ 0#1 ++ 0#7 ++ 0#2 ++ 0#3 ++ BitVec.ofBool w ++ 0#12]
  | .btrowWr p d a fs w => [rrr 0x66 p d a 0 false, BitVec.ofBool fs ++ 12#5 ++ 0#1 ++ 0#7 ++ 0#2 ++ 0#3 ++ BitVec.ofBool w ++ 0#12]
  | .btld p d a fs sp ord scp => [rrr 0x66 p d a 0 false, BitVec.ofBool fs ++ 13#5 ++ BitVec.ofBool sp ++ 0#7 ++ ord ++ scp ++ 0#1 ++ 0#12]
  | .btst p d a fs sp ord scp => [rrr 0x66 p d a 0 false, BitVec.ofBool fs ++ 14#5 ++ BitVec.ofBool sp ++ 0#7 ++ ord ++ scp ++ 0#1 ++ 0#12]
  | .trap p code => [rrf 0x68 p (code.extractLsb' 7 7) (code.extractLsb' 0 7) 0]
  | .tret p => [rrf 0x68 p 0 0 1]
  | .tretKill p => [rrf 0x68 p 0 0 2]
  | .tretIgn p => [rrf 0x68 p 0 0 3]
  | .trd p d r => [rrf 0x68 p d r 4]
  | .twr p r a => [rrf 0x68 p r a 5]
  | .flash p a => [rrf 0x69 p 0 a 0]
  | .flashNone p => [rrf 0x69 p 0 0 1]
  | .dbgbrk p code => [rrf 0x6A p (code.extractLsb' 7 7) (code.extractLsb' 0 7) 0]
  | .dmbw p i a => [rrf 0x6A p (0#4 ++ i) a 1]
  | .dmbwPost p i a => [rrf 0x6A p (0#4 ++ i) a 2]
  | .dmbr p d i => [rrf 0x6A p d i 3]
  | .cntrd p d n => [rrf 0x6B p d n 0]
  | .tsrd p d => [rrf 0x6B p d 0 1]
  | .tickrd p d => [rrf 0x6B p d 0 2]
  | .featq p d n => [rrf 0x6B p d n 3]
  | .nop p => [rrf 0x6C p 0 0 0]
  | .extensionOneWord w => [w]
  | .extensionLong w x => [w, x]
  | .illegalEncoding w => [w]
  | .clauseHeader w => [w]
  | .bknop => words64 (0#56 ++ 0x00#8)
  | .bkcfg wf xf ws gw gs go => words64 (0#30 ++ go ++ gs ++ gw ++ BitVec.ofBool ws ++ xf ++ wf ++ 0x01#8)
  | .bkldv gx len boff => words64 (0#16 ++ boff ++ len ++ 0#5 ++ gx ++ 0x02#8)
  | .bkmac a xoff n => words64 (0#16 ++ n ++ xoff ++ 0#5 ++ a ++ 0x03#8)
  | .bkscl a f => words64 (f ++ 0#21 ++ a ++ 0x04#8)
  | .bksum a b => words64 (0#49 ++ b ++ 0#1 ++ a ++ 0x05#8)
  | .bkst a n => words64 (0#48 ++ n ++ 0#1 ++ a ++ 0x06#8)
  | .bkloop c set v => words64 (v ++ 0#15 ++ BitVec.ofBool set ++ 0#6 ++ c ++ 0x07#8)
  | .bkwait => words64 (0#56 ++ 0x08#8)
  | .bkend => words64 (0#56 ++ 0x09#8)
  | .finbyNop len arg => cmdWord arg len 0x00 :: List.replicate (4 * len.toNat - 1) 0
  | .launch num desc par rec x y z =>
    cmdWord (0#8 ++ num) 3 0x01 :: 0 :: (words64 desc ++ words64 par ++ words64 rec ++ [x, y, z, 0])
  | .launchi num desc par rec grid =>
    cmdWord (0#8 ++ num) 3 0x02 :: 0 :: (words64 desc ++ words64 par ++ words64 rec ++ words64 grid ++ [0, 0])
  | .edge src dst => [cmdWord (dst ++ src) 1 0x03, 0, 0, 0]
  | .gbegin rec => cmdWord 0 1 0x04 :: 0 :: words64 rec
  | .gend => [cmdWord 0 1 0x05, 0, 0, 0]
  | .pbegin rec => cmdWord 0 1 0x06 :: 0 :: words64 rec
  | .pend => [cmdWord 0 1 0x07, 0, 0, 0]
  | .loop count target => cmdWord 0 2 0x08 :: count :: (words64 target ++ [0, 0, 0, 0])
  | .waitmem c value addr mask timeout =>
    cmdWord (0#13 ++ c) 2 0x09 :: value :: (words64 addr ++ [mask, timeout, 0, 0])
  | .cond c value addr mask els =>
    cmdWord (0#13 ++ c) 2 0x0A :: value :: (words64 addr ++ [mask, 0] ++ words64 els)
  | .waitctr rec => cmdWord 0 1 0x0B :: 0 :: words64 rec
  | .finbyFence scope => [cmdWord (0#13 ++ scope) 1 0x0C, 0, 0, 0]
  | .cancel rec => cmdWord 0 1 0x0D :: 0 :: words64 rec
  | .signal intr vector addr value =>
    cmdWord (vector ++ 0#7 ++ BitVec.ofBool intr) 2 0x0E :: 0 :: (words64 addr ++ words64 value ++ [0, 0])
  | .link next => cmdWord 0 1 0x0F :: 0 :: words64 next
  | .endStream => [cmdWord 0 1 0x10, 0, 0, 0]
  | _ => []

/-- Decodes one instruction from its first word and the word after it (used only by a LONG major): the
fields are read, their limits checked, and every bit that no field covers must be zero, which re-encoding
decides (R111). -/
def decode (w x : Word) : Except Reject Instr :=
  if majorClass (fOP w).toNat = none ∧ (fOP w).toNat < 0x70 then .error .illegalMajor
  else
    match decodeFields w x with
    | none => .error .noVariant
    | some i =>
      if i.fieldsOk ∧ encode i = (if isLongMajor (fOP w).toNat then [w, x] else [w]) then .ok i
      else .error .illegalField

/-- Four bytes in ascending address order as a word (R3). -/
def wordOfBytes (b0 b1 b2 b3 : Byte) : Word := b3 ++ b2 ++ b1 ++ b0

/-- Decodes the instruction at the head of a byte sequence and answers the bytes after it. -/
def decodeBytes : List Byte → Except Reject (Instr × List Byte)
  | b0 :: b1 :: b2 :: b3 :: rest =>
    let w := wordOfBytes b0 b1 b2 b3
    if isLongMajor (fOP w).toNat then
      match rest with
      | c0 :: c1 :: c2 :: c3 :: rest' => (decode w (wordOfBytes c0 c1 c2 c3)).map fun i => (i, rest')
      | _ => .error .truncated
    else (decode w 0).map fun i => (i, rest)
  | _ => .error .truncated

/-- The bytes of a word in ascending address order (R3). -/
def bytesOfWord (w : Word) : List Byte :=
  [w.extractLsb' 0 8, w.extractLsb' 8 8, w.extractLsb' 16 8, w.extractLsb' 24 8]

/-- The words of an instruction numbered as the opcode table numbers bits: bit 0 is the least significant bit of the
first word; the extension word of a LONG major, where the table gives it no bits, is zero. -/
def tableWords (nbits w : Nat) : List Word :=
  let v := w % 2 ^ nbits
  let w0 := BitVec.ofNat 32 v
  if isLongMajor (fOP w0).toNat then [w0, BitVec.ofNat 32 (v / 2 ^ 32)] else [w0]

/-- The instruction that the decoder reads from the bytes of such words. -/
def decodeTableWord (nbits w : Nat) : Option Instr :=
  match decodeBytes ((tableWords nbits w).flatMap bytesOfWord) with
  | .ok (i, _) => some i
  | .error _ => none

/-- Decodes a bank word: `none` is an illegal OPC, reserved bit or field value, code 0x08 (R191, R192). -/
def decodeBank (w : Addr) : Option Instr :=
  let i : Option Instr :=
    match (w.extractLsb' 0 8).toNat with
    | 0x00 => some .bknop
    | 0x01 => some (.bkcfg (w.extractLsb' 8 8) (w.extractLsb' 16 8) (w.getLsbD 24) (w.extractLsb' 25 3)
        (w.extractLsb' 28 3) (w.extractLsb' 31 3))
    | 0x02 => some (.bkldv (w.extractLsb' 8 3) (w.extractLsb' 16 16) (w.extractLsb' 32 16))
    | 0x03 => some (.bkmac (w.extractLsb' 8 3) (w.extractLsb' 16 16) (w.extractLsb' 32 16))
    | 0x04 => some (.bkscl (w.extractLsb' 8 3) (w.extractLsb' 32 32))
    | 0x05 => some (.bksum (w.extractLsb' 8 3) (w.extractLsb' 12 3))
    | 0x06 => some (.bkst (w.extractLsb' 8 3) (w.extractLsb' 12 4))
    | 0x07 => some (.bkloop (w.extractLsb' 8 2) (w.getLsbD 16) (w.extractLsb' 32 32))
    | 0x08 => some .bkwait
    | 0x09 => some .bkend
    | _ => none
  i.bind fun j => if encode j = words64 w then some j else none

/-- The name that a command's CMD and LEN select, with the command's words, before its limits are checked. -/
def cmdFields : List Word → Option Instr
  | w :: rest =>
    let arg := w.extractLsb' 16 16
    let len := w.extractLsb' 8 4
    let at64 := fun k => (rest.getD (k + 1) 0) ++ (rest.getD k 0)
    let at32 := fun k => rest.getD k 0
    match (w.extractLsb' 0 8).toNat with
    | 0x00 => some (.finbyNop len arg)
    | 0x01 => some (.launch (arg.extractLsb' 0 8) (at64 1) (at64 3) (at64 5) (at32 7) (at32 8) (at32 9))
    | 0x02 => some (.launchi (arg.extractLsb' 0 8) (at64 1) (at64 3) (at64 5) (at64 7))
    | 0x03 => some (.edge (arg.extractLsb' 0 8) (arg.extractLsb' 8 8))
    | 0x04 => some (.gbegin (at64 1))
    | 0x05 => some .gend
    | 0x06 => some (.pbegin (at64 1))
    | 0x07 => some .pend
    | 0x08 => some (.loop (at32 0) (at64 1))
    | 0x09 => some (.waitmem (arg.extractLsb' 0 3) (at32 0) (at64 1) (at32 3) (at32 4))
    | 0x0A => some (.cond (arg.extractLsb' 0 3) (at32 0) (at64 1) (at32 3) (at64 5))
    | 0x0B => some (.waitctr (at64 1))
    | 0x0C => some (.finbyFence (arg.extractLsb' 0 3))
    | 0x0D => some (.cancel (at64 1))
    | 0x0E => some (.signal (arg.getLsbD 0) (arg.extractLsb' 8 8) (at64 1) (at64 3))
    | 0x0F => some (.link (at64 1))
    | 0x10 => some .endStream
    | _ => none
  | [] => none

/-- The LEN range of a command, in units of 16 bytes (R20). -/
def cmdLenOk (cmd len : Nat) : Bool :=
  match cmd with
  | 0x00 => decide (1 ≤ len ∧ len ≤ 4)
  | 0x01 => decide (len = 3)
  | 0x02 => decide (len = 3)
  | 0x08 => decide (len = 2)
  | 0x09 => decide (len = 2)
  | 0x0A => decide (len = 2)
  | 0x0E => decide (len = 2)
  | _ => decide (len = 1)

/-- The alignments of the addresses that a command names, except a kernel descriptor's, which is checked when
its launch issues (R20). -/
def cmdAligned : Instr → Bool
  | .launch _ _ par rec _ _ _ => decide (par.toNat % 8 = 0 ∧ rec.toNat % 32 = 0)
  | .launchi _ _ par rec grid => decide (par.toNat % 8 = 0 ∧ rec.toNat % 32 = 0 ∧ grid.toNat % 8 = 0)
  | .gbegin rec => decide (rec.toNat % 32 = 0)
  | .pbegin rec => decide (rec.toNat % 32 = 0)
  | .loop _ target => decide (target.toNat % 16 = 0)
  | .waitmem _ _ addr _ _ => decide (addr.toNat % 4 = 0)
  | .cond _ _ addr _ els => decide (addr.toNat % 4 = 0 ∧ els.toNat % 16 = 0)
  | .waitctr rec => decide (rec.toNat % 32 = 0)
  | .cancel rec => decide (rec.toNat % 32 = 0)
  | .signal _ _ addr _ => decide (addr.toNat % 8 = 0)
  | .link next => decide (next.toNat % 64 = 0)
  | _ => true

/-- The limits of a stream command's operands: the LEN of NOP, the scope of FENCE, and the alignments (R20). -/
def commandOk : Instr → Bool
  | .finbyNop len _ => decide (1 ≤ len.toNat ∧ len.toNat ≤ 4)
  | .finbyFence scope => decide (2 ≤ scope.toNat ∧ scope.toNat ≤ 4)
  | i => cmdAligned i

/-- Decodes a stream command from its words; the error is the stream-fault code of R25: 1 an unknown CMD, 2 a
LEN outside the range or a reserved bit nonzero, 3 a misaligned address. -/
def decodeFinby (ws : List Word) : Except Nat Instr :=
  match ws, cmdFields ws with
  | w :: _, some i =>
    if cmdLenOk (w.extractLsb' 0 8).toNat (w.extractLsb' 8 4).toNat then
      match i with
      | .finbyNop _ _ => if w.extractLsb' 12 4 = 0 then .ok i else .error 2
      | .finbyFence scope =>
        if encode i = ws ∧ 2 ≤ scope.toNat ∧ scope.toNat ≤ 4 then .ok i else .error 2
      | _ =>
        if encode i = ws then (if cmdAligned i then .ok i else .error 3)
        else .error 2
    else .error 2
  | _, _ => .error 1

end Sys2Proof
end

