-- ==== Sys2Proof/Machine/State.lean ====
section
/-! DEFINITION. The state of the Perzil 8400 as plain data: every register, queue, table and log that the
manual names, the outcomes' reasons, and the state after package reset. -/

namespace Sys2Proof

/-- An exact value: NaN, a signed infinity, or the dyadic (-1)^neg * m * 2^e, a zero keeping its sign (R7, R79). -/
inductive FVal where
  | nan
  | inf (neg : Bool)
  | fin (neg : Bool) (m : Nat) (e : Int)
  deriving DecidableEq, Repr

end Sys2Proof

namespace Sys2Proof.Machine

/-- A sparse table: keys strictly rising, no entry equal to the table's default. -/
abbrev SMap (β : Type) := List (Nat × β)

/-- Why a step stops with a fault. -/
inductive Fault where
  /-- Raised by an instruction word executed while no strand is focused: the model's own check that an
  instruction has an issuer; step never does this. Safe. -/
  | noIssuer
  /-- Raised by a bank word executed while no bank command is current: the model's own check. Safe. -/
  | noBankProgram
  /-- Raised by a stream command executed while no job is current: the model's own check. Safe. -/
  | noJob
  deriving DecidableEq, Repr

/-- Why a step refuses an instruction. -/
inductive Refusal where
  /-- The instruction of this mnemonic has no meaning yet. Safe. -/
  | notModelled (mnemonic : String)
  deriving DecidableEq, Repr

/-- The causes a strand can take a trap of (R252). -/
inductive Cause where
  | illegalEncoding | emulation | illegalState | illegalRole | illegalOperand | scratchpadBounds | misaligned
  | translationFault | protectionFault | budgetRefusal | memoryPoison | headerFormat | missedPromise
  | registerStarvation | raceDetected | decodeLength | conversionError | software | breakpoint | watchpoint
  | singleStep | cancel
  deriving DecidableEq, Repr

/-- A trap as an instruction raises it: its cause and the values for TMASK, TADDR and TINFO (R250). -/
structure Trap where
  cause : Cause
  mask : Mask
  addr : Addr
  info : Word
  deriving DecidableEq, Repr

/-- A clause under execution: the header's address, the header, and its words as fetched (R95, R193). -/
structure Clause where
  hdr : Addr
  word : Word
  words : List Word
  deriving DecidableEq, Repr

/-- A join-stack entry (R32). -/
structure Join where
  addr : Addr
  rejoin : Mask
  saved : Word
  valid : Bool
  deriving DecidableEq, Repr

/-- What became of a transient result (R105): live in the bypass, expired and not yet reported, or reported
and reading as zero. -/
inductive TransKind where
  | live | expired | zero
  deriving DecidableEq, Repr

/-- A transient result: register (V0-V127 as 0-127, S0-S63 as 128-191), its value per lane (lane 0 for an S
register), and the result-writing instructions issued since (R105). -/
structure Trans where
  reg : Nat
  kind : TransKind
  vals : List (Nat × Word)
  since : Nat
  deriving DecidableEq, Repr

/-- A byte of memory as an access reached it: its canonical address and the key of the translation (R328,
R340), or an offset of the block's scratchpad. -/
structure ByteRef where
  spad : Bool
  addr : Nat
  key : Nat
  deriving DecidableEq, Repr

/-- What keeps a strand's next instruction from being issued, so that it has had no effect yet (R303): a full engine
queue, a busy decoder, operations of its own that the instruction follows (R283, R284), operations that use what it
releases (R156, R228), or a budget, until a period of it begins (R351). -/
inductive Hold where
  | copyQueue
  | bankQueue (ch : Nat)
  | matrixQueue
  | decoder
  | settle
  | follow
  | block (what : Nat)
  | slot (num : Nat)
  | budget (tick : Nat)
  deriving DecidableEq, Repr

/-- Where a strand that does not issue stands (R32, R147, R154, R159, R175, R187, R222, R302, R303, R319, R351). -/
inductive Wait where
  /-- Eligible. -/
  | none
  /-- Eligible, its next instruction held. -/
  | hold (h : Hold)
  /-- SLEEP until a tick. -/
  | sleep (tick : Nat)
  /-- Parked at the join address of the top entry. -/
  | parked
  /-- Parked at REGRP. -/
  | regrp
  /-- BARS, having arrived, or BARW: waiting for a barrier to leave a phase. -/
  | bar (name : Nat) (ph : Bool) (arrived : Bool)
  /-- BARS whose arrival is held behind outstanding operations (R302). -/
  | heldBar (op : Nat)
  /-- JOIN, asleep since a cycle until its counter's bytes, as it saw them, are written or 1,024 cycles pass. -/
  | join (seen : List (ByteRef × Byte)) (cycle : Nat)
  /-- BXWAIT, CRWAIT or CWAIT, issued in a cycle: it looks again when what it waits for may have come about. -/
  | again (cycle : Nat)
  /-- XACQ, its request pending. -/
  | xacq
  /-- VDECODE, decoding from a scratchpad offset, issued in a cycle. -/
  | decode (off cycle : Nat)
  /-- Fault-stalled on a page-fault record, with the mask, address and information of the trap that an answer
  of fail raises. -/
  | fault (rec : Nat) (mask : Mask) (addr : Addr) (info : Word)
  /-- Stopped by a pre-emption (R313). -/
  | stopped
  deriving DecidableEq, Repr

/-- What a strand that has issued BARS knows of its arrival (R175, R302, R376): the phase it arrived in, the operation that
holds it, or that its check failed. -/
inductive BarArr where
  | phase (name : Nat) (ph : Bool)
  | held (name op : Nat)
  | failed (name : Nat)
  deriving DecidableEq, Repr

/-- The words of a loop from its target through its LOOPB word, as a loop buffer holds them (R142, R161). -/
structure Span where
  lo : Addr
  words : List Word
  deriving DecidableEq, Repr

/-- A deferred trap owed at a clause boundary (R249, R254). -/
structure Pending where
  cause : Cause
  mask : Mask
  addr : Addr
  info : Word
  deriving DecidableEq, Repr

/-- What a release leaves with the bytes it writes: whether it is a fence before the write or the write itself, the interval
number it carries, its scope and its party (R286, R299). -/
structure Carry where
  fence : Bool
  j : Nat
  scope : Nat
  gang : Nat
  block : Nat
  die : Nat
  deriving DecidableEq, Repr

/-- The mark state that a flashback mark records, and the group it starts (R259). -/
structure Mark where
  group : Nat
  active : Mask
  joins : List Join
  fmtr : Word
  cvmr : Word
  deriving DecidableEq, Repr

/-- A strand (R32), with its handler registers (R248) and what its instructions have pending; `issued` are the
operations that precede its next one in program order (R295); `owed` is a debug trap that it owes, since the cycle `owedAt`
(R275); `prev` is the cycle of its last issue (R104), `since` the one in which it last became eligible (R304), `opens` the
first in which it may issue (R48); `entered` says that
the checks of its clause's header are made and no word of it has come to issue; `pass` is the loop that it runs from a
buffer (R142); `readBytes`, `wroteBytes` and `readUnits` are the bytes
and the gang storage it has read or written since its mark (R194, R247). -/
structure Strand where
  idx : Nat
  active : Mask
  pc : Addr
  clause : Option Clause
  held : Option Clause
  joins : List Join
  sregs : SMap Word
  qregs : BitVec 4
  fmtr : Word
  cvmr : Word
  dsw : Word
  tcause : Word
  tepc : Addr
  tmask : Mask
  taddr : Addr
  tinfo : Word
  tclh : Addr
  trwpc : Addr
  trcp : Addr
  handler : Bool
  trans : List Trans
  wait : Wait
  barPhase : Option BarArr
  haltedBy : Option Nat
  pending : List Pending
  cancelOwed : Bool
  ignNext : Bool
  raceAt : Option Addr
  uncheckedNext : Bool
  owed : Option Trap
  owedAt : Nat
  mark : Option Mark
  clean : Bool
  written : List Nat
  readBytes : List ByteRef
  wroteBytes : List ByteRef
  readUnits : List Nat
  relFence : List Carry
  seen : List Carry
  issued : List Nat
  prev : Option Nat
  since : Nat
  opens : Nat
  entered : Bool
  pass : Option Span
  deriving DecidableEq, Repr

/-- A pending request for an extended block: 0 V, 1-4 ACC0-ACC3, 5 BT; the strand that waits and the order of
issue (R154). -/
structure XReq where
  what : Nat
  strand : Nat
  order : Nat
  deriving DecidableEq, Repr

/-- A gang (R12, R27, R29), with its per-gang handler registers and its storage. A lane that `srstate` does not list
holds its state at the start of the gang (R83). -/
structure Gang where
  id : Nat
  core : Nat
  vd : Nat
  block : Nat
  gangIndex : Option Nat
  width : Nat
  firstPipe : Nat
  role : Nat
  launch : Nat
  strands : List Strand
  exited : Mask
  vregs : SMap Word
  pregs : SMap Mask
  srstate : SMap (Option Word)
  tvec : Addr
  dbgc : Word
  dbga : SMap Addr
  heldV : Bool
  heldAcc : BitVec 4
  heldBt : Bool
  xreqs : List XReq
  xmax : Nat
  xres : Bool
  acc : SMap Word
  bt : SMap Mask
  handles : SMap Nat
  interval : Nat
  cancelled : Bool
  cancelTick : Nat
  killed : Bool
  permit : Bool
  saved : Bool
  freshSlots : List Nat
  stopRec : Option (List Byte)
  throttled : Option Nat
  deriving DecidableEq, Repr

/-- A named barrier (R175): arrived and expected lanes, phase, the largest interval number that the current
phase's arrivals carry, and that of the last completed phase (R299). -/
structure Bar where
  arrived : Nat
  expect : Nat
  ph : Bool
  carried : Nat
  last : Nat
  deriving DecidableEq, Repr

/-- A chainring (R42): its stage count, and per stage full and phase with the interval number carried (R299). -/
structure Ring where
  stages : Nat
  full : SMap Bool
  phase : SMap Bool
  carried : SMap Nat
  deriving DecidableEq, Repr

/-- A resident or saved block (R28, R45, R175). -/
structure Block where
  id : Nat
  launch : Nat
  index : Nat
  core : Nat
  vd : Nat
  spadBytes : Nat
  isTask : Bool
  scratch : SMap Byte
  bars : SMap Bar
  rings : SMap Ring
  bxCarried : SMap Nat
  carries : SMap (List Carry)
  saved : Bool
  preemptFrom : Option Nat
  deriving DecidableEq, Repr

/-- What an OLOAD has read for its slot and is about to leave in it: data and scale bytes, FTAG and SVAL (R233). -/
structure SlotImage where
  data : SMap Byte
  scales : SMap Byte
  ftag : BitVec 8
  sval : Bool
  deriving DecidableEq, Repr

/-- An operand slot that is bound, or reserved for an OLOAD in flight (R227, R228, R247). Data bytes that are
not listed are 0, scale bytes that are not listed are 127. `planTag` and `planSval` are the values that the
queued operations will leave (R229); `incoming` is what an OLOAD in progress is writing (R233). -/
structure Slot where
  core : Nat
  num : Nat
  gang : Nat
  data : SMap Byte
  scales : SMap Byte
  ftag : BitVec 8
  sval : Bool
  planTag : BitVec 8
  planSval : Bool
  incoming : Option SlotImage
  deriving DecidableEq, Repr

/-- A task record in a core's deque (R43), with what the device keeps of its forker. -/
structure Task where
  core : Nat
  isLocal : Bool
  entry : Addr
  args : List Word
  launch : Nat
  block : Nat
  blockIndex : Nat
  width : Nat
  vd : Nat
  interval : Nat
  deriving DecidableEq, Repr

/-- What a held arrival does when it is applied (R302). -/
inductive HeldKind where
  | bar (name count lanes : Nat) (wait : Bool)
  | bxarr (off : Nat) (bytes : Nat)
  | crfill (ring stage : Nat)
  | crfree (ring stage : Nat)
  deriving DecidableEq, Repr

/-- An operation that is outstanding (R100, R163): what is left of it to perform. -/
inductive OpKind where
  /-- A load: destination V register, size code, and per lane its address and the bytes to read. -/
  | load (d : Nat) (sz : Nat) (lanes : List (Nat × Nat × List ByteRef))
  /-- A store: the bytes to write, in lane order. -/
  | store (bytes : List (ByteRef × Byte))
  /-- An atomic: operation, destination, size code, and per lane its address, the bytes, the operand and the compare
  value. -/
  | atom (op : AtomOp) (d : Nat) (sz : Nat) (lanes : List (Nat × Nat × List ByteRef × Nat × Nat))
  /-- A home-slice step already performed: what is left to write, V registers as (register, lane, value), S
  registers as (register, value), and scratchpad bytes. -/
  | tile (vs : List (Nat × Nat × Word)) (ss : List (Nat × Word)) (bs : List (ByteRef × Byte))
  /-- A held arrival (R302). -/
  | held (k : HeldKind)
  deriving DecidableEq, Repr

/-- An outstanding operation: its gang, strand and block, the operations that were outstanding before it in program order
(R295), the completion flag it is tagged with (R100), the scope at which it is an acquire, what its writes carry as a release, the address of its word,
the lanes at issue and the interval number at issue. -/
structure Op where
  id : Nat
  gang : Nat
  strand : Nat
  before : List Nat
  block : Nat
  flag : Option Nat
  acq : Option Nat
  rel : List Carry
  word : Addr
  mask : Mask
  interval : Nat
  kind : OpKind
  deriving DecidableEq, Repr

/-- An operation of a matrix queue (R229): the instruction, its strand, the lanes, the V and S sources and the conversion modes read
at issue; of one that accesses memory, its bytes, its place in program order and its order (R230). -/
structure MOp where
  id : Nat
  before : List Nat
  acq : Option Nat
  rel : List Carry
  cvmr : Word
  deferred : Bool
  core : Nat
  vd : Nat
  gang : Nat
  strand : Nat
  block : Nat
  flag : Option Nat
  word : Addr
  mask : Mask
  instr : Instr
  vsrc : SMap Word
  ssrc : Addr
  refs : List ByteRef
  started : Bool
  deriving DecidableEq, Repr

/-- One side of a copy, as its descriptor was read at issue (R181), with its index tensor and, of a tiled one, the shape of
its range entry's tiles (R182). -/
structure Side where
  base : Nat
  fmt : BitVec 8
  spad : Bool
  tiled : Bool
  nd : Nat
  pad : Nat
  idx : Bool
  idim : Nat
  sclw : Bool
  rnd : Nat
  sat : Bool
  ftz : Bool
  padv : Word
  ext : List Nat
  str : List Int
  box : List Nat
  iadr : Nat
  index : List Int
  lrows : Nat
  lcols : Nat
  ss : Nat
  deriving DecidableEq, Repr

/-- One step of an edit block (R188). -/
structure EditStep where
  kind : Nat
  arg : Nat
  x : Word
  y : Word
  deriving DecidableEq, Repr

/-- What a copy-engine command does (R183, R188, R233). -/
inductive CopyKind where
  | cpy (promise : Bool) (src dst : Side)
  | hedit (src : Side) (steps : List EditStep)
  | oload (src : Side) (slot : Nat) (dfmt : BitVec 8) (tr scw : Bool) (lane : Nat)
  deriving DecidableEq, Repr

/-- What a copy command holds for a destination tile until it writes the tile: the tile's address, the first element, and
bits and value by place in the tile (R183). -/
structure TileOut where
  va : Nat
  first : Nat
  els : SMap (Option (Nat × FVal))
  deriving DecidableEq, Repr

/-- A command in a core's copy-engine queue (R165, R183): its issuer, its barrier, the origin, the interval number at
issue, the bytes that it arrives and those that it has arrived; its progress: the element or tile it has come to, the
destination tiles or slot elements it holds, the bytes it has written with what stood there at its start; the page-fault
record it waits on with the element that met it, the elements whose
fault was answered fail (R320), whether a budget has deferred it or refuses the unit in progress (R351), whether every element is processed, and the elements
whose remote report is still to come, each with its link (R368, R369). -/
structure CopyCmd where
  id : Nat
  core : Nat
  vd : Nat
  gang : Nat
  block : Nat
  barrier : Nat
  origin : List Int
  interval : Nat
  bytes : Nat
  kind : CopyKind
  arrived : Nat
  pos : Nat
  outs : List TileOut
  wrote : List (ByteRef × Byte)
  waiting : Option (Nat × Nat)
  failed : List Nat
  deferred : Bool
  refused : Bool
  performed : Bool
  remote : List (Nat × Nat)
  deriving DecidableEq, Repr

/-- A transfer that a bank program has started, performed when it completes: a load of bytes into the buffer (address,
buffer offset, length), or a store of accumulators (R191). -/
inductive Xfer where
  | load (va boff len : Nat)
  | store (va : Nat) (vals : List Word)
  deriving DecidableEq, Repr

/-- A bank command of one engine (R189-R192): program, arguments, registers, position, words executed, the 16 KiB buffer,
the transfers outstanding, and whether a budget has deferred its next word (R351). -/
structure BankCmd where
  ch : Nat
  id : Nat
  vd : Nat
  gang : Nat
  block : Nat
  barrier : Nat
  interval : Nat
  started : Bool
  prog : List Addr
  progAddr : Addr
  args : List Addr
  acc : SMap Word
  lc : SMap Word
  wfmt : BitVec 8
  xfmt : BitVec 8
  wscl : Bool
  wbase : Addr
  sbase : Addr
  wp : Nat
  sp : Nat
  op : Nat
  pos : Nat
  steps : Nat
  buffer : SMap Byte
  transfers : List (Nat × Xfer)
  nextTransfer : Nat
  deferred : Bool
  deriving DecidableEq, Repr

/-- What a job's interpreter waits for (R20-R25). -/
inductive JobWait where
  | none
  | mem (c : BitVec 3) (value : Word) (addr : Addr) (mask : Word) (deadline : Option Nat)
  | ctr (addr : Addr)
  | fence (scope : Nat)
  | phase (level : Nat)
  deriving DecidableEq, Repr

/-- A job in a slot (R19-R25): stream position, the base of its segment, LOOP counters by the LOOP's address,
the open phase, the open graph with its declared edges and their commands, what it waits for and whether its stream has ended. -/
structure Job where
  vd : Nat
  slot : Nat
  pc : Addr
  seg : Addr
  loops : List (Addr × Nat)
  level : Nat
  phase : Option Nat
  graph : Option Nat
  inGraph : Bool
  edges : List (Nat × Nat × Addr)
  wait : JobWait
  ended : Bool
  faulted : Bool
  deriving DecidableEq, Repr

/-- The levels that have completion records (R12, R14). -/
inductive LevelKind where
  | launch | graph | phase | job
  deriving DecidableEq, Repr

/-- A work level (R12-R17): its record's address (`none` when the command names none), its record's fields,
its parent, the job it belongs to and its place in stream order. -/
structure Level where
  id : Nat
  kind : LevelKind
  vd : Nat
  slot : Nat
  parent : Option Nat
  record : Option Addr
  state : Nat
  opened : Nat
  done : Nat
  canc : Nat
  tstart : Nat
  tend : Nat
  closed : Bool
  cancelled : Bool
  deriving DecidableEq, Repr

/-- A declared launch (R20, R23, R26, R30): its level, number, addresses, grid, the launches it waits for, the
fields of its kernel descriptor once issued, the unplaced blocks of each die, and its race tag. -/
structure Launch where
  level : Nat
  num : Nat
  desc : Addr
  par : Addr
  grid : List Nat
  gridAddr : Option Addr
  cmd : Addr
  after : List Nat
  issued : Bool
  entry : Addr
  width : Nat
  gangs : Nat
  xmax : Nat
  xres : Bool
  spad : Nat
  roles : Addr
  rings : List Nat
  unplaced : SMap (List Nat)
  tag : Nat
  deriving DecidableEq, Repr

/-- A steal message under way: the thief, the victim, the launch, the tick of its arrival, and the grant once answered (R31,
R51). -/
structure Steal where
  id : Nat
  launch : Nat
  thief : Nat
  victim : Nat
  asked : List Nat
  arrive : Nat
  grant : Option (List Nat)
  deriving DecidableEq, Repr

/-- A page-fault record that is outstanding (R318, R346). -/
structure PfRec where
  id : Nat
  vd : Nat
  page : Nat
  die : Nat
  tick : Nat
  deriving DecidableEq, Repr

/-- A virtual device: its control page (R363), memory block (R335), mailbox (R270), counters (R354), interrupt
log (R356), placement epoch (R186), time (R355), and the tick counter of its placement against this one (R323). -/
structure VDev where
  id : Nat
  part : Nat
  rdone : Bool
  mgr : Bool
  tvecd : Addr
  dbgv : BitVec 8
  pfv : BitVec 8
  tlv : BitVec 8
  tlogb : Addr
  tlogh : Nat
  tlogt : Nat
  tlogo : Nat
  rlogb : Addr
  rlogh : Nat
  rlogt : Nat
  rlogo : Nat
  weights : Word
  tssave : Addr
  killi : SMap Nat
  fvec : SMap Nat
  fword : SMap Addr
  tkey : Nat
  troot : Addr
  rtab : Addr
  rcnt : Nat
  rpf : Bool
  busy : Option Nat
  pfqb : Addr
  pfqh : Nat
  pfqt : Nat
  pfto : Nat
  pfNext : Nat
  outw : SMap Word
  oseq : Word
  inw : SMap Word
  iseq : Word
  counters : SMap Nat
  intr : SMap Nat
  epoch : Nat
  toff : Nat
  tickOff : Nat
  paused : Bool
  resetting : Bool
  deriving DecidableEq, Repr

/-- A budget control word with its counts per die (R350). -/
structure Budget where
  limit : Nat
  refuse : Bool
  en : Bool
  used : SMap Nat
  deriving DecidableEq, Repr

/-- A budget-log record (R352). -/
structure BudgetRec where
  addr : Nat
  k : Nat
  die : Nat
  tick : Nat
  deriving DecidableEq, Repr

/-- A partition (R347) with its control block (R350, R353). -/
structure Part where
  num : Nat
  parent : Option Nat
  res : Resources
  budgets : SMap Budget
  blogh : Nat
  blogt : Nat
  blogo : Nat
  blog : SMap BudgetRec
  firmware : Nat
  switchedAt : Option Nat
  deriving DecidableEq, Repr

/-- The throttle of a core (R307). -/
structure Throttle where
  k : Nat
  lastSignal : Option Nat
  lastStep : Nat
  deriving DecidableEq, Repr

/-- A shadow entry of the race detector (R298). -/
structure Shadow where
  wg : Nat
  wi : Nat
  sc : Nat
  lt : Nat
  deriving DecidableEq, Repr

/-- A fault-address queue entry (R342). -/
structure FaultEntry where
  addr : Nat
  typ : Nat
  count : Nat
  tick : Nat
  deriving DecidableEq, Repr

/-- A range entry's fields (R329). -/
structure RangeEntry where
  base : Nat
  limit : Nat
  offset : Nat
  r : Bool
  w : Bool
  x : Bool
  bv : Bool
  rd : Nat
  lsel : Nat
  tiled : Bool
  tgt1 : Bool
  key : Nat
  pcf : Nat
  pcn : Nat
  pcs : Nat
  hoff : Nat
  poff : Nat
  lrows : Nat
  lcols : Nat
  ew : Nat
  nt : Nat
  deriving DecidableEq, Repr

/-- What a virtual address meets (R330-R332). -/
inductive Look where
  | range (e : RangeEntry)
  | page (va dpa size : Nat) (r w x : Bool) (key : Nat)
  | invalid
  | missing (hold : Bool)
  deriving DecidableEq, Repr

/-- A translation of a device that a lookaside buffer or range cache may still hold (R333). -/
structure Cached where
  vd : Nat
  look : Look
  deriving DecidableEq, Repr

/-- The page of a key a line was written under, with the key's generation (R340). -/
structure LineKey where
  key : Nat
  gen : Nat
  deriving DecidableEq, Repr

/-- A die: its arithmetic clock in steps of 100 MHz, power state and governor budgets in eighths
(R2, R373). -/
structure Die where
  clock : Nat
  power : Nat
  eighths : Nat
  deriving DecidableEq, Repr

/-- A firmware slot: whether its image is valid, and its security version (R370, R374). -/
structure FwSlot where
  valid : Bool
  version : Nat
  deriving DecidableEq, Repr

/-- A fabric window (R369). -/
structure Fabric where
  num : Nat
  base : Nat
  size : Nat
  links : List Nat
  remote : Nat
  deriving DecidableEq, Repr

/-- What the package has shown the outside: a host interrupt, the answer of a load or register read, or a
management answer (R356, R362, R371, R375), and an element sent to another package, one of 4 bits with the half of its byte
that it fills (R369). -/
inductive Output where
  | interrupt (vd vector : Nat)
  | read (vd : Nat) (value : Addr)
  | answer (request : Nat) (bytes : List Byte)
  | faultQueue (stack : Nat) (entries : List FaultEntry) (dropped : Nat)
  | remote (link : Nat) (addr : Nat) (data : List Byte) (half : Option Bool)
  | unsupported (vd : Nat)
  | refusal (what : Nat)
  deriving DecidableEq, Repr

/-- What has happened in the current cycle that later turns of it must respect: a gang's issue (R276), a WAIT passed on a
flag (R101), and the place, in the manual's order, of what was applied to a deque (R49), a named barrier (R176) and a core's
slots (R228). The model's own plain data. -/
inductive CycleMark where
  | issued (gang : Nat)
  | waited (gang flag idx : Nat)
  | deque (core : Nat) (key : List Nat)
  | bar (block name : Nat) (key : List Nat)
  | claim (core : Nat) (key : List Nat)
  deriving DecidableEq, Repr

/-- The grant of a scheduling unit: the device that holds it, and the tick at which its slice ends (R309, R310). -/
structure Grant where
  unit : GrantUnit
  num : Nat
  vd : Nat
  ends : Nat
  deriving DecidableEq, Repr

/-- What moves next: an event of the table, the next word of a strand, the next word of a bank engine, the next command
of a job, or the clocks. The model's own plain data; the order of what the manual leaves unordered is the order of this
list (log entry 1). -/
inductive Turn where
  | event (i : Instr)
  | strand (gang idx : Nat)
  | bank (ch : Nat)
  | job (vd slot : Nat)
  | clock
  deriving DecidableEq, Repr

/-- What the default policy has planned for a cycle: turns of issuers, and events that are due, with their operands
(log entry 2). `word` is the word that a strand issues after its header in one cycle; `wake` and `select` stand for what is
found when they are reached. -/
inductive Due where
  | strand (gang idx : Nat)
  | word (gang idx : Nat)
  | wake
  | select
  | bank (ch : Nat)
  | job (vd slot : Nat)
  | opEnd (op : Nat)
  | sleepWake (gang idx : Nat)
  | deadlockTrap (gang : Nat)
  | xacqGrant (gang : Nat)
  | decodeEnd (gang idx : Nat)
  | copyExecute (core : Nat)
  | heditExecute (core : Nat)
  | oloadExecute (core : Nat)
  | remotePerformed (cmd elem : Nat)
  | matrixOpStart (core : Nat)
  | matrixOpComplete (op : Nat)
  | bankProgramStart (ch : Nat)
  | bankTransferComplete (ch i : Nat)
  | bankStepLimit (ch : Nat)
  | throttleRecovery (core : Nat)
  | grantSliceExpiry (u : GrantUnit) (n : Nat)
  | preemptRunonEnd (block : Nat)
  | blockResume (block core : Nat)
  | faultTimeout (vd rec : Nat)
  | tlbInvalidationDone (vd : Nat)
  | rst (vd : Nat)
  | pageClear (page : Nat)
  | interruptDelivery (vd : Nat)
  | budgetPeriod
  | governorPeriod
  | patrolScrub
  | launchIssue (level : Nat)
  | levelDone (level : Nat)
  | killIntervalExpiry (gang : Nat)
  | blockAdmit (level die : Nat)
  | taskTake (core : Nat)
  | taskSteal (core : Nat)
  | stealMessage (n : Nat)
  | stealReply (n : Nat)
  | waitmemTimeout (vd slot : Nat)
  deriving DecidableEq, Repr

/-- The state of the package. -/
structure State where
  tick : Nat
  cycle : Nat
  powered : Bool
  agenda : List Turn
  dueNow : List Due
  issuedNow : List (Nat × Nat)
  cycleMarks : List CycleMark
  pipesBusy : SMap Nat
  loopBufs : SMap (Option Span)
  focused : Bool
  g : Gang
  t : Strand
  gangs : List Gang
  blocks : List Block
  slots : List Slot
  deque : List Task
  ops : List Op
  mops : List MOp
  copies : List CopyCmd
  banks : List BankCmd
  curBank : Option Nat
  jobs : List Job
  curJob : Option (Nat × Nat)
  levels : List Level
  launches : List Launch
  steals : List Steal
  pfrecs : List PfRec
  vdevs : List VDev
  parts : List Part
  throttles : SMap Throttle
  grants : List Grant
  mem : List Host.Cell
  lineKey : SMap LineKey
  keyGen : SMap Nat
  keyMat : SMap (Option Nat)
  cached : List Cached
  softErrors : SMap Nat
  strikes : List (List (Nat × Nat))
  poison : List Nat
  ueCount : SMap Nat
  shadow : SMap Shadow
  carries : SMap (List Carry)
  faultQ : SMap (List FaultEntry)
  faultOver : SMap Nat
  badList : List Nat
  badPages : List Nat
  pendingClear : SMap (List Nat)
  dies : SMap Die
  governorLow : Nat
  budgetAt : Nat
  governorAt : Nat
  governorUsed : SMap Nat
  coreSpares : SMap Nat
  dqSpares : SMap Nat
  linkSpares : SMap Nat
  replays : SMap Nat
  linksDown : List Nat
  cxlDown : List Nat
  fabric : List Fabric
  fwA : FwSlot
  fwB : FwSlot
  fwActive : Nat
  outbox : List Output
  nextId : Nat
  freeCount : Nat
  deriving DecidableEq, Repr

/-- A strand before it starts (R29, R32): every field at the value of the start of a gang. -/
def Strand.init : Strand :=
  { idx := 0, active := 0, pc := 0, clause := none, held := none, joins := [], sregs := [], qregs := 0,
    fmtr := 1, cvmr := 0, dsw := 0, tcause := 0, tepc := 0, tmask := 0, taddr := 0, tinfo := 0, tclh := 0,
    trwpc := 0, trcp := 0, handler := false, trans := [], wait := .none, barPhase := none, haltedBy := none,
    pending := [], cancelOwed := false, ignNext := false, raceAt := none, uncheckedNext := false, owed := none, owedAt := 0,
    mark := none, clean := false, written := [], readBytes := [], wroteBytes := [],
    readUnits := [], relFence := [], seen := [], issued := [], prev := none, since := 0, opens := 0,
    entered := false, pass := none }

/-- A gang before it starts (R29, R227, R231, R241, R248, R299). -/
def Gang.init : Gang :=
  { id := 0, core := 0, vd := 0, block := 0, gangIndex := none, width := 16, firstPipe := 0, role := 0,
    launch := 0, strands := [], exited := 0, vregs := [], pregs := [], srstate := [], tvec := 0, dbgc := 0,
    dbga := [], heldV := false, heldAcc := 0, heldBt := false, xreqs := [], xmax := 0, xres := false, acc := [],
    bt := [], handles := [], interval := 1, cancelled := false, cancelTick := 0, killed := false,
    permit := false, saved := false, freshSlots := [], stopRec := none, throttled := none }

/-- A virtual device after its reset: every field of its control page, memory block and mailbox at its After
reset value (R270, R335, R363). -/
def VDev.init : VDev :=
  { id := 0, part := 0, rdone := true, mgr := false, tvecd := 0, dbgv := 0, pfv := 0, tlv := 0, tlogb := 0,
    tlogh := 0, tlogt := 0, tlogo := 0, rlogb := 0, rlogh := 0, rlogt := 0, rlogo := 0, weights := 0x80808080,
    tssave := 0, killi := [], fvec := [], fword := [], tkey := 0, troot := 0, rtab := 0, rcnt := 0, rpf := false,
    busy := none, pfqb := 0, pfqh := 0, pfqt := 0, pfto := 10000, pfNext := 0, outw := [], oseq := 0, inw := [],
    iseq := 0, counters := [], intr := [], epoch := 0, toff := 0, tickOff := 0, paused := false, resetting := false }

/-- The package right after reset: nothing is powered up yet (R372), every register at its After reset value,
memory with nothing listed. The values that the manual does not state are those of the assumption log. -/
def State.reset : State :=
  { tick := 0, cycle := 0, powered := false, agenda := [], dueNow := [], issuedNow := [], cycleMarks := [],
    pipesBusy := [], loopBufs := [], focused := false, g := Gang.init,
    t := Strand.init, gangs := [], blocks := [], slots := [], deque := [], ops := [], mops := [], copies := [],
    banks := [], curBank := none, jobs := [], curJob := none, levels := [], launches := [], steals := [],
    pfrecs := [], vdevs := [], parts := [], throttles := [], grants := [], mem := [], lineKey := [],
    keyGen := [], keyMat := [], cached := [], softErrors := [], strikes := [], poison := [], ueCount := [], shadow := [], carries := [], faultQ := [], faultOver := [], badList := [], badPages := [],
    pendingClear := [], dies := [], governorLow := 0, budgetAt := 0, governorAt := 0, governorUsed := [], coreSpares := [], dqSpares := [], linkSpares := [],
    replays := [], linksDown := [], cxlDown := [], fabric := [], fwA := ⟨true, 0⟩, fwB := ⟨true, 0⟩,
    fwActive := 0, outbox := [], nextId := 0, freeCount := 0 }

end Sys2Proof.Machine
end

