-- ==== Sys2Proof/Machine/Num.lean ====
section
/-! DEFINITION. Number formats and arithmetic (R77-R94): exact values, the value of an encoding, rounding,
`convert`, the FP32 and packed 16-bit operations, the correctly rounded functions, and the narrow sum. -/

namespace Sys2Proof

/-- 2 to an integer power applied to a natural: exact when `k` is not negative, rounded down otherwise. -/
def scaleNat (m : Nat) (k : Int) : Nat :=
  match k with
  | .ofNat n => m * 2 ^ n
  | .negSucc n => m / 2 ^ (n + 1)

/-- The integer floor(log2 (m * 2^e)) of a positive dyadic. -/
def ilog2 (m : Nat) (e : Int) : Int := (Nat.log2 m : Int) + e

/-- Compares two nonnegative dyadics. -/
def cmpMag (m1 : Nat) (e1 : Int) (m2 : Nat) (e2 : Int) : Ordering :=
  let e := min e1 e2
  compare (scaleNat m1 (e1 - e)) (scaleNat m2 (e2 - e))

/-- +0. -/
def FVal.zero : FVal := .fin false 0 0

/-- The integer `n` as a value. -/
def FVal.ofInt (n : Int) : FVal := .fin (decide (n < 0)) n.natAbs 0

/-- Negation. -/
def FVal.neg : FVal → FVal
  | .nan => .nan
  | .inf s => .inf (!s)
  | .fin s m e => .fin (!s) m e

/-- Whether a value is NaN. -/
def FVal.isNan : FVal → Bool
  | .nan => true
  | _ => false

/-- Whether a value is finite. -/
def FVal.isFin : FVal → Bool
  | .fin _ _ _ => true
  | _ => false

/-- Whether a value is a zero of either sign. -/
def FVal.isZero : FVal → Bool
  | .fin _ m _ => m == 0
  | _ => false

/-- Exact sum; an exact zero sum is +0 unless both operands are -0, and opposite infinities give NaN (R60, R89). -/
def FVal.add : FVal → FVal → FVal
  | .nan, _ => .nan
  | _, .nan => .nan
  | .inf s, .inf t => if s = t then .inf s else .nan
  | .inf s, _ => .inf s
  | _, .inf t => .inf t
  | .fin s m e, .fin t n f =>
    if m = 0 ∧ n = 0 then .fin (s && t) 0 0
    else if m = 0 then .fin t n f
    else if n = 0 then .fin s m e
    else
      let g := min e f
      let a := scaleNat m (e - g)
      let b := scaleNat n (f - g)
      if s = t then .fin s (a + b) g
      else if a = b then .fin false 0 0
      else if b < a then .fin s (a - b) g
      else .fin t (b - a) g

/-- Exact product; 0 times infinity is NaN (R89, R94). -/
def FVal.mul : FVal → FVal → FVal
  | .nan, _ => .nan
  | _, .nan => .nan
  | .inf s, .inf t => .inf (s != t)
  | .inf s, .fin t n _ => if n = 0 then .nan else .inf (s != t)
  | .fin s m _, .inf t => if m = 0 then .nan else .inf (s != t)
  | .fin s m e, .fin t n f => .fin (s != t) (m * n) (e + f)

/-- Multiplies by 2^k exactly. -/
def FVal.scale (x : FVal) (k : Int) : FVal :=
  match x with
  | .fin s m e => .fin s m (e + k)
  | y => y

/-- The numeric order of two values, -0 equal to +0; `none` when one is NaN (R204). -/
def FVal.cmp : FVal → FVal → Option Ordering
  | .nan, _ => none
  | _, .nan => none
  | .inf s, .inf t => some (if s = t then .eq else if s then .lt else .gt)
  | .inf s, _ => some (if s then .lt else .gt)
  | _, .inf t => some (if t then .gt else .lt)
  | .fin s m e, .fin t n f =>
    if m = 0 ∧ n = 0 then some .eq
    else if m = 0 then some (if t then .gt else .lt)
    else if n = 0 then some (if s then .lt else .gt)
    else if s = t then
      some (if s then cmpMag n f m e else cmpMag m e n f)
    else some (if s then .lt else .gt)

/-- The exponent bias of a floating format (R79, R81); 0 for an integer format. -/
def Fmt.bias : Fmt → Nat
  | .ieee eb _ => 2 ^ (eb - 1) - 1
  | .fam K p _ _ => 2 ^ (K - 1 - p)
  | _ => 0

/-- The fraction bits m(f) (R82). -/
def Fmt.fbits : Fmt → Nat
  | .ieee _ fb => fb
  | .fam _ p _ _ => p - 1
  | _ => 0

/-- Whether a format holds no negative values (R80, R81). -/
def Fmt.unsigned : Fmt → Bool
  | .uint _ => true
  | .fam _ _ s _ => !s
  | _ => false

/-- Whether a format has infinities (R79, R81). -/
def Fmt.hasInf : Fmt → Bool
  | .ieee _ _ => true
  | .fam _ _ _ e => e
  | _ => false

/-- emin(f) = 1 - bias (R82). -/
def Fmt.emin (f : Fmt) : Int := 1 - (Fmt.bias f : Int)

/-- The body (exponent and fraction without the sign) of the largest finite value (R79, R81). -/
def Fmt.maxBody : Fmt → Nat
  | .ieee eb fb => (2 ^ eb - 1) * 2 ^ fb - 1
  | .sint w => 2 ^ (w - 1) - 1
  | .uint w => 2 ^ w - 1
  | .fam K _ s e =>
    let top := if s then 2 ^ (K - 1) - 1 else 2 ^ K - 2
    if e then top - 1 else top

/-- The magnitude of a body: its exponent and fraction fields read by the format (R79, R81). -/
def Fmt.bodyMag (f : Fmt) (body : Nat) : Nat × Int :=
  let m := Fmt.fbits f
  let E := body / 2 ^ m
  let F := body % 2 ^ m
  if E = 0 then (F, Fmt.emin f - m)
  else (2 ^ m + F, (E : Int) - Fmt.bias f - m)

/-- The exact value of the bits of an element in format f (R79-R81). -/
def fmtValue (f : Fmt) (bits : Nat) : FVal :=
  match f with
  | .sint w =>
    let b := bits % 2 ^ w
    if b < 2 ^ (w - 1) then .fin false b 0 else .fin true (2 ^ w - b) 0
  | .uint w => .fin false (bits % 2 ^ w) 0
  | .ieee eb fb =>
    let neg := decide (bits / 2 ^ (eb + fb) % 2 = 1)
    let body := bits % 2 ^ (eb + fb)
    if body / 2 ^ fb = 2 ^ eb - 1 then (if body % 2 ^ fb = 0 then .inf neg else .nan)
    else
      let me := Fmt.bodyMag f body
      .fin neg me.1 me.2
  | .fam K _ s e =>
    let c := bits % 2 ^ K
    if s then
      if c = 2 ^ (K - 1) then .nan
      else
        let neg := decide (2 ^ (K - 1) ≤ c)
        let body := c % 2 ^ (K - 1)
        if e ∧ body = 2 ^ (K - 1) - 1 then .inf neg
        else
          let me := Fmt.bodyMag f body
          .fin neg me.1 me.2
    else if c = 2 ^ K - 1 then .nan
    else if e ∧ c = 2 ^ K - 2 then .inf false
    else
      let me := Fmt.bodyMag f c
      .fin false me.1 me.2

/-- The rounding modes, numbered as they are encoded (R82). -/
inductive RMode where
  | rne | rtz | rup | rdn | sr
  deriving DecidableEq, Repr

/-- The mode a field names; 5-7 name none (R82). -/
def rmodeOf (c : BitVec 3) : Option RMode :=
  match c.toNat with
  | 0 => some .rne | 1 => some .rtz | 2 => some .rup | 3 => some .rdn | 4 => some .sr | _ => none

/-- The exponent of the grid spacing at a positive magnitude (R82). -/
def gridExp (f : Fmt) (m : Nat) (e : Int) : Int :=
  if f.isInt then 0 else max (ilog2 m e) (Fmt.emin f) - Fmt.fbits f

/-- Rounds a positive magnitude to the grid: the result is the answer times 2^gridExp (R82). -/
def roundMag (f : Fmt) (neg : Bool) (m : Nat) (e : Int) (mode : RMode) (r : Nat) : Nat :=
  let g := gridExp f m e
  match g - e with
  | .negSucc n => m * 2 ^ (n + 1)
  | .ofNat k =>
    let lo := m / 2 ^ k
    let rem := m % 2 ^ k
    if rem = 0 then lo
    else
      match mode with
      | .rne =>
        if 2 * rem < 2 ^ k then lo
        else if 2 * rem = 2 ^ k then (if lo % 2 = 0 then lo else lo + 1)
        else lo + 1
      | .rtz => lo
      | .rup => if neg then lo else lo + 1
      | .rdn => if neg then lo + 1 else lo
      | .sr => if rem * 65536 / 2 ^ k + r ≥ 65536 then lo + 1 else lo

/-- The body of a magnitude `k * 2^g` that lies on the grid of a floating format. -/
def bodyOf (f : Fmt) (k : Nat) (g : Int) : Nat :=
  let m := Fmt.fbits f
  if k = 0 then 0
  else
    let fl := ilog2 k g
    if fl < Fmt.emin f then scaleNat k (g - (Fmt.emin f - m))
    else (fl + Fmt.bias f).toNat * 2 ^ m + (scaleNat k (g - (fl - m)) - 2 ^ m)

/-- The sign bit of a format: set for a negative value of a signed format. -/
def signBit (f : Fmt) (neg : Bool) : Nat := if neg then 2 ^ (Fmt.width f - 1) else 0

/-- The encoding of a signed magnitude body; a negative zero is kept only in the IEEE formats (R81, R84). -/
def packBody (f : Fmt) (neg : Bool) (body : Nat) : Nat :=
  match f with
  | .ieee _ _ => signBit f neg + body
  | .fam _ _ _ _ => if body = 0 then 0 else signBit f neg + body
  | .sint w => if neg then (2 ^ w - body) % 2 ^ w else body
  | .uint _ => body

/-- The canonical NaN (R79, R81). -/
def canonNan : Fmt → Nat
  | .ieee eb fb => (2 ^ eb - 1) * 2 ^ fb + 2 ^ (fb - 1)
  | .fam K _ s _ => if s then 2 ^ (K - 1) else 2 ^ K - 1
  | _ => 0

/-- The infinity of a format that has infinities (R79, R81). -/
def infBits (f : Fmt) (neg : Bool) : Nat := signBit f neg + (Fmt.maxBody f + 1)

/-- The extreme finite value with a sign; of a signed integer format the negative extreme is -2^(w-1) (R84). -/
def extremeBits (f : Fmt) (neg : Bool) : Nat :=
  match f with
  | .sint w => if neg then 2 ^ (w - 1) else 2 ^ (w - 1) - 1
  | _ => packBody f neg (Fmt.maxBody f)

/-- The largest finite magnitude of a format. -/
def maxMag (f : Fmt) : Nat × Int :=
  if f.isInt then (Fmt.maxBody f, 0) else Fmt.bodyMag f (Fmt.maxBody f)

/-- What a conversion does with a value beyond the format's range: SATF or OVI (R84). -/
inductive Sat where
  | satf | ovi
  deriving DecidableEq, Repr

/-- `convert` (R84): the bits and the event code (0 none, 1 range, 2 flush). `r` is the SR draw. -/
def convert (x : FVal) (f : Fmt) (mode : RMode) (sat : Sat) (ftz : Bool) (r : Nat) : Nat × Nat :=
  match x with
  | .nan => if f.isInt then (0, 1) else (canonNan f, 0)
  | .inf neg =>
    if f.unsigned ∧ neg then
      if sat = .satf ∨ f.isInt then (0, 1) else (canonNan f, 1)
    else if f.hasInf then (infBits f neg, 0)
    else if sat = .satf ∨ f.isInt then (extremeBits f neg, 1)
    else (canonNan f, 1)
  | .fin neg m e =>
    if m = 0 then (packBody f neg 0, 0)
    else
      let g := gridExp f m e
      let k := roundMag f neg m e mode r
      let mx := maxMag f
      if f.unsigned ∧ neg ∧ k ≠ 0 then
        if sat = .satf ∨ f.isInt then (0, 1) else (canonNan f, 1)
      else if cmpMag k g mx.1 mx.2 = .gt then
        if sat = .satf ∨ f.isInt then (extremeBits f neg, 1)
        else if f.hasInf then (infBits f neg, 1)
        else (canonNan f, 1)
      else if ftz ∧ f.isInt = false ∧ k ≠ 0 ∧ cmpMag k g 1 (Fmt.emin f) = .lt then (packBody f neg 0, 2)
      else if f.isInt then (packBody f neg k, 0)
      else (packBody f neg (bodyOf f k g), 0)

/-- The format f32. -/
def f32 : Fmt := .ieee 8 23

/-- The value of FP32 bits. -/
def val32 (w : Word) : FVal := fmtValue f32 w.toNat

/-- `round32` (R60): nearest even onto FP32, overflow to infinity, NaN canonical. -/
def round32 (x : FVal) : Word := BitVec.ofNat 32 (convert x f32 .rne .ovi false 0).1

/-- The canonical FP32 NaN (R79). -/
def nan32 : Word := 0x7FC00000#32

/-- xorshift32, the stochastic-rounding stream (R83). -/
def nextSr (x : Word) : Word :=
  let y := x ^^^ (x <<< 13)
  let z := y ^^^ (y >>> 17)
  z ^^^ (z <<< 5)

/-- `seed_lane` (R83). -/
def seedLane (s : Word) (l : Nat) : Word :=
  let v := s ^^^ (0x9E3779B9#32 * BitVec.ofNat 32 (l + 1))
  if v = 0 then 1 else v

/-- FP32 addition (R206). -/
def fadd32 (a b : Word) : Word := round32 ((val32 a).add (val32 b))
/-- FP32 subtraction (R206). -/
def fsub32 (a b : Word) : Word := round32 ((val32 a).add (val32 b).neg)
/-- FP32 multiplication (R206). -/
def fmul32 (a b : Word) : Word := round32 ((val32 a).mul (val32 b))
/-- FP32 fused multiply-add, one rounding (R206). -/
def fma32 (a b c : Word) : Word := round32 (((val32 a).mul (val32 b)).add (val32 c))

/-- `fmin` and `fmax` (R206): the lesser or greater with -0 below +0, a NaN giving way to a number. -/
def fminmax32 (greater : Bool) (a b : Word) : Word :=
  let x := val32 a
  let y := val32 b
  match x.isNan, y.isNan with
  | true, true => nan32
  | true, false => b
  | false, true => a
  | false, false =>
    let aLess : Bool :=
      match x.cmp y with
      | some .lt => true
      | some .gt => false
      | _ => a.msb || !b.msb
    if greater then (if aLess then b else a) else (if aLess then a else b)

/-- The integer square root, by trial bits from `2^(i-1)` down. -/
def isqrtAux (n : Nat) : Nat → Nat → Nat
  | 0, r => r
  | i + 1, r => isqrtAux n i (if (r + 2 ^ i) * (r + 2 ^ i) ≤ n then r + 2 ^ i else r)

/-- The integer square root. -/
def isqrt (n : Nat) : Nat := isqrtAux n (Nat.log2 n / 2 + 1) 0

/-- A positive magnitude `q * 2^e`, `q` rounded down and `exact` telling whether anything was lost: the lost
part is kept as one bit below, enough for rounding to nearest even of a `q` wider than the format. -/
def sticky (neg : Bool) (q : Nat) (e : Int) (exact : Bool) : FVal :=
  .fin neg (2 * q + (if exact then 0 else 1)) (e - 1)

/-- FP32 division, correctly rounded (R91). -/
def fdivVal : FVal → FVal → FVal
  | .nan, _ => .nan
  | _, .nan => .nan
  | .inf _, .inf _ => .nan
  | .inf s, .fin t _ _ => .inf (s != t)
  | .fin s _ _, .inf t => .fin (s != t) 0 0
  | .fin s m e, .fin t n f =>
    if m = 0 ∧ n = 0 then .nan
    else if n = 0 then .inf (s != t)
    else if m = 0 then .fin (s != t) 0 0
    else
      let sh := 64 + Nat.log2 n
      let q := m * 2 ^ sh / n
      sticky (s != t) q (e - f - sh) (decide (q * n = m * 2 ^ sh))

/-- VFDIV (R206). -/
def fdiv32 (a b : Word) : Word := round32 (fdivVal (val32 a) (val32 b))
/-- VRCP (R207). -/
def frcp32 (a : Word) : Word := round32 (fdivVal (.fin false 1 0) (val32 a))

/-- VFSQRT (R91): of -0 it is -0, of any negative value NaN. -/
def fsqrt32 (a : Word) : Word :=
  match val32 a with
  | .nan => nan32
  | .inf s => if s then nan32 else a
  | .fin s m e =>
    if m = 0 then a
    else if s then nan32
    else
      let m' := if e % 2 = 0 then m else 2 * m
      let e' := if e % 2 = 0 then e else e - 1
      let n := m' * 2 ^ 64
      let q := isqrt n
      round32 (sticky false q (e' / 2 - 32) (decide (q * q = n)))

/-- VRSQ (R91). -/
def frsq32 (a : Word) : Word :=
  match val32 a with
  | .nan => nan32
  | .inf s => if s then nan32 else 0
  | .fin s m e =>
    if m = 0 then round32 (.inf s)
    else if s then nan32
    else
      let m' := if e % 2 = 0 then m else 2 * m
      let e' := if e % 2 = 0 then e else e - 1
      let q := isqrt (2 ^ 128 / m')
      round32 (sticky false q (-(e' / 2) - 64) (decide (q * q * m' = 2 ^ 128)))

/-- Lower and upper bounds, scaled by 2^P, of 2^(2^-1), 2^(2^-2), … (`n` of them). -/
def rootTable (P : Nat) : Nat → Nat → Nat → List (Nat × Nat)
  | 0, _, _ => []
  | n + 1, lo, hi =>
    let lo' := isqrt (lo * 2 ^ P)
    let hi' := isqrt (hi * 2 ^ P) + 1
    (lo', hi') :: rootTable P n lo' hi'

/-- Bounds, scaled by 2^P, of 2 to the binary fraction whose bits are the low `n` bits of `frac`, the highest
first. -/
def exp2Prod (P frac : Nat) : Nat → List (Nat × Nat) → Nat × Nat → Nat × Nat
  | n + 1, (lo, hi) :: rest, acc =>
    if Nat.testBit frac n then exp2Prod P frac n rest (acc.1 * lo / 2 ^ P, acc.2 * hi / 2 ^ P + 1)
    else exp2Prod P frac n rest acc
  | _, _, acc => acc

/-- 2^t for a finite t that is not an integer, by bounds of growing precision until both round alike. The
exact result is never a tie (R91), so some precision decides. -/
def exp2Loop (m : Nat) (e : Int) (neg : Bool) : Nat → Nat → Word
  | 0, _ => 0
  | fuel + 1, P =>
    -- t = m * 2^e scaled by 2^P, rounded down to an integer T <= t * 2^P < T + 1
    let mag := scaleNat m (e + P)
    let exact := decide (scaleNat mag (-(e + P)) = m ∧ scaleNat m (e + P) = mag ∧ 0 ≤ e + P)
    let T : Int := if neg then (if exact then -(mag : Int) else -(mag : Int) - 1) else mag
    let n := T / (2 ^ P : Nat)
    let frac := (T % (2 ^ P : Nat)).toNat
    let pr := exp2Prod P frac P (rootTable P P (2 * 2 ^ P) (2 * 2 ^ P)) (2 ^ P, 2 ^ P)
    let hi := if exact then pr.2 else pr.2 + pr.2 / 2 ^ P + 1
    let a := round32 (.fin false pr.1 (n - P))
    let b := round32 (.fin false hi (n - P))
    if a = b then a else if fuel = 0 then a else exp2Loop m e neg fuel (2 * P)

/-- VEXP2's function of t = s * (x - m) (R91, R208). -/
def exp2Val (t : FVal) : Word :=
  match t with
  | .nan => nan32
  | .inf s => if s then 0 else round32 (.inf false)
  | .fin s m e =>
    if m = 0 then 0x3F800000#32
    else if 9 ≤ ilog2 m e then (if s then 0 else round32 (.inf false))
    else if scaleNat m e * 2 ^ (-e).toNat = m ∨ 0 ≤ e then
      let n : Int := scaleNat m e
      round32 (.fin false 1 (if s then -n else n))
    else exp2Loop m e s 6 64

/-- Bits of log2(y) for y in [1, 2) given by bounds scaled by 2^P: squares, and reads a bit each time both
bounds agree. Answers the bits read and how many. -/
def log2Bits (P : Nat) : Nat → Nat → Nat → Nat → Nat → Nat × Nat
  | 0, _, _, acc, n => (acc, n)
  | k + 1, lo, hi, acc, n =>
    let lo2 := lo * lo / 2 ^ P
    let hi2 := hi * hi / 2 ^ P + 1
    if 2 * 2 ^ P ≤ lo2 then log2Bits P k (lo2 / 2) (hi2 / 2 + 1) (2 * acc + 1) (n + 1)
    else if hi2 < 2 * 2 ^ P then log2Bits P k lo2 hi2 (2 * acc) (n + 1)
    else (acc, n)

/-- log2 of 2^n * y, y in (1, 2) exactly `ym / 2^P0`, by bounds of growing precision. -/
def log2Loop (n : Int) (ym P0 : Nat) : Nat → Nat → Word
  | 0, _ => 0
  | fuel + 1, P =>
    let y := ym * 2 ^ P
    let r := log2Bits (P0 + P) (P / 2) y y 0 0
    let v := fun (i : Nat) =>
      let t : Int := n * (2 ^ r.2 : Nat) + i
      round32 (.fin (decide (t < 0)) t.natAbs (-(r.2 : Int)))
    let a := v r.1
    let b := v (r.1 + 1)
    if a = b then a else if fuel = 0 then a else log2Loop n ym P0 fuel (2 * P)

/-- VLOG2 (R91): of a power of two it is exact, and 1 gives +0. -/
def flog232 (a : Word) : Word :=
  match val32 a with
  | .nan => nan32
  | .inf s => if s then nan32 else a
  | .fin s m e =>
    if m = 0 then round32 (.inf true)
    else if s then nan32
    else
      let n := ilog2 m e
      if m = 2 ^ Nat.log2 m then round32 (FVal.ofInt n)
      else log2Loop n m (Nat.log2 m) 6 256

/-- The narrow sum's format (R93). -/
def nsFmt : Fmt := .ieee 10 15

/-- `round_ns` (R93). -/
def roundNs (x : FVal) : FVal := fmtValue nsFmt (convert x nsFmt .rne .ovi false 0).1

/-- `narrow_sum_add` (R94): the sum rounds to the narrow sum unless an operand is NaN or infinite. -/
def narrowSumAdd (ns gs : FVal) : FVal :=
  match ns, gs with
  | .fin _ _ _, .fin _ _ _ => roundNs (ns.add gs)
  | _, _ => ns.add gs

/-- The exact sum of the products of two rows of operands (R94). -/
def groupSum : List FVal → List FVal → FVal
  | [], _ => .zero
  | _, [] => .zero
  | [a], b :: _ => a.mul b
  | a :: _, [b] => a.mul b
  | a :: as, b :: bs => (a.mul b).add (groupSum as bs)

/-- `mma_element` (R94), from k-step `t` on with `left` steps to go. -/
def mmaSteps (g PI : Nat) : Nat → Nat → List FVal → List FVal → Word → FVal → Word
  | 0, _, _, _, acc, _ => acc
  | left + 1, t, as, bs, acc, ns =>
    let ns' := narrowSumAdd ns (groupSum (as.take g) (bs.take g))
    if (t + 1) % PI = 0 ∨ left = 0 then
      mmaSteps g PI left (t + 1) (as.drop g) (bs.drop g) (round32 ((val32 acc).add ns')) .zero
    else mmaSteps g PI left (t + 1) (as.drop g) (bs.drop g) acc ns'

/-- `mma_element` (R94). -/
def mmaElement (acc : Word) (as bs : List FVal) (g PI : Nat) : Word := mmaSteps g PI 32 0 as bs acc .zero

/-- The relation a condition code states of two FP32 values without TOT: false for a NaN except ne and un (R204). -/
def fcmpHolds (cc : Cc) (o : Option Ordering) : Bool :=
  match cc, o with
  | .eq, some .eq => true
  | .ne, some .eq => false
  | .ne, _ => true
  | .lt, some .lt => true
  | .le, some .lt => true
  | .le, some .eq => true
  | .gt, some .gt => true
  | .ge, some .gt => true
  | .ge, some .eq => true
  | .un, none => true
  | .ord, some _ => true
  | _, _ => false

/-- The total order of TOT: -0 below +0, every NaN equal to every NaN and above +infinity (R204). -/
def fcmpTotal (a b : Word) : Ordering :=
  let x := val32 a
  let y := val32 b
  match x.isNan, y.isNan with
  | true, true => .eq
  | true, false => .gt
  | false, true => .lt
  | false, false =>
    match x.cmp y with
    | some .lt => .lt
    | some .gt => .gt
    | _ => if x.isZero ∧ a.msb ≠ b.msb then (if a.msb then .lt else .gt) else .eq

/-- `tree_reduce`'s one level (R92). -/
def treeLevel (op : Word → Word → Word) : List Word → List Word
  | a :: b :: rest => op a b :: treeLevel op rest
  | l => l

/-- `tree_reduce` (R92); six levels reduce 64 lanes. -/
def treeReduce (op : Word → Word → Word) : Nat → List Word → Word
  | 0, l => l.headD 0
  | n + 1, l => match l with
    | [a] => a
    | l => treeReduce op n (treeLevel op l)

end Sys2Proof
end

