-- ==== Sys2Proof/Machine/SMap.lean ====
section
/-! DEFINITION. Sparse tables in one canonical form: keys strictly rising and no entry equal to the value that
an unlisted key reads as; and the bytes of little-endian quantities (R3). -/

namespace Sys2Proof.Machine

variable {β : Type}

/-- The value at a key, `d` where the key is not listed. -/
def smGet (d : β) : SMap β → Nat → β
  | [], _ => d
  | (k, v) :: r, a => if k < a then smGet d r a else if k = a then v else d

/-- Sets the value at a key and keeps the canonical form: the default is not listed. What an entry that is taken out of a
table in another form would uncover goes with it. -/
def smSet [DecidableEq β] (d : β) : SMap β → Nat → β → SMap β
  | [], a, v => if v = d then [] else [(a, v)]
  | (k, w) :: r, a, v =>
    if k < a then (k, w) :: smSet d r a v
    else if k = a then (if v = d then r.dropWhile fun kv => kv.1 ≤ a else (a, v) :: r)
    else if v = d then (k, w) :: r else (a, v) :: (k, w) :: r

/-- Sets several keys in order. -/
def smSetAll [DecidableEq β] (d : β) (m : SMap β) : List (Nat × β) → SMap β
  | [] => m
  | (a, v) :: r => smSetAll d (smSet d m a v) r

/-- Every key listed is at least `lo`, keys rise strictly, and no value is the default. -/
def smFrom [DecidableEq β] (d : β) : Nat → SMap β → Bool
  | _, [] => true
  | lo, (k, v) :: r => decide (lo ≤ k) && decide (v ≠ d) && smFrom d (k + 1) r

/-- The canonical form. -/
def smWf [DecidableEq β] (d : β) (m : SMap β) : Bool := smFrom d 0 m

/-- `n` values from key `a` on, read in one pass. -/
def smSlice (d : β) : Nat → SMap β → Nat → List β
  | 0, _, _ => []
  | n + 1, m, a =>
    match m.dropWhile fun kv => decide (kv.1 < a) with
    | (k, v) :: r => (if k = a then v else d) :: smSlice d n ((k, v) :: r) (a + 1)
    | [] => List.replicate (n + 1) d

/-- `n` values from key `a` on. -/
def smRead (d : β) (m : SMap β) (a n : Nat) : List β := smSlice d n m a

/-- Drops every entry whose key lies in [lo, hi). -/
def smDrop (m : SMap β) (lo hi : Nat) : SMap β :=
  (m.takeWhile fun kv => decide (kv.1 < lo)) ++ (m.dropWhile fun kv => decide (kv.1 < lo)).dropWhile fun kv => decide (kv.1 < hi)

/-- Bytes in ascending address order as a natural (R3). -/
def leNat : List Byte → Nat
  | [] => 0
  | b :: r => b.toNat + 256 * leNat r

/-- The low `n` bytes of a natural in ascending address order (R3). -/
def natBytes : Nat → Nat → List Byte
  | 0, _ => []
  | n + 1, v => BitVec.ofNat 8 v :: natBytes n (v / 256)

/-- Bits [lo + n - 1 : lo] of a natural. -/
def bits (v lo n : Nat) : Nat := v / 2 ^ lo % 2 ^ n

/-- A natural read as an n-bit two's-complement field (R7). -/
def sextN (v n : Nat) : Int := if v % 2 ^ n < 2 ^ (n - 1) then (v % 2 ^ n : Nat) else (v % 2 ^ n : Nat) - (2 ^ n : Nat)

/-- The lanes of a mask below `n`, ascending (R7). -/
def lanesBelow : Nat → Mask → List Nat
  | 0, _ => []
  | n + 1, m => lanesBelow n m ++ (if m.getLsbD n then [n] else [])

/-- The lanes of a mask, ascending (R7). -/
@[irreducible] def lanesOf (m : Mask) : List Nat := lanesBelow 64 m

/-- The mask of one lane. -/
def laneBit (l : Nat) : Mask := 1#64 <<< l

/-- The mask of a list of lanes. -/
def maskOf (ls : List Nat) : Mask := ls.foldl (fun m l => m ||| laneBit l) 0

/-- The number of set bits of a mask (R7). -/
def popMask (m : Mask) : Nat := (lanesOf m).length

/-- The lowest lane of a mask, 64 when it is empty. -/
def lowLane (m : Mask) : Nat := (lanesOf m).headD 64

/-- Replaces the first element that satisfies a test. -/
def replaceFirst (p : β → Bool) (x : β) : List β → List β
  | [] => []
  | y :: r => if p y then x :: r else y :: replaceFirst p x r

end Sys2Proof.Machine
end

