-- ==== Sys2Proof/Machine/Aes.lean ====
section
/-! DEFINITION. AES-256 and its XTS mode over one 128-byte line (R340). The manual names the cipher, the data unit and the
tweak; the cipher itself is that of FIPS 197 and the mode that of IEEE 1619 (PRESUMED, log entry 12). Bytes are naturals
below 256. -/

namespace Sys2Proof.Machine

/-- Twice an element of the field of 256 elements. -/
def aesDouble (b : Nat) : Nat := if 128 ≤ b then (2 * b) ^^^ 0x11B else 2 * b

/-- A product in the field, over the bits of the second factor from `n` down. -/
def aesMul (a b : Nat) : Nat → Nat
  | 0 => 0
  | n + 1 => aesDouble (aesMul a b n) ^^^ (if b.testBit (7 - n) then a else 0)

/-- A power in the field. -/
def aesPow (a : Nat) : Nat → Nat
  | 0 => 1
  | n + 1 => aesMul a (aesPow a n) 8

/-- The substitution of a byte: its inverse, 0 for 0, through the affine map. -/
def aesSubOf (b : Nat) : Nat :=
  let v := if b = 0 then 0 else aesPow b 254
  let rot := fun (k : Nat) => (v * 2 ^ k) % 256 + v * 2 ^ k / 256
  v ^^^ rot 1 ^^^ rot 2 ^^^ rot 3 ^^^ rot 4 ^^^ 0x63

/-- The substitution table. -/
def aesTable : List Nat := (List.range 256).map aesSubOf

/-- The substitution of a byte. -/
def aesSub (b : Nat) : Nat := aesTable.getD b 0

/-- The inverse substitution. -/
def aesUnsub (b : Nat) : Nat := aesTable.findIdx fun x => x == b

/-- Two lists of bytes added in the field, byte by byte. -/
def xorBytes (a b : List Nat) : List Nat := List.zipWith (fun x y => x ^^^ y) a b

/-- The words of the key schedule, the latest first, once `n` more are made. -/
def aesExpand (rcon : Nat) (i : Nat) : Nat → List (List Nat) → List (List Nat)
  | 0, ws => ws
  | n + 1, ws =>
    let last := ws.headD []
    let t :=
      if i % 8 = 0 then
        xorBytes (((last.drop 1) ++ last.take 1).map aesSub) [rcon, 0, 0, 0]
      else if i % 8 = 4 then last.map aesSub
      else last
    aesExpand (if i % 8 = 0 then aesDouble rcon else rcon) (i + 1) n (xorBytes (ws.getD 7 []) t :: ws)

/-- Cuts bytes into fours. -/
def fours : Nat → List Nat → List (List Nat)
  | 0, _ => []
  | n + 1, l => l.take 4 :: fours n (l.drop 4)

/-- The fifteen round keys of a 32-byte key. -/
def aesKeys (key : List Nat) : List (List Nat) :=
  let ws := (aesExpand 1 8 52 (fours 8 key).reverse).reverse
  (List.range 15).map fun r => ((ws.drop (4 * r)).take 4).flatten

/-- Row `r` of every column turned by `r` places; `back` turns the other way. -/
def aesShift (back : Bool) (s : List Nat) : List Nat :=
  (List.range 16).map fun i =>
    let r := i % 4
    let c := if back then (i / 4 + 4 - r) % 4 else (i / 4 + r) % 4
    s.getD (r + 4 * c) 0

/-- Every column multiplied by a circulant matrix, given by its first row. -/
def aesMix (m : List Nat) (s : List Nat) : List Nat :=
  (List.range 16).map fun i =>
    let r := i % 4
    ((List.range 4).map fun k => aesMul (s.getD (4 * (i / 4) + k) 0) (m.getD ((k + 4 - r) % 4) 0) 8).foldl
      (fun a b => a ^^^ b) 0

/-- One block encrypted under round keys. -/
def aesEncrypt (ks : List (List Nat)) (p : List Nat) : List Nat :=
  let s := (List.range 13).foldl
    (fun s i => xorBytes (aesMix [2, 3, 1, 1] (aesShift false (s.map aesSub))) (ks.getD (i + 1) []))
    (xorBytes p (ks.getD 0 []))
  xorBytes (aesShift false (s.map aesSub)) (ks.getD 14 [])

/-- One block decrypted under round keys. -/
def aesDecrypt (ks : List (List Nat)) (c : List Nat) : List Nat :=
  let s := (List.range 13).foldl
    (fun s i => aesMix [14, 11, 13, 9] (xorBytes ((aesShift true s).map aesUnsub) (ks.getD (13 - i) [])))
    (xorBytes c (ks.getD 14 []))
  xorBytes ((aesShift true s).map aesUnsub) (ks.getD 0 [])

/-- The next tweak of a data unit: the little-endian number of the bytes, doubled in the field of 2^128 elements. -/
def xtsNext (t : List Nat) : List Nat :=
  let v := leNat (t.map fun x => BitVec.ofNat 8 x)
  let w := 2 * v % 2 ^ 128 ^^^ (if 2 ^ 127 ≤ v then 0x87 else 0)
  (natBytes 16 w).map fun b => b.toNat

/-- The blocks of a data unit, each through a block operation between two additions of its tweak. -/
def xtsBlocks (f : List Nat → List Nat) : Nat → List Nat → List Nat → List Nat
  | 0, _, _ => []
  | n + 1, t, l => xorBytes (f (xorBytes (l.take 16) t)) t ++ xtsBlocks f n (xtsNext t) (l.drop 16)

/-- A 128-byte line through the cipher under a 64-byte key, whose first half encrypts data and whose second half the tweak,
the canonical address of the line (R340). -/
def xtsLine (decrypt : Bool) (key addr : Nat) (line : List Byte) : List Byte :=
  let k := (natBytes 64 key).map fun b => b.toNat
  let data := aesKeys (k.take 32)
  let t := aesEncrypt (aesKeys (k.drop 32)) ((natBytes 16 addr).map fun b => b.toNat)
  let out := xtsBlocks (if decrypt then aesDecrypt data else aesEncrypt data) 8 t (line.map fun b => b.toNat)
  out.map fun x => BitVec.ofNat 8 x

end Sys2Proof.Machine
end

