-- ==== Sys2Proof/Machine/Mem.lean ====
section
/-! DEFINITION. Physical memory, encryption, poison and pending clears (R327, R328, R340, R341, R358), range and
page translation (R329-R332, R336), rights and shares (R331, R347), and the areas of a tiled range (R53, R54). -/

namespace Sys2Proof.Machine

/-- The value of a byte of memory that is not listed: device memory is zeroed at bring-up (R372); of CXL and
host memory the manual states nothing (DESIGN CHOICE, log entry 11). -/
def unlisted : Byte := 0

/-- The canonical form of memory (and of every sparse table of bytes). -/
def Memory.wf (m : List Host.Cell) : Bool := smWf unlisted m

/-- The line key of a line that nothing has written since bring-up (R340). -/
def noKey : LineKey := ⟨2048, 0⟩

/-- The canonical address of a DPA (R328). -/
def canonOf (dpa : Nat) : Nat :=
  if dpa < 2 ^ 39 then 2 ^ 39 + 2 ^ 30 * (dpa / 256 % 512) + (256 * (dpa / 2 ^ 17) + dpa % 256) else dpa

/-- Whether a canonical address is device memory (R327, R328). -/
def isDevice (c : Nat) : Bool := decide (2 ^ 39 ≤ c ∧ c < 2 ^ 40)

/-- The pseudo-channel of a canonical device address (R328). -/
def pcOf (c : Nat) : Nat := (c - 2 ^ 39) / 2 ^ 30

/-- The sector of a canonical address (R298, R341). -/
def sectorOf (c : Nat) : Nat := c / 32

/-- The generation of a key slot (R340, R357). -/
def State.genOf (s : State) (key : Nat) : Nat := smGet 0 s.keyGen key

/-- Whether a byte lies in an unwritten sector of a page whose clearing is pending (R358). -/
def State.pendingByte (s : State) (c : Nat) : Bool :=
  match s.pendingClear.find? fun p => p.1 == c / 4096 with
  | some (_, marked) => !(marked.contains (c % 4096 / 32))
  | none => false

/-- The key material of a slot in one of its generations (R340). -/
def State.material (s : State) (k : LineKey) : Nat :=
  (smGet none s.keyMat (2048 * k.gen + k.key)).getD (Config.keyMaterial k.key k.gen).toNat

/-- The bytes of a line as memory holds them, in the clear under the key that the line was written with. -/
def State.clearLine (s : State) (c : Nat) : List Byte := smRead unlisted s.mem (c / 128 * 128) 128

/-- The bytes of a line, written under one key, as they read under another: its stored bytes, decrypted (R340). -/
def State.otherLine (s : State) (old new : LineKey) (c : Nat) : List Byte :=
  let at_ := c / 128 * 128
  xtsLine true (s.material new) at_ (xtsLine false (s.material old) at_ (s.clearLine c))

/-- Whether a sector is poisoned, or holds an uncorrectable error that the next read finds (R341). -/
def State.sectorBad (s : State) (sec : Nat) : Bool := s.poison.contains sec || smGet 0 s.softErrors sec == 2

/-- A byte of memory read under a key (R340, R358). What a poisoned byte reads as, where the manual does not say
(R341), is a free value (log entry 3). -/
def State.byteUnder (s : State) (key c : Nat) : Byte :=
  if s.pendingByte c then 0
  else if s.sectorBad (sectorOf c) then Config.freeByte c
  else
    let lk := smGet noKey s.lineKey (c / 128)
    if lk = noKey ∨ lk = ⟨key, s.genOf key⟩ then smGet unlisted s.mem c
    else (s.otherLine lk ⟨key, s.genOf key⟩ c).getD (c % 128) 0

/-- Consecutive bytes of memory read under a key. -/
def State.bytesUnder (s : State) (key c n : Nat) : List Byte :=
  if s.pendingClear = [] ∧ s.lineKey = [] ∧ s.poison = [] ∧ s.softErrors = [] then smRead unlisted s.mem c n
  else (List.range n).map fun i => s.byteUnder key (c + i)

/-- Whether a read of a byte meets poison (R341); an unwritten sector of a page to be cleared reads as zero (R358). -/
def State.isPoisoned (s : State) (c : Nat) : Bool := s.sectorBad (sectorOf c) && !(s.pendingByte c)

/-- Marks a sector of a pending page as written, zeroing it first, which is a write of all of it (R341, R358). -/
def State.touchPending (s : State) (c : Nat) : State :=
  if s.pendingByte c then
    let base := c / 32 * 32
    { s with
      mem := smDrop s.mem base (base + 32)
      poison := s.poison.filter fun x => x != sectorOf c
      softErrors := smSet 0 s.softErrors (sectorOf c) 0
      pendingClear := s.pendingClear.map fun p =>
        if p.1 = c / 4096 then (p.1, (c % 4096 / 32) :: p.2) else p }
  else s

/-- The bytes of the line that a byte lies in, as they read under a key. -/
@[irreducible] def State.lineUnder (s : State) (key c : Nat) : List (Nat × Byte) :=
  let base := c / 128 * 128
  let lk := smGet noKey s.lineKey (c / 128)
  let line := if lk = noKey ∨ lk = ⟨key, s.genOf key⟩ then s.clearLine c else s.otherLine lk ⟨key, s.genOf key⟩ c
  (List.range 128).map fun i =>
    (base + i,
      if s.pendingByte (base + i) then 0
      else if s.sectorBad (sectorOf (base + i)) then Config.freeByte (base + i)
      else line.getD i 0)

/-- Records the key that a line is written under; a line last written under another key keeps what its other
bytes decrypt to (R340). -/
def State.rekey (s : State) (key c : Nat) : State :=
  let lk : LineKey := ⟨key, s.genOf key⟩
  let old := smGet noKey s.lineKey (c / 128)
  if old = lk then s
  else if old = noKey then { s with lineKey := smSet noKey s.lineKey (c / 128) lk }
  else
    { s with
      mem := smSetAll unlisted s.mem (s.lineUnder key c)
      lineKey := smSet noKey s.lineKey (c / 128) lk }

/-- Writes one byte of memory under a key. -/
def State.writeByte (s : State) (key c : Nat) (b : Byte) : State :=
  let s1 := (s.rekey key c).touchPending c
  { s1 with mem := smSet unlisted s1.mem c b }

/-- Writes bytes of memory in order, (canonical address, key, byte); a sector written whole loses its poison, and an error
that struck it and was not found (R341). -/
def State.writeBytes (s : State) (l : List (Nat × Nat × Byte)) : State :=
  let s1 := l.foldl (fun s x => s.writeByte x.2.1 x.1 x.2.2) s
  if s1.poison = [] ∧ s1.softErrors = [] then s1
  else
    let whole := fun sec => (List.range 32).all fun i => l.any fun x => x.1 == 32 * sec + i
    { s1 with
      poison := s1.poison.filter fun sec => !(whole sec)
      softErrors := s1.softErrors.filter fun e => !(whole e.1) }

/-- Writes consecutive bytes at a DPA under a key. -/
def State.writeDpa (s : State) (key dpa : Nat) (bs : List Byte) : State :=
  s.writeBytes ((List.range bs.length).map fun i => (canonOf (dpa + i), key, bs.getD i 0))

/-- Reads `n` bytes at a DPA that do not cross a 64-byte unit. -/
def State.readDpa (s : State) (key dpa n : Nat) : List Byte := s.bytesUnder key (canonOf dpa) n

/-- Payload size PS of a tile in bytes (R53). -/
def RangeEntry.ps (e : RangeEntry) : Nat := 2 ^ (e.lrows + e.lcols) * e.ew / 8

/-- Slot size SS (R53). -/
def RangeEntry.ss (e : RangeEntry) : Nat := max e.ps 64

/-- The granule of a layout selector, 0 standing for selector 7 (R336). -/
def granule (lsel : Nat) : Nat :=
  match lsel with
  | 0 => 256 | 1 => 65536 | 2 => 1024 | 3 => 4096 | 4 => 16384 | 5 => 2097152 | 6 => 256 | _ => 0

/-- The pseudo-channel and local address of byte `o` of a range that a selector places (R336). -/
def RangeEntry.place (e : RangeEntry) (o : Nat) : Nat × Nat :=
  let n := 2 ^ e.pcn
  let ch := fun i => (e.pcf + i * 2 ^ e.pcs) % 512
  if e.lsel = 7 then
    let P := (e.limit - e.base) / n
    (ch (o / P), e.offset + o % P)
  else
    let G := granule e.lsel
    let q := o / G
    let f := if e.lsel = 6 then q ^^^ (q / 4096) else q
    (ch (f % n), e.offset + G * (q / n) + o % G)

/-- The highest local address that the selector of a range forms over `size` bytes (R330, R336): in the last row of granules,
a whole granule where one lies before the last byte's. -/
def RangeEntry.topLocal (e : RangeEntry) (size : Nat) : Nat :=
  let n := 2 ^ e.pcn
  if e.lsel = 7 then e.offset + (size / n - 1)
  else
    let G := granule e.lsel
    let q := (size - 1) / G
    e.offset + G * (q / n) + (if q % n = 0 then (size - 1) % G else G - 1)

/-- The DPA of byte `o` of a range (R331, R336). -/
def RangeEntry.dpa (e : RangeEntry) (o : Nat) : Nat :=
  if e.tgt1 then e.offset + o
  else
    let p := e.place o
    2 ^ 39 + 2 ^ 30 * p.1 + p.2

/-- Whether a tile attribute breaks R53. -/
def RangeEntry.tileBad (e : RangeEntry) : Bool :=
  let size := e.limit - e.base
  let hEnd := e.hoff + 32 * e.nt
  let pEnd := e.poff + e.ss * e.nt
  decide (8192 < e.ps) || decide (6 < e.lrows) || decide (e.lcols < 3 ∨ 8 < e.lcols)
    || decide (size < hEnd ∨ size < pEnd) || decide (e.hoff < pEnd ∧ e.poff < hEnd)

/-- Reads a range entry from its 64 bytes: `none` when V = 0, and whether it is invalid (R329, R330). -/
def parseRange (bs : List Byte) : Option (RangeEntry × Bool) :=
  let v := leNat bs
  let at64 := fun i => bits v (64 * i) 64
  let a := bits v 192 32
  let c := bits v 224 16
  if a % 2 = 0 then none
  else
    let lim := at64 1
    let e : RangeEntry :=
      { base := at64 0, limit := if lim = 0 then 2 ^ 64 else lim, offset := at64 2,
        r := bits a 1 1 == 1, w := bits a 2 1 == 1, x := bits a 3 1 == 1, bv := bits a 6 1 == 1,
        rd := bits a 7 2, lsel := bits a 9 3, tiled := bits a 12 1 == 1, tgt1 := bits a 13 1 == 1,
        key := bits a 16 11, pcf := bits c 0 9, pcn := bits c 9 4, pcs := bits c 13 3,
        hoff := at64 4, poff := at64 5, lrows := bits v 384 3, lcols := bits v 388 4,
        ew := 4 * 2 ^ bits v 392 2, nt := bits v 416 24 + 1 }
    let reserved := bits a 14 2 ≠ 0 ∨ bits a 27 5 ≠ 0 ∨ bits v 240 16 ≠ 0 ∨ bits v 387 1 ≠ 0 ∨
      bits v 394 22 ≠ 0 ∨ bits v 440 8 ≠ 0 ∨ at64 7 ≠ 0 ∨ e.hoff % 4096 ≠ 0 ∨ e.poff % 4096 ≠ 0 ∨
      (e.tiled = false ∧ bits v 256 192 ≠ 0)
    let last := e.limit - 1
    let half := fun x => decide (x < 2 ^ 56) || decide (2 ^ 64 - 2 ^ 56 ≤ x)
    let bounds := e.base % 4096 ≠ 0 ∨ e.limit % 4096 ≠ 0 ∨ e.limit ≤ e.base ∨ ¬ half e.base ∨ ¬ half last ∨
      e.base / 2 ^ 63 ≠ last / 2 ^ 63
    let n := 2 ^ e.pcn
    let local0 := e.tgt1 = false ∧
      (e.offset % 4096 ≠ 0 ∨ 2 ^ 30 ≤ e.offset ∨ 2 ^ 30 ≤ e.topLocal (e.limit - e.base) ∨ (e.lsel = 7 ∧ (e.limit - e.base) % (n * 4096) ≠ 0))
    let lin1 := e.tgt1 = true ∧ (e.offset % 4096 ≠ 0 ∨ e.lsel ≠ 0 ∨ e.bv = true ∨ e.tiled = true)
    let bad := reserved ∨ bounds ∨ bits a 4 2 = 3 ∨ e.rd = 3 ∨ 9 < e.pcn ∨ local0 ∨ lin1 ∨
      (e.tiled = true ∧ e.tileBad = true)
    some (e, decide bad)

/-- The range entry that translates an address: the lowest-numbered with V = 1 that covers it (R331). -/
def State.findRange (s : State) (d : VDev) (va : Nat) : Nat → Nat → Option (RangeEntry × Bool)
  | 0, _ => none
  | n + 1, i =>
    match parseRange (s.readDpa d.tkey (d.rtab.toNat / 64 * 64 + 64 * i) 64) with
    | some (e, bad) => if e.base ≤ va ∧ va < e.limit then some (e, bad) else s.findRange d va n (i + 1)
    | none => s.findRange d va n (i + 1)

/-- A CONT group's 16 entries agree apart from ADDR, which rises by one page each from an aligned start (R332). -/
def contOk (es : List Nat) (shift : Nat) : Bool :=
  match es with
  | e0 :: _ =>
    let addr := fun e => bits e 12 40 * 4096
    let rest := fun e => e - addr e
    decide (addr e0 % (16 * 2 ^ shift) = 0) &&
      (List.range es.length).all fun i =>
        let e := es.getD i 0
        decide (rest e = rest e0 ∧ addr e = addr e0 + i * 2 ^ shift)
  | [] => false

/-- The page walk from a level on (R332): `fuel` levels are left. -/
def State.walk (s : State) (d : VDev) (va : Nat) : Nat → Nat → Nat → Look
  | 0, _, _ => .invalid
  | fuel + 1, level, table =>
    let shift := 12 + 9 * (5 - level)
    let idx := va / 2 ^ shift % 512
    let e := leNat (s.readDpa d.tkey (table + 8 * idx) 8)
    let addr := bits e 12 40 * 4096
    if e % 2 = 0 ∨ bits e 8 1 = 1 then .missing (decide (e % 2 = 1))
    else if bits e 1 1 = 0 then
      if level = 5 ∨ e - addr ≠ 1 then .invalid else s.walk d va fuel (level + 1) addr
    else
      let group := (List.range 16).map fun i => leNat (s.readDpa d.tkey (table + 8 * (idx / 16 * 16 + i)) 8)
      let bad := level < 3 ∨ bits e 9 3 ≠ 0 ∨ bits e 63 1 ≠ 0 ∨ bits e 5 2 = 3 ∨ addr % 2 ^ shift ≠ 0 ∨
        (bits e 7 1 = 1 ∧ (level = 3 ∨ contOk group shift = false))
      if bad then .invalid
      else .page (va / 2 ^ shift * 2 ^ shift) addr (2 ^ shift) (bits e 2 1 == 1) (bits e 3 1 == 1)
        (bits e 4 1 == 1) (bits e 52 11)

/-- What a virtual address of a device meets: its ranges, else its page tables (R331, R332). -/
def State.look (s : State) (d : VDev) (va : Nat) : Look :=
  if ¬ (va < 2 ^ 56 ∨ 2 ^ 64 - 2 ^ 56 ≤ va) then .invalid
  else
    match s.findRange d va (min d.rcnt 256) 0 with
    | some (e, bad) => if bad then .invalid else .range e
    | none => if d.troot = 0 then .missing false else s.walk d va 5 1 (d.troot.toNat)

/-- The partition of a number. -/
def State.part (s : State) (n : Nat) : Option Part := s.parts.find? fun p => p.num == n

/-- The virtual device of a number; one the package does not hold reads as just reset. -/
def State.vdev (s : State) (n : Nat) : VDev := (s.vdevs.find? fun d => d.id == n).getD { VDev.init with id := n }

/-- Puts a virtual device back. -/
def State.setVdev (s : State) (d : VDev) : State :=
  if s.vdevs.any (fun e => e.id == d.id) then { s with vdevs := replaceFirst (fun e => e.id == d.id) d s.vdevs }
  else { s with vdevs := s.vdevs ++ [d] }

/-- The device tick of a virtual device's placement (R323, R355). -/
def State.tickOf (s : State) (vd : Nat) : Nat := s.tick + (s.vdev vd).tickOff

/-! ## Cached translations (R333, R334) -/

/-- Whether a translation covers an address. -/
def Look.covers (l : Look) (va : Nat) : Bool :=
  match l with
  | .range e => decide (e.base ≤ va ∧ va < e.limit)
  | .page v0 _ size _ _ _ _ => decide (v0 ≤ va ∧ va < v0 + size)
  | _ => false

/-- The translation that a lane or an engine element uses for an address, the tables' own at hand: where a buffer of the
device may still hold another one of the address, either, as a free value says (R333, R334; which translations a buffer has
dropped since is not modelled: log entry 96). -/
def State.lookBy (s : State) (vd who va : Nat) (fresh : Look) : Look :=
  match (s.cached.filter fun c => c.vd == vd && c.look.covers va && c.look != fresh).map fun c => c.look with
  | [] => fresh
  | l => (fresh :: l).getD (Config.staleLook s.cycle (s.nextId + s.freeCount) who % (l.length + 1)) fresh

/-- The addresses of the range-table entries that a search reads, in order (R331). -/
def State.rangeReads (s : State) (d : VDev) (va : Nat) : Nat → Nat → List Nat
  | 0, _ => []
  | n + 1, i =>
    let at_ := d.rtab.toNat / 64 * 64 + 64 * i
    match parseRange (s.readDpa d.tkey at_ 64) with
    | some (e, _) => if e.base ≤ va ∧ va < e.limit then [at_] else at_ :: s.rangeReads d va n (i + 1)
    | none => at_ :: s.rangeReads d va n (i + 1)

/-- The addresses of the page-table entries that a walk reads, in order (R332). -/
def State.walkReads (s : State) (d : VDev) (va : Nat) : Nat → Nat → Nat → List Nat
  | 0, _, _ => []
  | fuel + 1, level, table =>
    let at_ := table + 8 * (va / 2 ^ (12 + 9 * (5 - level)) % 512)
    let e := leNat (s.readDpa d.tkey at_ 8)
    if e % 2 = 1 ∧ bits e 8 1 = 0 ∧ bits e 1 1 = 0 then at_ :: s.walkReads d va fuel (level + 1) (bits e 12 40 * 4096)
    else [at_]

/-- The canonical addresses of what is read to find the translation of an address (R331, R332). -/
def State.tableReads (s : State) (d : VDev) (va : Nat) : List Nat :=
  let n := min d.rcnt 256
  let ranges := s.rangeReads d va n 0
  let pages :=
    match s.findRange d va n 0 with
    | some _ => []
    | none => if d.troot = 0 then [] else s.walkReads d va 5 1 d.troot.toNat
  (ranges ++ pages).map canonOf

/-- Whether a translation is one that is cached: a valid range or page (R333). -/
def Look.valid : Look → Bool
  | .range _ => true
  | .page _ _ _ _ _ _ _ => true
  | _ => false

/-! ## Homes and shares -/

/-- The die and the L2 slice at which a line is homed (R337). -/
def homeOf (c : Nat) : Nat × Nat :=
  let f := fun (k : Nat) => bits c k 6
  (if isDevice c then pcOf c / 128 else bits c 12 2, f 7 ^^^ f 13 ^^^ f 19 ^^^ f 25 ^^^ f 31 ^^^ f 37 ^^^ f 43)

/-- The CXL port in whose region an address lies (R327). -/
def portOf (c : Nat) : Option Nat :=
  if 2 ^ 44 ≤ c ∧ c < 3 * 2 ^ 43 then some 0 else if 3 * 2 ^ 43 ≤ c ∧ c < 2 ^ 45 then some 1 else none

/-- Whether an address of a CXL port's region has no memory behind it: past the expander, or behind a link that is down
(R327, R366). -/
def State.cxlGone (s : State) (c : Nat) : Bool :=
  match portOf c with
  | none => false
  | some p => s.cxlDown.contains p || decide ((Config.expanderBytes p).toNat ≤ c - (2 ^ 44 + 2 ^ 43 * p))

/-- Whether a DPA's region is a fabric window (R369). -/
def State.fabricAt (s : State) (dpa : Nat) : Option Fabric :=
  s.fabric.find? fun f => decide (f.base ≤ dpa ∧ dpa < f.base + f.size)

/-- Whether a cell of device memory lies in an extent. -/
def extentHas (e : Extent) (c : Nat) : Bool :=
  let pc := (pcOf c + 512 - e.pcf % 512) % 512
  decide (e.lo ≤ c % 2 ^ 30 ∧ c % 2 ^ 30 < e.hi) && decide (pc % 2 ^ e.pcs = 0 ∧ pc / 2 ^ e.pcs < 2 ^ e.pcn)

/-- Whether resources list a canonical address. -/
def resHave (r : Resources) (c : Nat) : Bool :=
  if isDevice c then r.extents.any fun e => extentHas e c
  else r.windows.any fun w => decide (w.1 ≤ c ∧ c < w.1 + w.2)

/-- Whether a DPA lies inside a partition's share: an extent for device memory, a window for CXL and host memory, that
no child of it holds; never on a page withheld as bad, nor behind a CXL link that is down (R327, R343, R347, R366). -/
def State.inShare (s : State) (part : Nat) (dpa : Nat) : Bool :=
  match s.part part with
  | none => false
  | some p =>
    let c := canonOf dpa
    !(s.cxlGone c) && !(isDevice c && s.badPages.contains (c / 4096)) && resHave p.res c &&
      !(s.parts.any fun q => q.parent == some part && resHave q.res c)

/-- The rights an access needs (R331). -/
structure Need where
  r : Bool
  w : Bool
  x : Bool
  deriving DecidableEq, Repr

/-- A translated byte, or why it is none (R327, R331, R332). -/
inductive Xl where
  | ok (dpa key : Nat) (rd : Nat)
  | trap (c : Cause)
  | missing (hold : Bool)
  deriving DecidableEq, Repr

/-- Translates one byte whose lookup is at hand, checking rights, key and share (R327, R331, R340, R347). -/
def State.xlateLook (s : State) (d : VDev) (l : Look) (va : Nat) (n : Need) (engine : Bool) : Xl :=
  let fin := fun (r w x : Bool) (dpa key rd : Nat) =>
    let keyOk := match s.part d.part with
      | some p => p.res.keys.contains key
      | none => false
    if (n.r && !r) || (n.w && !w) || (n.x && !x) || !keyOk then Xl.trap .protectionFault
    else if (s.fabricAt dpa).isSome && !engine then .trap .protectionFault
    else if s.inShare d.part dpa then .ok dpa key rd
    else .trap .protectionFault
  match l with
  | .invalid => .trap .translationFault
  | .missing h => .missing h
  | .range e => fin e.r e.w (e.x && !e.tiled) (e.dpa (va - e.base)) e.key e.rd
  | .page v0 dpa _ r w x key => fin r w x (dpa + (va - v0)) key 0

/-- Translates one byte (R331, R332). -/
def State.xlate (s : State) (d : VDev) (va : Nat) (n : Need) (engine : Bool) : Xl :=
  s.xlateLook d (s.look d va) va n engine

/-- The lookups of the pages of a list of addresses, one each. -/
def State.looks (s : State) (d : VDev) (vas : List Nat) : List (Nat × Look) :=
  vas.foldl (fun acc va =>
    if acc.any (fun p => p.1 == va / 4096) then acc else acc ++ [(va / 4096, s.look d va)]) []

/-- The lookup of an address among those at hand. -/
def lookIn (ls : List (Nat × Look)) (va : Nat) : Look :=
  match ls.find? fun p => p.1 == va / 4096 with
  | some (_, l) => l
  | none => .missing false

/-- The area of a tiled range that an offset falls in (R52, R54). -/
inductive Area where
  | header (t off : Nat)
  | payload (t off : Nat)
  | linear
  deriving DecidableEq, Repr

/-- The area of byte `o` of a range (R52, R54). -/
def RangeEntry.area (e : RangeEntry) (o : Nat) : Area :=
  if e.tiled = false then .linear
  else if e.hoff ≤ o ∧ o < e.hoff + 32 * e.nt then .header ((o - e.hoff) / 32) ((o - e.hoff) % 32)
  else if e.poff ≤ o ∧ o < e.poff + e.ss * e.nt then .payload ((o - e.poff) / e.ss) ((o - e.poff) % e.ss)
  else .linear

/-- Reads `n` consecutive bytes of a range from offset `o`, through its placement, in 64-byte units. -/
def State.readRange (s : State) (e : RangeEntry) : Nat → Nat → Nat → List Byte
  | 0, _, _ => []
  | fuel + 1, o, n =>
    let k := min n (64 - o % 64)
    if k = 0 then []
    else s.bytesUnder e.key (canonOf (e.dpa o)) k ++ s.readRange e fuel (o + k) (n - k)

/-- Reads `n` consecutive bytes of a range. -/
def State.readR (s : State) (e : RangeEntry) (o n : Nat) : List Byte := s.readRange e (n / 64 + 2) o n

/-- Writes consecutive bytes of a range from offset `o`. -/
def State.writeR (s : State) (e : RangeEntry) (o : Nat) (bs : List Byte) : State :=
  s.writeBytes ((List.range bs.length).map fun i => (canonOf (e.dpa (o + i)), e.key, bs.getD i 0))

end Sys2Proof.Machine
end

