-- ==== Sys2Proof/Machine/Dev.lean ====
section
/-! DEFINITION. What instructions and events share of the device: lists of objects by number, the interrupt log
(R356), the trap and race logs (R301, R364), counters (R354), activity budgets (R350-R352), bytes read and
written through translation, completion records (R14-R16) and the fault-address queues (R342). -/

namespace Sys2Proof.Machine

/-- The die of a global core number (R9). -/
def dieOf (core : Nat) : Nat := core / 64

/-- The block of a number. -/
def State.blockOf (s : State) (id : Nat) : Option Block := s.blocks.find? fun b => b.id == id

/-- Puts a block back. -/
def State.setBlock (s : State) (b : Block) : State :=
  { s with blocks := replaceFirst (fun c => c.id == b.id) b s.blocks }

/-- The level of a number. -/
def State.level (s : State) (id : Nat) : Option Level := s.levels.find? fun l => l.id == id

/-- The launch whose level has a number. -/
def State.launchOf (s : State) (id : Nat) : Option Launch := s.launches.find? fun l => l.level == id

/-- Raises an interrupt of a device: its vector's count rises and saturates; the pending bit is a count that is
not 0 (R356). -/
def State.raiseIntr (s : State) (vd vec : Nat) : State :=
  let d := s.vdev vd
  s.setVdev { d with intr := smSet 0 d.intr vec (min 65535 (smGet 0 d.intr vec + 1)) }

/-- Adds to a counter of a device (R354). -/
def State.count (s : State) (vd n k : Nat) : State :=
  let d := s.vdev vd
  s.setVdev { d with counters := smSet 0 d.counters n ((smGet 0 d.counters n + k) % 2 ^ 64) }

/-- Appends a record to a device's trap log (R251, R364). -/
def State.appendTrap (s : State) (vd : Nat) (r : List Byte) : State :=
  let d := s.vdev vd
  let base := d.tlogb.toNat / 4096 * 4096
  if base = 0 ∨ (d.tlogh + 1) % 128 = d.tlogt then s.setVdev { d with tlogo := (d.tlogo + 1) % 2 ^ 32 }
  else
    let s1 := (s.writeDpa d.tkey (base + 32 * d.tlogh) r).setVdev { d with tlogh := (d.tlogh + 1) % 128 }
    if d.tlogh = d.tlogt then s1.raiseIntr vd d.tlv.toNat else s1

/-- Appends a record to a device's race log (R301, R364). -/
def State.appendRace (s : State) (vd : Nat) (r : List Byte) : State :=
  let d := s.vdev vd
  let base := d.rlogb.toNat / 4096 * 4096
  if base = 0 ∨ (d.rlogh + 1) % 128 = d.rlogt then s.setVdev { d with rlogo := (d.rlogo + 1) % 2 ^ 32 }
  else (s.writeDpa d.tkey (base + 32 * d.rlogh) r).setVdev { d with rlogh := (d.rlogh + 1) % 128 }

/-- An answer that the outside sees. -/
def State.emit (s : State) (o : Output) : State := { s with outbox := s.outbox ++ [o] }

/-! ## Memory errors (R341-R343) -/

/-- Records an error in the fault-address queue of a stack (R342). -/
def State.noteIn (s : State) (stack addr typ : Nat) : State :=
  let q := smGet [] s.faultQ stack
  if q.any (fun e => e.addr == addr) then
    let q1 := q.map fun e => if e.addr = addr then { e with count := min 65535 (e.count + 1) } else e
    { s with faultQ := smSet [] s.faultQ stack q1 }
  else if 256 ≤ q.length then { s with faultOver := smSet 0 s.faultOver stack (smGet 0 s.faultOver stack + 1) }
  else { s with faultQ := smSet [] s.faultQ stack (q ++ [⟨addr, typ, 1, s.tick % 2 ^ 32⟩]) }

/-- Records an error of a sector in its stack's fault-address queue (R342); the stack is that of the sector's
pseudo-channel, and memory behind a CXL port or the host has none. -/
def State.noteError (s : State) (addr typ : Nat) : State :=
  if isDevice addr then s.noteIn (pcOf addr / 64) addr typ else s

/-- Firmware adds a page to the bad-page list, or reports that it is full; the pages of the list are withheld from the
next bring-up on (R343). -/
def State.listPage (s : State) (page : Nat) : State :=
  if s.badList.contains page then s
  else if 4096 ≤ s.badList.length then s.emit (.refusal page)
  else { s with badList := s.badList ++ [page] }

/-- A soft error of a sector is found: a corrected one is logged; an uncorrectable one poisons the sector, and lists its
page the second time (R341-R343). -/
def State.foundError (s : State) (sec : Nat) : State :=
  let found := smGet 0 s.softErrors sec
  let s1 := { s with softErrors := smSet 0 s.softErrors sec 0 }
  if found = 1 then s1.noteError (32 * sec) 1
  else if found = 2 then
    let page := sec / 128
    let n := smGet 0 s1.ueCount page + 1
    let s2 := { s1.noteError (32 * sec) 2 with
      poison := if s1.poison.contains sec then s1.poison else sec :: s1.poison
      ueCount := smSet 0 s1.ueCount page n }
    if n = 2 then s2.listPage page else s2
  else s1

/-- A read of bytes of memory finds the soft errors of their sectors (R341). -/
def State.readErrors (s : State) (refs : List ByteRef) : State :=
  if s.softErrors = [] then s
  else
    ((s.softErrors.map fun e => e.1).filter fun sec => refs.any fun r => !r.spad && sectorOf r.addr == sec).foldl
      State.foundError s

/-- The dies on which resources lie. -/
def resDies (r : Resources) : List Nat :=
  [0, 1, 2, 3].filter fun d =>
    r.cores.any (fun c => c / 64 == d) || r.bankChannels.any (fun c => c / 128 == d)
      || r.extents.any fun e => (List.range (2 ^ e.pcn)).any fun i => (e.pcf + i * 2 ^ e.pcs) % 512 / 128 == d

/-- Whether an extent keeps a cell of a channel that none of some extents given away holds: where the first byte left
would stand, at its start or at an end of one given away. -/
def extentLeft (e : Extent) (gone : List Extent) (ch : Nat) : Bool :=
  let on := gone.filter fun f => (List.range (2 ^ f.pcn)).any fun i => (f.pcf + i * 2 ^ f.pcs) % 512 == ch
  (e.lo :: on.map fun f => f.hi).any fun x =>
    decide (e.lo ≤ x ∧ x < e.hi) && !(on.any fun f => decide (f.lo ≤ x ∧ x < f.hi))

/-- The dies on which a partition holds resources, without what its children hold: the ND of R351 (R347, R353). -/
def State.partDies (s : State) (p : Part) : List Nat :=
  let gone := (s.parts.filter fun q => q.parent == some p.num).flatMap fun q => q.res.extents
  [0, 1, 2, 3].filter fun d =>
    p.res.cores.any (fun c => c / 64 == d) || p.res.bankChannels.any (fun c => c / 128 == d)
      || p.res.extents.any fun e => (List.range (2 ^ e.pcn)).any fun i =>
          let ch := (e.pcf + i * 2 ^ e.pcs) % 512
          ch / 128 == d && extentLeft e gone ch

/-- The dies on which a partition holds cores (R30). -/
def resCoreDies (r : Resources) : List Nat :=
  [0, 1, 2, 3].filter fun d => r.cores.any fun c => c / 64 == d

/-- No limit (R350). -/
def noLimit : Nat := 2 ^ 40 - 1

/-- A budget at reset (R350). -/
def freshBudget : Budget := ⟨noLimit, false, false, []⟩

/-- A die at bring-up: its arithmetic clock at 2.4 GHz, power state D0, the governor budgets full (R1, R373). -/
def freshDie : Die := ⟨24, 0, 8⟩

/-- A die of the package. -/
def State.die (s : State) (d : Nat) : Die := smGet freshDie s.dies d

/-- A budget of a partition. -/
def Part.budget (p : Part) (k : Nat) : Budget := smGet freshBudget p.budgets k

/-- Adds a charge to a budget of a partition at a place where it is counted (R351). -/
def Part.charge (p : Part) (place k n : Nat) : Part :=
  let b := p.budget k
  { p with budgets := smSet freshBudget p.budgets k { b with used := smSet 0 b.used place (smGet 0 b.used place + n) } }

/-- A partition and its parent, whose budgets a device's requests charge (R351). -/
def State.payers (s : State) (vd : Nat) : List Nat :=
  let own := (s.vdev vd).part
  match s.part own with
  | some p => own :: p.parent.toList
  | none => []

/-- One charge of a request: where it is counted (a die 0-3; 4 and 5 the CXL ports; 8 and on the Perzil links), the budget,
its units, and whether they are written (R350; the numbering of ports and links is the model's own). -/
structure Charge where
  place : Nat
  k : Nat
  n : Nat
  write : Bool
  deriving DecidableEq, Repr

/-- The governor budget of an activity at full value over a period of 10 µs, as R1's rates give it for one die; an activity
that has none admits all (R373; DEDUCED: log entry 103). -/
def governorFull (k : Nat) : Option Nat :=
  match k with
  | 0 => some 768000
  | 1 => some 1536000
  | 2 => some 12288000
  | 4 => some 1536000
  | 5 => some 1406250
  | 6 => some 93750
  | _ => none

/-- The die whose governor counts what is charged at a place: three Perzil links to each die (R373; log entry 103). -/
def governorDie (place : Nat) : Nat := if 8 ≤ place then (place - 8) / 3 else place

/-- Charges a budget at a place: of a device's partition and of its parent, and of the die's governor where its budgets are
lowered (R351, R373). -/
def State.charge (s : State) (vd place k n : Nat) : State :=
  if n = 0 then s
  else
    let ids := s.payers vd
    let d := governorDie place
    { s with
      parts := s.parts.map fun p => if ids.contains p.num then p.charge place k n else p
      governorUsed :=
        if (s.die d).eighths < 8 ∧ (governorFull k).isSome = true then
          smSet 0 s.governorUsed (16 * d + k) (smGet 0 s.governorUsed (16 * d + k) + n)
        else s.governorUsed }

/-- Whether a budget of a partition is exhausted at a place, and if so whether it refuses (R350, R351). -/
def State.spent (s : State) (p : Part) (place k : Nat) : Option Bool :=
  let b := p.budget k
  if b.en && decide (b.limit ≠ noLimit) then
    if b.limit / max 1 (s.partDies p).length ≤ smGet 0 b.used place then some (b.refuse && !([1, 2, 4].contains k)) else none
  else none

/-- Whether the governor's budget of an activity is exhausted on a die (R2, R373). -/
def State.governed (s : State) (place k : Nat) : Bool :=
  let d := governorDie place
  let e := (s.die d).eighths
  match governorFull k with
  | some full => decide (e < 8 ∧ full * e / 8 ≤ smGet 0 s.governorUsed (16 * d + k))
  | none => false

/-- What becomes of a request (R351, R373): admitted, refused by a budget, or deferred to a tick. -/
inductive Verdict where
  | admitted
  | refuse (k : Nat)
  | defer (tick : Nat)
  deriving DecidableEq, Repr

/-- The budgets by which a partition refuses some charges. -/
def State.refusesBy (s : State) (p : Part) (cs : List Charge) : List Nat :=
  (cs.filter fun c => s.spent p c.place c.k == some true).map fun c => c.k

/-- The partitions that pay for a device's requests. -/
def State.payingParts (s : State) (vd : Nat) : List Part := (s.payers vd).filterMap s.part

/-- What becomes of a device's request that makes some charges: any exhausted budget that refuses, the lowest first;
else the next period of the budgets, or of the governor (R351, R373). -/
def State.verdict (s : State) (vd : Nat) (cs : List Charge) : Verdict :=
  let ps := s.payingParts vd
  match ps.flatMap fun p => s.refusesBy p cs with
  | k :: r => .refuse (r.foldl min k)
  | [] =>
    if ps.any fun p => cs.any fun c => (s.spent p c.place c.k).isSome then .defer ((s.tick / 100000 + 1) * 100000)
    else if cs.any fun c => s.governed c.place c.k then .defer ((s.tick / 10000 + 1) * 10000)
    else .admitted

/-- Whether a device's activity that no budget refuses waits (R350, R351, R373). -/
def State.heldBack (s : State) (vd place k : Nat) : Bool := s.verdict vd [⟨place, k, 1, false⟩] != .admitted

/-- Logs a refused request in a partition's budget log (R352, R353). -/
def State.logBudget (s : State) (part addr k die : Nat) : State :=
  { s with
    parts := s.parts.map fun p =>
      if p.num ≠ part then p
      else if (p.blogh + 1) % 64 = p.blogt then { p with blogo := (p.blogo + 1) % 2 ^ 32 }
      else
        { p with
          blog := smSet ⟨0, 0, 0, 0⟩ p.blog p.blogh ⟨addr, k, die, s.tick % 2 ^ 32⟩
          blogh := (p.blogh + 1) % 64 } }

/-- A request at an address is refused: logged in every partition that refuses it, under the lowest budget by which that
partition does, and counted (R351, R354, R361). -/
def State.noteRefusal (s : State) (vd die : Nat) (cs : List Charge) (addr : Nat) : State :=
  ((s.payingParts vd).foldl
    (fun u p =>
      match s.refusesBy p cs with
      | k :: r => u.logBudget p.num addr (r.foldl min k) die
      | [] => u) s).count vd 14 1

/-- Adds a charge to those of a request, at its place if that is listed. -/
def addCharge (c : Charge) : List Charge → List Charge
  | [] => [c]
  | x :: r => if x.place = c.place ∧ x.k = c.k ∧ x.write = c.write then { x with n := x.n + c.n } :: r else x :: addCharge c r

/-- The 64-byte units of cells, each given as its canonical address and the address that homes it; each unit with the latter. -/
def unitsOf (cells : List (Nat × Nat)) : List (Nat × Nat) :=
  (cells.foldl (fun acc c => if acc.any (fun u => u.1 == c.1 / 64) then acc else (c.1 / 64, c.2) :: acc) []).reverse

/-- The charges of a unit that is read or written from a die: at its pseudo-channel, CXL port or host attachment, and on a
die-to-die link, at the die that sends it, where its home die is another (R337, R350). -/
def unitCharges (die : Nat) (write : Bool) (u : Nat × Nat) : List Charge :=
  let c := 64 * u.1
  let home := (homeOf u.2).1
  let near : Charge :=
    if isDevice c then ⟨pcOf c / 128, 0, 1, write⟩
    else
      match portOf c with
      | some p => ⟨4 + p, 8, 1, write⟩
      | none => ⟨home, 7, 1, write⟩
  if home = die then [near] else [near, ⟨if write then die else home, 5, 1, write⟩]

/-- The charges of an access to cells from a die (R337, R350; every access counts as reaching memory, DESIGN CHOICE, log
entry 21). -/
def chargesOf (die : Nat) (read write : Bool) (cells : List (Nat × Nat)) : List Charge :=
  let units := unitsOf cells
  let each := fun (w : Bool) => units.flatMap fun u => unitCharges die w u
  (((if read then each false else []) ++ if write then each true else []).foldl (fun l c => addCharge c l) [])

/-- The cells of bytes that are homed by their own addresses. -/
def cellsOf (refs : List ByteRef) : List (Nat × Nat) := (refs.filter fun r => !r.spad).map fun r => (r.addr, r.addr)

/-- Makes the charges of an admitted request of a device, and counts its device memory in counters 6 and 7 (R351, R354). -/
def State.pay (s : State) (vd : Nat) (cs : List Charge) : State :=
  cs.foldl
    (fun s c =>
      let s1 := s.charge vd c.place c.k c.n
      if c.k = 0 then s1.count vd (if c.write then 7 else 6) (64 * c.n) else s1) s

/-- Charges an access of a device from a die (R350, R351, R354). -/
def State.chargeAccess (s : State) (vd die : Nat) (read write : Bool) (cells : List (Nat × Nat)) : State :=
  s.pay vd (chargesOf die read write cells)

/-! ## Translations (R331-R334) -/

/-- What an access's translations leave: a page or range that no buffer holds is walked, which is charged and never held, and
a valid one is held from then on (R333, R351). -/
def State.fillXl (s : State) (vd die : Nat) (vas : List Nat) : State :=
  (s.looks (s.vdev vd) vas).foldl
    (fun u p =>
      if u.cached.contains ⟨vd, p.2⟩ then u
      else
        let u1 := u.chargeAccess vd die true false ((s.tableReads (s.vdev vd) (4096 * p.1)).map fun c => (c, c))
        if p.2.valid then { u1 with cached := u1.cached ++ [⟨vd, p.2⟩] } else u1) s

/-- Why an address gives no byte: a cause, or a missing translation (`none`) with its HOLD bit; and the address. -/
structure Miss where
  cause : Option Cause
  addr : Nat
  hold : Bool
  deriving DecidableEq, Repr

/-- A byte of memory at a virtual address, its lookup at hand. -/
def State.refAt (s : State) (d : VDev) (ls : List (Nat × Look)) (n : Need) (engine : Bool) (va : Nat) :
    Except Miss ByteRef :=
  match s.xlateLook d (lookIn ls va) va n engine with
  | .ok dpa key _ => .ok ⟨false, canonOf dpa, key⟩
  | .trap c => .error ⟨some c, va, false⟩
  | .missing h => .error ⟨none, va, h⟩

/-- The bytes at a list of virtual addresses, or the first that is none. -/
def State.refsOf (s : State) (d : VDev) (ls : List (Nat × Look)) (n : Need) (engine : Bool) :
    List Nat → Except Miss (List ByteRef)
  | [] => .ok []
  | va :: r =>
    match s.refAt d ls n engine va with
    | .error m => .error m
    | .ok b =>
      match s.refsOf d ls n engine r with
      | .error m => .error m
      | .ok bs => .ok (b :: bs)

/-- The bytes [va, va + n) of a device's virtual memory, as stored. -/
def State.vaRefs (s : State) (d : VDev) (va n : Nat) (need : Need) (engine : Bool) : Except Miss (List ByteRef) :=
  let vas := (List.range n).map fun i => (va + i) % 2 ^ 64
  s.refsOf d (s.looks d vas) need engine vas

/-- The values of bytes of memory. -/
def State.bytesAt (s : State) (refs : List ByteRef) : List Byte := refs.map fun r => s.byteUnder r.key r.addr

/-- Writes bytes of memory in order. -/
def State.putBytes (s : State) (l : List (ByteRef × Byte)) : State :=
  s.writeBytes (l.map fun p => (p.1.addr, p.1.key, p.2))

/-- Reads `n` bytes at a virtual address for a cadence processor or a trap entry; what the read finds is in
`readErrors`. -/
def State.vaRead (s : State) (vd va n : Nat) : Except Miss (List Byte) :=
  match s.vaRefs (s.vdev vd) va n ⟨true, false, false⟩ false with
  | .ok refs => .ok (s.bytesAt refs)
  | .error m => .error m

/-- Writes bytes at a virtual address for a cadence processor. -/
def State.vaWrite (s : State) (vd va : Nat) (bs : List Byte) : Except Miss State :=
  match s.vaRefs (s.vdev vd) va bs.length ⟨false, true, false⟩ false with
  | .ok refs => .ok (s.putBytes (refs.zip bs))
  | .error m => .error m

/-- A page-fault record for a missing page, or the unanswered one that it joins; `none` where the queue is full,
which is an answer of fail (R318, R346). The walk that found nothing is charged (R351). -/
def State.pageFault (s0 : State) (vd die va kind : Nat) : State × Option Nat :=
  let s := s0.fillXl vd die [va]
  let page := va / 4096
  match s.pfrecs.find? fun r => r.vd == vd && r.page == page && r.die == die with
  | some r => (s, some r.id)
  | none =>
    let d := s.vdev vd
    if (d.pfqh + 128 - d.pfqt) % 128 = 127 then (s, none)
    else
      let bytes := natBytes 8 (4096 * page) ++ natBytes 4 d.pfNext ++ natBytes 1 kind ++ natBytes 1 die ++
        natBytes 2 0 ++ natBytes 8 (s.tickOf vd) ++ natBytes 8 0
      let s1 := s.writeDpa d.tkey (d.pfqb.toNat / 4096 * 4096 + 32 * d.pfqh) bytes
      let s2 := (s1.setVdev { d with pfqh := (d.pfqh + 1) % 128, pfNext := (d.pfNext + 1) % 2 ^ 32 }).count vd 11 1
      let s3 := if d.pfqh = d.pfqt then s2.raiseIntr vd d.pfv.toNat else s2
      ({ s3 with pfrecs := s3.pfrecs ++ [⟨d.pfNext, vd, page, die, s.tick⟩] }, some d.pfNext)

/-- The code of a level in its record (R14). -/
def LevelKind.code : LevelKind → Nat
  | .launch => 1 | .graph => 2 | .phase => 3 | .job => 4

/-- A completion record's 32 bytes (R14); while the level is pending every field but STATE is zero (R16). -/
def Level.bytes (l : Level) : List Byte :=
  natBytes 4 (l.state + if l.state = 1 then 0 else 16 * l.kind.code) ++ natBytes 4 l.opened ++ natBytes 4 l.done ++ natBytes 4 l.canc
    ++ natBytes 8 l.tstart ++ natBytes 8 l.tend

/-- Writes a level's record to memory. Of a record whose address no longer translates when the level changes R14 says
nothing: it is not written, and the level goes on (DESIGN CHOICE, log entry 93). -/
def State.writeRecord (s : State) (l : Level) : State :=
  match l.record with
  | none => s
  | some a =>
    match s.vaWrite l.vd a.toNat l.bytes with
    | .ok s1 => s1
    | .error _ => s

/-- Changes a level and writes its record. -/
def State.modLevel (s : State) (id : Nat) (f : Level → Level) : State :=
  match s.level id with
  | none => s
  | some l =>
    let l1 := f l
    ({ s with levels := replaceFirst (fun m => m.id == id) l1 s.levels }).writeRecord l1

/-- Counts a child of a level as done or cancelled (R12, R14). -/
def State.childDone (s : State) (id : Nat) (canc : Bool) : State :=
  s.modLevel id fun l =>
    { l with
      opened := l.opened - 1
      done := if canc then l.done else l.done + 1
      canc := if canc then l.canc + 1 else l.canc }

/-- Counts a child of a level as started (R14). -/
def State.childOpen (s : State) (id : Nat) : State :=
  s.modLevel id fun l => { l with opened := l.opened + 1 }

/-- Whether a block is being pre-empted, so that no budget defers its requests (R316). -/
def State.preempting (s : State) (block : Nat) : Bool :=
  match s.blockOf block with
  | some b => b.preemptFrom.isSome
  | none => false

end Sys2Proof.Machine
end

