-- ==== Sys2Proof/Machine/Ops.lean ====
section
/-! DEFINITION. The shared operations of strands and gangs: focus, registers with the transient bypass (R105) and
the written set (R259), the removal of lanes (R37), joins, merges and the rendezvous (R34-R36, R143), taking a
trap (R250-R253), stopping a gang (R251, R377), the end of a unit (R12, R162), and the issue of a word. -/

namespace Sys2Proof.Machine

/-! ## Focus: one strand stands apart from its gang while an instruction of it runs -/

/-- Puts a strand into a strand table in order of its entry. -/
def insertStrand (t : Strand) : List Strand → List Strand
  | [] => [t]
  | u :: r => if t.idx ≤ u.idx then t :: u :: r else u :: insertStrand t r

/-- Puts a gang into a list in order of admission. -/
def insertGang (g : Gang) : List Gang → List Gang
  | [] => [g]
  | h :: r => if g.id ≤ h.id then g :: h :: r else h :: insertGang g r

/-- The focused gang with its focused strand. -/
def State.whole (s : State) : Gang := { s.g with strands := insertStrand s.t s.g.strands }

/-- Puts the focused strand and gang back. -/
def State.unfocus (s : State) : State :=
  if s.focused then
    { s with focused := false, gangs := insertGang s.whole s.gangs, g := Gang.init, t := Strand.init }
  else s

/-- Focuses a strand; nothing is focused where there is none. -/
def State.focus (s : State) (gid idx : Nat) : State :=
  let s := s.unfocus
  match s.gangs.find? fun g => g.id == gid with
  | none => s
  | some g =>
    match g.strands.find? fun t => t.idx == idx with
    | none => s
    | some t =>
      { s with
        focused := true
        g := { g with strands := g.strands.filter fun u => u.idx != idx }
        t := t
        gangs := s.gangs.filter fun h => h.id != gid }

/-- A gang by number, whole. -/
def State.gangOf (s : State) (gid : Nat) : Option Gang :=
  if s.focused && s.g.id == gid then some s.whole else s.gangs.find? fun g => g.id == gid

/-- Changes a gang's own fields, focused or not. -/
def State.modGang (s : State) (gid : Nat) (f : Gang → Gang) : State :=
  if s.focused && s.g.id == gid then { s with g := f s.g }
  else { s with gangs := s.gangs.map fun g => if g.id == gid then f g else g }

/-- Puts back a whole gang that is not focused. -/
def State.putGang (s : State) (g : Gang) : State :=
  { s with gangs := replaceFirst (fun h => h.id == g.id) g s.gangs }

/-- Changes the strand of a gang that holds a lane. -/
def State.modLaneStrand (s : State) (gid lane : Nat) (f : Strand → Strand) : State :=
  let has := fun (t : Strand) => t.active.getLsbD lane
  if s.focused && s.g.id == gid && has s.t then { s with t := f s.t }
  else
    s.modGang gid fun g => { g with strands := g.strands.map fun t => if has t then f t else t }

/-- Changes a strand by its table entry. -/
def State.modStrand (s : State) (gid idx : Nat) (f : Strand → Strand) : State :=
  if s.focused && s.g.id == gid && s.t.idx == idx then { s with t := f s.t }
  else
    s.modGang gid fun g => { g with strands := g.strands.map fun t => if t.idx == idx then f t else t }

/-- The strand of a gang that issued an operation, or into which the one that did has gone: among those that have it
before their next instruction, the one of the entry, else that of the lowest lane. -/
def State.issuerOf (s : State) (gid idx op : Nat) : Option Nat :=
  match s.gangOf gid with
  | none => none
  | some g =>
    let ts := g.strands.filter fun t => t.issued.contains op
    if ts.any fun t => t.idx == idx then some idx
    else
      (ts.foldl
        (fun (b : Option Strand) t =>
          match b with
          | some u => if lowLane u.active ≤ lowLane t.active then some u else some t
          | none => some t) none).map fun t => t.idx

/-- Changes the strand that issued an operation. -/
def State.modIssuer (s : State) (gid idx op : Nat) (f : Strand → Strand) : State :=
  match s.issuerOf gid idx op with
  | some k => s.modStrand gid k f
  | none => s

/-- Every lane of a gang (R32). -/
def Gang.lanes (g : Gang) : Mask := BitVec.ofNat 64 (2 ^ g.width - 1)

/-- The lanes that have not exited. -/
def Gang.live (g : Gang) : Mask := g.lanes &&& ~~~g.exited

/-- The slices that a mask spans (R38). -/
def slicesOf (m : Mask) : List Nat := (List.range 8).filter fun j => (m >>> (8 * j)) &&& 0xFF ≠ 0

/-- One of a list of numbers that the manual does not choose among: a free value (log entry 3). -/
def State.pickFree (s : State) (l : List Nat) : State × Nat :=
  ({ s with freeCount := s.freeCount + 1 }, l.getD (Config.freeNat s.freeCount % l.length) 0)

/-! ## Registers -/

/-- A strand's transient record of a register: V registers count from 0, S registers from 128. -/
def transOf (t : Strand) (reg : Nat) : Option Trans := t.trans.find? fun x => x.reg == reg

/-- A V register of a lane as the register file holds it. -/
def Gang.readV (g : Gang) (r l : Nat) : Word := smGet 0 g.vregs (64 * r + l)

/-- Writes a V register of a lane in the register file. -/
def Gang.writeV (g : Gang) (r l : Nat) (v : Word) : Gang := { g with vregs := smSet 0 g.vregs (64 * r + l) v }

/-- A V register of a lane as the focused strand reads it (R105). -/
def State.readV (s : State) (r l : Nat) : Word :=
  match transOf s.t r with
  | none => s.g.readV r l
  | some x =>
    match x.vals.find? fun p => p.1 == l with
    | some p => if x.kind = .live then p.2 else 0
    | none => s.g.readV r l

/-- An S register as a strand reads it (R105). -/
def Strand.readS (t : Strand) (r : Nat) : Word :=
  match transOf t (128 + r) with
  | none => smGet 0 t.sregs r
  | some x =>
    if x.kind = .live then
      match x.vals.head? with
      | some p => p.2
      | none => 0
    else 0

/-- An S register as the focused strand reads it. -/
def State.readS (s : State) (r : Nat) : Word := s.t.readS r

/-- An S pair, the low register holding bits [31:0] (R108). -/
def State.readPair (s : State) (r : Nat) : Addr := s.readS (r + 1) ++ s.readS r

/-- A predicate over the lanes; P7 reads true (R108). -/
def Gang.readP (g : Gang) (n : Nat) : Mask := if n = 7 then BitVec.allOnes 64 else smGet 0 g.pregs n

/-- A scalar condition. -/
def State.readQ (s : State) (n : Nat) : Bool := s.t.qregs.getLsbD n

/-- Adds a unit of state to the written set of a strand that has a mark (R259): V0-V127 as 0-127, S from 128, P
from 192, Q from 200, accumulator tiles from 204, the bit tiles 208, slots by handle from 212. -/
def Strand.note (t : Strand) (n : Nat) : Strand :=
  if t.mark.isSome && !(t.written.contains n) then { t with written := n :: t.written } else t

/-- Notes bytes that a clean strand reads (R194, R247). -/
def Strand.readsBytes (t : Strand) (refs : List ByteRef) : Strand :=
  if t.clean then { t with readBytes := refs ++ t.readBytes } else t

/-- Notes bytes that a strand stores to: it stops being clean when it has read one of them since its mark (R194,
R247). -/
def Strand.writesBytes (t : Strand) (refs : List ByteRef) : Strand :=
  if t.clean then
    { t with
      clean := !(refs.any fun r => t.readBytes.any fun q => q.spad == r.spad && q.addr == r.addr)
      wroteBytes := refs ++ t.wroteBytes }
  else t

/-- Notes gang storage that a clean strand reads, in the numbering of the written set (R247). -/
def Strand.readsUnit (t : Strand) (n : Nat) : Strand :=
  if t.clean then { t with readUnits := n :: t.readUnits } else t

/-- Notes gang storage that a strand writes: it stops being clean when it has read it since its mark (R247). -/
def Strand.writesUnit (t : Strand) (n : Nat) : Strand :=
  let u := t.note n
  if u.clean && u.readUnits.contains n then { u with clean := false } else u

/-- Ends the transient record of a register that is written without T (R105). -/
def Strand.settle (t : Strand) (reg : Nat) : Strand :=
  if t.trans.any (fun x => x.reg == reg) then { t with trans := t.trans.filter fun x => x.reg != reg } else t

/-- Ends the transient values of registers and lanes in which a result lands (R102, R105). -/
def Strand.land (t : Strand) (cells : List (Nat × Nat)) : Strand :=
  if t.trans = [] then t
  else
    { t with
      trans := (t.trans.map fun x => { x with vals := x.vals.filter fun v => !(cells.contains (x.reg, v.1)) }).filter fun x =>
        decide (x.vals ≠ []) }

/-- The results of an operation land in registers of a gang: in whichever strand they are transient, they no longer are
(R102, R105). -/
def State.landed (s : State) (gid : Nat) (cells : List (Nat × Nat)) : State :=
  let s1 := s.modGang gid fun g => { g with strands := g.strands.map fun t => t.land cells }
  if s1.focused && s1.g.id == gid then { s1 with t := s1.t.land cells } else s1

/-- Records a transient result (R105). -/
def Strand.bypass (t : Strand) (reg : Nat) (vals : List (Nat × Word)) : Strand :=
  { t with trans := ⟨reg, .live, vals, 0⟩ :: t.trans.filter fun x => x.reg != reg }

/-- Writes an S register of a strand. -/
def Strand.setS (t : Strand) (r : Nat) (v : Word) : Strand :=
  let u := (t.settle (128 + r)).note (128 + r)
  { u with sregs := smSet 0 u.sregs r v }

/-- Writes an S register: to the bypass with T = 1 (R105). -/
def State.writeS (s : State) (p : Pre) (r : BitVec 7) (v : Word) : State :=
  { s with t := if p.t then s.t.bypass (128 + r.toNat) [(0, v)] else s.t.setS r.toNat v }

/-- Writes an S pair (R108). -/
def State.writePair (s : State) (r : BitVec 7) (v : Addr) : State :=
  { s with t := (s.t.setS r.toNat (v.extractLsb' 0 32)).setS (r.toNat + 1) (v.extractLsb' 32 32) }

/-- Writes lanes of a V register of the focused strand without T. -/
def State.setV (s : State) (r : Nat) (vals : List (Nat × Word)) : State :=
  { s with
    t := if vals = [] then s.t else (s.t.settle r).note r
    g := vals.foldl (fun g p => g.writeV r p.1 p.2) s.g }

/-- Writes lanes of a V register: to the bypass with T = 1 (R105). -/
def State.writeV (s : State) (p : Pre) (r : BitVec 7) (vals : List (Nat × Word)) : State :=
  if p.t then { s with t := s.t.bypass r.toNat vals } else s.setV r.toNat vals

/-- Writes a V register in every active lane. -/
def State.mapV (s : State) (p : Pre) (r : BitVec 7) (f : Nat → Word) : State :=
  s.writeV p r ((lanesOf s.t.active).map fun l => (l, f l))

/-- Writes a predicate on the active lanes. -/
def State.writeP (s : State) (n : Nat) (v : Mask) : State :=
  { s with
    t := s.t.note (192 + n)
    g := { s.g with pregs := smSet 0 s.g.pregs n ((s.g.readP n &&& ~~~s.t.active) ||| (v &&& s.t.active)) } }

/-- Writes a scalar condition of a strand. -/
def Strand.setQ (t : Strand) (n : Nat) (b : Bool) : Strand :=
  let u := t.note (200 + n)
  { u with qregs := if b then u.qregs ||| (1#4 <<< n) else u.qregs &&& ~~~(1#4 <<< n) }

/-- Writes a scalar condition. -/
def State.writeQ (s : State) (n : BitVec 2) (b : Bool) : State := { s with t := s.t.setQ n.toNat b }

/-- Expires every live transient result of a strand (R105, R250). -/
def Strand.expire (t : Strand) : Strand :=
  if t.trans = [] then t
  else { t with trans := t.trans.map fun x => if x.kind = .live then { x with kind := .expired } else x }

/-- Counts a result-writing instruction against the strand's live transients. -/
def Strand.age (t : Strand) : Strand :=
  if t.trans = [] then t else { t with trans := t.trans.map fun x => { x with since := x.since + 1 } }

/-- Expires the live transients whose third later result has been written (R105). -/
def Strand.ripen (t : Strand) : Strand :=
  if t.trans = [] then t
  else { t with trans := t.trans.map fun x => if x.kind = .live ∧ 3 ≤ x.since then { x with kind := .expired } else x }

/-! ## The program counter -/

/-- The number of words of a clause (R95). -/
def Clause.cnt (c : Clause) : Nat := (c.word.extractLsb' 28 4).toNat

/-- The address past a clause (R96). -/
def Clause.past (c : Clause) : Addr := c.hdr + BitVec.ofNat 64 (4 * (c.cnt + 1))

/-- A strand past `n` words; past the last word of its clause, at the next clause header, where its transients
end (R96, R105). -/
def Strand.advance (t : Strand) (n : Nat) : Strand :=
  let pc := t.pc + BitVec.ofNat 64 (4 * n)
  match t.clause with
  | none => { t with pc := pc }
  | some c => if pc = c.past then { t.expire with pc := pc, clause := none } else { t with pc := pc }

/-- A strand that continues at an address, to be decoded as a clause header (R107). -/
def Strand.jump (t : Strand) (a : Addr) : Strand := { t.expire with pc := a, clause := none }

/-- The index of the current word in its clause. -/
def Strand.wordIndex (t : Strand) : Nat :=
  match t.clause with
  | some c => (t.pc - c.hdr).toNat / 4 - 1
  | none => 0

/-- The word at a place from the current one. -/
def Strand.wordAt (t : Strand) (k : Nat) : Word :=
  match t.clause with
  | some c => c.words.getD (t.wordIndex + k) 0
  | none => 0

/-- The header address of the current clause; the pc at a clause boundary. -/
def Strand.header (t : Strand) : Addr :=
  match t.clause with
  | some c => c.hdr
  | none => t.pc

/-- The words an instruction occupies. -/
def wordsOf (i : Instr) : Nat := (encode i).length

/-- What the strand does after an instruction: goes on to the next word, continues at an address, waits at this
word, has been placed by the instruction itself, finds that the instruction cannot issue yet (R303), or meets a recoverable
fault at an address, with the kind of its record and the trap that an answer of fail raises (R319). -/
inductive Next where
  | seq
  | jump (a : Addr)
  | stay
  | done
  | held (h : Hold)
  | miss (va kind : Nat) (tr : Trap)
  deriving DecidableEq, Repr

/-- The gap of an instruction word (R104). -/
def gapOf (w : Word) : Nat := (w.extractLsb' 22 2).toNat

/-- The single-step that a strand owes after the instruction at an address (R252, R267). -/
def Strand.stepTrap (t : Strand) (a : Addr) : Trap := ⟨.singleStep, t.active, 0, a.extractLsb' 0 32⟩

/-- Whether a strand waits at an instruction that it has issued. -/
def Strand.waited (t : Strand) : Bool :=
  match t.wait with
  | .none => false
  | .hold _ => false
  | _ => true

/-- Ends the issue of an instruction that goes on (R96, R104, R105, R257, R267); one that had waited was issued when it
began to, and its strand is eligible again from the next cycle. `len` is the number of its words. -/
def Strand.finish (t : Strand) (len : Nat) (cycle : Nat) (step : Bool) (n : Next) : Strand :=
  let owed := if step && !t.handler then some (t.stepTrap t.pc) else none
  let u := { t.ripen with
    wait := .none, prev := if t.waited then t.prev else some cycle, since := if t.waited then cycle + 1 else t.since,
    opens := cycle + 1, ignNext := false, uncheckedNext := false, entered := false,
    barPhase := if t.handler then t.barPhase else none }
  match n with
  | .seq => { u.advance len with owed := owed, owedAt := cycle }
  | .jump a => { u.jump a with owed := owed, owedAt := cycle }
  | _ => t

/-! ## Joins, merges, rendezvous and the removal of lanes -/

/-- The union of the active masks of strands. -/
def unionOf (ts : List Strand) : Mask := ts.foldl (fun m t => m ||| t.active) 0

/-- The strand that holds the lowest lane. -/
def lowest : List Strand → Option Strand
  | [] => none
  | t :: r =>
    match lowest r with
    | none => some t
    | some u => if lowLane t.active ≤ lowLane u.active then some t else some u

/-- The transient records of strands put together: lane values of one register stand side by side; the lowest
strand's S registers stand. -/
def joinTrans (low : Strand) (ts : List Strand) : List Trans :=
  let all := ts.flatMap fun t => t.trans.filter fun x => decide (x.reg < 128)
  let regs := (all.map fun x => x.reg).eraseDups
  (low.trans.filter fun x => decide (128 ≤ x.reg)) ++
    regs.map fun r =>
      let xs := all.filter fun x => x.reg == r
      ⟨r, if xs.any (fun x => x.kind = .expired) then .expired else .zero, xs.flatMap fun x => x.vals, 0⟩

/-- The latest cycle in which one of some strands issued (R125, R304). -/
def latestIssue (ts : List Strand) : Option Nat :=
  ts.foldl
    (fun b t =>
      match b, t.prev with
      | some m, some n => some (max m n)
      | none, p => p
      | b, none => b) none

/-- The strand that strands combine into: registers, mode and handler registers from the one with the lowest
lane (R35, R36, R143, R248), the latest issue of any (R125, R304); pending traps kept; it is clean when all were clean in one group (R259). -/
def combine (low : Strand) (ts : List Strand) : Strand :=
  let groups := (ts.map fun t => t.mark.map fun m => m.group).eraseDups
  { low with
    active := unionOf ts
    trans := joinTrans low (ts.map fun t => t.expire)
    wait := .none
    barPhase := none
    pending := ts.flatMap fun t => t.pending
    cancelOwed := ts.any fun t => t.cancelOwed
    owed := ts.findSome? fun t => t.owed
    clean := decide (groups.length ≤ 1) && ts.all fun t => t.clean
    written := (ts.flatMap fun t => t.written).eraseDups
    readBytes := ts.flatMap fun t => t.readBytes
    wroteBytes := ts.flatMap fun t => t.wroteBytes
    readUnits := (ts.flatMap fun t => t.readUnits).eraseDups
    seen := ts.flatMap fun t => t.seen
    issued := (ts.flatMap fun t => t.issued).eraseDups
    prev := latestIssue ts
    since := (latestIssue ts).getD (ts.foldl (fun n t => max n t.since) 0) }

/-- Replaces strands of a gang by the one they combine into; strands of other groups are no longer clean when
groups met (R259). -/
def Gang.merge (g : Gang) (ts : List Strand) (u : Strand) : Gang :=
  let groups := (ts.map fun t => t.mark.map fun m => m.group).eraseDups
  let rest := g.strands.filter fun t => !(ts.any fun x => x.idx == t.idx)
  let rest1 :=
    if groups.length ≤ 1 then rest
    else rest.map fun t => if groups.contains (t.mark.map fun m => m.group) then { t with clean := false } else t
  let halted := rest1.map fun t =>
    match t.haltedBy with
    | some n => if ts.any (fun x => x.idx == n) then { t with haltedBy := some u.idx } else t
    | none => t
  { g with strands := insertStrand u halted }

/-- The parked strands whose top join entry is that of a strand. -/
def Gang.parkedWith (g : Gang) (t : Strand) : List Strand :=
  g.strands.filter fun u => decide (u.wait = .parked ∧ u.joins.head? = t.joins.head?)

/-- Whether the join of a parked strand is complete (R35). -/
def Gang.joinReady (g : Gang) (t : Strand) : Bool :=
  match t.joins.head? with
  | none => true
  | some j => decide (t.wait = .parked ∧ j.rejoin &&& ~~~g.exited &&& ~~~(unionOf (g.parkedWith t)) = 0)

/-- Completes the join of a parked strand (R35). -/
def Gang.completeJoin (g : Gang) (t : Strand) (cycle : Nat) : Gang :=
  let ts := g.parkedWith t
  let low := (lowest ts).getD t
  let u := combine low ts
  let fm := match t.joins.head? with
    | some j => if j.valid then j.saved else low.fmtr
    | none => low.fmtr
  g.merge ts { u with joins := t.joins.tail, fmtr := fm, owed := none, opens := cycle }

/-- The strands parked at REGRP words at one address with a strand. -/
def Gang.regrpWith (g : Gang) (t : Strand) : List Strand :=
  g.strands.filter fun u => decide (u.wait = .regrp ∧ u.pc = t.pc)

/-- Combines the strands of a rendezvous past their REGRP; the one strand owes a single step (R143, R267). -/
def Gang.completeRegrp (g : Gang) (t : Strand) (cycle : Nat) : Gang :=
  let ts := g.regrpWith t
  let low := (lowest ts).getD t
  let u := { combine low ts with joins := [], opens := cycle }
  g.merge ts
    { u.advance 1 with owed := if g.dbgc.getLsbD 20 && !u.handler then some (u.stepTrap u.pc) else none, owedAt := cycle }

/-- Completes the joins and rendezvous of a gang that can complete (R35, R37, R143). -/
def Gang.settle (cycle : Nat) : Nat → Gang → Gang
  | 0, g => g
  | n + 1, g =>
    match g.strands.find? fun t => decide (t.wait = .parked) && g.joinReady t with
    | some t => Gang.settle cycle n (g.completeJoin t cycle)
    | none =>
      match g.strands.find? fun t => decide (t.wait = .regrp ∧ g.live &&& ~~~(unionOf (g.regrpWith t)) = 0) with
      | some t => Gang.settle cycle n (g.completeRegrp t cycle)
      | none => g

/-- Strands whose halting strand is gone are released (R268). -/
def freeHalted (ts : List Strand) : List Strand :=
  ts.map fun t =>
    match t.haltedBy with
    | some n => if ts.any fun u => u.idx == n then t else { t with haltedBy := none }
    | none => t

/-- Removes lanes from a whole gang: from every active mask and every rejoin mask; strands left empty are freed
(R37). -/
def Gang.dropLanes (g : Gang) (m : Mask) : Gang :=
  let strands := (g.strands.map fun t =>
    { t with active := t.active &&& ~~~m, joins := t.joins.map fun j => { j with rejoin := j.rejoin &&& ~~~m } }).filter
      fun t => decide (t.active ≠ 0)
  { g with
    exited := g.exited ||| (m &&& g.lanes)
    strands := freeHalted strands
    xreqs := g.xreqs.filter fun x => strands.any fun t => t.idx == x.strand }

/-- Removes lanes and completes the joins that this completes. -/
def Gang.exitLanes (g : Gang) (m : Mask) (cycle : Nat) : Gang :=
  let h := g.dropLanes m
  Gang.settle cycle (2 * h.strands.length) h

/-! ## Storage and the end of a unit -/

/-- Whether an instruction that has issued still uses an extended block or the base block: 0 V64-V127, 1-4 accumulator tiles,
5 the bit tiles, 6 V0-V63. Its V sources were read at issue (R229). -/
def usesBlock (i : Instr) (what : Nat) : Bool :=
  (i.writes.any fun r =>
    match r with
    | .v n k => (what == 0 && decide (64 < n + k)) || (what == 6 && decide (n < 64))
    | _ => false) ||
    (i.reads ++ i.writes).any fun r =>
      match r with
      | .acc n => what == n + 1
      | .bt => what == 5
      | _ => false

/-- The instruction that the words of a clause hold at the current one; a word that is none raises its trap (R111). -/
def Strand.instruction (t : Strand) : Instr :=
  match decode (t.wordAt 0) (t.wordAt 1) with
  | .ok i => i
  | .error _ => .illegalEncoding (t.wordAt 0)

/-- Whether a strand decodes. -/
def Strand.decodes (t : Strand) : Bool :=
  match t.wait with
  | .decode _ _ => true
  | _ => false

/-- Whether an outstanding operation of a gang, a decode of one of its strands among them, reads or writes an extended block or
its base block (R156, R162, R223). -/
def State.blockBusy (s : State) (gid what : Nat) : Bool :=
  (match s.gangOf gid with
    | some g => g.strands.any fun t => t.decodes && usesBlock t.instruction what
    | none => false) ||
  (s.mops.any fun m => m.gang == gid && usesBlock m.instr what) ||
    s.ops.any fun o => o.gang == gid &&
      match o.kind with
      | .load d sz _ => let k := if sz = 3 then 2 else if sz = 4 then 4 else 1
        (what == 0 && decide (64 < d + k)) || (what == 6 && decide (d < 64))
      | .atom _ d _ _ => (what == 0 && decide (64 ≤ d)) || (what == 6 && decide (d < 64))
      | .tile vs _ _ => (what == 0 && vs.any fun v => decide (64 ≤ v.1)) || (what == 6 && vs.any fun v => decide (v.1 < 64))
      | _ => false

/-- Whether an outstanding operation reads or writes a slot of a core (R228). -/
def State.slotBusy (s : State) (core num : Nat) : Bool :=
  (s.mops.any fun m => m.core == core &&
    match s.gangOf m.gang with
    | none => false
    | some g => (m.instr.reads ++ m.instr.writes).any fun r =>
        match r with
        | .slot k => smGet 32 g.handles k == num
        | _ => false) ||
    s.copies.any fun c => c.core == core &&
      match c.kind with
      | .oload _ n _ _ _ _ => n == num
      | _ => false

/-! ## Extended register blocks (R27, R154): 0 is V64-V127, 1-4 are ACC0-ACC3, 5 is BT0-BT7 -/

/-- Whether a gang holds a block. -/
def Gang.holdsBlock (g : Gang) (what : Nat) : Bool :=
  if what = 0 then g.heldV else if what = 5 then g.heldBt else g.heldAcc.getLsbD (what - 1)

/-- The blocks that a gang holds. -/
def Gang.nheld (g : Gang) : Nat := ((List.range 6).filter g.holdsBlock).length

/-- The pipes of a gang (R9). -/
def Gang.pipes (g : Gang) : List Nat := (List.range (g.width / 8)).map fun i => (g.firstPipe + i) % 8

/-- The slice blocks that a gang occupies on each of its pipes: a live one its base, and what it holds or has
reserved; an exited one what outstanding operations still use; a saved one nothing (R27, R154, R162, R313). -/
def State.slicesHeld (s : State) (g : Gang) : Nat :=
  if g.saved then 0
  else if g.strands ≠ [] then 1 + (if g.xres then max g.xmax g.nheld else g.nheld)
  else
    (if s.blockBusy g.id 6 then 1 else 0) +
      ((List.range 6).filter fun w => g.holdsBlock w && s.blockBusy g.id w).length

/-- Every gang, whole. -/
def State.allGangs (s : State) : List Gang := if s.focused then insertGang s.whole s.gangs else s.gangs

/-- The free slice blocks of a pipe of a core (R27). -/
def State.freeSlices (s : State) (core pipe : Nat) : Nat :=
  32 - (((s.allGangs.filter fun g => g.core == core && g.pipes.contains pipe).map s.slicesHeld).foldl
    (fun a b => a + b) 0)

/-- The least number of free slice blocks over a gang's pipes (R157). -/
def State.leastFree (s : State) (g : Gang) : Nat :=
  (g.pipes.map (s.freeSlices g.core)).foldl min 32

/-- Whether a requested block fits now (R154). -/
def State.blockFits (s : State) (g : Gang) : Bool := g.xres || decide (1 ≤ s.leastFree g)

/-- The keys of an accumulator tile's elements: (row, column) of tile `n` (R231). -/
def accKey (n row col : Nat) : Nat := 4096 * n + 64 * row + col

/-- The gang with a block granted: every register and lane of it reads as zero (R154). -/
def Gang.grant (g : Gang) (what : Nat) : Gang :=
  if what = 0 then { g with heldV := true, vregs := smDrop g.vregs 4096 8192 }
  else if what = 5 then { g with heldBt := true, bt := [] }
  else
    { g with
      heldAcc := g.heldAcc ||| (1#4 <<< (what - 1))
      acc := smDrop g.acc (accKey (what - 1) 0 0) (accKey what 0 0) }

/-- Puts an element into a list ordered by a number. -/
def insertBy {α : Type} (f : α → Nat) (x : α) : List α → List α
  | [] => [x]
  | y :: r => if f x ≤ f y then x :: y :: r else y :: insertBy f x r

/-- A list in order of a number. -/
def sortBy {α : Type} (f : α → Nat) (l : List α) : List α := l.foldr (insertBy f) []

/-- The pending requests for extended blocks on a core, (gang, request), in order of issue (R154). -/
def State.requestsOn (s : State) (core : Nat) : List (Nat × XReq) :=
  sortBy (fun (p : Nat × XReq) => p.2.order)
    ((s.allGangs.filter fun g => g.core == core && !g.saved).flatMap fun g => g.xreqs.map fun x => (g.id, x))

/-- Grants one request where it fits now: its strand goes on past XACQ, no longer clean (R154, R160). -/
def State.grantRequest (s : State) (gid : Nat) (x : XReq) : State :=
  match s.gangOf gid with
  | none => s
  | some g =>
    if s.blockFits g then
      (s.modGang gid fun g => { g.grant x.what with xreqs := g.xreqs.filter fun y => y.order != x.order }).modStrand gid
        x.strand fun t => ({ t with clean := false }).finish 1 s.cycle (g.dbgc.getLsbD 20) .seq
    else s

/-- Storage has been freed on a core: its pending requests are examined in order of issue, and each that now fits is granted
(R154, R162). -/
def State.examine (s : State) (core : Nat) : State :=
  (s.requestsOn core).foldl (fun s p => s.grantRequest p.1 p.2) s

/-- Whether anything that a gang issued is outstanding (R12). -/
def State.outstanding (s : State) (gid : Nat) : Bool :=
  (s.ops.any fun o => o.gang == gid) || (s.mops.any fun m => m.gang == gid) ||
    (s.copies.any fun c => c.gang == gid) || s.banks.any fun b => b.gang == gid

/-- The core number of what a saved block holds: none. -/
def noCore : Nat := 256

/-- Frees the slots of gangs whose lanes have all exited, once no operation uses them; those of a saved gang leave the
core and stay with it (R228, R247, R314). -/
def State.returnSlots (s : State) : State :=
  { s with
    slots := (s.slots.filter fun (k : Slot) =>
      match s.gangOf k.gang with
      | none => false
      | some g => decide (g.strands ≠ []) || (s.focused && s.g.id == g.id) || s.slotBusy k.core k.num).map fun (k : Slot) =>
        match s.gangOf k.gang with
        | some g => if g.saved && !(s.slotBusy k.core k.num) then { k with core := noCore } else k
        | none => k }

/-- Ends a block none of whose gangs is left (R42). -/
def State.endBlock (s : State) (id : Nat) : State :=
  if s.gangs.any (fun g => g.block == id) || (s.focused && s.g.block == id) then s
  else { s with blocks := s.blocks.filter fun b => b.id != id }

/-- Ends a unit whose lanes have all exited and whose operations have all completed: a gang that was stopped
appends its trap record, and the launch counts the unit (R12, R18, R251); what its storage frees goes to pending requests
(R162). The gang is not focused. -/
def State.reap (s : State) (gid : Nat) : State :=
  match s.gangs.find? fun g => g.id == gid with
  | none => s
  | some g =>
    if g.strands ≠ [] then s
    else
      let s0 := s.returnSlots
      if s0.outstanding gid then s0.examine g.core
      else
        let s1 := match g.stopRec with
          | some r => s0.appendTrap g.vd r
          | none => s0
        let s2 := { s1 with gangs := s1.gangs.filter fun h => h.id != gid }
        ((s2.childDone g.launch (g.cancelled || g.killed)).endBlock g.block).examine g.core

/-! ## Interval numbers (R299) -/

/-- The interval numbers stop at 0xFFFE. -/
def capJ (j : Nat) : Nat := min 0xFFFE j

/-- A release of the focused strand raises its gang's interval number after it. -/
def State.released (s : State) : State := { s with g := { s.g with interval := capJ (s.g.interval + 1) } }

/-- An acquire that synchronises with releases carrying at most `j`. -/
def Gang.acquired (g : Gang) (j : Nat) : Gang := { g with interval := capJ (max g.interval j + 1) }

/-- A carried number; 0, which no release carries, stands for none. -/
def carriedNumber (j : Nat) : Option Nat := if j = 0 then none else some j

/-- An acquire of the focused strand; nothing advances where it synchronises with nothing. -/
def State.acquired (s : State) (j : Option Nat) : State :=
  match j with
  | some n => { s with g := s.g.acquired n }
  | none => s

/-! ## Traps -/

/-- Cause codes (R252). -/
def Cause.code : Cause → Nat
  | .illegalEncoding => 0x01 | .emulation => 0x02 | .illegalState => 0x03 | .illegalRole => 0x04
  | .illegalOperand => 0x05 | .scratchpadBounds => 0x08 | .misaligned => 0x09 | .translationFault => 0x0A
  | .protectionFault => 0x0B | .budgetRefusal => 0x0C | .memoryPoison => 0x0D | .headerFormat => 0x0E
  | .missedPromise => 0x10 | .registerStarvation => 0x11 | .raceDetected => 0x12 | .decodeLength => 0x13
  | .conversionError => 0x14 | .software => 0x18 | .breakpoint => 0x19 | .watchpoint => 0x1A
  | .singleStep => 0x1B | .cancel => 0x21

/-- The trap record of a gang that is stopped (R251, R377). -/
def State.trapRecord (s : State) (g : Gang) (c : Cause) (dbl : Bool) (epc addr : Addr) (info : Word) : List Byte :=
  let blk := s.blockOf g.block
  let idx := match blk with | some b => b.index | none => 0
  let num := match s.launchOf g.launch with | some l => l.num | none => 0
  natBytes 4 (c.code + (if dbl then 256 else 0)) ++ natBytes 4 idx ++ natBytes 1 (g.gangIndex.getD 0xFF) ++
    natBytes 1 (dieOf g.core) ++ natBytes 1 (g.core % 64) ++ natBytes 1 num ++ natBytes 4 info.toNat ++
    natBytes 8 epc.toNat ++ natBytes 8 addr.toNat

/-- Failed held arrivals whose strand loses its last lanes, among some that are removed, before it reaches a clause
boundary: each leaves a trap record, and the unit is counted as cancelled (R302). -/
def State.lostArrivals (s : State) (g : Gang) (m : Mask) : State × Gang :=
  let lost := (g.strands.filter fun t => decide (t.active &&& ~~~m = 0)).flatMap fun t =>
    t.pending.filter fun p => p.cause == .illegalState
  (lost.foldl (fun s p => s.appendTrap g.vd (s.trapRecord g .illegalState false (p.info.zeroExtend 64) 0 p.info)) s,
    if lost = [] then g else { g with killed := true })

/-- Stops the focused gang: every lane is removed without executing anything further; the record is appended and
the unit counted once the gang's operations have completed (R251). -/
def State.stopGang (s : State) (c : Cause) (dbl : Bool) (epc addr : Addr) (info : Word) : State :=
  let g := s.whole
  let every := BitVec.allOnes 64
  let r := s.lostArrivals g every
  let h := { g.dropLanes every with killed := true, stopRec := some (s.trapRecord g c dbl epc addr info) }
  let s1 := r.1.unfocus.putGang h
  s1.reap g.id

/-- Removes lanes of the focused strand's gang and leaves nothing focused (R37, R145, R302). -/
def State.exitLanes (s : State) (m : Mask) : State :=
  let r := s.lostArrivals s.whole m
  (r.1.unfocus.putGang (r.2.exitLanes m (s.cycle + 1))).reap r.2.id

/-- The default action of a cause, the handler registers loaded or, inside a handler, kept (R252, R253). -/
def State.defaultAction (s : State) (c : Cause) (epc addr : Addr) (info : Word) : State :=
  match c with
  | .missedPromise => { s with t := { (s.t.setQ 3 true).advance 1 with wait := .none } }
  | .breakpoint =>
    if info.getLsbD 31 then { s with t := s.t.advance 1 } else { s with t := { s.t with ignNext := true } }
  | .watchpoint => { s with t := { s.t with ignNext := true } }
  | .singleStep => s
  | .cancel => s.exitLanes s.t.active
  | _ => s.stopGang c false epc addr info

/-- Enters the handler at a vector-table entry (R250). -/
def State.enterHandler (s : State) (c : Cause) (epc : Addr) (addr : Addr) (info : Word) : State :=
  let debug := c = .breakpoint ∨ c = .watchpoint ∨ c = .singleStep
  let halt := fun (g : Gang) =>
    if debug ∧ g.dbgc.getLsbD 21 then
      { g with strands := g.strands.map fun u => if u.haltedBy.isSome then u else { u with haltedBy := some s.t.idx } }
    else g
  if s.g.tvec = 0 then s.defaultAction c epc addr info
  else
    match s.vaRead s.g.vd ((s.g.tvec.toNat + 8 * c.code) % 2 ^ 64) 8 with
    | .error _ => s.stopGang c true epc addr info
    | .ok bs =>
      let e := BitVec.ofNat 64 (leNat bs)
      if e = 0 then s.defaultAction c epc addr info
      else if e.extractLsb' 0 2 ≠ 0 then s.stopGang c true epc addr info
      else { s with g := halt s.g, t := { s.t with handler := true, clean := false, clause := none, pc := e } }

/-- Takes a trap of the focused strand (R250, R253); a missed promise counts in counter 12 (R354). -/
def State.takeTrap (s0 : State) (tr : Trap) (epc hdr : Addr) (defer : Bool) : State :=
  let s := if tr.cause = .missedPromise then s0.count s0.g.vd 12 1 else s0
  let t := { s.t.expire with wait := .none, opens := s.cycle + 1, entered := false }
  if t.handler then
    match tr.cause with
    | .cancel => { s with t := { s.t.expire with cancelOwed := true } }
    | .missedPromise => ({ s with t := t }).defaultAction .missedPromise epc tr.addr tr.info
    | _ => ({ s with t := t }).stopGang tr.cause true epc tr.addr tr.info
  else
    let loaded :=
      { t with
        tcause := BitVec.ofNat 32 (tr.cause.code + (if defer then 256 else 0))
        tepc := epc
        tclh := hdr
        tmask := tr.mask
        taddr := tr.addr
        tinfo := tr.info
        held := t.clause
        raceAt := if tr.cause = .raceDetected then some epc else none }
    ({ s with t := loaded }).enterHandler tr.cause epc tr.addr tr.info

/-- A trap of a cause at the focused strand's word: its active mask, no address, the word (R252). -/
def State.trap (s : State) (c : Cause) : Trap := ⟨c, s.t.active, 0, s.t.wordAt 0⟩

/-- Takes a trap precise at the current word (R252). -/
def State.trapHere (s : State) (tr : Trap) : State := s.takeTrap tr s.t.pc s.t.header false

/-- Takes a trap at the clause boundary the strand stands at (R252). -/
def State.trapBoundary (s : State) (tr : Trap) (defer : Bool) : State := s.takeTrap tr s.t.pc s.t.pc defer

/-- Where a strand that is reached inside a wait resumes (R376): past SLEEP, else at the instruction. -/
def Strand.awake (t : Strand) : Strand :=
  match t.wait with
  | .sleep _ => { t.advance 1 with wait := .none }
  | _ => { t with wait := .none }

/-- Whether a strand waits at an instruction that a cancel reaches at once (R376); a fault-stalled strand with it, at a
header too (R319). -/
def Strand.waitsInside (t : Strand) : Bool :=
  match t.wait with
  | .sleep _ => true
  | .regrp => true
  | .bar _ _ _ => true
  | .heldBar _ => true
  | .join _ _ => true
  | .again _ => true
  | .xacq => true
  | .fault _ _ _ _ => true
  | _ => false

/-- Whether what completes before a cancel of a gang's strands has: its matrix operations and its engine commands (R247,
R324). -/
def State.cancelOpen (s : State) (gid : Nat) : Bool :=
  !((s.mops.any fun m => m.gang == gid) || (s.copies.any fun c => c.gang == gid) || s.banks.any fun b => b.gang == gid)

/-- Whether the focused strand takes a cancel that it owes where it stands: it waits at an instruction, no handler of it
runs, and nothing holds the cancel (R317, R324, R376). -/
def State.cancelHere (s : State) : Bool :=
  s.t.waitsInside && !s.t.handler && s.cancelOpen s.g.id && !(s.preempting s.g.block || s.g.saved)

/-- The cancel trap at the instruction where the focused strand waits (R319, R376). -/
def State.takeCancel (s : State) : State :=
  let hdr := s.t.header
  let t := s.t.awake
  ({ s with
    t := { t with cancelOwed := false }
    g := { s.g with xreqs := s.g.xreqs.filter fun x => x.strand != t.idx } }).takeTrap ⟨.cancel, t.active, 0, 0⟩ t.pc hdr false

/-- A cancel reaches the focused strand: taken at once where it waits inside a clause, else owed at its next
boundary, a parked strand becoming eligible for it (R17, R376); held while its block is pre-empted or saved
(R317), and while what completes first has not (R324). -/
def State.cancelStrand (s : State) : State :=
  if s.cancelHere then s.takeCancel else { s with t := { s.t with cancelOwed := true } }

/-! ## The issue of a word -/

/-- Whether an instruction counts as result-writing (R105). -/
def resultWriting (i : Instr) : Bool :=
  i.writes.any fun r =>
    match r with
    | .v _ _ => true
    | .s _ _ => true
    | .p _ => true
    | .q _ => true
    | _ => false

/-- Whether a destination belongs to the trap handler (R109). -/
def handlerReg : Reg → Bool
  | .v n k => decide (n < 64 ∧ 60 < n + k)
  | .s n k => decide (60 < n + k)
  | .p n => n == 6
  | _ => false

/-- Whether a named register needs storage that the gang does not hold (R108, R231). -/
def Gang.lacks (g : Gang) : Reg → Bool
  | .v n k => decide (64 < n + k) && !g.heldV
  | .acc n => !(g.heldAcc.getLsbD n)
  | .bt => !g.heldBt
  | _ => false

/-- Whether a named slot handle is unbound (R227). -/
def Gang.unbound (g : Gang) : Reg → Bool
  | .slot k => smGet 32 g.handles k == 32
  | _ => false

/-- The transient-record numbers that a register operand covers. -/
def Reg.cells : Reg → List Nat
  | .v n k => (List.range k).map fun i => n + i
  | .s n k => (List.range k).map fun i => 128 + n + i
  | _ => []

/-- The expired transient that an instruction reads, if it reads one (R105). -/
def expiredRead (t : Strand) (i : Instr) : Option Nat :=
  if t.trans = [] then none
  else
    (i.reads.flatMap Reg.cells).find? fun n => t.trans.any fun x => decide (x.reg = n ∧ x.kind = .expired)

/-- The number of a register as TINFO gives it (R105). -/
def regNumber (cell : Nat) : Nat := if cell < 128 then cell else cell - 128

/-- The checks of the registers, storage and slots that an instruction names, before it executes (R108, R109, R227, R231). -/
def State.nameCheck (s : State) (i : Instr) : Option Trap :=
  let named := i.reads ++ i.writes
  if !s.t.handler && i.writes.any handlerReg then some (s.trap .illegalState)
  else if named.any s.g.lacks then some (s.trap .illegalState)
  else if named.any s.g.unbound then some (s.trap .illegalOperand)
  else none

/-- The checks of an instruction's register fields before it executes, that of expired transients last (R105). -/
def State.preCheck (s : State) (i : Instr) : Option Trap :=
  match s.nameCheck i with
  | some tr => some tr
  | none =>
    match expiredRead s.t i with
    | some n => some { s.trap .illegalState with info := BitVec.ofNat 32 (regNumber n) }
    | none => none

/-- A transient whose expiry has been reported reads as zero from then on (R105). -/
def Strand.reported (t : Strand) (i : Instr) : Strand :=
  match expiredRead t i with
  | none => t
  | some n => { t with trans := t.trans.map fun x => if x.reg = n then { x with kind := .zero } else x }

/-- Counts the cycle of a core in which a strand of the focused strand's device issues (R354). -/
def State.countCycle (s : State) : State :=
  let k := (s.g.core, s.g.vd)
  if s.issuedNow.contains k then s else { s.count s.g.vd 1 1 with issuedNow := k :: s.issuedNow }

/-- ⌈log₂ n⌉. -/
def ceilLog2 (n : Nat) : Nat := if n ≤ 1 then 0 else Nat.log2 (n - 1) + 1

/-- The cycles for which an instruction of a strand of `n` active lanes occupies its pipes (R199); every other takes one
(R128). -/
def occupancy (i : Instr) (n : Nat) : Nat :=
  match i with
  | .vpack .. => 2
  | .vunpk .. => 2
  | .vfdiv .. => 4
  | .vfsqrt .. => 4
  | .vrcp .. => 4
  | .vrsq .. => 4
  | .vexp2 .. => 4
  | .vlog2 .. => 4
  | .vcmprs .. => 6
  | .vexpnd .. => 6
  | .vred .. => 6 + ceilLog2 n
  | .vscan .. => 6 + ceilLog2 n
  | _ => 1

/-- The pipes of a core that the focused strand spans, as keys of the table of busy pipes (R9, R38). -/
def State.pipeKeys (s : State) : List Nat :=
  (slicesOf s.t.active).map fun j => 8 * s.g.core + (s.g.firstPipe + j) % 8

/-- Whether every pipe that the focused strand spans is free in this cycle (R38, R199). -/
def State.pipesFree (s : State) : Bool := s.pipeKeys.all fun k => decide (smGet 0 s.pipesBusy k ≤ s.cycle)

/-- The issue of an instruction takes the pipes that the strand spans for as long as it occupies them, and is the gang's
issue in this cycle (R38, R199, R276). -/
def State.takePipes (s : State) (i : Instr) : State :=
  let till := s.cycle + occupancy i (popMask s.t.active)
  { s with
    pipesBusy := s.pipeKeys.foldl (fun m k => smSet 0 m k till) s.pipesBusy
    cycleMarks := .issued s.g.id :: s.cycleMarks }

/-- Counts the issue of an instruction: the device's counters 1 and 2, budget 2 by the pipe cycles it takes, and the strand's
transients; an instruction at which the strand waits was counted when it issued (R105, R350, R354). -/
def State.countIssue (s : State) (i : Instr) : State :=
  if s.t.waited then s
  else
    let n := (slicesOf s.t.active).length * occupancy i (popMask s.t.active)
    let s1 := ((s.countCycle.count s.g.vd 2 1).charge s.g.vd (dieOf s.g.core) 2 n).takePipes i
    if resultWriting i then { s1 with t := s1.t.age } else s1

/-- The instructions that are never idempotent for flashback (R160, R194, R247, R274). -/
def notIdempotent : Instr → Bool
  | .xacqV .. => true
  | .xacqAcc .. => true
  | .xacqBt .. => true
  | .xrelV .. => true
  | .xrelAcc .. => true
  | .xrelBt .. => true
  | .fork .. => true
  | .atom .. => true
  | .taff .. => true
  | .tscale .. => true
  | .toffs .. => true
  | .tclamp .. => true
  | .tfill .. => true
  | .tperm .. => true
  | .bara .. => true
  | .bars .. => true
  | .bxinit .. => true
  | .bxexp .. => true
  | .bxarr .. => true
  | .crfill .. => true
  | .crfree .. => true
  | .cstatClr .. => true
  | .cpy .. => true
  | .cpyp .. => true
  | .hedit .. => true
  | .bankcmd .. => true
  | .icinv .. => true
  | .icinvDev .. => true
  | .mma .. => true
  | .mmas .. => true
  | .oclaim .. => true
  | .orelease .. => true
  | .oload .. => true
  | .dmbw .. => true
  | .dmbwPost .. => true
  | _ => false

/-- The units of the written set that an operand names (R259). -/
def Reg.units : Reg → List Nat
  | .v n k => (List.range k).map fun i => n + i
  | .s n k => (List.range k).map fun i => 128 + n + i
  | .p n => [192 + n]
  | .q n => [200 + n]
  | .acc n => [204 + n]
  | .bt => [208]
  | .slot n => [212 + n]

/-- A unit of gang storage that an operand names (R259). -/
def Reg.storage : Reg → List Nat
  | .acc n => [204 + n]
  | .bt => [208]
  | .slot n => [212 + n]
  | _ => []

/-- A strand that has issued an instruction: the gang storage that it writes joins the written set, as its registers do
where they are written, and it stops being clean after an instruction that is not idempotent (R259). -/
def Strand.soil (t : Strand) (i : Instr) : Strand :=
  let u := if t.mark.isSome then (i.writes.flatMap Reg.storage).foldl Strand.note t else t
  if notIdempotent i then { u with clean := false } else u

/-- The instruction of the focused strand cannot issue yet: nothing of it has happened. A request that a budget defers is
counted once (R303, R354). -/
def State.holdAt (s : State) (h : Hold) : State :=
  let s1 :=
    match h with
    | .budget _ =>
      (match s.t.wait with
        | .hold (.budget _) => s
        | _ => s.count s.g.vd 13 1)
    | _ => s
  { s1 with t := { s1.t with wait := .hold h } }

/-- The focused strand waits at an instruction: one that it has just issued is its last issue (R104, R304). -/
def State.waitsFrom (s : State) (fresh : Bool) : State :=
  if fresh then { s with t := { s.t with prev := some s.cycle, entered := false } } else s

/-- Stalls the focused strand on a recoverable fault, before its instruction is issued, with the trap that an answer of fail
raises; a full queue raises it at once (R319, R346). -/
def State.faultStall (s : State) (va kind : Nat) (tr : Trap) : Except Trap State :=
  match s.pageFault s.g.vd (dieOf s.g.core) va kind with
  | (_, none) => .error tr
  | (s1, some n) => .ok { s1 with t := { s1.t with wait := .fault n tr.mask tr.addr tr.info } }

/-- Issues an instruction of the focused strand: its register checks, its effect, and what follows it. -/
def issue (i : Instr) (s : State) (body : State → Except Trap (State × Next)) : Host.Outcome State Fault Refusal :=
  if s.focused = false then .fault .noIssuer
  else
    match s.preCheck i with
    | some tr => .next (({ s with t := if (s.nameCheck i).isSome then s.t else s.t.reported i }).trapHere tr)
    | none =>
      match body (s.countIssue i) with
      | .error tr => .next (s.trapHere tr)
      | .ok (s1, .done) => .next s1
      | .ok (s1, .stay) => .next (s1.waitsFrom (!s.t.waited))
      | .ok (_, .held h) => .next (s.holdAt h)
      | .ok (_, .miss va kind tr) =>
        match s.faultStall va kind tr with
        | .ok s1 => .next s1
        | .error tr => .next (s.trapHere tr)
      | .ok (s1, n) =>
        .next { s1 with t := (s1.t.soil i).finish (wordsOf i) s1.cycle (s1.g.dbgc.getLsbD 20) n }

/-- What has been applied in this cycle and comes later in the manual's order than a key keeps what has the key from being
applied in it (R49, R176, R228). -/
def State.later (s : State) (f : CycleMark → Option (List Nat)) (key : List Nat) : Bool :=
  s.cycleMarks.any fun m =>
    match f m with
    | some k => decide (key < k)
    | none => false

/-- Notes what has happened in this cycle. -/
def State.marked (s : State) (m : CycleMark) : State := { s with cycleMarks := m :: s.cycleMarks }

/-- The place of a strand's arrival or claim among those of one cycle: by gang index, task gangs last by admission, then
by lowest lane (R176, R228). -/
def Gang.turnKey (g : Gang) (lane : Nat) : List Nat :=
  match g.gangIndex with
  | some i => [0, i, lane]
  | none => [1, g.id, lane]

/-- An instruction that always completes and goes on. -/
def issueSeq (i : Instr) (s : State) (f : State → State) : Host.Outcome State Fault Refusal :=
  issue i s fun s => .ok (f s, .seq)

/-- An event: it acts with no strand focused. -/
def event (s : State) (f : State → State) : Host.Outcome State Fault Refusal := .next (f s.unfocus)

end Sys2Proof.Machine
end

