-- ==== Sys2Proof/Machine/Operands.lean ====
section
/-! DEFINITION. The operand forms of instruction words: immediates, register operands, guards (R110), branch
targets (R107), the `.whole` form (R40) and the lane addresses of memory words (R166). -/

namespace Sys2Proof.Machine

/-- The second operand of scalar arithmetic: S[B], or with N the sign-extended field (R129). -/
def State.sOperand (s : State) (b : BitVec 7) (n : Bool) : Word := if n then b.signExtend 32 else s.readS b.toNat

/-- The count of a scalar shift: S[B][4:0], or with N the field's low five bits (R129). -/
def State.sCount (s : State) (b : BitVec 7) (n : Bool) : Nat :=
  if n then b.toNat % 32 else (s.readS b.toNat).toNat % 32

/-- The second operand of a vector word in a lane: V[B], or with N the scalar S[B] (R198). -/
def State.vOperand (s : State) (b : BitVec 7) (n : Bool) (l : Nat) : Word :=
  if n then s.readS b.toNat else s.readV b.toNat l

/-- The lanes on which a lane guard holds, among the active ones (R110). -/
def State.laneGuard (s : State) (gd : BitVec 4) : Mask :=
  let p := s.g.readP (gd.toNat % 8)
  (if gd.getLsbD 3 then ~~~p else p) &&& s.t.active

/-- Whether a scalar guard holds (R110). -/
def State.scalarGuardHolds (s : State) (gd : BitVec 4) : Bool :=
  let q := if gd.toNat % 8 = 7 then true else s.readQ (gd.toNat % 8)
  if gd.getLsbD 3 then !q else q

/-- The target of a branch word or the join address of JOINAT: W + 4·sext(OFF, 18) (R107). -/
def State.branchTarget (s : State) (off : BitVec 18) : Addr := s.t.pc + (off.signExtend 64 <<< 2)

/-- The address of the next clause, the return address of a call (R138). -/
def State.nextClause (s : State) : Addr :=
  match s.t.clause with
  | some c => c.past
  | none => s.t.pc + 4

/-- Whether the gang is a single strand holding every lane that has not exited (R40). -/
def State.isWhole (s : State) : Bool := decide (s.g.strands = [] ∧ s.t.active = s.g.live)

/-- A `.whole` form on a split gang raises illegal-state (R40). -/
def State.wholeTrap (s : State) (w : Bool) : Option Trap := if w && !s.isWhole then some (s.trap .illegalState) else none

/-- Whether a 64-bit address lies in one sign half of the 57-bit space (R166). -/
def canonical57 (a : Nat) : Bool := decide (a < 2 ^ 56 ∨ 2 ^ 64 - 2 ^ 56 ≤ a)

/-- The lane offset of a memory word: V[X] sign-extended, or 0 (R166). -/
def State.laneOffset (s : State) (m : LaneMem) (l : Nat) : Int := if m.xv then (s.readV m.x.toNat l).toInt else 0

/-- The device virtual address of a lane, from the pair S[A] (R166); `disp` is the displacement. -/
def State.laneAddr (s : State) (m : LaneMem) (disp : Int) (l : Nat) : Nat :=
  ((((s.readPair m.a.toNat).toNat : Int) + s.laneOffset m l + disp) % (2 ^ 64 : Nat)).toNat

/-- The scratchpad offset of a lane, exact (R166). -/
def State.spadOffset (s : State) (m : LaneMem) (disp : Int) (l : Nat) : Int :=
  (((s.readS m.a.toNat).toNat % 2 ^ 20 : Nat) : Int) + s.laneOffset m l + disp

/-- The scratchpad offset that an S register gives (R159, R172, R179). -/
def State.spadBase (s : State) (a : BitVec 7) : Nat := (s.readS a.toNat).toNat % 2 ^ 20

/-- The scratchpad bytes of the focused strand's block (R26, R45). -/
def State.spadSize (s : State) : Nat :=
  match s.blockOf s.g.block with
  | some b => b.spadBytes
  | none => 0

/-- Scratchpad bytes of the focused strand's block. -/
def State.spadRead (s : State) (off n : Nat) : List Byte :=
  match s.blockOf s.g.block with
  | some b => smRead 0 b.scratch off n
  | none => List.replicate n 0

/-- Writes bytes of a block's scratchpad. -/
def State.spadWrite (s : State) (block off : Nat) (bs : List Byte) : State :=
  match s.blockOf block with
  | some b =>
    s.setBlock { b with scratch := smSetAll 0 b.scratch ((List.range bs.length).map fun i => (off + i, bs.getD i 0)) }
  | none => s

/-- The register word of a lane as naturals of a V group, low register first (R166). -/
def State.groupNat (s : State) (r k l : Nat) : Nat :=
  ((List.range k).foldr (fun i acc => (s.readV (r + i) l).toNat + 2 ^ 32 * acc) 0)

/-- The parts of a value over a group of V registers: (register, lane, word) (R166). -/
def groupParts (d k l v : Nat) : List (Nat × Nat × Word) :=
  (List.range k).map fun i => (d + i, l, BitVec.ofNat 32 (v / 2 ^ (32 * i)))

/-- Writes (register, lane, word) triples into a gang's register file. -/
def Gang.putV (g : Gang) (vs : List (Nat × Nat × Word)) : Gang :=
  vs.foldl (fun g x => g.writeV x.1 x.2.1 x.2.2) g

/-- The register count of a size code (R166). -/
def szRegs (sz : Nat) : Nat := if sz = 3 then 2 else if sz = 4 then 4 else 1

/-- Writes results of an operation into V registers of a gang, (register, lane, value) (R102). -/
def State.putLanes (s : State) (gid : Nat) (vs : List (Nat × Nat × Word)) : State :=
  (s.modGang gid fun g => g.putV vs).landed gid (vs.map fun v => (v.1, v.2.1))

end Sys2Proof.Machine
end

