-- ==== Sys2Proof/Machine/Flags.lean ====
section
/-! DEFINITION. Every flag and condition: the completion flags F0-F11 (R100, R101), the integer conditions of
SCMP and VCMP (R130, R204), the votes (R149), and the
stochastic-rounding state of lanes (R83). -/

namespace Sys2Proof.Machine

/-- The completion flag that a long-latency word of the current clause sets: the header's SETA, or SETB with FS;
15 names none (R95, R100). -/
def State.flagFor (s : State) (fs : Bool) : Option Nat :=
  match s.t.clause with
  | none => none
  | some c =>
    let f := (if fs then c.word.extractLsb' 5 4 else c.word.extractLsb' 9 4).toNat
    if f = 15 then none else some f

/-- Whether a completion flag of a gang is set: an operation tagged with it is outstanding (R101). -/
def State.flagSet (s : State) (gid n : Nat) : Bool :=
  (s.ops.any fun o => o.gang == gid && o.flag == some n) || s.mops.any fun m => m.gang == gid && m.flag == some n

/-- Whether every flag that a header's WAIT names is clear (R95, R101). -/
def State.waitMet (s : State) (gid : Nat) (hdr : Word) : Bool :=
  (List.range 12).all fun n => !(hdr.getLsbD (13 + n) && s.flagSet gid n)

/-- An integer condition, signed or unsigned (R130, R204); the codes that name an order of NaNs hold never. -/
def icmpHolds (cc : Cc) (uns : Bool) (a b : Word) : Bool :=
  let lt := if uns then a.ult b else a.slt b
  match cc with
  | .eq => a == b
  | .ne => a != b
  | .lt => lt
  | .le => lt || a == b
  | .gt => !lt && a != b
  | .ge => !lt
  | .un => false
  | .ord => false

/-- The active lanes on which a predicate holds (R149). -/
def State.ballot (s : State) (a : BitVec 7) : Mask := s.g.readP a.toNat &&& s.t.active

/-- Whether a V register holds one pattern on every active lane (R149). -/
def State.voteEqual (s : State) (a : BitVec 7) : Bool :=
  match (lanesOf s.t.active).map fun l => s.readV a.toNat l with
  | [] => true
  | v :: r => r.all fun w => w == v

/-- A lane's stochastic-rounding state (R83). -/
def Gang.readSr (g : Gang) (l : Nat) : Word := (smGet none g.srstate l).getD (seedLane 0 l)

/-- Sets a lane's stochastic-rounding state (R83). -/
def Gang.writeSr (g : Gang) (l : Nat) (v : Word) : Gang :=
  { g with srstate := smSet none g.srstate l (if v = seedLane 0 l then none else some v) }

end Sys2Proof.Machine
end

