-- ==== Sys2Proof/Machine/Tile.lean ====
section
/-! DEFINITION. Tiles (R52-R76): the header and its check, the value of a tile, composition of pending maps,
materialisation, whole-tile and partial writes, and the view that a reader meets. Each operation here is one step
at the tile's home slice (R69). -/

namespace Sys2Proof.Machine

/-- The kinds of pending map (R56). -/
inductive MapKind where
  | identity | affine | fill
  deriving DecidableEq, Repr

/-- A tile's pending map (R56, R60). -/
structure TileMap where
  kind : MapKind
  perm : Nat
  a : Word
  b : Word
  lo : Word
  hi : Word
  deriving DecidableEq, Repr

/-- FP32 constants of the canonical form (R58). -/
def one32 : Word := 0x3F800000#32
/-- Minus infinity. -/
def ninf32 : Word := 0xFF800000#32
/-- Plus infinity. -/
def pinf32 : Word := 0x7F800000#32

/-- The identity map with a permutation, in canonical form (R58). -/
def identityMap (p : Nat) : TileMap := ⟨.identity, p, one32, 0, ninf32, pinf32⟩
/-- A fill in canonical form (R58). -/
def fillMap (c : Word) : TileMap := ⟨.fill, 0, one32, c, ninf32, pinf32⟩
/-- An affine-clamp map. -/
def affineMap (p : Nat) (a b lo hi : Word) : TileMap := ⟨.affine, p, a, b, lo, hi⟩

/-! ## The header -/

/-- A header word of the 256-bit header (R56). -/
def hword (h : Nat) (k : Nat) : Word := BitVec.ofNat 32 (bits h (32 * k) 32)
/-- H0 FMT. -/
def hFmt (h : Nat) : BitVec 8 := BitVec.ofNat 8 (bits h 0 8)
/-- H0 SCL. -/
def hScl (h : Nat) : Bool := bits h 21 1 == 1
/-- H0 VER. -/
def hVer (h : Nat) : Nat := bits h 24 8
/-- H5 and H6: SPLANE. -/
def hPlane (h : Nat) : Nat := bits h 160 48

/-- The pending map of a header, its unused fields in canonical form (R58). -/
def hMap (h : Nat) : TileMap :=
  match bits h 19 2 with
  | 0 => identityMap (bits h 16 3)
  | 2 => fillMap (hword h 2)
  | _ => affineMap (bits h 16 3) (hword h 1) (hword h 2) (hword h 3) (hword h 4)

/-- Scale bytes per row (R59). -/
def RangeEntry.nb (e : RangeEntry) : Nat := max 1 (2 ^ e.lcols / 32)

/-- The bytes of a scale plane (R59). -/
def RangeEntry.planeBytes (e : RangeEntry) : Nat := 2 ^ e.lrows * e.nb

/-- Whether a span of a range lies wholly within its linear bytes (R52, R57). -/
def RangeEntry.linearSpan (e : RangeEntry) (o n : Nat) : Bool :=
  decide (o + n ≤ e.limit - e.base) && decide (o + n ≤ e.hoff ∨ e.hoff + 32 * e.nt ≤ o)
    && decide (o + n ≤ e.poff ∨ e.poff + e.ss * e.nt ≤ o)

/-- Whether a header fails the check of R57; BUSY reads 0. -/
def headerBad (e : RangeEntry) (h : Nat) : Bool :=
  let code := hFmt h
  let fmtBad := match fmtOf code with
    | none => true
    | some f => decide (e.ew < f.width)
  let family := match fmtOf code with
    | some f => f.isFamily
    | none => false
  let k := bits h 19 2
  let m := hMap h
  let lo := val32 m.lo
  let hi := val32 m.hi
  decide (bits h 23 1 ≠ 0 ∨ bits h 208 16 ≠ 0 ∨ bits h 224 32 ≠ 0) || k == 3 || fmtBad
    || decide (bits h 8 4 ≠ e.lrows ∨ bits h 12 4 ≠ e.lcols)
    || decide (k ≠ 2 ∧ 4 ≤ bits h 16 3 ∧ e.lrows ≠ e.lcols)
    || (hScl h && (!family || decide (hPlane h % 64 ≠ 0) || !(e.linearSpan (hPlane h) e.planeBytes)))
    || (k == 1 && (!(val32 m.a).isFin || !(val32 m.b).isFin || lo.isNan || hi.isNan || lo.cmp hi == some .gt))

/-- A header as hardware writes it: the map in canonical form, BUSY and the reserved bits 0 (R58, R68). -/
def buildHeader (e : RangeEntry) (fmt : BitVec 8) (m : TileMap) (scl : Bool) (ver plane : Nat) : Nat :=
  let k := match m.kind with | .identity => 0 | .affine => 1 | .fill => 2
  fmt.toNat + 2 ^ 8 * e.lrows + 2 ^ 12 * e.lcols + 2 ^ 16 * m.perm + 2 ^ 19 * k + (if scl then 2 ^ 21 else 0)
    + 2 ^ 24 * (ver % 256) + 2 ^ 32 * m.a.toNat + 2 ^ 64 * m.b.toNat + 2 ^ 96 * m.lo.toNat + 2 ^ 128 * m.hi.toNat
    + 2 ^ 160 * (plane % 2 ^ 48)

/-- A tile's header as a reader gets it, BUSY 0 (R56, R72). -/
def State.tileHeader (s : State) (e : RangeEntry) (t : Nat) : Nat :=
  let h := leNat (s.readR e (e.hoff + 32 * t) 32)
  h - 2 ^ 22 * bits h 22 1

/-- Writes a tile's header. -/
def State.putHeader (s : State) (e : RangeEntry) (t h : Nat) : State := s.writeR e (e.hoff + 32 * t) (natBytes 32 h)

/-- The address that homes byte `o` of a range: of a tile's bytes, its scale plane's among them, that of its header (R59,
R69, R337); of a byte in several tiles' planes, that of the lowest tile. -/
def State.homeIn (s : State) (e : RangeEntry) (o : Nat) : Nat :=
  let hdr := fun t => canonOf (e.dpa (e.hoff + 32 * t))
  match e.area o with
  | .header t _ => hdr t
  | .payload t _ => hdr t
  | .linear =>
    if e.tiled then
      let owner := (List.range e.nt).find? fun t =>
        let h := s.tileHeader e t
        hScl h && decide (hPlane h ≤ o ∧ o < hPlane h + e.planeBytes)
      match owner with
      | some t => hdr t
      | none => canonOf (e.dpa o)
    else canonOf (e.dpa o)

/-! ## Elements -/

/-- The elements of a packed byte sequence, `w` of 4, 8, 16 or 32 bits (R78). -/
def unpackElems (w : Nat) : List Byte → List Nat
  | [] => []
  | b :: r =>
    if w = 4 then b.toNat % 16 :: b.toNat / 16 :: unpackElems w r
    else if w = 8 then b.toNat :: unpackElems w r
    else if w = 16 then
      match r with
      | c :: r1 => (b.toNat + 256 * c.toNat) :: unpackElems w r1
      | [] => [b.toNat]
    else
      match r with
      | c :: d :: f :: r1 => leNat [b, c, d, f] :: unpackElems w r1
      | _ => [leNat (b :: r)]

/-- Packs elements of `w` bits into bytes (R78). -/
def packElems (w : Nat) : List Nat → List Byte
  | [] => []
  | x :: r =>
    if w = 4 then
      match r with
      | y :: r1 => BitVec.ofNat 8 (x % 16 + 16 * (y % 16)) :: packElems w r1
      | [] => [BitVec.ofNat 8 (x % 16)]
    else natBytes (w / 8) x ++ packElems w r

/-- Cuts a list into rows of `n`. -/
def rowsOf {α : Type} (n : Nat) : Nat → List α → List (List α)
  | 0, _ => []
  | k + 1, l => l.take n :: rowsOf n k (l.drop n)

/-- The columns of a list of rows. -/
def transposeRows {α : Type} : List (List α) → List (List α)
  | [] => []
  | [r] => r.map fun x => [x]
  | r :: rest => List.zipWith (fun x c => x :: c) r (transposeRows rest)

/-- A payload's rows seen through a permutation code: the view's rows (R60). -/
def permRows {α : Type} (c : Nat) (rows : List (List α)) : List (List α) :=
  let t := if bits c 2 1 = 1 then transposeRows rows else rows
  let u := if bits c 1 1 = 1 then t.map List.reverse else t
  if bits c 0 1 = 1 then u.reverse else u

/-- 2^(s - 127) applied to a value; the scale byte 255 gives NaN (R59, R60). -/
def scaleBy (x : FVal) (s : Nat) : FVal := if s = 255 then .nan else x.scale ((s : Int) - 127)

/-- clamp (R60). -/
def clampVal (y lo hi : FVal) : FVal :=
  if y.isNan then y
  else if y.cmp lo == some .lt then lo
  else if y.cmp hi == some .gt then hi
  else y

/-- The value that a map gives an element (R60); a fill does not read the element. -/
def mapVal (m : TileMap) (x : FVal) : FVal :=
  match m.kind with
  | .fill => val32 m.b
  | .identity => x
  | .affine => clampVal (val32 (round32 (((val32 m.a).mul x).add (val32 m.b)))) (val32 m.lo) (val32 m.hi)

/-- A tile's scale bytes, one per block in row order (R59). -/
def State.tileScales (s : State) (e : RangeEntry) (h : Nat) : List Byte := s.readR e (hPlane h) e.planeBytes

/-- The bytes that a payload of a header's format occupies; all of a slot's under a format that names no width (R55). -/
def RangeEntry.payBytes (e : RangeEntry) (h : Nat) : Nat :=
  match fmtWidth (hFmt h) with
  | some w => min e.ps (2 ^ (e.lrows + e.lcols) * w / 8)
  | none => e.ps

/-- A tile's payload slot as it is stored, `SS` bytes; those behind the payload read as zero (R54, R55). -/
def State.tilePayload (s : State) (e : RangeEntry) (t : Nat) : List Byte :=
  let n := e.payBytes (s.tileHeader e t)
  s.readR e (e.poff + e.ss * t) n ++ List.replicate (e.ss - n) 0

/-- The exact values of the payload elements, row by row (R55, R60). -/
def State.payloadVals (s : State) (e : RangeEntry) (t h : Nat) (f : Fmt) : List (List FVal) :=
  let n := 2 ^ e.lcols
  let raw := s.readR e (e.poff + e.ss * t) (2 ^ (e.lrows + e.lcols) * f.width / 8)
  let rows := rowsOf n (2 ^ e.lrows) ((unpackElems f.width raw).map (fmtValue f))
  if hScl h then
    let blk := min n 32
    let sc := rowsOf e.nb (2 ^ e.lrows) ((s.tileScales e h).map fun b => b.toNat)
    List.zipWith
      (fun row ss => (List.zipWith (fun q x => q.map fun y => scaleBy y x) (rowsOf blk e.nb row) ss).flatten)
      rows sc
  else rows

/-- The view of a tile, row by row: apply_map at every position (R60). -/
def State.tileView (s : State) (e : RangeEntry) (t h : Nat) : List (List FVal) :=
  let m := hMap h
  match fmtOf (hFmt h) with
  | none => []
  | some f =>
    if m.kind = .fill then List.replicate (2 ^ e.lrows) (List.replicate (2 ^ e.lcols) (val32 m.b))
    else (permRows m.perm (s.payloadVals e t h f)).map fun r => r.map (mapVal m)

/-! ## Composition of maps (R61-R65) -/

/-- `perm_product` (R61). -/
def permProduct (a b : Nat) : Nat :=
  if b < 4 then a ^^^ b
  else
    let sw := a / 4 * 4 + 2 * (a % 2) + a / 2 % 2
    sw ^^^ b

/-- An edit map (R62). -/
inductive Edit where
  | affine (a b lo hi : Word)
  | fill (c : Word)
  | perm (p : Nat)
  deriving DecidableEq, Repr

/-- Whether the operands of an edit are refused (R63). -/
def Edit.bad (square : Bool) : Edit → Bool
  | .affine a b lo hi =>
    !(val32 a).isFin || !(val32 b).isFin || (val32 lo).isNan || (val32 hi).isNan
      || (val32 lo).cmp (val32 hi) == some .gt
  | .fill _ => false
  | .perm p => decide (4 ≤ p) && !square

/-- The larger, or the smaller, of two bounds, +0 counting as greater than -0 (R64). -/
def boundPick (larger : Bool) (x y : Word) : Word :=
  match (val32 x).cmp (val32 y) with
  | some .lt => if larger then y else x
  | some .gt => if larger then x else y
  | _ => if x.msb = larger then y else x

/-- `bound_map` (R64). -/
def boundMap (a x b : Word) : Word :=
  match val32 x with
  | .inf _ => round32 ((val32 a).mul (val32 x))
  | v => round32 (((val32 a).mul v).add (val32 b))

/-- Whether a bound is finite. -/
def fin32 (x : Word) : Bool := (val32 x).isFin

/-- `compose_map`: the normal form, `none` for MATERIALISE (R64). -/
def composeMap (m : TileMap) (e : Edit) : Option TileMap :=
  match e with
  | .fill c => some (fillMap c)
  | .perm p => if m.kind = .fill then some m else some { m with perm := permProduct m.perm p }
  | .affine ea eb elo ehi =>
    let clampW := fun y => round32 (clampVal y (val32 elo) (val32 ehi))
    let fmaW := fun x => round32 (((val32 ea).mul (val32 x)).add (val32 eb))
    if m.kind = .fill then some (fillMap (clampW (val32 (fmaW m.b))))
    else if (val32 ea).isZero then some (fillMap (clampW (val32 eb)))
    else
      let a := round32 ((val32 ea).mul (val32 m.a))
      let b := fmaW m.b
      let pos := (val32 ea).cmp .zero == some .gt
      let x1 := boundMap ea (if pos then m.lo else m.hi) eb
      let x2 := boundMap ea (if pos then m.hi else m.lo) eb
      let lost := fun w v => fin32 w && !(fin32 v)
      if !(fin32 a) || !(fin32 b) || lost (if pos then m.lo else m.hi) x1 || lost (if pos then m.hi else m.lo) x2 then
        none
      else
        let l := boundPick true x1 elo
        let h := boundPick false x2 ehi
        if (val32 l).cmp (val32 h) == some .gt then
          some (fillMap (if (val32 x2).cmp (val32 elo) == some .lt then elo else ehi))
        else if a = one32 ∧ (val32 b).isZero ∧ l = ninf32 ∧ h = pinf32 then some (identityMap m.perm)
        else some (affineMap m.perm a b l h)

/-! ## Materialisation and writes (R65, R67, R68) -/

/-- The largest magnitude among the finite values of a block. -/
def blockMax : List FVal → Option (Nat × Int)
  | [] => none
  | .fin _ m e :: r =>
    match blockMax r with
    | none => some (m, e)
    | some (n, f) => if cmpMag m e n f = .gt then some (m, e) else some (n, f)
  | _ :: r => blockMax r

/-- The scale byte of a block of view values: the least g with M ≤ maxfinite·2^g (R67). -/
def blockScale (f : Fmt) (vs : List FVal) : Nat :=
  match blockMax vs with
  | none => 127
  | some (m, e) =>
    if m = 0 then 127
    else
      let mx := maxMag f
      let g0 := ilog2 m e - ilog2 mx.1 mx.2
      let ok := fun (g : Int) => cmpMag m e mx.1 (mx.2 + g) != .gt
      let g := if ok (g0 - 1) then g0 - 1 else if ok g0 then g0 else g0 + 1
      (min 254 (max 0 (127 + g))).toNat

/-- `encode_view`: the payload bits and, with block scales, the scale bytes (R67). -/
def encodeRows (f : Fmt) (scaled : Bool) (rows : List (List FVal)) : List Nat × List Nat :=
  let cv := fun v => (convert v f .rne .satf false 0).1
  if scaled then
    let rb := rows.flatMap fun r => rowsOf 32 (max 1 (r.length / 32)) r
    let out := rb.map fun b =>
      let sc := blockScale f b
      (b.map fun v => cv (v.scale (127 - (sc : Int))), sc)
    (out.flatMap fun p => p.1, out.map fun p => p.2)
  else ((rows.flatten).map cv, [])

/-- Writes a payload: the packed elements, the rest of the slot's payload zero (R55). -/
def State.putPayload (s : State) (e : RangeEntry) (t w : Nat) (els : List Nat) : State :=
  let bs := packElems w els
  s.writeR e (e.poff + e.ss * t) (bs ++ List.replicate (e.ps - bs.length) 0)

/-- Writes a tile's scale plane. A write with block scales over a header whose SCL is 0 uses an SPLANE that no check has
seen; the bytes of such a plane that lie past the range are not written (R57, R172; DESIGN CHOICE, log entry 31). -/
def State.putScales (s : State) (e : RangeEntry) (plane : Nat) (sc : List Byte) : State :=
  s.writeR e plane (sc.take (e.limit - e.base - plane))

/-- Materialises a tile in a format; its header has passed the check (R67). -/
def State.materialise (s : State) (e : RangeEntry) (t : Nat) (code : BitVec 8) : State :=
  let h := s.tileHeader e t
  let m := hMap h
  if m.kind = .identity ∧ m.perm = 0 ∧ code = hFmt h then s
  else
    match fmtOf code with
    | none => s
    | some f =>
      let scaled := hScl h && f.isFamily
      let out := encodeRows f scaled (s.tileView e t h)
      let s1 := s.putPayload e t f.width out.1
      let s2 := if scaled then s1.putScales e (hPlane h) (out.2.map fun x => BitVec.ofNat 8 x) else s1
      s2.putHeader e t (buildHeader e code (identityMap 0) scaled (hVer h + 1) (hPlane h))

/-- Applies an edit whose operands have been checked, to a tile whose header has passed (R65). -/
def State.editTile (s : State) (e : RangeEntry) (t : Nat) (ed : Edit) : State :=
  let put := fun (s : State) (m : TileMap) =>
    let h := s.tileHeader e t
    s.putHeader e t (buildHeader e (hFmt h) m (hScl h) (hVer h + 1) (hPlane h))
  match composeMap (hMap (s.tileHeader e t)) ed with
  | some m => put s m
  | none =>
    let s1 := s.materialise e t (hFmt (s.tileHeader e t))
    match composeMap (identityMap 0) ed with
    | some m => put s1 m
    | none => s1

/-- A whole-tile write: the payload and an identity header in the written format; with scale bytes, the plane
(R68). -/
def State.wholeTile (s : State) (e : RangeEntry) (t : Nat) (code : BitVec 8) (payload : List Byte)
    (scales : Option (List Byte)) : State :=
  let h := s.tileHeader e t
  let s1 := s.writeR e (e.poff + e.ss * t) (payload ++ List.replicate (e.ps - payload.length) 0)
  let s2 := match scales with
    | some sc => s1.putScales e (hPlane h) sc
    | none => s1
  s2.putHeader e t (buildHeader e code (identityMap 0) scales.isSome (hVer h + 1) (hPlane h))

/-- Makes a tile ready for a partial write: its pending map is materialised (R68, R75); its header has passed. -/
def State.readyTile (s : State) (e : RangeEntry) (t : Nat) : State := s.materialise e t (hFmt (s.tileHeader e t))

/-- The bytes of a tile's slot that a map-applying lane load meets, or the cause it raises (R57, R72, R73). -/
def State.tileBytes (s : State) (e : RangeEntry) (t : Nat) : Except Cause (List Byte) :=
  let h := s.tileHeader e t
  let m := hMap h
  if headerBad e h then .error .headerFormat
  else if hScl h then
    if m.kind = .identity ∧ m.perm = 0 then .ok (s.tilePayload e t) else .error .illegalOperand
  else
    match fmtOf (hFmt h) with
    | none => .error .headerFormat
    | some f =>
      let bs := packElems f.width (encodeRows f false (s.tileView e t h)).1
      .ok (bs ++ List.replicate (e.ss - bs.length) 0)

end Sys2Proof.Machine
end

