-- ==== Sys2Proof/Machine/Access.lean ====
section
/-! DEFINITION. Accesses of lanes to memory and scratchpad: the checks in their order (R164, R254), page faults
(R318, R346), watchpoints (R266), budgets (R351), the race detector (R298-R301), and the operations that loads,
stores and atomics leave outstanding, with their completion (R100-R102, R163, R302). -/

namespace Sys2Proof.Machine

/-! ## Checks -/

/-- The rank of a cause where lanes meet different ones (R164). -/
def causeRank : Cause → Nat
  | .misaligned => 0
  | .scratchpadBounds => 1
  | .protectionFault => 2
  | .translationFault => 3
  | _ => 4

/-- A lane's failed check: lane, cause, address. -/
structure Bad where
  lane : Nat
  cause : Cause
  addr : Nat
  deriving DecidableEq, Repr

/-- The one trap that lanes' failed checks raise (R164): the first cause in rank, its lanes, the lowest address of
the lowest lane. -/
def pickTrap (bads : List Bad) (info : Cause → Word) : Option Trap :=
  match bads with
  | [] => none
  | b :: r =>
    let best := r.foldl (fun c x => if causeRank x.cause < causeRank c.cause then x else c) b
    let same := bads.filter fun x => x.cause = best.cause
    let m := maskOf (same.map fun x => x.lane)
    let low := lowLane m
    let addrs := (same.filter fun x => x.lane == low).map fun x => x.addr
    let a := addrs.foldl min (addrs.headD 0)
    some ⟨best.cause, m, BitVec.ofNat 64 a, info best.cause⟩

/-- TINFO of a lane access's trap: the write bit of a translation or protection fault, else the word (R252). -/
def State.accessInfo (s : State) (write : Bool) (c : Cause) : Word :=
  if c = .translationFault ∨ c = .protectionFault then (if write then 1 else 0) else s.t.wordAt 0

/-- A byte that a lane names: its lane, its place in the lane's access, its virtual address. -/
structure LaneByte where
  lane : Nat
  idx : Nat
  va : Nat
  deriving DecidableEq, Repr

/-- A byte that a lane reaches: with its memory byte, its range's race attribute and its place in a tiled range. -/
structure Hit where
  lane : Nat
  idx : Nat
  va : Nat
  ref : ByteRef
  rd : Nat
  area : Option (RangeEntry × Area)
  deriving DecidableEq, Repr

/-- The tile payload that a hit lies in; the bytes of a slot past the payload read as zero whatever the tile holds
(R54). -/
def Hit.tile (h : Hit) : Option (RangeEntry × Nat) :=
  match h.area with
  | some (e, .payload t off) => if off < e.ps then some (e, t) else none
  | _ => none

/-- Whether a hit lies in a tile's payload or header, which the home slice serves in its own step (R69, R72). -/
def Hit.tiled (h : Hit) : Bool :=
  match h.area with
  | some (_, .payload _ _) => true
  | some (_, .header _ _) => true
  | _ => false

/-- A hit as a cell with the address that homes it (R337). -/
def State.hitCell (s : State) (h : Hit) : Nat × Nat :=
  (h.ref.addr, match h.area with
    | some (e, _) => s.homeIn e (h.va - e.base)
    | none => h.ref.addr)

/-- The charges of an access of the focused strand to the bytes that it reaches (R350). -/
def State.hitCharges (s : State) (read write : Bool) (hits : List Hit) : List Charge :=
  chargesOf (dieOf s.g.core) read write (hits.map s.hitCell)

/-- What translating lane bytes gives: hits, failed checks, and missing translations with their HOLD bits. -/
structure Reach where
  hits : List Hit
  bads : List Bad
  missing : List (LaneByte × Bool)
  deriving DecidableEq, Repr

/-- Translates one byte of a lane or an engine, each lane and element by itself where a buffer may hold another translation
than the tables' (R54, R327, R331, R334). -/
def State.reachByte (s : State) (d : VDev) (ls : List (Nat × Look)) (n : Need) (engine : Bool) (b : LaneByte)
    (r : Reach) : Reach :=
  let l := s.lookBy d.id b.lane b.va (lookIn ls b.va)
  match s.xlateLook d l b.va n engine with
  | .trap c => { r with bads := ⟨b.lane, c, b.va⟩ :: r.bads }
  | .missing h => { r with missing := (b, h) :: r.missing }
  | .ok dpa key rd =>
    let area := match l with
      | .range e => if e.tiled then some (e, e.area (b.va - e.base)) else none
      | _ => none
    let ref : ByteRef := ⟨false, canonOf dpa, key⟩
    match area with
    | some (e, .payload _ off) =>
      if n.w && decide (e.ps ≤ off) then
        { r with bads := ⟨b.lane, .protectionFault, b.va⟩ :: r.bads }
      else { r with hits := ⟨b.lane, b.idx, b.va, ref, rd, area⟩ :: r.hits }
    | _ => { r with hits := ⟨b.lane, b.idx, b.va, ref, rd, area⟩ :: r.hits }

/-- Whether a partial write to a tile materialises it, and so reads it: its header is sound and not the identity (R57, R68,
R75). -/
def State.materialises (s : State) (e : RangeEntry) (t : Nat) : Bool :=
  let h := s.tileHeader e t
  !(headerBad e h) && decide ((hMap h).kind ≠ .identity ∨ (hMap h).perm ≠ 0)

/-- The bytes of a partial write that a range without R keeps from materialising its tile (R331). -/
def State.partBad (s : State) (hits : List Hit) : List Bad :=
  hits.filterMap fun h =>
    match h.tile with
    | some (e, t) => if !e.r && s.materialises e t then some ⟨h.lane, .protectionFault, h.va⟩ else none
    | none => none

/-- Translates bytes of a device; the hits stand in the order of the bytes. -/
def State.reachOf (s : State) (vd : Nat) (n : Need) (engine : Bool) (bytes : List LaneByte) : Reach :=
  let d := s.vdev vd
  let ls := s.looks d (bytes.map fun b => b.va)
  bytes.foldr (fun b r => s.reachByte d ls n engine b r) ⟨[], [], []⟩

/-- Translates bytes of the focused strand's lanes. -/
def State.reach (s : State) (n : Need) (bytes : List LaneByte) : Reach := s.reachOf s.g.vd n false bytes

/-! ## Watchpoints (R264, R266) -/

/-- The watched bytes of a debug slot: first address and length. -/
def Gang.watched (g : Gang) (n : Nat) : Nat × Nat :=
  let len := 4 ^ (g.dbgc.toNat / 2 ^ (12 + 2 * n) % 4)
  let a := (smGet 0 g.dbga n).toNat
  let b := if g.dbgc.getLsbD (8 + n) then a % 2 ^ 20 else a
  (b / len * len, len)

/-- A byte of an access as watch slots see it: scratchpad or memory, written or only read, lane, address. -/
structure Seen where
  spad : Bool
  write : Bool
  lane : Nat
  addr : Nat
  deriving DecidableEq, Repr

/-- The bytes of an access that a debug slot watches. -/
def Gang.watchHits (g : Gang) (n : Nat) (bytes : List Seen) : List Seen :=
  let kind := g.dbgc.toNat / 4 ^ n % 4
  let w := g.watched n
  bytes.filter fun b =>
    decide (kind = 3 ∨ (kind = 2 ∧ b.write = true)) && g.dbgc.getLsbD (8 + n) == b.spad &&
      decide (w.1 ≤ b.addr ∧ b.addr < w.1 + w.2)

/-- Whether the focused strand's instruction was held after its access had been checked, so that the check is not made again
(R277). -/
def Strand.accessChecked (t : Strand) : Bool := t.wait == .hold .settle || t.wait == .hold .follow

/-- The watchpoint that an access raises (R252, R266). -/
def State.watch (s : State) (bytes : List Seen) : Option Trap :=
  if s.g.dbgc.extractLsb' 0 8 = 0 ∨ s.t.handler ∨ s.t.ignNext ∨ s.t.accessChecked then none
  else
    let per := (List.range 4).map fun n => s.g.watchHits n bytes
    match (List.range 4).find? fun n => per.getD n [] ≠ [] with
    | none => none
    | some n =>
      let all := per.flatten
      let a := (all.map fun b => b.addr).foldl min ((all.head?.map fun b => b.addr).getD 0)
      some ⟨.watchpoint, maskOf (all.map fun b => b.lane), BitVec.ofNat 64 a, BitVec.ofNat 32 n⟩

/-! ## The access of an instruction to virtual memory -/

/-- What an instruction asks of memory: checks that have failed already, the bytes, whether it reads and writes, whether its
write is a partial write of the tiles it meets (R68, R331), and whether it is one access of the strand, whose traps name the active mask, whether watch slots see it, and the other
bytes that they see with it (R164, R252, R266). -/
structure Ask where
  pre : List Bad
  bytes : List LaneByte
  read : Bool
  write : Bool
  part : Bool
  whole : Bool
  watched : Bool
  extra : List Seen
  deriving DecidableEq, Repr

/-- A refused access: budget-refusal (R351, R361). -/
def State.refuseAccess (s : State) (cs : List Charge) (tr : Trap) : State :=
  (s.noteRefusal s.g.vd (dieOf s.g.core) cs tr.addr.toNat).trapHere tr

/-- The hits whose charges a budget refuses. -/
def State.refusedHits (s : State) (k : Nat) (read write : Bool) (hits : List Hit) : List Hit :=
  let ps := s.payingParts s.g.vd
  hits.filter fun h => ps.any fun p => (s.refusesBy p (s.hitCharges read write [h])).contains k

/-- A trap of an access that is one access of the strand names its active mask. -/
def State.maskTrap (s : State) (whole : Bool) (tr : Trap) : Trap := if whole then { tr with mask := s.t.active } else tr

/-- The missing translations of an access as failed checks. -/
def goneBads (missing : List (LaneByte × Bool)) : List Bad := missing.map fun b => ⟨b.1.lane, .translationFault, b.1.va⟩

/-- The trap of an access whose lanes fail a check of it: a missing translation among them where it is not recoverable (R164,
R318). -/
def State.accessTrap (s : State) (a : Ask) (r : Reach) : Option Trap :=
  pickTrap
    (a.pre ++ r.bads ++ (if a.part then s.partBad r.hits else []) ++
      if (s.vdev s.g.vd).rpf then [] else goneBads r.missing) (s.accessInfo a.write)

/-- The stall of an access at its first recoverable missing translation, with the trap that an answer of fail raises (R318,
R319). -/
def State.accessMiss (s : State) (a : Ask) (r : Reach) : Option (Nat × Nat × Trap) :=
  match r.missing, pickTrap (goneBads r.missing) (s.accessInfo a.write) with
  | b :: _, some tr => some (b.1.va, (if a.write then 1 else 0) + (if b.2 then 8 else 0), tr)
  | _, _ => none

/-- The state in which an access goes on with the bytes it reaches: its translations held, and it charged (R333, R351). -/
def State.paid (s : State) (a : Ask) (hits : List Hit) : State :=
  (s.fillXl s.g.vd (dieOf s.g.core) (a.bytes.map fun b => b.va)).pay s.g.vd (s.hitCharges a.read a.write hits)

/-- The watchpoint of an access whose bytes are reached, then its charges, those of its translations, and what follows (R266,
R333, R351). -/
def State.admitted (s : State) (a : Ask) (hits : List Hit) (k : State → List Hit → Except Trap (State × Next)) :
    Except Trap (State × Next) :=
  let seen := if a.watched then hits.map fun h => (⟨false, a.write, h.lane, h.va⟩ : Seen) else []
  match s.watch (seen ++ a.extra) with
  | some tr => .error (s.maskTrap a.whole tr)
  | none => k (s.paid a hits) hits

/-- An access to virtual memory: its checks in their order, then what follows with the bytes it reaches; a recoverable
missing translation is served only when no lane meets a cause, a budget's refusal among them (R164, R254, R266, R318, R319,
R351). -/
def State.access (s : State) (a : Ask) (k : State → List Hit → Except Trap (State × Next)) :
    Except Trap (State × Next) :=
  let r := s.reach ⟨a.read, a.write, false⟩ a.bytes
  match s.accessTrap a r with
  | some tr => .error (s.maskTrap a.whole tr)
  | none =>
    let cs := s.hitCharges a.read a.write r.hits
    let v := s.verdict s.g.vd cs
    let refusal := match v with
      | .refuse b =>
        pickTrap ((s.refusedHits b a.read a.write r.hits).map fun h => ⟨h.lane, .budgetRefusal, h.va⟩)
          fun _ => BitVec.ofNat 32 b
      | _ => none
    match refusal, s.accessMiss a r, v with
    | some tr, _, _ => .ok (s.refuseAccess cs (s.maskTrap a.whole tr), .done)
    | none, some (va, kind, tr), _ => .ok (s, .miss va kind (s.maskTrap a.whole tr))
    | none, none, .defer tick =>
      if s.preempting s.g.block then s.admitted a r.hits k else .ok (s, .held (.budget tick))
    | none, none, _ => s.admitted a r.hits k

/-- An access to the block's scratchpad, bytes as (lane, offset); failed checks come with it (R164, R266). -/
def State.accessSpad (s : State) (pre : List Bad) (write : Bool) (bytes : List (Nat × Nat)) (whole : Bool)
    (k : State → Except Trap (State × Next)) : Except Trap (State × Next) :=
  match pickTrap pre (fun _ => s.t.wordAt 0) with
  | some tr => .error (s.maskTrap whole tr)
  | none =>
    match s.watch (bytes.map fun b => ⟨true, write, b.1, b.2⟩) with
    | some tr => .error (s.maskTrap whole tr)
    | none => k s

/-! ## The race detector (R298-R301) -/

/-- A clear shadow entry (R298). -/
def clearShadow : Shadow := ⟨0, 0xFFFF, 0, 0⟩

/-- A gang's number for the detector (R298). -/
def State.gangNumber (s : State) (g : Gang) : Nat :=
  match g.gangIndex, s.blockOf g.block, s.launchOf g.launch with
  | some i, some b, some l => (b.index * l.gangs + i) % 2 ^ 16
  | _, _, _ => 0xFFFE

/-- The launch tag of a gang (R298). -/
def State.tagOf (s : State) (g : Gang) : Nat :=
  match s.launchOf g.launch with
  | some l => l.tag
  | none => 0

/-- Whether an atomic's scope includes the gang of a recorded writer (R279, R300): of a writer that is no longer
resident the die is not known, and the die scope counts as including it. -/
def State.scopeHas (s : State) (g : Gang) (wg scope : Nat) : Bool :=
  if 3 ≤ scope then true
  else
    match s.gangs.find? fun h => h.launch == g.launch && s.gangNumber h == wg with
    | none => scope == 2
    | some h => if scope = 2 then dieOf h.core == dieOf g.core else scope == 1 && h.block == g.block

/-- Whether an access to a sector is reported (R300). `scope` is that of an atomic. -/
def State.races (s : State) (sector : Nat) (scope : Option Nat) : Option Shadow :=
  let sh := smGet clearShadow s.shadow sector
  let g := s.g
  let both := match scope with
    | some sc => decide (sh.sc ≤ 4) && s.scopeHas g sh.wg (min sc sh.sc)
    | none => false
  if sh.wi ≠ 0xFFFF ∧ sh.lt = s.tagOf g ∧ sh.wg ≠ s.gangNumber g ∧ g.interval < sh.wi + 1 ∧ sh.wi < 0xFFFE ∧
      g.interval < 0xFFFE ∧ both = false then some sh else none

/-- A race-log record (R301). -/
def State.raceRecord (s : State) (sector : Nat) (sh : Shadow) (write atomic : Bool) : List Byte :=
  let num := match s.launchOf s.g.launch with | some l => l.num | none => 0
  natBytes 8 (32 * sector) ++ natBytes 2 sh.wg ++ natBytes 2 sh.wi ++ natBytes 2 (s.gangNumber s.g) ++
    natBytes 2 s.g.interval ++ natBytes 1 (sh.sc + (if write then 8 else 0) + (if atomic then 16 else 0)) ++
    natBytes 1 num ++ natBytes 2 0 ++ natBytes 4 (s.tickOf s.g.vd % 2 ^ 32) ++ natBytes 8 s.t.pc.toNat

/-- Checks an access against the shadow, bytes as (lane, canonical address, race attribute): the trap it raises,
or the state with the records it appends (R300). -/
def State.raceCheck (s : State) (bytes : List (Nat × Nat × Nat)) (write : Bool) (scope : Option Nat) :
    Except Trap State :=
  let live := bytes.filter fun b => decide (b.2.2 = 1 ∨ b.2.2 = 2)
  if live = [] ∨ s.t.uncheckedNext then .ok s
  else
    let found := live.filterMap fun b => (s.races (b.2.1 / 32) scope).map fun sh => (b.1, b.2.1 / 32, b.2.2, sh)
    let trapped := found.filter fun f => f.2.2.1 == 1
    let atomic := scope.isSome
    match trapped with
    | [] =>
      let secs := (found.map fun f => (f.2.1, f.2.2.2)).eraseDups
      .ok (secs.foldl (fun s f => s.appendRace s.g.vd (s.raceRecord f.1 f.2 write atomic)) s)
    | f :: _ =>
      let m := maskOf (trapped.map fun f => f.1)
      let low := (trapped.find? fun f => f.1 == lowLane m).getD f
      let info := low.2.2.2.wg + 2 ^ 16 * low.2.2.2.sc + (if write then 2 ^ 19 else 0) + (if atomic then 2 ^ 20 else 0)
      .error ⟨.raceDetected, m, BitVec.ofNat 64 (32 * low.2.1), BitVec.ofNat 32 info⟩

/-- Whether an acquire of the focused strand is outstanding. -/
def State.acquireOut (s : State) : Bool :=
  (s.ops.any fun o => s.t.issued.contains o.id && o.acq.isSome) ||
    s.mops.any fun m => s.t.issued.contains m.id && m.acq.isSome

/-- An access as the race detector meets it before it is performed (R300): behind an acquire of its strand, whose
synchronisation its interval number must count (R283, R284), it waits. -/
def State.raced (s : State) (bytes : List (Nat × Nat × Nat)) (write : Bool) (scope : Option Nat)
    (k : State → Except Trap (State × Next)) : Except Trap (State × Next) :=
  if s.acquireOut && bytes.any (fun b => decide (b.2.2 = 1 ∨ b.2.2 = 2)) then .ok (s, .held .follow)
  else
    match s.raceCheck bytes write scope with
    | .error tr => .error tr
    | .ok s1 => k s1

/-- The same for one access of the strand, whose traps name its active mask (R252). -/
def State.racedOne (s : State) (bytes : List (Nat × Nat × Nat)) (write : Bool) (k : State → Except Trap (State × Next)) :
    Except Trap (State × Next) :=
  match s.raced bytes write none k with
  | .error tr => .error { tr with mask := s.t.active }
  | .ok r => .ok r

/-- Records a write of sectors in the shadow (R298): bytes as (canonical address, race attribute). -/
def State.shadowWrite (s : State) (bytes : List (Nat × Nat)) (wg wi sc lt : Nat) : State :=
  let secs := ((bytes.filter fun b => decide (b.2 ≠ 0)).map fun b => b.1 / 32).eraseDups
  if secs = [] then s
  else { s with shadow := smSetAll clearShadow s.shadow (secs.map fun x => (x, ⟨wg, wi, sc, lt⟩)) }

/-- Records a write by the focused gang. -/
def State.shadowMine (s : State) (bytes : List (Nat × Nat)) (sc : Nat) : State :=
  s.shadowWrite bytes (s.gangNumber s.g) s.g.interval sc (s.tagOf s.g)

/-- Records a write of an engine thread: its issuer's gang number, and its interval number at issue (R298). -/
def State.shadowEngine (s : State) (gid interval : Nat) (bytes : List (Nat × Nat)) : State :=
  match s.gangOf gid with
  | none => s
  | some g => s.shadowWrite bytes (s.gangNumber g) interval 7 (s.tagOf g)

/-! ## Releases that bytes carry (R286, R299) -/

/-- What a release of the focused strand at a scope carries now. -/
def State.carry (s : State) (fence : Bool) (scope : Nat) : Carry :=
  ⟨fence, s.g.interval, scope, s.g.id, s.g.block, dieOf s.g.core⟩

/-- Adds a release to those of a list; of two that differ in their number only, the larger stands. -/
def addCarry (c : Carry) (cs : List Carry) : List Carry :=
  let like := fun (x : Carry) => { x with j := c.j } == c
  if cs.any like then cs.map fun x => if like x then { x with j := max x.j c.j } else x else cs ++ [c]

/-- Two lists of releases as one. -/
def addCarries (cs ds : List Carry) : List Carry := cs.foldl (fun l c => addCarry c l) ds

/-- Whether a scope of a party includes another party (R279, R280). -/
def scopeMeets (scope : Nat) (gang block die : Nat) (c : Carry) : Bool :=
  match scope with
  | 0 => gang == c.gang
  | 1 => block == c.block
  | 2 => die == c.die
  | _ => true

/-- The largest interval number among releases whose scope and the acquirer's include each other. -/
def carriedBy (scope gang block die : Nat) (cs : List Carry) : Option Nat :=
  (cs.filter fun c => scopeMeets scope gang block die c && scopeMeets c.scope gang block die c).foldl
    (fun m c => some (max (m.getD 0) c.j)) none

/-- The releases whose sequence the value of a byte ends (R286). -/
def State.carriesOf (s : State) (block : Nat) (r : ByteRef) : List Carry :=
  if r.spad then
    match s.blockOf block with
    | some b => smGet [] b.carries r.addr
    | none => []
  else smGet [] s.carries r.addr

/-- What the bytes read carry. -/
def State.carriesAt (s : State) (block : Nat) (refs : List ByteRef) : List Carry :=
  let sp := match s.blockOf block with
    | some b => b.carries
    | none => []
  if s.carries = [] ∧ sp = [] then [] else refs.foldl (fun l r => addCarries (s.carriesOf block r) l) []

/-- Sets what bytes carry: a write's releases; with `keep`, that of an atomic, the sequences it continues with them
(R286). -/
def State.setCarries (s : State) (block : Nat) (refs : List ByteRef) (cs : List Carry) (keep : Bool) : State :=
  let clear := match s.blockOf block with
    | some b => b.carries.isEmpty
    | none => true
  if cs.isEmpty && (keep || (s.carries.isEmpty && clear)) then s
  else
    let new := fun (r : ByteRef) => if keep then addCarries cs (s.carriesOf block r) else cs
    let mem := refs.filter fun r => !r.spad
    let sp := refs.filter fun r => r.spad
    let s1 := { s with carries := smSetAll [] s.carries (mem.map fun (r : ByteRef) => (r.addr, new r)) }
    match s1.blockOf block with
    | none => s1
    | some b =>
      if sp = [] then s1 else s1.setBlock { b with carries := smSetAll [] b.carries (sp.map fun (r : ByteRef) => (r.addr, new r)) }

/-! ## Performing operations -/

/-- The value of a byte that an operation names. -/
def State.byteOf (s : State) (block : Nat) (r : ByteRef) : Byte :=
  if r.spad then
    match s.blockOf block with
    | some b => smGet 0 b.scratch r.addr
    | none => 0
  else s.byteUnder r.key r.addr

/-- Writes bytes that an operation names, in order. -/
def State.writeRefs (s : State) (block : Nat) (l : List (ByteRef × Byte)) : State :=
  let s1 := s.putBytes (l.filter fun p => !p.1.spad)
  let sp := l.filter fun p => p.1.spad
  if sp = [] then s1
  else
    match s1.blockOf block with
    | some b => s1.setBlock { b with scratch := smSetAll 0 b.scratch (sp.map fun p => (p.1.addr, p.2)) }
    | none => s1

/-- The place of the first poisoned byte among some, and its canonical address (R341). -/
def State.poisonedIn (s : State) (refs : List ByteRef) : Option (Nat × Nat) :=
  if s.poison = [] ∧ s.softErrors = [] then none
  else
    ((List.range refs.length).zip refs).findSome? fun x =>
      if !x.2.spad && s.isPoisoned x.2.addr then some (x.1, x.2.addr) else none

/-- Owes memory-poison to the strand of a lane at its next boundary, and logs the consumption at the byte's
canonical address `c` (R166, R342). -/
def State.owePoison (s : State) (o : Op) (lane addr c : Nat) : State :=
  let s1 := s.noteError (c / 32 * 32) 3
  s1.modLaneStrand o.gang lane fun t =>
    match t.pending.find? fun p => p.cause = .memoryPoison ∧ p.info = o.word.extractLsb' 0 32 with
    | some p =>
      { t with pending := replaceFirst (fun q => decide (q = p)) { p with mask := p.mask ||| laneBit lane } t.pending }
    | none => { t with pending := t.pending ++ [⟨.memoryPoison, laneBit lane, BitVec.ofNat 64 addr, o.word.extractLsb' 0 32⟩] }

/-- Performs lanes of a load (R166). -/
def State.performLoad (s : State) (o : Op) (d sz : Nat) (lanes : List (Nat × Nat × List ByteRef)) : State :=
  lanes.foldl
    (fun s0 x =>
      let s := s0.readErrors x.2.2
      let bad := s.poisonedIn x.2.2
      let v := match bad with
        | some _ => 0
        | none => leNat (x.2.2.map fun r => s.byteOf o.block r)
      let s1 := s.putLanes o.gang (groupParts d (szRegs sz) x.1 v)
      match bad with
      | some a => s1.owePoison o x.1 (x.2.1 + a.1) a.2
      | none => s1) s

/-- The new value of a location and the operand width in bits (R169). -/
def atomNew (op : AtomOp) (w old v cmp : Nat) : Nat :=
  let sv := fun x => sextN x w
  match op with
  | .add => (old + v) % 2 ^ w
  | .min => if sv v < sv old then v else old
  | .max => if sv old < sv v then v else old
  | .and => old &&& v
  | .or => old ||| v
  | .xor => old ^^^ v
  | .xchg => v
  | .cas => if old = cmp then v else old
  | .fadd => (fadd32 (BitVec.ofNat 32 old) (BitVec.ofNat 32 v)).toNat
  | .inc => if v ≤ old then 0 else old + 1

/-- One lane of an atomic, (lane, address, bytes, operand, compare value): the state, the value for its D, and the
poisoned byte it met, which stops it (R169). -/
def State.atomLane (s0 : State) (block : Nat) (op : AtomOp) (sz : Nat) (x : Nat × Nat × List ByteRef × Nat × Nat) :
    State × Nat × Option (Nat × Nat) :=
  let refs := x.2.2.1
  let s := s0.readErrors refs
  match s.poisonedIn refs with
  | some a => (s, 0, some a)
  | none =>
    let old := leNat (refs.map fun r => s.byteOf block r)
    (s.writeRefs block (refs.zip (natBytes refs.length (atomNew op (8 * 2 ^ sz) old x.2.2.2.1 x.2.2.2.2))), old, none)

/-- Performs lanes of an atomic in ascending order (R169). -/
def State.performAtom (s : State) (o : Op) (op : AtomOp) (d sz : Nat)
    (lanes : List (Nat × Nat × List ByteRef × Nat × Nat)) : State :=
  lanes.foldl
    (fun s x =>
      let r := s.atomLane o.block op sz x
      let s1 := r.1.putLanes o.gang (groupParts d (szRegs sz) x.1 r.2.1)
      match r.2.2 with
      | some a => s1.owePoison o x.1 (x.2.1 + a.1) a.2
      | none => s1) s

/-- The memory bytes an operation reads or writes. -/
def OpKind.refs : OpKind → List ByteRef
  | .load _ _ ls => ls.flatMap fun l => l.2.2
  | .store bs => bs.map fun b => b.1
  | .atom _ _ _ ls => ls.flatMap fun l => l.2.2.1
  | _ => []

/-- Whether an operation writes memory or scratchpad. -/
def OpKind.writes : OpKind → Bool
  | .store _ => true
  | .atom _ _ _ _ => true
  | _ => false

end Sys2Proof.Machine
end

