-- ==== Sys2Proof/Machine/Sync.lean ====
section
/-! DEFINITION. Named barriers (R175, R176), byte-counting barriers (R177, R178), chainrings (R42, R180), releases
held behind outstanding operations (R302), and the completion of operations (R100-R102, R163, R283). -/

namespace Sys2Proof.Machine

/-! ## Named barriers -/

/-- A named barrier at a block's admission (R175). -/
def freshBar : Bar := ⟨0, 0, false, 0, 0⟩

/-- `bar_arrive` for `k` lanes carrying interval number `j`: the barrier after it and the phase arrived in; `none`
for illegal-state (R175). The count has been checked. -/
def Bar.arrive (b : Bar) (cnt k j : Nat) : Option (Bar × Bool) :=
  if (b.arrived ≠ 0 ∧ cnt ≠ b.expect) ∨ (if b.arrived = 0 then cnt else b.expect) < b.arrived + k then none
  else
    let e := if b.arrived = 0 then cnt else b.expect
    let c := max b.carried j
    if b.arrived + k = e then some (⟨0, e, !b.ph, 0, c⟩, b.ph)
    else some ({ b with expect := e, arrived := b.arrived + k, carried := c }, b.ph)

/-- A named barrier of a block. -/
def Block.bar (b : Block) (name : Nat) : Bar := smGet freshBar b.bars name

/-! ## Byte-counting barriers -/

/-- A byte-counting barrier's fields (R177). -/
structure Bx where
  exp : Nat
  arr : Nat
  ph : Bool
  err : Bool
  errp : Bool
  ovr : Bool
  code : Nat
  kind : Nat
  top : Nat
  index : Nat
  time : Nat
  deriving DecidableEq, Repr

/-- The fields of a barrier's 32 bytes (R177). -/
def bxOf (bs : List Byte) : Bx :=
  let v := leNat bs
  let bit := fun i => bits v i 1 == 1
  ⟨bits v 0 32, bits v 32 32, bit 64, bit 65, bit 66, bit 67, bits v 96 8, bits v 104 8, bits v 112 16,
    bits v 128 64, bits v 192 64⟩

/-- A barrier's 32 bytes; the reserved bits of the phase word are written as 0 (R177). -/
def Bx.bytes (b : Bx) : List Byte :=
  let n := fun (x : Bool) (k : Nat) => if x then k else 0
  natBytes 4 b.exp ++ natBytes 4 b.arr ++ natBytes 4 (n b.ph 1 + n b.err 2 + n b.errp 4 + n b.ovr 8) ++
    natBytes 1 b.code ++ natBytes 1 b.kind ++ natBytes 2 b.top ++ natBytes 8 b.index ++ natBytes 8 b.time

/-- `bx_check` (R178): the barrier after it, and whether its phase completed. -/
def Bx.check (b : Bx) (tick : Nat) : Bx × Bool :=
  if b.exp ≠ 0 ∧ b.exp ≤ b.arr then
    let ovr := decide (b.exp < b.arr)
    ({ b with ovr := ovr, err := b.errp || ovr, errp := false, arr := 0, exp := 0, ph := !b.ph, time := tick }, true)
  else (b, false)

/-- ARR grows by `n`, saturating with ERRP (R179). -/
def Bx.arrive (b : Bx) (n : Nat) : Bx :=
  if 2 ^ 32 ≤ b.arr + n then { b with arr := 2 ^ 32 - 1, errp := true } else { b with arr := b.arr + n }

/-- An engine records a fault: ERRP, and the first code with its recorder and index (R178). -/
def Bx.fault (b : Bx) (code kind index : Nat) : Bx :=
  if b.code = 0 then { b with errp := true, code := code, kind := kind, index := index % 2 ^ 64 }
  else { b with errp := true }

/-- The byte-counting barrier at an offset of a block's scratchpad. -/
def State.bxAt (s : State) (block off : Nat) : Bx :=
  match s.blockOf block with
  | some b => bxOf (smRead 0 b.scratch off 32)
  | none => bxOf []

/-- Writes a byte-counting barrier. -/
def State.putBx (s : State) (block off : Nat) (b : Bx) : State := s.spadWrite block off b.bytes

/-- The device tick of the placement of a block's device (R323). -/
def State.blockTick (s : State) (block : Nat) : Nat :=
  match s.blockOf block with
  | some b => s.tickOf b.vd
  | none => s.tick

/-- Writes a barrier after a change to EXP or ARR and checks it; an arrival carries interval number `j`, and a
completed phase keeps the largest carried (R178, R299). Entry 2·off of the table is the current phase's number,
entry 2·off + 1 the last completed one's. -/
def State.bxUpdate (s : State) (block off : Nat) (b : Bx) (j : Nat) : State :=
  let c := b.check (s.blockTick block)
  match (s.putBx block off c.1).blockOf block with
  | none => s
  | some k =>
    let cur := max (smGet 0 k.bxCarried (2 * off)) j
    let tbl :=
      if c.2 then smSet 0 (smSet 0 k.bxCarried (2 * off + 1) cur) (2 * off) 0 else smSet 0 k.bxCarried (2 * off) cur
    (s.putBx block off c.1).setBlock { k with bxCarried := tbl }

/-- An arrival of bytes, with the faults an engine recorded for them (R178, R183). -/
def State.bxArrive (s : State) (block off n j : Nat) : State := s.bxUpdate block off ((s.bxAt block off).arrive n) j

/-- An engine's record of a fault at its barrier (R178, R184). -/
def State.bxFault (s : State) (block off code kind index : Nat) : State :=
  s.putBx block off ((s.bxAt block off).fault code kind index)

/-! ## Chainrings -/

/-- A ring of a block, if it is present (R42). -/
def Block.ring (b : Block) (n : Nat) : Option Ring := smGet none (b.rings.map fun p => (p.1, some p.2)) n

/-- Puts a ring back. -/
def Block.putRing (b : Block) (n : Nat) (r : Ring) : Block := { b with rings := smSet ⟨0, [], [], []⟩ b.rings n r }

/-- CRFILL of a stage: `none` on a full one (R180). -/
def Ring.fill (r : Ring) (st j : Nat) : Option Ring :=
  if smGet false r.full st then none
  else some
    { r with
      full := smSet false r.full st true
      phase := smSet false r.phase st (!(smGet false r.phase st))
      carried := smSet 0 r.carried st j }

/-- CRFREE of a stage: `none` on an empty one (R180). -/
def Ring.free (r : Ring) (st j : Nat) : Option Ring :=
  if smGet false r.full st then
    some { r with full := smSet false r.full st false, carried := smSet 0 r.carried st j }
  else none

/-! ## Applying a release -/

/-- Applies a release to its barrier or stage; `none` where its state check fails. With a named barrier, the phase
arrived in (R175, R180, R302). -/
def State.applyRelease (s : State) (block : Nat) (k : HeldKind) (j : Nat) : Option (State × Bool) :=
  match s.blockOf block with
  | none => some (s, false)
  | some b =>
    match k with
    | .bar name cnt lanes _ =>
      match (b.bar name).arrive cnt lanes j with
      | none => none
      | some (bar, ph) => some (s.setBlock { b with bars := smSet freshBar b.bars name bar }, ph)
    | .bxarr off n => some (s.bxArrive block off n j, false)
    | .crfill ring st =>
      match b.ring ring with
      | none => none
      | some r =>
        match r.fill st j with
        | none => none
        | some r1 => some (s.setBlock (b.putRing ring r1), false)
    | .crfree ring st =>
      match b.ring ring with
      | none => none
      | some r =>
        match r.free st j with
        | none => none
        | some r1 => some (s.setBlock (b.putRing ring r1), false)

/-- A held release fails its check (R302): BARS raises illegal-state precisely at its word, one that a cancel took from its
wait when it is executed again (R376); another is owed at the next boundary; with no lanes left, a trap record is written
and the unit is counted as cancelled. -/
def State.heldFails (s : State) (o : Op) (bars : Bool) : State :=
  match s.gangOf o.gang with
  | none => s
  | some g =>
    let holds := fun (t : Strand) => decide (t.active &&& o.mask ≠ 0)
    let waits := fun (t : Strand) => decide (t.wait = .heldBar o.id)
    let left := fun (t : Strand) =>
      match t.barPhase with
      | some (.held _ n) => n == o.id
      | _ => false
    match (if bars then g.strands.find? fun t => waits t || left t else lowest (g.strands.filter holds)) with
    | none =>
      let r := s.trapRecord g .illegalState false o.word 0 (o.word.extractLsb' 0 32)
      (s.appendTrap g.vd r).modGang o.gang fun g => { g with killed := true }
    | some t =>
      if bars then
        if waits t then
          let s1 := s.focus o.gang t.idx
          (s1.trapHere (s1.trap .illegalState)).unfocus
        else
          s.modStrand o.gang t.idx fun u =>
            match u.barPhase with
            | some (.held name _) => { u with barPhase := some (.failed name) }
            | _ => u
      else
        s.modStrand o.gang t.idx fun u =>
          { u with pending := u.pending ++ [⟨.illegalState, o.mask, 0, o.word.extractLsb' 0 32⟩] }

/-- The arrival that a BARS awaited is applied: it waits for the phase it arrived in to be left, now or when it is executed
again (R302, R376). -/
def Strand.arrived (t : Strand) (op name : Nat) (ph : Bool) : Strand :=
  let u := match t.barPhase with
    | some (.held _ n) => if n = op then { t with barPhase := some (.phase name ph) } else t
    | _ => t
  if u.wait = .heldBar op then { u with wait := .bar name ph true } else u

/-- The place of a held arrival among those that reach its barrier in one cycle (R176). -/
def State.heldKey (s : State) (o : Op) : List Nat :=
  match s.gangOf o.gang with
  | some g => g.turnKey (lowLane o.mask)
  | none => [2, o.gang, lowLane o.mask]

/-- The part of a cycle's record about a named barrier. -/
def barMark (block name : Nat) (m : CycleMark) : Option (List Nat) :=
  match m with
  | .bar b n key => if b = block ∧ n = name then some key else none
  | _ => none

/-- Whether a held release may be applied in what is left of this cycle (R176). -/
def State.heldInTurn (s : State) (o : Op) (k : HeldKind) : Bool :=
  match k with
  | .bar name _ _ _ => !(s.later (barMark o.block name) (s.heldKey o))
  | _ => true

/-- Applies a held release when its operation is performed (R302). -/
def State.performHeld (s : State) (o : Op) (k : HeldKind) : State :=
  match s.applyRelease o.block k o.interval with
  | none =>
    s.heldFails o
      (match k with
        | .bar _ _ _ w => w
        | _ => false)
  | some (s1, ph) =>
    match k with
    | .bar name _ _ w =>
      let s2 := s1.marked (.bar o.block name (s.heldKey o))
      if w then s2.modGang o.gang fun g => { g with strands := g.strands.map fun t => t.arrived o.id name ph } else s2
    | _ => s1

/-! ## Completion -/

/-- The releases among what is carried that are writes themselves, and those that are fences before writes. -/
def carriesOfKind (fence : Bool) (cs : List Carry) : List Carry := cs.filter fun c => c.fence == fence

/-- Whether what an operation's writes carry makes it a release. -/
def isRelease (cs : List Carry) : Bool := cs.any fun c => !c.fence

/-- What a release carries once its gang's interval number is `j`. -/
def carryNow (j : Nat) (cs : List Carry) : List Carry := cs.map fun c => if c.fence then c else { c with j := j }

/-- An acquire of a gang has raised its interval number: the operations that follow it in program order and are
outstanding carry numbers from there on (R299). -/
def State.raiseLater (s : State) (gid op : Nat) : State :=
  match s.gangOf gid with
  | none => s
  | some g =>
    let step := fun (acc : Nat × List Op) (o : Op) =>
      if o.gang == gid && o.before.contains op then
        let rel := isRelease o.rel || (match o.kind with
          | .held _ => true
          | _ => false)
        (if rel then capJ (acc.1 + 1) else acc.1, acc.2 ++ [{ o with interval := acc.1, rel := carryNow acc.1 o.rel }])
      else (acc.1, acc.2 ++ [o])
    let stepM := fun (acc : Nat × List MOp) (m : MOp) =>
      if m.gang == gid && m.before.contains op then
        (if isRelease m.rel then capJ (acc.1 + 1) else acc.1, acc.2 ++ [{ m with rel := carryNow acc.1 m.rel }])
      else (acc.1, acc.2 ++ [m])
    let r := s.ops.foldl step (g.interval, [])
    let q := s.mops.foldl stepM (r.1, [])
    { s with ops := r.2, mops := q.2 }.modGang gid fun g => { g with interval := q.1 }

/-- The interval number that an acquire of a gang reaches by what it reads, where it synchronises with a release (R299). -/
def State.syncTo (s : State) (gid : Nat) (acq : Option Nat) (cs : List Carry) : Option Nat :=
  match acq, s.gangOf gid with
  | some scope, some g =>
    (carriedBy scope g.id g.block (dieOf g.core) (carriesOfKind false cs)).map fun n => (g.acquired n).interval
  | _, _ => none

/-- What a read carries to its gang: an acquire that synchronises advances the interval number, the release of the same
operation after it, and its later operations with it; what fences lend is remembered for a later acquire fence (R286,
R299). -/
def State.noteRead (s : State) (gid strand op : Nat) (acq : Option Nat) (rel : Bool) (cs : List Carry) : State :=
  if cs = [] then s
  else
    let s1 := s.modIssuer gid strand op fun t => { t with seen := addCarries (carriesOfKind true cs) t.seen }
    match s1.syncTo gid acq cs with
    | none => s1
    | some j => (s1.modGang gid fun g => { g with interval := if rel then capJ (j + 1) else j }).raiseLater gid op

/-- Writes results of an operation: the V registers of its gang, and S registers of the strand that issued it. -/
def State.land (s : State) (o : Op) (vs : List (Nat × Nat × Word)) (ss : List (Nat × Word)) : State :=
  (s.putLanes o.gang vs).modIssuer o.gang o.strand o.id fun t =>
    ss.foldl (fun t x => t.setS x.1 x.2) t

/-- What an operation's writes carry: after its own acquire, the interval number that this reached (R299). -/
def carryAfter (j : Option Nat) (cs : List Carry) : List Carry :=
  match j with
  | some n => carryNow n cs
  | none => cs

/-- Performs an operation whole. -/
def State.performOp (s : State) (o : Op) : State :=
  let refs := o.kind.refs
  match o.kind with
  | .load d sz lanes =>
    (s.performLoad o d sz lanes).noteRead o.gang o.strand o.id o.acq false (s.carriesAt o.block refs)
  | .store bs => (s.writeRefs o.block bs).setCarries o.block refs o.rel false
  | .atom op d sz lanes =>
    let cs := s.carriesAt o.block refs
    ((s.performAtom o op d sz lanes).noteRead o.gang o.strand o.id o.acq (isRelease o.rel) cs).setCarries o.block refs
      (carryAfter (s.syncTo o.gang o.acq cs) o.rel) true
  | .tile vs ss bs =>
    ((s.writeRefs o.block bs).setCarries o.block (bs.map fun b => b.1) [] false).land o vs ss
  | .held k => s.performHeld o k

/-- Performs an operation and ends it: its flag may clear, its unit may end (R101, R163). Its gang may be focused. -/
def State.endOp (s : State) (o : Op) : State :=
  let s1 := s.performOp o
  { s1 with ops := s1.ops.filter fun p => p.id != o.id }

/-- The outstanding operations that precede a strand's next one in program order, in order of issue (R295). -/
def State.opsOf (s : State) (t : Strand) : List Op := s.ops.filter fun o => t.issued.contains o.id

/-- Performs a strand's outstanding operations in order of issue. -/
def State.drain (s : State) (t : Strand) : State := (s.opsOf t).foldl (fun s o => s.endOp o) s

/-- Performs the focused strand's outstanding operations. -/
def State.drainMine (s : State) : State := if s.ops = [] then s else s.drain s.t

/-- Whether a later operation of a strand may be performed before an earlier one: a load behind a store whose bytes
it does not touch, unless the one is an acquire and the other a release; every other pair is kept (R282, R283). DESIGN CHOICE: a load never passes an atomic, though R226 lets a
read issued while a scratchpad atomic is outstanding return each byte as before or after it (log entry 4). -/
def mayPass (earlier later : Op) : Bool :=
  match earlier.kind, later.kind with
  | .store bs, .load _ _ ls =>
    !(isRelease earlier.rel && later.acq.isSome) &&
      !(bs.any fun b => ls.any fun l => l.2.2.any fun r => r.spad == b.1.spad && r.addr == b.1.addr)
  | _, _ => false

/-- Whether a matrix operation accesses memory (R230). -/
def memMop (i : Instr) : Bool :=
  match i with
  | .btld .. => true
  | .btst .. => true
  | .accst .. => true
  | _ => false

/-- Whether a matrix operation reads memory, so that nothing passes it (R283). -/
def readMop (i : Instr) : Bool :=
  match i with
  | .btld .. => true
  | _ => false

/-- Whether an operation may be performed before an earlier matrix operation of its strand: only a load of other
bytes, before a store (R283). -/
def passesMop (m : MOp) (o : Op) : Bool :=
  match o.kind with
  | .load _ _ ls =>
    !(readMop m.instr) && !(isRelease m.rel && o.acq.isSome) &&
      !(m.refs.any fun b => ls.any fun l => l.2.2.any fun r => r.spad == b.spad && r.addr == b.addr)
  | _ => false

/-- Whether an operation may be performed now: every one before it in program order is done or may be passed;
strands of one gang are separate parties (R278, R283, R295). -/
def State.mayEnd (s : State) (o : Op) : Bool :=
  (s.ops.all fun p => !(o.before.contains p.id) || mayPass p o) &&
    s.mops.all fun m => !(o.before.contains m.id && memMop m.instr) || passesMop m o

/-- Ends an operation by number, where the order of its strand allows it; then its unit may end. -/
def State.complete (s : State) (id : Nat) : State :=
  match s.ops.find? fun o => o.id == id with
  | none => s
  | some o => if s.mayEnd o then ((s.endOp o).unfocus).reap o.gang else s

/-- Notes that the focused strand issues an operation, whose number is the next one; operations that have ended
are forgotten. -/
def State.recordIssue (s : State) : State :=
  { s with
    nextId := s.nextId + 1
    t := { s.t with
      issued := s.nextId :: s.t.issued.filter fun n => (s.ops.any fun o => o.id == n) || s.mops.any fun m => m.id == n } }

/-- The registers that an operation will write, as units of the written set (R259). -/
def OpKind.units : OpKind → List Nat
  | .load d sz ls => if ls = [] then [] else (List.range (szRegs sz)).map fun i => d + i
  | .atom _ d sz ls => if ls = [] then [] else (List.range (szRegs sz)).map fun i => d + i
  | .tile vs ss _ => (vs.map fun v => v.1).eraseDups ++ ss.map fun x => 128 + x.1
  | _ => []

/-- Puts an operation of the focused strand among those outstanding. -/
def State.addOp (s : State) (k : OpKind) (fs : Option Bool) (acq : Option Nat) (rel : List Carry) : State :=
  let o : Op :=
    { id := s.nextId, gang := s.g.id, strand := s.t.idx, before := s.t.issued, block := s.g.block,
      flag := match fs with | some b => s.flagFor b | none => none
      acq := acq, rel := rel, word := s.t.pc, mask := s.t.active, interval := s.g.interval, kind := k }
  let s1 := s.recordIssue
  { s1 with ops := s.ops ++ [o], t := k.units.foldl Strand.note s1.t }

/-- Whether the focused strand has an earlier operation outstanding that a release must follow (R283, R302). -/
def State.mustHold (s : State) : Bool :=
  s.opsOf s.t ≠ [] || s.mops.any fun m => s.t.issued.contains m.id && memMop m.instr

/-- A release of the focused strand, applied at once or held (R302): `none` where its check fails now; else the
state and, applied, the phase arrived in. The interval number rises after it (R299). -/
def State.release (s : State) (k : HeldKind) : Option (State × Option Bool) :=
  if s.mustHold then some ((s.addOp (.held k) none none []).released, none)
  else
    match s.applyRelease s.g.block k s.g.interval with
    | none => none
    | some (s1, ph) =>
      let s2 := match k with
        | .bar name _ _ _ => s1.marked (.bar s.g.block name (s.g.turnKey (lowLane s.t.active)))
        | _ => s1
      some (s2.released, some ph)

/-- An instruction that follows every earlier operation of its strand: those that are outstanding are performed
first; behind a matrix operation that accesses memory it waits (R283, R284). -/
def State.settled (s : State) (k : State → Except Trap (State × Next)) : Except Trap (State × Next) :=
  if s.mops.any fun m => s.t.issued.contains m.id && memMop m.instr then .ok (s, .held .settle) else k s.drainMine

/-- Whether an operation writes one of some bytes. -/
def Op.writesAny (o : Op) (refs : List ByteRef) : Bool :=
  let hit := fun (b : ByteRef × Byte) => refs.any fun r => r.spad == b.1.spad && r.addr == b.1.addr
  match o.kind with
  | .store bs => bs.any hit
  | .tile _ _ bs => bs.any hit
  | _ => false

/-- Whether an earlier operation of the focused strand is outstanding that an acquire or an observed completion which reads
some bytes must follow: any but a relaxed store of other bytes (R282-R284). -/
def State.mustFollow (s : State) (refs : List ByteRef) : Bool :=
  (s.opsOf s.t).any (fun o =>
    o.writesAny refs ||
    match o.kind with
    | .store _ => isRelease o.rel
    | .tile _ _ _ => false
    | _ => true) ||
    s.mops.any fun m => s.t.issued.contains m.id &&
      (readMop m.instr || isRelease m.rel ||
        (memMop m.instr && m.refs.any fun b => refs.any fun r => r.spad == b.spad && r.addr == b.addr))

/-- The strand waits at its word, which it has issued, and looks again when what it waits for may have come about. -/
def State.waitAgain (s : State) : Except Trap (State × Next) :=
  .ok ({ s with t := { s.t with wait := .again s.cycle } }, .stay)

/-- An acquire, or an observed completion, that reads some bytes, in its place in program order (R282, R283). -/
def State.inOrder (s : State) (refs : List ByteRef) (k : State → Except Trap (State × Next)) :
    Except Trap (State × Next) :=
  if s.mustFollow refs then .ok (s, .held .follow) else k s

end Sys2Proof.Machine
end

