-- ==== Sys2Proof/Machine/Clause.lean ====
section
/-! DEFINITION. Clauses (R95-R99): the boundary that a strand stands at (pending traps R254, joins R35, stops of a
pre-emption R313), the header's checks, roles (R41), permits (R308), marks (R259), breakpoints (R265), and the
words that raise a trap when they are reached (R111, R114). -/

namespace Sys2Proof.Machine

/-! ## Fetch -/

/-- The bytes of consecutive words of a device's code (R331, R334). -/
def State.codeRefs (s : State) (vd : Nat) (a : Addr) (n : Nat) : Except Miss (List ByteRef) :=
  let d := s.vdev vd
  let vas := (List.range (4 * n)).map fun i => (a.toNat + i) % 2 ^ 64
  let ls := (s.looks d vas).map fun p => (p.1, s.lookBy vd 64 (4096 * p.1) p.2)
  s.refsOf d ls ⟨false, false, true⟩ false vas

/-- Fetches consecutive words of a device's code (R331); the miss names the word's address. -/
def State.fetchWords (s : State) (vd : Nat) (a : Addr) (n : Nat) : Except Miss (List Word) :=
  match s.codeRefs vd a n with
  | .error m => .error { m with addr := m.addr / 4 * 4 }
  | .ok refs =>
    let bs := s.bytesAt refs
    .ok ((List.range n).map fun i =>
      wordOfBytes (bs.getD (4 * i) 0) (bs.getD (4 * i + 1) 0) (bs.getD (4 * i + 2) 0) (bs.getD (4 * i + 3) 0))

/-- The words of a loop from a place on, as a buffer holds them; `none` where they are not all in it (R142). -/
def Span.read (sp : Span) (a : Addr) (n : Nat) : Option (List Word) :=
  let off := (a - sp.lo).toNat
  if off % 4 = 0 ∧ off / 4 + n ≤ sp.words.length then some ((sp.words.drop (off / 4)).take n) else none

/-- The code that the focused strand executes at an address: of the loop that it runs from a buffer, else of memory (R142,
R161, R193). -/
def State.codeAt (s : State) (a : Addr) (n : Nat) : Except Miss (List Word) :=
  match s.t.pass.bind fun sp => sp.read a n with
  | some ws => .ok ws
  | none => s.fetchWords s.g.vd a n

/-- The header at the focused strand's pc with the words of its clause. -/
def State.nextClauseCode (s : State) : Except Miss (Word × List Word) :=
  match s.codeAt s.t.pc 1 with
  | .error m => .error m
  | .ok ws =>
    let w := ws.headD 0
    (s.codeAt (s.t.pc + 4) (w.extractLsb' 28 4).toNat).map fun ws => (w, ws)

/-- The bytes that the focused strand's next clause, of a header and `n` words, is fetched from: none where it runs from a
loop buffer. -/
def State.clauseRefs (s : State) (n : Nat) : List ByteRef :=
  match s.t.pass.bind fun sp => sp.read s.t.pc (n + 1) with
  | some _ => []
  | none =>
    match s.codeRefs s.g.vd s.t.pc (n + 1) with
    | .ok refs => refs
    | .error _ => []

/-- The tick until which an exhausted budget defers the fetch of a clause; a fetch is never refused (R351). -/
def State.fetchHeld (s : State) (n : Nat) : Option Nat :=
  if s.t.entered || s.preempting s.g.block then none
  else
    let cs := chargesOf (dieOf s.g.core) true false (cellsOf (s.clauseRefs n))
    match s.verdict s.g.vd cs with
    | .admitted => none
    | .refuse _ => some ((s.tick / 100000 + 1) * 100000)
    | .defer tick => some tick

/-- The fetch of a clause is made: its charges, those of its translations, and the errors that it finds (R333, R341, R351). -/
def State.fetched (s : State) (n : Nat) : State :=
  if s.t.entered then s
  else
    let die := dieOf s.g.core
    let refs := s.clauseRefs n
    let vas := if refs.isEmpty then [] else (List.range (n + 1)).map fun i => (s.t.pc.toNat + 4 * i) % 2 ^ 64
    ((s.readErrors refs).fillXl s.g.vd die vas).pay s.g.vd (chargesOf die true false (cellsOf refs))

/-- A failed fetch at a clause header: a recoverable one stalls, any other is raised there with TADDR the word that
failed (R140, R252, R319). -/
def State.fetchFault (s : State) (m : Miss) : State :=
  let tr := fun c => (⟨c, s.t.active, BitVec.ofNat 64 m.addr, 2⟩ : Trap)
  match m.cause with
  | some c => s.trapBoundary (tr c) false
  | none =>
    if (s.vdev s.g.vd).rpf then
      match s.faultStall m.addr (2 + (if m.hold then 8 else 0)) (tr .translationFault) with
      | .ok s1 => s1
      | .error t => s.trapBoundary t false
    else s.trapBoundary (tr .translationFault) false

/-! ## The boundary -/

/-- The order in which pending traps of one boundary are taken (R254). -/
def pendingRank : Cause → Nat
  | .memoryPoison => 0
  | .conversionError => 1
  | .headerFormat => 2
  | _ => 3

/-- The pending trap of the focused strand that is taken first (R254). -/
def Strand.nextPending (t : Strand) : Option Pending :=
  t.pending.foldl
    (fun b p =>
      match b with
      | none => some p
      | some q => if pendingRank p.cause < pendingRank q.cause then some p else some q) none

/-- A list without its first element that satisfies a test. -/
def dropFirst {α : Type} (p : α → Bool) : List α → List α
  | [] => []
  | x :: r => if p x then r else x :: dropFirst p r

/-- Whether the focused strand owes a cancel that a boundary must not be passed with (R17, R254, R317). -/
def State.cancelDue (s : State) : Bool := s.t.cancelOwed && !s.t.handler && !(s.preempting s.g.block || s.g.saved)

/-- What happens at a clause boundary before the header is decoded: a clean strand stops for a pre-emption, a
pending trap is taken, outside a handler, a cancel is taken or waits for what completes first, or the strand parks at its
join address (R35, R254, R313, R324). -/
def State.boundary (s : State) : Option State :=
  if s.preempting s.g.block && s.t.clean then some { s with t := { s.t with wait := .stopped } }
  else
    match (if s.t.handler then none else s.t.nextPending) with
    | some p =>
      some (({ s with t := { s.t with pending := dropFirst (fun q => decide (q = p)) s.t.pending } }).trapBoundary
        ⟨p.cause, p.mask, p.addr, p.info⟩ true)
    | none =>
      if s.cancelDue then
        if s.cancelOpen s.g.id then
          some (({ s with t := { s.t with cancelOwed := false } }).trapBoundary ⟨.cancel, s.t.active, 0, 0⟩ false)
        else some s
      else
        match s.t.joins.head? with
        | some j =>
          if j.addr = s.t.pc then
            let s1 := { s with t := { s.t with wait := .parked } }
            let g := s1.whole
            some (s1.unfocus.putGang (Gang.settle s.cycle (2 * g.strands.length) g))
          else none
        | none => none

/-! ## The header -/

/-- The engine class of a header (R95). -/
def eclOf (hdr : Word) : Nat := (hdr.extractLsb' 25 3).toNat

/-- Whether a header's own fields are illegal (R95). -/
def hdrBad (hdr : Word) : Bool :=
  let f := fun k => (hdr.extractLsb' k 4).toNat
  f 28 == 0 || eclOf hdr == 6 || decide (12 ≤ f 9 ∧ f 9 ≤ 14) || decide (12 ≤ f 5 ∧ f 5 ≤ 14) || f 0 != 0

/-- Whether a word is a control-transfer word, by its major and FN (R97). -/
def isTransfer (w : Word) : Bool :=
  let fn := (fFN w).toNat
  match (fOP w).toNat with
  | 0x12 => true | 0x13 => true | 0x15 => true | 0x16 => true
  | 0x17 => fn == 0 || fn == 1 || fn == 2 || fn == 4
  | 0x68 => fn == 1 || fn == 2 || fn == 3
  | _ => false

/-- Whether a clause of an engine class admits a word's class (R99). -/
def admits (ecl : Nat) (w : Word) : Bool :=
  (fOP w).toNat == 0x6C || ecl == 7 ||
    match majorClass (fOP w).toNat with
    | none => true
    | some c => c == 0 || c == ecl

/-- Whether the words of a clause break R97 or R99; the word after a LONG major is passed over (R98). -/
def wordsBad (ecl : Nat) : List Word → Bool
  | [] => false
  | [w] => isLongMajor (fOP w).toNat || !(admits ecl w)
  | w :: x :: r =>
    if isLongMajor (fOP w).toNat then !(admits ecl w) || wordsBad ecl r
    else isTransfer w || !(admits ecl w) || wordsBad ecl (x :: r)

/-- Whether a role admits an engine class (R41): 0 free, 1 copy, 2 matrix, 3 vector. -/
def roleAdmits (role ecl : Nat) : Bool :=
  match role with
  | 1 => [0, 3, 4, 5].contains ecl
  | 2 => [0, 2, 3, 5].contains ecl
  | 3 => [0, 1, 3, 5].contains ecl
  | _ => true

/-- Whether a word list holds a word of class 3 or 4 (R308). -/
def hasMemWord : List Word → Bool
  | [] => false
  | [w] => majorClass (fOP w).toNat == some 3 || majorClass (fOP w).toNat == some 4
  | w :: x :: r =>
    let c := majorClass (fOP w).toNat
    c == some 3 || c == some 4 || (if isLongMajor (fOP w).toNat then hasMemWord r else hasMemWord (x :: r))

/-- Whether a clause is memory-class (R308). -/
def memClass (hdr : Word) (ws : List Word) : Bool :=
  eclOf hdr == 3 || eclOf hdr == 4 || (eclOf hdr == 7 && hasMemWord ws)

/-- Whether a memory-class operation of a gang, one of a word of class 3 or 4, is outstanding (R308). -/
def State.memOutstanding (s : State) (gid : Nat) : Bool :=
  (s.ops.any fun o => o.gang == gid) || (s.banks.any fun b => b.gang == gid) ||
    s.copies.any fun c => c.gang == gid &&
      match c.kind with
      | .oload _ _ _ _ _ _ => false
      | _ => true

/-- Whether a gang that was given a permit still holds it: a memory-class operation of it is outstanding, or a strand of
it stands in a memory-class clause (R308). -/
def State.holdsPermit (s : State) (g : Gang) : Bool :=
  g.permit && (s.memOutstanding g.id ||
    g.strands.any fun t =>
      match t.clause with
      | some c => memClass c.word c.words
      | none => false)

/-- The throttle of a core at package reset (R307). -/
def freshThrottle : Throttle := ⟨8, none, 0⟩

/-- Whether a gang still waits for a permit: a strand of it stands before a memory-class clause (R308). -/
def State.wantsPermit (s : State) (g : Gang) : Bool :=
  g.strands.any fun t => t.clause.isNone && !t.waited &&
    match s.fetchWords g.vd t.pc 1 with
    | .error _ => false
    | .ok ws =>
      let w := ws.headD 0
      match s.fetchWords g.vd (t.pc + 4) (w.extractLsb' 28 4).toNat with
      | .error _ => false
      | .ok ws => memClass w ws

/-- Whether the focused gang has, or may now be given, a permit: fewer than max(1, ⌈k·r/8⌉) others hold one and no
gang has been throttled for longer (R308). -/
def State.permitFree (s : State) : Bool :=
  if s.g.permit && s.holdsPermit s.whole then true
  else
    let k := (smGet freshThrottle s.throttles s.g.core).k
    if k = 8 then true
    else
      let others := s.gangs.filter fun g => g.core == s.g.core && !g.saved
      let cap := max 1 ((k * (others.length + 1) + 7) / 8)
      let before := others.any fun g =>
        match g.throttled, s.g.throttled with
        | some a, some b => decide (a < b) && s.wantsPermit g
        | some _, none => s.wantsPermit g
        | _, _ => false
      decide ((others.filter fun g => s.holdsPermit g).length < cap) && !before

/-- The execute slot that matches an address (R265). -/
def State.execSlot (s : State) (a : Addr) : Option Nat :=
  if s.g.dbgc.extractLsb' 0 8 = 0 ∨ s.t.handler ∨ s.t.ignNext then none
  else (List.range 4).find? fun n => decide (s.g.dbgc.toNat / 4 ^ n % 4 = 1 ∧ smGet 0 s.g.dbga n = a)

/-- The breakpoint of a slot at an address (R252). -/
def State.breakTrap (s : State) (n : Nat) (a : Addr) : Trap := ⟨.breakpoint, s.t.active, a, BitVec.ofNat 32 n⟩

/-- A debug trap of the focused strand's word or header that a check has found: taken at once, or, under HG, owed, the traps
of one cycle being entered by lowest lane (R254, R275). -/
def State.debugStop (s : State) (tr : Trap) : State :=
  if s.g.dbgc.getLsbD 21 then { s with t := { s.t with owed := some tr, owedAt := s.cycle, opens := s.cycle + 1 } }
  else s.trapHere tr

/-- A flashback mark at the current header (R259). -/
def State.takeMark (s : State) : State :=
  let t := s.t
  { s with
    nextId := s.nextId + 1
    t := { t with trwpc := t.pc, mark := some ⟨s.nextId, t.active, t.joins, t.fmtr, t.cvmr⟩, clean := true, written := [], readBytes := [], wroteBytes := [],
                     readUnits := [] } }

/-- Begins a clause at the pc (R96); a clause outside the loop that it runs from a buffer ends that pass (R142). -/
def Strand.begin (t : Strand) (hdr : Word) (ws : List Word) : Strand :=
  let out := match t.pass with
    | some sp => (sp.read t.pc 1).isNone
    | none => false
  { t with
    clause := some ⟨t.pc, hdr, ws⟩, pc := t.pc + 4, entered := true, wait := .none,
    pass := if out && !t.handler then none else t.pass }

/-- Notes the flags whose WAIT the focused strand has passed in this cycle (R101). -/
def State.passedWait (s : State) (hdr : Word) : State :=
  { s with
    cycleMarks := (((List.range 12).filter fun n => hdr.getLsbD (13 + n)).map fun n => CycleMark.waited s.g.id n s.t.idx) ++
      s.cycleMarks }

/-- The clause whose header and words have passed their checks: its role, its WAIT, its permit, a breakpoint on it,
its mark, and its beginning (R41, R101, R259, R265, R308, R313). A strand that had begun it already, and went back to wait
for its flags, has passed the checks that are made once (R277). -/
def State.enterClause (s : State) (hdr : Word) (ws : List Word) : State :=
  if !s.t.handler && !(roleAdmits s.g.role (eclOf hdr)) then
    s.trapBoundary ⟨.illegalRole, s.t.active, 0, hdr⟩ false
  else if !(s.waitMet s.g.id hdr) then s
  else
    let mem := memClass hdr ws
    if mem && !s.permitFree then
      match s.g.throttled with
      | some _ => s
      | none => { s with nextId := s.nextId + 1, g := { s.g with throttled := some s.nextId } }
    else
      match (if s.t.entered then none else s.execSlot s.t.pc) with
      | some n => s.debugStop (s.breakTrap n s.t.pc)
      | none =>
        let s0 := s.fetched ws.length
        let s1 := if mem then { s0 with g := { s0.g with permit := true, throttled := none } } else s0
        let marks := hdr.getLsbD 4 && !s1.t.handler && !s1.t.entered
        let s2 := (if marks then s1.takeMark else s1).passedWait hdr
        if marks && s2.preempting s2.g.block then { s2 with t := { s2.t with wait := .stopped } }
        else { s2 with t := s2.t.begin hdr ws }

/-- CLAUSE_HEADER (R95-R99): a strand at a clause boundary, where the word is the header at its pc; an exhausted budget
defers the fetch (R351). -/
def execClauseHeader (w : Word) (s : State) : Host.Outcome State Fault Refusal :=
  if s.focused = false then .fault .noIssuer
  else
    match s.boundary with
    | some s1 => .next s1
    | none =>
      let bad := s.trapBoundary ⟨.illegalEncoding, s.t.active, 0, w⟩ false
      let n := (w.extractLsb' 28 4).toNat
      match s.fetchHeld n with
      | some tick => .next (s.holdAt (.budget tick))
      | none =>
        if hdrBad w then .next bad
        else
          match s.codeAt (s.t.pc + 4) n with
          | .error m => .next (s.fetchFault m)
          | .ok ws => .next (if wordsBad (eclOf w) ws then bad else s.enterClause w ws)

/-! ## Words that raise a trap when they are reached -/

/-- A word of the focused strand that raises a trap and does nothing else. -/
def raiseWord (s : State) (c : Cause) (w : Word) : Host.Outcome State Fault Refusal :=
  if s.focused = false then .fault .noIssuer else .next (s.trapHere ⟨c, s.t.active, 0, w⟩)

/-- ILLEGAL_ENCODING (R111, R112): illegal-encoding precise at the word. -/
def execIllegalEncoding (w : Word) (s : State) : Host.Outcome State Fault Refusal := raiseWord s .illegalEncoding w

/-- EXTENSION_ONE_WORD (R114): emulation precise at the word. -/
def execExtensionOneWord (w : Word) (s : State) : Host.Outcome State Fault Refusal := raiseWord s .emulation w

/-- EXTENSION_LONG (R114): emulation precise at the word; the extension word stays for the handler to read. -/
def execExtensionLong (w _x : Word) (s : State) : Host.Outcome State Fault Refusal := raiseWord s .emulation w

end Sys2Proof.Machine
end

