-- ==== Sys2Proof/Machine/Lane.lean ====
section
/-! DEFINITION. Lane loads, stores, atomics and fences, majors 0x20-0x28 (R166-R170), with their meeting of tiled
ranges (R68, R72, R73, R75). -/

namespace Sys2Proof.Machine

/-! ## Tiled ranges -/

/-- The tiles whose payload some hits lie in. -/
def tilesOf (hits : List Hit) : List (RangeEntry × Nat) := (hits.filterMap Hit.tile).eraseDups

/-- The tile address of a tile (R54). -/
def RangeEntry.tileAddr (e : RangeEntry) (t : Nat) : Nat := e.base + e.poff + e.ss * t

/-- The trap for hits that lie in tiles with a failed check: header-format names the tile, illegal-operand does not
(R57, R73, R252). -/
def State.tileTrap (s : State) (hits : List Hit) (bad : List ((RangeEntry × Nat) × Cause)) : Option Trap :=
  pickTrap
    (hits.filterMap fun h =>
      match h.tile with
      | none => none
      | some t =>
        (bad.find? fun b => b.1 == t).map fun b =>
          ⟨h.lane, b.2, if b.2 = .headerFormat then t.1.tileAddr t.2 else 0⟩)
    (fun _ => s.t.wordAt 0)

/-- The slot bytes that each tile gives a reader: as stored with `raw`, else its view (R72, R73); or its failed
check. -/
def State.tileViews (s : State) (raw : Bool) (ts : List (RangeEntry × Nat)) :
    List ((RangeEntry × Nat) × Except Cause (List Byte)) :=
  ts.map fun t => (t, if raw then .ok (s.tilePayload t.1 t.2) else s.tileBytes t.1 t.2)

/-- The failed checks among tile views. -/
def badViews (vs : List ((RangeEntry × Nat) × Except Cause (List Byte))) : List ((RangeEntry × Nat) × Cause) :=
  vs.filterMap fun v =>
    match v.2 with
    | .error c => some (v.1, c)
    | .ok _ => none

/-- The byte that a hit reads; a header's BUSY bit reads 0 (R72). -/
def State.hitByte (s : State) (vs : List ((RangeEntry × Nat) × Except Cause (List Byte))) (h : Hit) : Byte :=
  match h.area with
  | some (e, .payload t off) =>
    match vs.find? fun v => v.1 == (e, t) with
    | some (_, .ok bs) => bs.getD off 0
    | _ => 0
  | some (_, .header _ off) =>
    let b := s.byteUnder h.ref.key h.ref.addr
    if off = 2 then b &&& 0xBF#8 else b
  | _ => s.byteUnder h.ref.key h.ref.addr

/-- The bytes whose poison a hit meets, with their addresses: a view reads its whole tile (R166, R341). -/
def Hit.poisonRefs (raw : Bool) (h : Hit) : List (Nat × ByteRef) :=
  match h.area with
  | some (e, .payload t off) =>
    if raw ∨ e.ps ≤ off then [(h.va, h.ref)]
    else ((List.range e.ps).map fun i => (e.tileAddr t + i, ⟨false, canonOf (e.dpa (e.poff + e.ss * t + i)), e.key⟩)) ++
      (List.range 32).map fun i => (e.base + e.hoff + 32 * t + i, ⟨false, canonOf (e.dpa (e.hoff + 32 * t + i)), e.key⟩)
  | _ => [(h.va, h.ref)]

/-- The first poisoned byte that hits meet: its address and its canonical address. -/
def State.poisonOf (s : State) (raw : Bool) (hits : List Hit) : Option (Nat × Nat) :=
  if s.poison = [] then none
  else
    (hits.flatMap (Hit.poisonRefs raw)).findSome? fun x => if s.isPoisoned x.2.addr then some (x.1, x.2.addr) else none

/-- The hits of a lane. -/
def laneHits (hits : List Hit) (l : Nat) : List Hit := hits.filter fun h => h.lane == l

/-- Bytes as the race detector takes them: (lane, canonical address, attribute). -/
def raceBytes (hits : List Hit) : List (Nat × Nat × Nat) := hits.map fun h => (h.lane, h.ref.addr, h.rd)

/-! ## Loads -/

/-- The scope of an operation that an SCP field names: 5-7 raise illegal-operand when it executes (R123). -/
def State.scopeOf (s : State) (scp : BitVec 3) : Except Trap Nat :=
  if 5 ≤ scp.toNat then .error (s.trap .illegalOperand) else .ok scp.toNat

/-- The scope at which a memory word acquires, if it does (R123). -/
def acqOf (ord : BitVec 2) (scope : Nat) : Option Nat := if ord = 1 ∨ ord = 3 then some scope else none

/-- What a memory word's writes carry: its own release, and the release fences before it (R286). -/
def State.relOf (s : State) (ord : BitVec 2) (scope : Nat) : List Carry :=
  if ord = 2 ∨ ord = 3 then addCarry (s.carry false scope) s.t.relFence else s.t.relFence

/-- The interval number rises after a release (R299). -/
def State.afterRelease (s : State) (ord : BitVec 2) : State := if ord = 2 ∨ ord = 3 then s.released else s

/-- The memory address checks of a lane: alignment, and one sign half (R166). -/
def laneBad (l a n : Nat) (aligned : Bool) : List Bad :=
  if aligned && a % n != 0 then [⟨l, .misaligned, a⟩]
  else if canonical57 a then [] else [⟨l, .translationFault, a⟩]

/-- The bytes of a lane's access. -/
def laneBytes (l a n : Nat) : List LaneByte := (List.range n).map fun i => ⟨l, i, (a + i) % 2 ^ 64⟩

/-- A load of tiled bytes, one step at the home slice (R69, R72): the registers it will write. -/
def State.loadTiled (s : State) (m : LaneMem) (raw : Bool) (hits : List Hit) (acq : Option Nat) :
    Except Trap (State × Next) :=
  s.settled fun s0 =>
    let s := s0.readErrors ((hits.flatMap (Hit.poisonRefs raw)).map fun x => x.2)
    let vs := s.tileViews raw (tilesOf hits)
    match s.tileTrap hits (badViews vs) with
    | some tr => .error tr
    | none =>
      let sz := m.sz.toNat
      let vals := (lanesOf s.t.active).flatMap fun l =>
        let hs := laneHits hits l
        let v := if (s.poisonOf raw hs).isSome then 0 else leNat (hs.map (s.hitByte vs))
        groupParts m.d.toNat (szRegs sz) l v
      let s1 := s.addOp (.tile vals [] []) (some m.fs) none []
      match s1.ops.getLast? with
      | none => .ok (s1, .seq)
      | some o =>
        let s2 := s1.noteRead o.gang o.strand o.id acq false (s.carriesAt s.g.block (hits.map fun h => h.ref))
        .ok ((lanesOf s.t.active).foldl (fun s l =>
          match s.poisonOf raw (laneHits hits l) with
          | some a => s.owePoison o l a.1 a.2
          | none => s) s2, .seq)

/-- A load from virtual memory (R166, R168). -/
def State.loadLanes (s : State) (m : LaneMem) (raw aligned : Bool) : Except Trap (State × Next) :=
  match s.scopeOf m.scp with
  | .error tr => .error tr
  | .ok scope =>
    let n := 2 ^ m.sz.toNat
    let lanes := lanesOf s.t.active
    let at_ := fun l => s.laneAddr m m.disp.toInt l
    let pre := lanes.flatMap fun l => laneBad l (at_ l) n aligned
    let bytes := (lanes.filter fun l => laneBad l (at_ l) n aligned == []).flatMap fun l => laneBytes l (at_ l) n
    s.access ⟨pre, bytes, true, false, false, false, true, []⟩ fun s hits =>
      s.raced (raceBytes hits) false none fun s1 =>
        let refs := hits.map fun (h : Hit) => h.ref
        let s2 := { s1 with t := s1.t.readsBytes refs }
        if hits.any Hit.tiled then s2.loadTiled m raw hits (acqOf m.ord scope)
        else
          let ls := lanes.map fun l => (l, at_ l, (laneHits hits l).map fun h => h.ref)
          .ok (s2.addOp (.load m.d.toNat m.sz.toNat ls) (some m.fs) (acqOf m.ord scope) [], .seq)

/-- LD (R166, R72). -/
def execLd (p : Pre) (m : LaneMem) (raw : Bool) (s : State) : Host.Outcome State Fault Refusal :=
  issue (.ld p m raw) s fun s => s.loadLanes m raw true

/-- LDU (R166). -/
def execLdu (p : Pre) (m : LaneMem) (raw : Bool) (s : State) : Host.Outcome State Fault Refusal :=
  issue (.ldu p m raw) s fun s => s.loadLanes m raw false

/-- LDC (R168): of the values that the constant cache may return, the model returns the current one. -/
def execLdc (p : Pre) (m : LaneMem) (raw : Bool) (s : State) : Host.Outcome State Fault Refusal :=
  issue (.ldc p m raw) s fun s => s.loadLanes m raw true

/-- The scratchpad checks of a lane: alignment and bounds (R166, R252). -/
def State.spadBad (s : State) (l : Nat) (a : Int) (n : Nat) : List Bad :=
  let w := (a % (2 ^ 64 : Nat)).toNat
  (if a % (n : Int) ≠ 0 then [⟨l, .misaligned, w⟩] else []) ++
    if a < 0 then [⟨l, .scratchpadBounds, w⟩]
    else if (s.spadSize : Int) < a + n then [⟨l, .scratchpadBounds, max w s.spadSize⟩] else []

/-- The bytes of a lane's scratchpad access, as (lane, offset). -/
def spadBytesOf (lanes : List Nat) (off : Nat → Nat) (n : Nat) : List (Nat × Nat) :=
  lanes.flatMap fun l => (List.range n).map fun i => (l, off l + i)

/-- The references of a lane's scratchpad bytes. -/
def spadRefs (off n : Nat) : List ByteRef := (List.range n).map fun i => ⟨true, off + i, 0⟩

/-- A scope on a scratchpad address: none is wider than block (R169, R280). -/
def spadScope (scope : Nat) : Nat := min scope 1

/-- LDS (R166). -/
def execLds (p : Pre) (m : LaneMem) (s : State) : Host.Outcome State Fault Refusal :=
  issue (.lds p m) s fun s =>
    match s.scopeOf m.scp with
    | .error tr => .error tr
    | .ok scope =>
      let n := 2 ^ m.sz.toNat
      let lanes := lanesOf s.t.active
      let off := fun l => (s.spadOffset m m.disp.toInt l).toNat
      let pre := lanes.flatMap fun l => s.spadBad l (s.spadOffset m m.disp.toInt l) n
      s.accessSpad pre false (spadBytesOf lanes off n) false fun s =>
        let ls := lanes.map fun l => (l, off l, spadRefs (off l) n)
        let refs := ls.flatMap fun (x : Nat × Nat × List ByteRef) => x.2.2
        let s1 := { s with t := s.t.readsBytes refs }
        .ok (s1.addOp (.load m.d.toNat m.sz.toNat ls) (some m.fs) (acqOf m.ord (spadScope scope)) [], .seq)

/-! ## Fences -/

/-- What a fence of a scope does: every earlier operation of the strand is performed before any later one; an acquire
takes what earlier reads carried, a release lends its number to the writes after it (R285, R286, R299). -/
def State.fenceWith (s : State) (acq rel : Bool) (scope : Nat) (k : State → Except Trap (State × Next)) :
    Except Trap (State × Next) :=
  s.settled fun s =>
    let s1 :=
      if acq then s.acquired (carriedBy scope s.g.id s.g.block (dieOf s.g.core) s.t.seen) else s
    if rel then
      k ({ s1 with t := { s1.t with relFence := addCarry (s1.carry true scope) s1.t.relFence } }).released
    else k s1

/-- FENCE (R170, R285). -/
def execFence (p : Pre) (kind : BitVec 2) (scp : BitVec 3) (s : State) : Host.Outcome State Fault Refusal :=
  issue (.fence p kind scp) s fun s =>
    match s.scopeOf scp with
    | .error tr => .error tr
    | .ok scope => s.fenceWith (kind != 1) (kind != 0) scope fun s => .ok (s, .seq)

/-- A store or atomic whose lanes are all guarded off: a fence of its scope, and an operation without bytes (R296). -/
def State.guardedOff (s : State) (k : OpKind) (fs : Bool) (ord : BitVec 2) (scope : Nat) :
    Except Trap (State × Next) :=
  if ord = 0 then .ok (s.addOp k (some fs) none [], .seq)
  else
    s.fenceWith (ord == 1 || ord == 3) (ord == 2 || ord == 3) scope fun s =>
      .ok (s.addOp k (some fs) none [], .seq)

/-! ## Stores -/

/-- A header byte as a store leaves it: BUSY stays as it was (R56). -/
def headerByte (off : Nat) (old new : Byte) : Byte :=
  if off = 2 then (new &&& 0xBF#8) ||| (old &&& 0x40#8) else new

/-- Checks and readies the tiles of a partial write: their headers, then the materialisation of those with a
pending map (R68, R75). -/
def State.readyTiles (s : State) (hits : List Hit) : Except Trap State :=
  let ts := tilesOf hits
  let bad := ts.filterMap fun t => if headerBad t.1 (s.tileHeader t.1 t.2) then some (t, Cause.headerFormat) else none
  match s.tileTrap hits bad with
  | some tr => .error tr
  | none => .ok (ts.foldl (fun s t => s.readyTile t.1 t.2) s)

/-- Writes the bytes of hits, in order (R56, R69). -/
def State.putHits (s : State) (l : List (Hit × Byte)) : State :=
  s.putBytes (l.map fun p =>
    match p.1.area with
    | some (_, .header _ off) => (p.1.ref, headerByte off (s.byteUnder p.1.ref.key p.1.ref.addr) p.2)
    | _ => (p.1.ref, p.2))

/-- A store to tiled bytes, one step at the home slice (R68, R69, R72). -/
def State.storeTiled (s : State) (m : LaneMem) (l : List (Hit × Byte)) (rel : List Carry) :
    Except Trap (State × Next) :=
  s.settled fun s =>
    match s.readyTiles (l.map fun (p : Hit × Byte) => p.1) with
    | .error tr => .error tr
    | .ok s1 =>
      let s2 := (s1.putHits l).setCarries s.g.block (l.map fun (p : Hit × Byte) => p.1.ref) rel false
      .ok ((s2.addOp (.tile [] [] []) (some m.fs) none []).afterRelease m.ord, .seq)

/-- The byte of a lane's store data. -/
def State.storeByte (s : State) (m : LaneMem) (l i : Nat) : Byte :=
  BitVec.ofNat 8 (s.groupNat m.d.toNat (szRegs m.sz.toNat) l / 2 ^ (8 * i))

/-- A store to virtual memory: `on` tells which bytes of which lanes are enabled (R166, R167). -/
def State.storeLanes (s : State) (m : LaneMem) (disp : Int) (aligned : Bool) (on : Nat → Nat → Bool) :
    Except Trap (State × Next) :=
  match s.scopeOf m.scp with
  | .error tr => .error tr
  | .ok scope =>
    let n := 2 ^ m.sz.toNat
    let lanes := (lanesOf s.t.active).filter fun l => (List.range n).any (on l)
    let at_ := fun l => s.laneAddr m disp l
    let pre := lanes.flatMap fun l => laneBad l (at_ l) n aligned
    let bytes := (lanes.filter fun l => laneBad l (at_ l) n aligned == []).flatMap fun l =>
      (laneBytes l (at_ l) n).filter fun b => on l b.idx
    if lanes = [] then s.guardedOff (.store []) m.fs m.ord scope
    else s.access ⟨pre, bytes, false, true, true, false, true, []⟩ fun s hits =>
      s.raced (raceBytes hits) true none fun s1 =>
        let rel := s1.relOf m.ord scope
        let data := hits.map fun (h : Hit) => (h, s.storeByte m h.lane h.idx)
        let refs := hits.map fun (h : Hit) => h.ref
        let s2 := s1.shadowMine (hits.map fun (h : Hit) => (h.ref.addr, h.rd)) 7
        let s3 := { s2 with t := s2.t.writesBytes refs }
        if hits.any Hit.tiled then s3.storeTiled m data rel
        else
          let bs := data.map fun (p : Hit × Byte) => (p.1.ref, p.2)
          .ok ((s3.addOp (.store bs) (some m.fs) none rel).afterRelease m.ord, .seq)

/-- ST (R166, R167). -/
def execSt (p : Pre) (m : LaneMem) (gd : BitVec 4) (s : State) : Host.Outcome State Fault Refusal :=
  issue (.st p m gd) s fun s => s.storeLanes m m.disp.toInt true fun l _ => (s.laneGuard gd).getLsbD l

/-- STU: a byte is enabled by its bit of V[MV] (R166, R167). -/
def execStu (p : Pre) (m : LaneMem) (gd : BitVec 4) (mv : BitVec 7) (s : State) :
    Host.Outcome State Fault Refusal :=
  issue (.stu p m gd mv) s fun s =>
    s.storeLanes m (m.disp.extractLsb' 0 11).toInt false fun l i =>
      (s.laneGuard gd).getLsbD l && (s.readV mv.toNat l).getLsbD i

/-- STS (R166, R167). -/
def execSts (p : Pre) (m : LaneMem) (gd : BitVec 4) (s : State) : Host.Outcome State Fault Refusal :=
  issue (.sts p m gd) s fun s =>
    match s.scopeOf m.scp with
    | .error tr => .error tr
    | .ok scope =>
      let n := 2 ^ m.sz.toNat
      let lanes := lanesOf (s.laneGuard gd)
      let off := fun l => (s.spadOffset m m.disp.toInt l).toNat
      let pre := lanes.flatMap fun l => s.spadBad l (s.spadOffset m m.disp.toInt l) n
      if lanes = [] then s.guardedOff (.store []) m.fs m.ord (spadScope scope)
      else s.accessSpad pre true (spadBytesOf lanes off n) false fun s =>
        let bs := lanes.flatMap fun l => (spadRefs (off l) n).zip ((List.range n).map fun i => s.storeByte m l i)
        let refs := bs.map fun (b : ByteRef × Byte) => b.1
        let s1 := { s with t := s.t.writesBytes refs }
        let rel := s1.relOf m.ord (spadScope scope)
        .ok ((s1.addOp (.store bs) (some m.fs) none rel).afterRelease m.ord, .seq)

/-! ## Atomics -/

/-- Performs lanes of an atomic on tiled bytes at once; answers the registers that its completion writes. -/
def State.atomNow (s : State) (o : Op) (op : AtomOp) (d sz : Nat)
    (lanes : List (Nat × Nat × List ByteRef × Nat × Nat)) :
    State × List (Nat × Nat × Word) :=
  lanes.foldl
    (fun (acc : State × List (Nat × Nat × Word)) x =>
      let r := acc.1.atomLane o.block op sz x
      let s1 := match r.2.2 with
        | some a => r.1.owePoison o x.1 (x.2.1 + a.1) a.2
        | none => r.1
      (s1, acc.2 ++ groupParts d (szRegs sz) x.1 r.2.1)) (s, [])

/-- Sets or clears the BUSY bits of header bytes. -/
def State.putBusy (s : State) (l : List (ByteRef × Byte)) : State :=
  s.putBytes (l.map fun (p : ByteRef × Byte) => (p.1, (s.byteUnder p.1.key p.1.addr &&& 0xBF#8) ||| p.2))

/-- An atomic on tiled bytes: a partial write acting on the stored bits of the materialised payload, in one step at
the home slice; BUSY reads as 0 and stays as it was (R169, R56, R68, R75). -/
def State.atomTiled (s : State) (m : LaneMem) (op : AtomOp) (hits : List Hit)
    (lanes : List (Nat × Nat × List ByteRef × Nat × Nat)) (acq : Option Nat) (rel : List Carry) :
    Except Trap (State × Next) :=
  s.settled fun s =>
    match s.readyTiles hits with
    | .error tr => .error tr
    | .ok s1 =>
      let busy : List (ByteRef × Byte) := hits.filterMap fun h =>
        match h.area with
        | some (_, .header _ 2) => some (h.ref, s1.byteUnder h.ref.key h.ref.addr &&& 0x40#8)
        | _ => none
      let s2 := s1.addOp (.tile [] [] []) (some m.fs) none []
      match s2.ops.getLast? with
      | none => .ok (s2, .seq)
      | some o =>
        let refs := hits.map fun (h : Hit) => h.ref
        let r := (s2.putBusy (busy.map fun (p : ByteRef × Byte) => (p.1, 0))).atomNow o op m.d.toNat m.sz.toNat lanes
        let cs := s1.carriesAt s.g.block refs
        let s3 := (r.1.putBusy busy).noteRead o.gang o.strand o.id acq false cs
        let s4 := s3.setCarries s.g.block refs (carryAfter (s1.syncTo o.gang acq cs) rel) true
        .ok ({ s4 with ops := replaceFirst (fun p => p.id == o.id) { o with kind := .tile r.2 [] [] } s4.ops }.afterRelease
          m.ord, .seq)

/-- ATOM (R169). -/
def execAtom (p : Pre) (m : LaneMem) (gd : BitVec 4) (raw : Bool) (aop : AtomOp) (dv cv : BitVec 7) (s : State) :
    Host.Outcome State Fault Refusal :=
  issue (.atom p m gd raw aop dv cv) s fun s =>
    match s.scopeOf m.scp with
    | .error tr => .error tr
    | .ok scope =>
      let n := 2 ^ m.sz.toNat
      let k := szRegs m.sz.toNat
      let lanes := lanesOf (s.laneGuard gd)
      let ops := fun l => (s.groupNat dv.toNat k l, if aop = .cas then s.groupNat cv.toNat k l else 0)
      if lanes = [] then
        s.guardedOff (.atom aop m.d.toNat m.sz.toNat []) m.fs m.ord (if raw then spadScope scope else scope)
      else if raw then
        let off := fun l => (s.spadOffset m 0 l).toNat
        let pre := lanes.flatMap fun l => s.spadBad l (s.spadOffset m 0 l) n
        s.accessSpad pre true (spadBytesOf lanes off n) false fun s =>
          let ls := lanes.map fun l => (l, off l, spadRefs (off l) n, (ops l).1, (ops l).2)
          let sc := spadScope scope
          .ok ((s.addOp (.atom aop m.d.toNat m.sz.toNat ls) (some m.fs) (acqOf m.ord sc) (s.relOf m.ord sc)).afterRelease
            m.ord, .seq)
      else
        let at_ := fun l => s.laneAddr m 0 l
        let pre := lanes.flatMap fun l => laneBad l (at_ l) n true
        let bytes := (lanes.filter fun l => laneBad l (at_ l) n true == []).flatMap fun l => laneBytes l (at_ l) n
        s.access ⟨pre, bytes, true, true, true, false, true, []⟩ fun s hits =>
          s.raced (raceBytes hits) true (some scope) fun s1 =>
            let ls := lanes.map fun l => (l, at_ l, (laneHits hits l).map fun h => h.ref, (ops l).1, (ops l).2)
            let acq := acqOf m.ord scope
            let rel := s1.relOf m.ord scope
            let s2 := s1.shadowMine (hits.map fun h => (h.ref.addr, h.rd)) scope
            if hits.any Hit.tiled then s2.atomTiled m aop hits ls acq rel
            else .ok ((s2.addOp (.atom aop m.d.toNat m.sz.toNat ls) (some m.fs) acq rel).afterRelease m.ord, .seq)

end Sys2Proof.Machine
end

