-- ==== Sys2Proof/Machine/TileOps.lean ====
section
/-! DEFINITION. The tile instructions, majors 0x29-0x2C (R171-R174), and the conversion mode of an instruction (R82,
R86). -/

namespace Sys2Proof.Machine

/-! ## Conversion modes -/

/-- What a conversion uses: rounding mode, saturation, flush and trap bits (R84, R86). -/
structure CvtMode where
  mode : RMode
  sat : Sat
  ftz : Bool
  trp : Bool
  deriving DecidableEq, Repr

/-- The place of a class's fields in CVMR (R86). -/
def clsShift : FmtClass → Nat
  | .ieee => 0 | .binary8 => 8 | .fourBit => 16 | .integer => 24

/-- The effective mode of a conversion to a format: MODE 0 takes the class's fields of CVMR, 1-5 a rounding mode with
SAT; 6-7 name none (R82, R86, R172, R212). -/
def cvtMode (cvmr : Word) (f : Fmt) (mode : BitVec 3) (sat : Bool) : Option CvtMode :=
  let k := clsShift f.cls
  let ftz := cvmr.getLsbD (k + 4) && !f.isInt
  let trp := cvmr.getLsbD (k + 5)
  if mode = 0 then
    (rmodeOf (cvmr.extractLsb' k 3)).map fun r => ⟨r, if cvmr.getLsbD (k + 3) then .ovi else .satf, ftz, trp⟩
  else (rmodeOf (mode - 1)).map fun r => ⟨r, if sat then .ovi else .satf, ftz, trp⟩

/-- Converts a value under a mode; a stochastic one first advances the lane's state (R83, R84): bits, event and the
state. -/
def CvtMode.run (c : CvtMode) (f : Fmt) (x : FVal) (sr : Word) : Nat × Nat × Word :=
  let sr1 := if c.mode = .sr then nextSr sr else sr
  let r := convert x f c.mode c.sat c.ftz (if c.mode = .sr then sr1.toNat / 65536 else 0)
  (r.1, r.2, sr1)

/-- Converts values in order, the state of one lane going from one to the next (R83). -/
def CvtMode.runs (c : CvtMode) (f : Fmt) : List FVal → Word → List (Nat × Nat) × Word
  | [], sr => ([], sr)
  | x :: r, sr =>
    let a := c.run f x sr
    let b := c.runs f r a.2.2
    ((a.1, a.2.1) :: b.1, b.2)

/-! ## Naming a tile -/

/-- The bytes of a tile: its header and its payload (R54). -/
def tileVas (e : RangeEntry) (t : Nat) : List Nat :=
  ((List.range 32).map fun i => e.base + e.hoff + 32 * t + i) ++ (List.range e.ps).map fun i => e.tileAddr t + i

/-- The memory bytes of a tile: header, payload and, with SCL, the scale plane (R69). -/
def State.tileRefs (s : State) (e : RangeEntry) (t : Nat) : List ByteRef :=
  let h := s.tileHeader e t
  let offs := ((List.range 32).map fun i => e.hoff + 32 * t + i) ++ ((List.range e.ps).map fun i => e.poff + e.ss * t + i)
    ++ (if hScl h then (List.range e.planeBytes).map fun i => hPlane h + i else [])
  offs.map fun o => ⟨false, canonOf (e.dpa o), e.key⟩

/-- The tile whose tile address an address is (R54). -/
def tileOf (l : Look) (va : Nat) : Option (RangeEntry × Nat) :=
  match l with
  | .range e =>
    match e.area (va - e.base) with
    | .payload t 0 => some (e, t)
    | _ => none
  | _ => none

/-- Whether an address translates to anything, so that one that names no tile is misaligned (R54, R171). -/
def mapped : Look → Bool
  | .range _ => true
  | .page _ _ _ _ _ _ _ => true
  | _ => false

/-- What an address meets for the focused strand, as its lowest lane translates it (R331, R334). -/
def State.lookAt (s : State) (va : Nat) : Look := s.lookBy s.g.vd (lowLane s.t.active) va (s.look (s.vdev s.g.vd) va)

/-- The tile at the pair S[A]. -/
def State.tileAt (s : State) (a : BitVec 7) : Option (RangeEntry × Nat) :=
  let va := (s.readPair a.toNat).toNat
  tileOf (s.lookAt va) va

/-- The bytes of a tile that an instruction accesses: header, payload and, where it reads or writes the scale plane, the
plane's, as far as they lie in the range (R54, R69, R266). -/
def State.tileSpan (s : State) (e : RangeEntry) (t : Nat) (plane : Bool) : List Nat :=
  let o := hPlane (s.tileHeader e t)
  tileVas e t ++
    if plane && decide (o + e.planeBytes ≤ e.limit - e.base) then (List.range e.planeBytes).map fun i => e.base + o + i else []

/-- The memory bytes of a tile that an instruction accesses. -/
def State.spanRefs (s : State) (e : RangeEntry) (t : Nat) (plane : Bool) : List ByteRef :=
  (s.tileSpan e t plane).map fun va => ⟨false, canonOf (e.dpa (va - e.base)), e.key⟩

/-- An instruction on the tile at the pair S[A]: its address checks, rights, watch slots and race check, then its
step at the home slice behind the strand's earlier operations (R69, R164, R171, R266, R300). `plane` says whether it writes
the scale plane; one that reads reads that of a tile with SCL. A poisoned tile gives its stored bytes and raises no
memory-poison (DESIGN CHOICE, log entry 87). -/
def State.onTile (s : State) (a : BitVec 7) (pre : List Bad) (read write plane watched : Bool) (extra : List Seen)
    (k : State → RangeEntry → Nat → Except Trap (State × Next)) : Except Trap (State × Next) :=
  let va := (s.readPair a.toNat).toNat
  let l := s.lookAt va
  let low := lowLane s.t.active
  let t := s.tileAt a
  let bad := if t.isNone && mapped l then [(⟨low, .misaligned, va⟩ : Bad)] else []
  let scl := match t with
    | some x => plane || (read && hScl (s.tileHeader x.1 x.2))
    | none => false
  let vas := match t with
    | some x => s.tileSpan x.1 x.2 scl
    | none => if mapped l then [] else [va]
  s.access ⟨pre ++ bad, vas.map fun v => ⟨low, 0, v⟩, read, write, false, true, watched, extra⟩ fun s _ =>
    match t with
    | none => .error (s.trap .misaligned)
    | some (e, n) =>
      let refs := s.spanRefs e n scl
      s.racedOne (refs.map fun r => (low, r.addr, e.rd)) write fun s => s.settled fun s =>
        k (if read then s.readErrors refs else s) e n

/-- The trap header-format of a tile (R57, R252). -/
def State.headerTrap (s : State) (e : RangeEntry) (t : Nat) : Trap :=
  { s.trap .headerFormat with addr := BitVec.ofNat 64 (e.tileAddr t) }

/-- A tile instruction's read has acquired what its bytes carry (R281, R286, R299). -/
def State.tileRead (s : State) (refs : List ByteRef) (acq : Option Nat) : State :=
  let cs := s.carriesAt s.g.block refs
  if cs = [] then s
  else
    let s1 := { s with t := { s.t with seen := addCarries (carriesOfKind true cs) s.t.seen } }
    match acq with
    | none => s1
    | some scope => s1.acquired (carriedBy scope s.g.id s.g.block (dieOf s.g.core) (carriesOfKind false cs))

/-- A tile instruction has written a tile: the shadow and what its bytes carry (R286, R298). -/
def State.tileWrote (s : State) (e : RangeEntry) (refs : List ByteRef) (rel : List Carry) : State :=
  (s.shadowMine (refs.map fun r => (r.addr, e.rd)) 7).setCarries s.g.block refs rel false

/-- The checks of a scratchpad image at an offset: a multiple of 32, within the allocation (R172). -/
def State.imageBad (s : State) (off size : Nat) : List Bad :=
  let low := lowLane s.t.active
  (if off % 32 ≠ 0 then [⟨low, .misaligned, off⟩] else []) ++
    if s.spadSize < off + size then [⟨low, .scratchpadBounds, max off s.spadSize⟩] else []

/-- The bytes of an image as watch slots see them (R266). -/
def State.imageSeen (s : State) (off size : Nat) (write : Bool) : List Seen :=
  (List.range size).map fun i => ⟨true, write, lowLane s.t.active, off + i⟩

/-! ## TLD and TST -/

/-- The image of a TLD is left to be written when the operation completes. -/
def State.tldDone (s : State) (off : Nat) (f : Fmt) (fs : Bool) (acq : Option Nat) (e : RangeEntry) (t : Nat)
    (r : List (Nat × Nat) × Word) (low : Nat) : State :=
  let bs := packElems f.width (r.1.map fun x => x.1)
  let refs := s.tileRefs e t
  let img := spadRefs off bs.length
  let s1 := { s with g := s.g.writeSr low r.2, t := (s.t.writesBytes img).readsBytes refs }
  (s1.tileRead refs acq).addOp (.tile [] [] (img.zip bs)) (some fs) none []

/-- The step of TLD: the view converted to the image's format, the strand's lowest lane giving the stochastic draws
(R172, R85). -/
def State.tldStep (s : State) (off : Nat) (f : Fmt) (c : CvtMode) (fs : Bool) (acq : Option Nat) (e : RangeEntry)
    (t : Nat) : Except Trap (State × Next) :=
  let h := s.tileHeader e t
  if headerBad e h then .error (s.headerTrap e t)
  else
    let low := lowLane s.t.active
    let r := c.runs f (s.tileView e t h).flatten (s.g.readSr low)
    match (List.range r.1.length).find? fun i => (r.1.getD i (0, 0)).2 != 0 with
    | some i =>
      if c.trp then .error { s.trap .conversionError with info := BitVec.ofNat 32 i }
      else .ok (s.tldDone off f fs acq e t r low, .seq)
    | none => .ok (s.tldDone off f fs acq e t r low, .seq)

/-- The elements of a tile at the pair S[A], 0 where it names none. -/
def State.tileElems (s : State) (a : BitVec 7) : Nat :=
  match s.tileAt a with
  | some (e, _) => 2 ^ (e.lrows + e.lcols)
  | none => 0

/-- TLD (R172). -/
def execTld (p : Pre) (d a : BitVec 7) (fmt : BitVec 8) (mode : BitVec 3) (sat : Bool) (fs : Bool) (ord : BitVec 2)
    (scp : BitVec 3) (s : State) : Host.Outcome State Fault Refusal :=
  issue (.tld p d a fmt mode sat fs ord scp) s fun s =>
    match s.scopeOf scp, fmtOf fmt with
    | .error tr, _ => .error tr
    | .ok _, none => .error (s.trap .illegalOperand)
    | .ok scope, some f =>
      match cvtMode s.t.cvmr f mode sat with
      | none => .error (s.trap .illegalOperand)
      | some c =>
        let off := s.spadBase d
        let size := s.tileElems a * f.width / 8
        s.onTile a (s.imageBad off size) true false false true (s.imageSeen off size true)
          (fun s e t => s.tldStep off f c fs (acqOf ord scope) e t)

/-- The step of TST: the image, and with SCLW the scale bytes behind it, become the tile (R68, R172). -/
def State.tstStep (s : State) (off : Nat) (fmt : BitVec 8) (f : Fmt) (sclw fs : Bool) (ord : BitVec 2) (scope : Nat)
    (e : RangeEntry) (t : Nat) : Except Trap (State × Next) :=
  if sclw && headerBad e (s.tileHeader e t) then .error (s.headerTrap e t)
  else
    let size := 2 ^ (e.lrows + e.lcols) * f.width / 8
    let ns := if sclw then e.planeBytes else 0
    let img := s.spadRead off size
    let sc := if sclw then some (s.spadRead (off + size) ns) else none
    let rel := s.relOf ord scope
    let s1 := s.wholeTile e t fmt img sc
    let refs := s1.tileRefs e t
    let s2 := (s1.tileWrote e refs rel)
    let s3 := { s2 with t := (s2.t.writesBytes refs).readsBytes (spadRefs off (size + ns)) }
    .ok ((s3.addOp (.tile [] [] []) (some fs) none []).afterRelease ord, .seq)

/-- TST (R172): an FMT wider than EW, or SCLW outside the families, raises illegal-operand. -/
def execTst (p : Pre) (d a : BitVec 7) (fmt : BitVec 8) (sclw : Bool) (fs : Bool) (ord : BitVec 2) (scp : BitVec 3)
    (s : State) : Host.Outcome State Fault Refusal :=
  issue (.tst p d a fmt sclw fs ord scp) s fun s =>
    match s.scopeOf scp, fmtOf fmt with
    | .error tr, _ => .error tr
    | .ok _, none => .error (s.trap .illegalOperand)
    | .ok scope, some f =>
      let e := s.tileAt a
      let wide := match e with
        | some x => decide (x.1.ew < f.width)
        | none => false
      if wide || (sclw && !f.isFamily) then .error (s.trap .illegalOperand)
      else
        let off := s.spadBase d
        let ns := match e with
          | some x => if sclw then x.1.planeBytes else 0
          | none => 0
        let size := s.tileElems a * f.width / 8 + ns
        s.onTile a (s.imageBad off size) sclw true sclw true (s.imageSeen off size false)
          (fun s e t => s.tstStep off fmt f sclw fs ord scope e t)

/-! ## THQ, TMAT and the edits -/

/-- THQ (R173). -/
def execThq (p : Pre) (d a : BitVec 7) (fs : Bool) (ord : BitVec 2) (scp : BitVec 3) (s : State) :
    Host.Outcome State Fault Refusal :=
  issue (.thq p d a fs ord scp) s fun s =>
    match s.scopeOf scp with
    | .error tr => .error tr
    | .ok scope =>
      s.onTile a [] true false false false [] fun s e t =>
        let h := s.tileHeader e t
        if headerBad e h then .error (s.headerTrap e t)
        else
          let refs := s.tileRefs e t
          let s1 := { s with t := s.t.readsBytes refs }.tileRead refs (acqOf ord scope)
          .ok (s1.addOp (.tile [] ((List.range 8).map fun k => (d.toNat + k, hword h k)) []) (some fs) none [], .seq)

/-- An operation that checks a tile's header and rewrites the tile (R57, R65, R67). -/
def State.rewrite (s : State) (a : BitVec 7) (fs : Bool) (ord : BitVec 2) (scp : BitVec 3)
    (ok : RangeEntry → Bool) (f : State → RangeEntry → Nat → State) : Except Trap (State × Next) :=
  match s.scopeOf scp with
  | .error tr => .error tr
  | .ok scope =>
    s.onTile a [] true true false false [] fun s e t =>
      if !(ok e) then .error (s.trap .illegalOperand)
      else if headerBad e (s.tileHeader e t) then .error (s.headerTrap e t)
      else
        let refs := s.tileRefs e t
        let s1 := s.tileRead refs (acqOf ord scope)
        let rel := s1.relOf ord scope
        let s2 := (f s1 e t).tileWrote e refs rel
        .ok ((s2.addOp (.tile [] [] []) (some fs) none []).afterRelease ord, .seq)

/-- TMAT (R173). -/
def execTmat (p : Pre) (a : BitVec 7) (fs : Bool) (ord : BitVec 2) (scp : BitVec 3) (s : State) :
    Host.Outcome State Fault Refusal :=
  issue (.tmat p a fs ord scp) s fun s =>
    s.rewrite a fs ord scp (fun _ => true) fun s e t => s.materialise e t (hFmt (s.tileHeader e t))

/-- A single-tile edit: its operands are checked before the header is read (R63, R174). -/
def State.editWord (s : State) (a : BitVec 7) (ed : Edit) (fs : Bool) (ord : BitVec 2) (scp : BitVec 3) :
    Except Trap (State × Next) :=
  if ed.bad true then .error (s.trap .illegalOperand)
  else s.rewrite a fs ord scp (fun e => !(ed.bad (e.lrows == e.lcols))) fun s e t => s.editTile e t ed

/-- TAFF (R174). -/
def execTaff (p : Pre) (a x y : BitVec 7) (fs : Bool) (ord : BitVec 2) (scp : BitVec 3) (s : State) :
    Host.Outcome State Fault Refusal :=
  issue (.taff p a x y fs ord scp) s fun s =>
    s.editWord a (.affine (s.readS x.toNat) (s.readS y.toNat) ninf32 pinf32) fs ord scp

/-- TSCALE (R174). -/
def execTscale (p : Pre) (a x : BitVec 7) (fs : Bool) (ord : BitVec 2) (scp : BitVec 3) (s : State) :
    Host.Outcome State Fault Refusal :=
  issue (.tscale p a x fs ord scp) s fun s => s.editWord a (.affine (s.readS x.toNat) 0 ninf32 pinf32) fs ord scp

/-- TOFFS (R174). -/
def execToffs (p : Pre) (a x : BitVec 7) (fs : Bool) (ord : BitVec 2) (scp : BitVec 3) (s : State) :
    Host.Outcome State Fault Refusal :=
  issue (.toffs p a x fs ord scp) s fun s =>
    s.editWord a (.affine one32 (s.readS x.toNat) ninf32 pinf32) fs ord scp

/-- TCLAMP (R174). -/
def execTclamp (p : Pre) (a x y : BitVec 7) (fs : Bool) (ord : BitVec 2) (scp : BitVec 3) (s : State) :
    Host.Outcome State Fault Refusal :=
  issue (.tclamp p a x y fs ord scp) s fun s =>
    s.editWord a (.affine one32 0 (s.readS x.toNat) (s.readS y.toNat)) fs ord scp

/-- TFILL (R174). -/
def execTfill (p : Pre) (a x : BitVec 7) (fs : Bool) (ord : BitVec 2) (scp : BitVec 3) (s : State) :
    Host.Outcome State Fault Refusal :=
  issue (.tfill p a x fs ord scp) s fun s => s.editWord a (.fill (s.readS x.toNat)) fs ord scp

/-- TPERM (R174). -/
def execTperm (p : Pre) (a : BitVec 7) (perm : BitVec 3) (fs : Bool) (ord : BitVec 2) (scp : BitVec 3) (s : State) :
    Host.Outcome State Fault Refusal :=
  issue (.tperm p a perm fs ord scp) s fun s => s.editWord a (.perm perm.toNat) fs ord scp

end Sys2Proof.Machine
end

