-- ==== Sys2Proof/Machine/Barriers.lean ====
section
/-! DEFINITION. Named barriers, byte-counting barriers and chainrings, majors 0x2D-0x2F (R175-R180). -/

namespace Sys2Proof.Machine

/-! ## Named barriers -/

/-- A named barrier of the focused strand's block. -/
def State.myBar (s : State) (name : Nat) : Bar :=
  match s.blockOf s.g.block with
  | some b => b.bar name
  | none => freshBar

/-- An arrival of the focused strand: its operand check, then its release, at once or held (R175, R302). -/
def State.arrive (s : State) (name : BitVec 4) (a : BitVec 7) (w wait : Bool)
    (k : State × Option Bool → State × Next) : Except Trap (State × Next) :=
  match s.wholeTrap w with
  | some tr => .error tr
  | none =>
    let cnt := (s.readS a.toNat).toNat
    if cnt = 0 ∨ 2048 < cnt then .error (s.trap .illegalOperand)
    else
      match s.release (.bar name.toNat cnt (popMask s.t.active) wait) with
      | none => .error (s.trap .illegalState)
      | some r => .ok (k r)

/-- BARA (R175). -/
def execBara (p : Pre) (name : BitVec 4) (a : BitVec 7) (w : Bool) (s : State) : Host.Outcome State Fault Refusal :=
  issue (.bara p name a w) s fun s => s.arrive name a w false fun r => (r.1, .seq)

/-- Waits until a named barrier has left a phase; the return is an acquire (R175, R176). -/
def State.awaitBar (s : State) (name : Nat) (ph arrived : Bool) : State × Next :=
  let b := s.myBar name
  if b.ph = ph ∨ s.mustFollow [] = true then ({ s with t := { s.t with wait := .bar name ph arrived } }, .stay)
  else (s.acquired (some b.last), .seq)

/-- BARS (R175): a strand that has arrived waits without arriving again (R194, R376); one whose held arrival failed while it
was away raises illegal-state (R302). -/
def execBars (p : Pre) (name : BitVec 4) (a : BitVec 7) (w : Bool) (s : State) : Host.Outcome State Fault Refusal :=
  issue (.bars p name a w) s fun s =>
    match s.t.barPhase with
    | some (.phase n ph) => .ok (s.awaitBar n ph true)
    | some (.held _ op) => .ok ({ s with t := { s.t with wait := .heldBar op } }, .stay)
    | some (.failed _) => .error (s.trap .illegalState)
    | none =>
      let id := s.nextId
      s.arrive name a w true fun r =>
        let s1 := { r.1 with t := { r.1.t with clean := false } }
        match r.2 with
        | none => ({ s1 with t := { s1.t with wait := .heldBar id, barPhase := some (.held name.toNat id) } }, .stay)
        | some ph =>
          ({ s1 with t := { s1.t with barPhase := some (.phase name.toNat ph) } }).awaitBar name.toNat ph true

/-- BARW (R175). -/
def execBarw (p : Pre) (name : BitVec 4) (w : Bool) (s : State) : Host.Outcome State Fault Refusal :=
  issue (.barw p name w) s fun s =>
    match s.wholeTrap w with
    | some tr => .error tr
    | none =>
      match s.t.wait with
      | .bar n ph false => .ok (s.awaitBar n ph false)
      | _ => .ok (s.awaitBar name.toNat (s.myBar name.toNat).ph false)

/-! ## Byte-counting barriers -/

/-- An instruction on the byte-counting barrier that S[A] names: aligned, and within the allocation (R177). -/
def State.onBarrier (s : State) (a : BitVec 7) (k : State → Nat → Except Trap (State × Next)) :
    Except Trap (State × Next) :=
  let off := s.spadBase a
  s.accessSpad (s.imageBad off 32) false [] true fun s => k s off

/-- BXINIT (R179). -/
def execBxinit (p : Pre) (d a : BitVec 7) (s : State) : Host.Outcome State Fault Refusal :=
  issue (.bxinit p d a) s fun s =>
    s.onBarrier a fun s off =>
      s.settled fun s =>
        let s1 := s.putBx s.g.block off { bxOf [] with exp := (s.readS d.toNat).toNat }
        match s1.blockOf s.g.block with
        | none => .ok (s1, .seq)
        | some b => .ok (s1.setBlock { b with bxCarried := smSet 0 b.bxCarried (2 * off) 0 }, .seq)

/-- BXEXP: a sum past 2^32 - 1 changes nothing (R179). -/
def execBxexp (p : Pre) (d a : BitVec 7) (s : State) : Host.Outcome State Fault Refusal :=
  issue (.bxexp p d a) s fun s =>
    s.onBarrier a fun s off =>
      s.settled fun s =>
        let b := s.bxAt s.g.block off
        let e := b.exp + (s.readS d.toNat).toNat
        if 2 ^ 32 ≤ e then .error (s.trap .illegalOperand)
        else .ok (s.bxUpdate s.g.block off { b with exp := e } 0, .seq)

/-- BXARR (R179). -/
def execBxarr (p : Pre) (d a : BitVec 7) (s : State) : Host.Outcome State Fault Refusal :=
  issue (.bxarr p d a) s fun s =>
    s.onBarrier a fun s off =>
      match s.release (.bxarr off (s.readS d.toNat).toNat) with
      | none => .error (s.trap .illegalState)
      | some r => .ok (r.1, .seq)

/-- The interval number that the last completed phase of a byte-counting barrier carried, if it carried one (R299). -/
def State.bxLast (s : State) (off : Nat) : Option Nat :=
  match s.blockOf s.g.block with
  | some b => carriedNumber (smGet 0 b.bxCarried (2 * off + 1))
  | none => none

/-- BXWAIT (R179). -/
def execBxwait (p : Pre) (par : Bool) (q : BitVec 2) (a : BitVec 7) (s : State) : Host.Outcome State Fault Refusal :=
  issue (.bxwait p par q a) s fun s =>
    s.onBarrier a fun s off =>
      s.inOrder (spadRefs off 32) fun s =>
        let b := s.bxAt s.g.block off
        if b.ph = par then s.waitAgain else .ok ((s.writeQ q b.err).acquired (s.bxLast off), .seq)

/-! ## Chainrings -/

/-- An instruction on a stage of a chainring: an absent ring, or a stage at or above S, raises illegal-operand
(R42). -/
def State.onStage (s : State) (ring : BitVec 3) (a : BitVec 7) (k : Ring → Nat → Except Trap (State × Next)) :
    Except Trap (State × Next) :=
  let st := (s.readS a.toNat).toNat
  match (s.blockOf s.g.block).bind fun b => b.ring ring.toNat with
  | none => .error (s.trap .illegalOperand)
  | some r => if st < r.stages then k r st else .error (s.trap .illegalOperand)

/-- Whether a stage is full, or empty, in a phase (R180). -/
def Ring.is (r : Ring) (st : Nat) (full ph : Bool) : Bool := smGet false r.full st == full && smGet false r.phase st == ph

/-- CRWAIT: waits for a stage; an acquire at block scope (R180). -/
def State.ringWait (s : State) (ring : BitVec 3) (a : BitVec 7) (full ph : Bool) : Except Trap (State × Next) :=
  s.onStage ring a fun r st =>
    s.inOrder [] fun s =>
      if r.is st full ph then .ok (s.acquired (carriedNumber (smGet 0 r.carried st)), .seq) else s.waitAgain

/-- CRWAIT.empty (R180). -/
def execCrwaitEmpty (p : Pre) (ring : BitVec 3) (ph : Bool) (a : BitVec 7) (s : State) :
    Host.Outcome State Fault Refusal :=
  issue (.crwaitEmpty p ring ph a) s fun s => s.ringWait ring a false ph

/-- CRWAIT.full (R180). -/
def execCrwaitFull (p : Pre) (ring : BitVec 3) (ph : Bool) (a : BitVec 7) (s : State) :
    Host.Outcome State Fault Refusal :=
  issue (.crwaitFull p ring ph a) s fun s => s.ringWait ring a true ph

/-- CRFILL (R180): a release at block scope. -/
def execCrfill (p : Pre) (ring : BitVec 3) (a : BitVec 7) (s : State) : Host.Outcome State Fault Refusal :=
  issue (.crfill p ring a) s fun s =>
    s.onStage ring a fun _ st =>
      match s.release (.crfill ring.toNat st) with
      | none => .error (s.trap .illegalState)
      | some r => .ok (r.1, .seq)

/-- CRFREE (R180): a release at block scope. -/
def execCrfree (p : Pre) (ring : BitVec 3) (a : BitVec 7) (s : State) : Host.Outcome State Fault Refusal :=
  issue (.crfree p ring a) s fun s =>
    s.onStage ring a fun _ st =>
      match s.release (.crfree ring.toNat st) with
      | none => .error (s.trap .illegalState)
      | some r => .ok (r.1, .seq)

/-- CRTAKE: tests a stage; an acquire at block scope when it sets its Q (R180). -/
def State.ringTake (s : State) (ring : BitVec 3) (q : BitVec 2) (a : BitVec 7) (full ph : Bool) :
    Except Trap (State × Next) :=
  s.onStage ring a fun r st =>
    if r.is st full ph then
      s.inOrder [] fun s => .ok ((s.writeQ q true).acquired (carriedNumber (smGet 0 r.carried st)), .seq)
    else .ok (s.writeQ q false, .seq)

/-- CRTAKE.empty (R180). -/
def execCrtakeEmpty (p : Pre) (ring : BitVec 3) (q : BitVec 2) (ph : Bool) (a : BitVec 7) (s : State) :
    Host.Outcome State Fault Refusal :=
  issue (.crtakeEmpty p ring q ph a) s fun s => s.ringTake ring q a false ph

/-- CRTAKE.full (R180). -/
def execCrtakeFull (p : Pre) (ring : BitVec 3) (q : BitVec 2) (ph : Bool) (a : BitVec 7) (s : State) :
    Host.Outcome State Fault Refusal :=
  issue (.crtakeFull p ring q ph a) s fun s => s.ringTake ring q a true ph

end Sys2Proof.Machine
end

