-- ==== Sys2Proof/Machine/Descr.lean ====
section
/-! DEFINITION. Copy descriptors and their checks, and the issue of copy-engine commands: CPY, CPYP and HEDIT
(R181, R182, R185, R186, R188, R326). -/

namespace Sys2Proof.Machine

/-! ## The descriptor -/

/-- Four signed 32-bit fields from a bit position. -/
def sext4 (v at_ : Nat) : List Int := (List.range 4).map fun i => sextN (bits v (at_ + 32 * i) 32) 32

/-- The fields of a copy descriptor's 64 bytes (R181). -/
def sideOf (bs : List Byte) : Side :=
  let v := leNat bs
  let bit := fun i => bits v i 1 == 1
  { base := bits v 0 64, fmt := BitVec.ofNat 8 (bits v 64 8), spad := bits v 72 2 == 1, tiled := bit 74,
    nd := bits v 75 2, pad := bits v 77 2, idx := bit 79, idim := bits v 80 2, sclw := bit 82, rnd := bits v 88 3,
    sat := bit 91, ftz := bit 92, padv := BitVec.ofNat 32 (bits v 96 32),
    ext := (List.range 4).map fun i => bits v (128 + 32 * i) 32, str := sext4 v 256,
    box := (List.range 4).map fun i => bits v (384 + 16 * i) 16, iadr := bits v 448 64, index := [],
    lrows := 0, lcols := 0, ss := 0 }

/-- A side with the shape of the tiles of its range entry (R182). -/
def Side.shaped (d : Side) (e : Option RangeEntry) : Side :=
  match e with
  | some r => { d with lrows := r.lrows, lcols := r.lcols, ss := r.ss }
  | none => d

/-- The width of a side's elements, 0 for a reserved format. -/
def Side.width (d : Side) : Nat := (fmtWidth d.fmt).getD 0

/-- The offsets that name the failed checks of a side's fields, of a check of several fields the lowest of them: SCLW without
TILED, IDIM above ND, IADR without IDX and a stride along a tile's own dimension name byte 9 (R181, R182). A field that must be
0 above ND, or at least 1 below it, is named itself (DEDUCED, log entry 109). `e` is the range entry of a tiled side. -/
def descFails (dst : Bool) (bs : List Byte) (e : Option RangeEntry) : List Nat :=
  let v := leNat bs
  let d := sideOf bs
  let w := d.width
  let dim := fun (i : Nat) => decide (i ≤ d.nd)
  let per := fun (f : Nat → List (Nat × Bool)) => (List.range 4).flatMap f
  let checks : List (Nat × Bool) :=
    [(0, d.spad && decide (2 ^ 20 ≤ d.base)), (0, !d.tiled && decide (8 ≤ w) && decide (d.base % (w / 8) ≠ 0)),
      (8, w == 0), (9, decide (2 ≤ bits v 72 2) || (d.tiled && bits v 72 2 != 0) || d.pad == 3 || (dst && d.pad != 0) || !(dim d.idim)
        || (d.sclw && dst && !d.tiled) || (d.iadr != 0 && !d.idx)
        || (d.tiled && (d.str.getD 0 0 != 0 || d.str.getD 1 0 != 0))),
      (10, bits v 83 5 != 0 || (d.sclw && !dst)),
      (11, if dst then bits v 93 3 != 0 || decide (3 < d.rnd) else bits v 88 8 != 0), (12, dst && d.padv != 0)] ++
    per (fun i =>
      [(16 + 4 * i, if dim i then d.ext.getD i 0 == 0 else d.ext.getD i 0 != 0),
        (32 + 4 * i, d.str.getD i 0 != 0 && !(dim i)),
        (48 + 2 * i, if dst || !(dim i) then d.box.getD i 0 != 0 else d.box.getD i 0 == 0)]) ++
    match e with
    | some r =>
      [(8, decide (r.ew < w)), (16, d.ext.getD 0 0 % 2 ^ r.lcols != 0), (20, d.ext.getD 1 0 % 2 ^ r.lrows != 0)]
    | none => []
  (checks.filter fun c => c.2).map fun c => c.1

/-- The box of a side: 1 above its dimensions. -/
def Side.boxOf (d : Side) (i : Nat) : Nat := if i ≤ d.nd then d.box.getD i 0 else 1

/-- The number of box elements, N (R183). -/
def Side.count (d : Side) : Nat := d.boxOf 0 * d.boxOf 1 * d.boxOf 2 * d.boxOf 3

/-- The box coordinate of element `n` (R183). -/
def Side.coord (d : Side) (n : Nat) : List Nat :=
  let b := d.boxOf
  [n % b 0, n / b 0 % b 1, n / (b 0 * b 1) % b 2, n / (b 0 * b 1 * b 2)]

/-- Whether a coordinate is in bounds of a side (R182). -/
def Side.inBounds (d : Side) (x : List Int) : Bool :=
  (List.range (d.nd + 1)).all fun i => decide (0 ≤ x.getD i 0 ∧ x.getD i 0 < (d.ext.getD i 0 : Int))

/-- The bit position of a coordinate's element from address 0 of a linear side (R182). -/
def Side.bitPos (d : Side) (x : List Int) : Int :=
  8 * (d.base : Int) + d.width *
    ((List.range 4).map fun i => x.getD i 0 * d.str.getD i 0).foldl (fun a b => a + b) 0

/-- The tile address of a coordinate of a tiled side (R182). -/
def Side.tileAt (d : Side) (x : List Int) : Nat :=
  let R : Int := (2 ^ d.lrows : Nat)
  let C : Int := (2 ^ d.lcols : Nat)
  let at_ := x.getD 1 0 / R * ((d.ext.getD 0 0 : Int) / C) + x.getD 0 0 / C + x.getD 2 0 * d.str.getD 2 0 +
    x.getD 3 0 * d.str.getD 3 0
  (((d.base : Int) + (d.ss : Int) * at_) % (2 ^ 64 : Nat)).toNat

/-- The least value at or above `t` that a sum of multiples reaches: each pair is a step and its number of values. -/
def leastReach : List (Nat × Nat) → Int → Option Nat
  | [], t => if t ≤ 0 then some 0 else none
  | (s, n) :: r, t =>
    let top := if s = 0 then 0 else min (n - 1) ((t.toNat + s - 1) / s)
    let try_ := fun (k : Nat) => (leastReach r (t - (k * s : Nat))).map fun v => v + k * s
    ((List.range (top + 1)).filterMap try_).foldl (fun b v => some (min v (b.getD v))) none

/-- The lowest offset outside an allocation that an in-bounds coordinate of a scratchpad side can address (R181). -/
def Side.escape (d : Side) (size : Nat) : Option Int :=
  let w := d.width
  let dims := (List.range (d.nd + 1)).map fun i => (d.ext.getD i 0, d.str.getD i 0)
  let lo := d.bitPos (dims.map fun p => if p.2 < 0 then (p.1 : Int) - 1 else 0)
  if lo < 0 then some (lo / 8)
  else
    let steps := (dims.filter fun p => decide (p.2 ≠ 0 ∧ p.1 ≠ 1)).map fun p => (w * p.2.natAbs, p.1)
    (leastReach steps ((8 * size : Nat) + 1 - (w : Int) - lo)).map fun v => max ((lo + v) / 8) (size : Int)

/-! ## Reading descriptors -/

/-- The scratchpad checks of `n` bytes at an offset. -/
def State.spadRangeBad (s : State) (off n align : Nat) : List Bad :=
  let low := lowLane s.t.active
  (if off % align ≠ 0 then [⟨low, .misaligned, off⟩] else []) ++
    if s.spadSize < off + n then [⟨low, .scratchpadBounds, max off s.spadSize⟩] else []

/-- An issue that reads a table of bytes in memory or scratchpad: where they are, checked, as one access. -/
structure Source where
  spad : Bool
  at_ : Nat
  len : Nat
  align : Nat
  deriving DecidableEq, Repr

/-- The failed address checks of a source. -/
def State.sourceBad (s : State) (x : Source) : List Bad :=
  if x.spad then s.spadRangeBad x.at_ x.len x.align
  else if x.at_ % x.align ≠ 0 then [⟨lowLane s.t.active, .misaligned, x.at_⟩]
  else []

/-- The bytes of a list of sources, cut from the bytes that an access read, in order. -/
def State.sourceBytes (s : State) : List Source → List Byte → List (List Byte)
  | [], _ => []
  | x :: r, bs =>
    if x.spad then s.spadRead x.at_ x.len :: s.sourceBytes r bs
    else bs.take x.len :: s.sourceBytes r (bs.drop x.len)

/-- The bytes of a list of sources that lie in memory, as the issuing strand's lowest lane names them (R181). -/
def State.sourceLanes (s : State) (xs : List Source) : List LaneByte :=
  xs.flatMap fun x =>
    if x.spad || s.sourceBad x != [] then []
    else (List.range x.len).map fun i => (⟨lowLane s.t.active, i, (x.at_ + i) % 2 ^ 64⟩ : LaneByte)

/-- The access by which sources are read. -/
def State.sourceAsk (s : State) (pre : List Bad) (xs : List Source) : Ask :=
  ⟨pre ++ xs.flatMap s.sourceBad, s.sourceLanes xs, true, false, false, true, false, []⟩

/-- Reads sources at issue: their checks, a stall for a recoverable missing translation, and memory-poison precise at
the instruction (R164, R181, R319). The table of R72 has no row for descriptors, edit blocks, index tensors and bank arguments
in a tiled range: they are the stored bytes, through no view (DESIGN CHOICE, log entry 95). -/
def State.readSources (s : State) (pre : List Bad) (xs : List Source)
    (k : State → List (List Byte) → Except Trap (State × Next)) : Except Trap (State × Next) :=
  s.access (s.sourceAsk pre xs) fun u hits =>
    let s := u.readErrors (hits.map fun h => h.ref)
    match (hits.find? fun h => s.isPoisoned h.ref.addr) with
    | some h =>
      .error ⟨.memoryPoison, s.t.active, BitVec.ofNat 64 h.va, s.t.pc.extractLsb' 0 32⟩
    | none => k s (s.sourceBytes xs (s.bytesAt (hits.map fun h => h.ref)))

/-- The descriptor, or the edit block, that a register names (R185). Of an edit block R188 states no alignment: one that is
not 64-byte aligned is misaligned, as a descriptor is (DESIGN CHOICE, log entry 95). -/
def State.descSource (s : State) (r : BitVec 7) (ds : Bool) : Source :=
  ⟨ds, if ds then s.spadBase r else (s.readPair r.toNat).toNat, 64, 64⟩

/-- The range entry whose tile a tiled side names. -/
def State.sideRange (s : State) (d : Side) : Option RangeEntry :=
  if d.tiled && !d.spad then (tileOf (s.lookAt d.base) d.base).map fun x => x.1 else none

/-- The failed checks of a side's BASE: a tiled side names a tile; memory outside the partition's reach raises
protection-fault (R54, R181, R185). -/
def State.baseBad (s : State) (d : Side) : List Bad :=
  let low := lowLane s.t.active
  let l := s.lookAt d.base
  if d.spad then []
  else if d.tiled then
    (if mapped l && (tileOf l d.base).isNone then [⟨low, .misaligned, d.base⟩] else [])
  else
    match s.xlateLook (s.vdev s.g.vd) l d.base ⟨false, false, false⟩ true with
    | .trap .protectionFault => [⟨low, .protectionFault, d.base⟩]
    | _ => []

/-- The access by which it is checked where the sides of a command lie. -/
def State.basesAsk (s : State) (ds : List Side) : Ask :=
  let tiles := ds.filter fun d => d.tiled && !d.spad
  ⟨ds.flatMap s.baseBad, tiles.map fun d => ⟨lowLane s.t.active, 0, d.base⟩, false, false, false, true, false, []⟩

/-- Checks where the sides of a command lie: their BASEs, and a stall where a tile's range is missing. -/
def State.basesOk (s : State) (ds : List Side) (k : State → Except Trap (State × Next)) : Except Trap (State × Next) :=
  s.access (s.basesAsk ds) fun s _ => k s

/-- The least of some offsets. -/
def leastOf : List Nat → Option Nat
  | [] => none
  | a :: r => some (r.foldl min a)

/-- A failed field check: illegal-operand with the field's offset (R181, R252). -/
def State.fieldTrap (s : State) (off : Nat) : Trap := { s.trap .illegalOperand with info := BitVec.ofNat 32 off }

/-- The scratchpad checks of a side (R181). -/
def State.sideBad (s : State) (d : Side) : List Bad :=
  if d.spad then
    match d.escape s.spadSize with
    | some o => [⟨lowLane s.t.active, .scratchpadBounds, (o % (2 ^ 64 : Nat)).toNat⟩]
    | none => []
  else []

/-- The index tensor of a side: as many elements as the source's box along its dimension (R181, R195). -/
def indexSource (d : Side) (n : Nat) : List Source := if d.idx then [⟨d.spad, d.iadr, 4 * n, 4⟩] else []

/-- The signed 32-bit elements of bytes. -/
def i32s (bs : List Byte) : List Int := (unpackElems 32 bs).map fun x => sextN x 32

/-- Gives sides their index elements, in order. -/
def fillIndex : List Side → List (List Byte) → List Side
  | [], _ => []
  | d :: r, bs =>
    if d.idx then { d with index := i32s (bs.headD []) } :: fillIndex r bs.tail else d :: fillIndex r bs

/-- The index tensors and scratchpad checks of the sides of a command, all in one set of checks (R181). -/
def State.withIndexes (s : State) (ds : List Side) (src : Side)
    (k : State → List Side → Except Trap (State × Next)) : Except Trap (State × Next) :=
  let xs := ds.flatMap fun d => indexSource d (src.boxOf d.idim)
  s.readSources (ds.flatMap s.sideBad) xs fun s bs => k s (fillIndex ds bs)

/-! ## Issue -/

/-- The commands in a core's copy-engine queue. -/
def State.copyQueue (s : State) (core : Nat) : List CopyCmd := s.copies.filter fun c => c.core == core && !c.performed

/-- An engine command: it does not issue while its queue is full; every earlier operation of the strand precedes it
(R165, R292). -/
def State.engineIssue (s : State) (k : State → Except Trap (State × Next)) : Except Trap (State × Next) :=
  if 64 ≤ (s.copyQueue s.g.core).length then .ok (s, .held .copyQueue) else s.settled k

/-- The origin in S[O]..S[O+3] (R183). -/
def State.originOf (s : State) (o : BitVec 7) : List Int := (List.range 4).map fun i => (s.readS (o.toNat + i)).toInt

/-- Queues a command of the focused strand. -/
def State.enqueue (s : State) (off : Nat) (o : BitVec 7) (bytes : Nat) (kind : CopyKind) : State :=
  { s with
    nextId := s.nextId + 1
    copies := s.copies ++
      [{ id := s.nextId, core := s.g.core, vd := s.g.vd, gang := s.g.id, block := s.g.block, barrier := off,
         origin := s.originOf o, interval := s.g.interval, bytes := bytes, kind := kind, arrived := 0, pos := 0, outs := [],
         wrote := [], waiting := none, failed := [], deferred := false, refused := false, performed := false, remote := [] }] }

/-- The kind of data that a side names: 0 device memory, 1 scratchpad, 2 CXL or host memory, 3 remote memory (R326). -/
def State.dataKind (s : State) (d : Side) : Nat :=
  if d.spad then 1
  else
    match s.xlate (s.vdev s.g.vd) d.base ⟨false, false, false⟩ true with
    | .ok dpa _ _ => if (s.fabricAt dpa).isSome then 3 else if isDevice (canonOf dpa) then 0 else 2
    | _ => 0

/-- The promise of CPYP: what every earlier command of the engine has still to arrive, one that awaits reports of remote
elements among them, and its own bytes (R186, R326). -/
def State.promise (s : State) (src dst : Side) (own : Nat) : Addr :=
  let ahead := ((s.copies.filter fun c => c.core == s.g.core).map fun c => c.bytes - c.arrived).foldl (fun a b => a + b) 0
  let c := (ahead + own + 127) / 128
  let f := (s.die (dieOf s.g.core)).clock
  let t := s.tickOf s.g.vd + (10 * c + f - 1) / f + (Config.allowance (s.dataKind src) (s.dataKind dst)).toNat
  BitVec.ofNat 64 (t % 2 ^ 60 + 2 ^ 60 * ((s.vdev s.g.vd).epoch % 16))

/-- The box-size checks of a copy (R181). -/
def boxBad (src dst : Side) : Bool :=
  let n := src.count
  decide (2 ^ 32 < n) || n * dst.width % 8 != 0 || decide (2 ^ 32 ≤ n * dst.width / 8)

/-- The field check of a copy's two descriptors: the lowest failing offset, the source side first (R181). -/
def copyFails (a b : List Byte) (ea eb : Option RangeEntry) : Option Nat :=
  let src := sideOf a
  let dst := sideOf b
  match leastOf (descFails false a ea ++ if boxBad src dst then [48] else []) with
  | some o => some o
  | none => (leastOf (descFails true b eb ++ if src.nd != dst.nd then [9] else [])).map fun o => 64 + o

/-- The issue of CPY and CPYP (R181-R186). Where a BASE raises protection-fault or misaligned and a field fails too, the manual
gives no order: the BASEs come first (DESIGN CHOICE, log entry 95). -/
def State.copyIssue (s : State) (promise : Bool) (d a e b o : BitVec 7) (ds : Bool) : Except Trap (State × Next) :=
  s.engineIssue fun s =>
    let off := s.spadBase e
    s.readSources (s.imageBad off 32) [s.descSource a ds, s.descSource b ds] fun s bs =>
      let ba := bs.getD 0 []
      let bb := bs.getD 1 []
      let src := sideOf ba
      let dst := sideOf bb
      s.basesOk [src, dst] fun s =>
        match copyFails ba bb (s.sideRange src) (s.sideRange dst) with
        | some f => .error (s.fieldTrap f)
        | none =>
          s.withIndexes [src.shaped (s.sideRange src), dst.shaped (s.sideRange dst)] src fun s sides =>
            let x := sides.getD 0 src
            let y := sides.getD 1 dst
            let n := x.count * y.width / 8
            let s1 := s.enqueue off o n (.cpy promise x y)
            .ok (if promise then s1.writePair d (s.promise x y n) else s1, .seq)

/-- CPY (R185). -/
def execCpy (p : Pre) (a e b o : BitVec 7) (ds : Bool) (s : State) : Host.Outcome State Fault Refusal :=
  issue (.cpy p a e b o ds) s fun s => s.copyIssue false 0 a e b o ds

/-- CPYP (R185, R186). -/
def execCpyp (p : Pre) (d a e b o : BitVec 7) (ds : Bool) (s : State) : Host.Outcome State Fault Refusal :=
  issue (.cpyp p d a e b o ds) s fun s => s.copyIssue true d a e b o ds

/-! ## HEDIT -/

/-- The steps of an edit block, `none` where its fields fail their checks (R188). -/
def editSteps (bs : List Byte) : Option (List EditStep) :=
  let v := leNat bs
  let n := bits v 0 4
  let step := fun k =>
    let p := 32 + 96 * k
    (⟨bits v p 8, bits v (p + 8) 8, BitVec.ofNat 32 (bits v (p + 32) 32), BitVec.ofNat 32 (bits v (p + 64) 32)⟩ : EditStep)
  let raw := fun k => bits v (32 + 96 * k) 96
  let bad := fun k =>
    let t := step k
    let code := BitVec.ofNat 8 t.arg
    bits v (48 + 96 * k) 16 != 0 || decide (7 < t.kind) || (t.arg != 0 && t.kind != 5 && t.kind != 6) ||
      (t.kind == 5 && decide (7 < t.arg)) || (t.kind == 6 && (fmtOf code).isNone) ||
      (t.y != 0 && t.kind != 0 && t.kind != 3) || (t.x != 0 && decide (4 < t.kind))
  if n = 0 ∨ 5 < n ∨ bits v 4 28 ≠ 0 ∨ ((List.range 5).any fun k => if k < n then bad k else raw k != 0) = true then none
  else some ((List.range n).map step)

/-- The edit map of a step of kind TAFF to TPERM (R62). -/
def EditStep.edit (t : EditStep) : Option Edit :=
  match t.kind with
  | 0 => some (.affine t.x t.y ninf32 pinf32)
  | 1 => some (.affine t.x 0 ninf32 pinf32)
  | 2 => some (.affine one32 t.x ninf32 pinf32)
  | 3 => some (.affine one32 0 t.x t.y)
  | 4 => some (.fill t.x)
  | 5 => some (.perm t.arg)
  | _ => none

/-- Whether a step's operands fail, apart from the permutation's shape (R63, R188). -/
def EditStep.bad (t : EditStep) : Bool :=
  match t.edit with
  | some e => e.bad true
  | none => false

/-- The field check of HEDIT's descriptor: as a source side, tiled, without padding, conversion or scales, and with an
index along dimension 2 or 3 only (R188). -/
def heditFails (a : List Byte) (e : Option RangeEntry) : Option Nat :=
  let d := sideOf a
  leastOf (descFails false a e ++ (if !d.tiled || d.pad != 0 then [9] else []) ++ (if d.padv != 0 then [12] else []) ++
    (if d.idx && decide (d.idim < 2) then [9] else []) ++ if decide (2 ^ 32 < d.count) then [48] else [])

/-- Whether the box and origin are whole tiles along dimensions 0 and 1 (R188). -/
def wholeTiles (d : Side) (e : RangeEntry) (o : List Int) : Bool :=
  decide (d.box.getD 0 0 % 2 ^ e.lcols = 0) && decide (d.box.getD 1 0 % 2 ^ e.lrows = 0) &&
    decide (o.getD 0 0 % (2 ^ e.lcols : Nat) = 0) && decide (o.getD 1 0 % (2 ^ e.lrows : Nat) = 0)

/-- The number of tile positions that a box covers (R188). A box of one dimension covers one row of tiles (DESIGN CHOICE, log
entry 95). -/
def tileCount (d : Side) (e : RangeEntry) : Nat :=
  (d.boxOf 0 / 2 ^ e.lcols) * (if d.nd = 0 then 1 else d.boxOf 1 / 2 ^ e.lrows) * d.boxOf 2 * d.boxOf 3

/-- HEDIT (R188). -/
def execHedit (p : Pre) (a e b o : BitVec 7) (ds : Bool) (s : State) : Host.Outcome State Fault Refusal :=
  issue (.hedit p a e b o ds) s fun s =>
    s.engineIssue fun s =>
      let off := s.spadBase e
      s.readSources (s.imageBad off 32) [s.descSource a ds, s.descSource b ds] fun s bs =>
        let ba := bs.getD 0 []
        let src := sideOf ba
        s.basesOk [src] fun s =>
          match heditFails ba (s.sideRange src), s.sideRange src, editSteps (bs.getD 1 []) with
          | some f, _, _ => .error (s.fieldTrap f)
          | none, none, _ => .error (s.fieldTrap 9)
          | none, some _, none => .error (s.trap .illegalOperand)
          | none, some r, some steps =>
            if !(wholeTiles src r (s.originOf o)) || steps.any EditStep.bad then .error (s.trap .illegalOperand)
            else
              s.withIndexes [src.shaped (some r)] src fun s sides =>
                .ok (s.enqueue off o (32 * tileCount src r) (.hedit (sides.getD 0 src) steps), .seq)

/-! ## CWAIT and CSTAT -/

/-- CWAIT (R187): a promise of another epoch is missed; a barrier that has completed is found complete; else the strand
sleeps until it completes or the promise time comes. A time more than 2^34 ticks ahead is missed at once (R359; DESIGN
CHOICE, log entry 92). -/
def execCwait (p : Pre) (par : Bool) (d a : BitVec 7) (s : State) : Host.Outcome State Fault Refusal :=
  issue (.cwait p par d a) s fun s =>
    s.onBarrier a fun s off =>
      let pr := (s.readPair d.toNat).toNat
      let missed : Trap := ⟨.missedPromise, s.t.active, 0, BitVec.ofNat 32 off⟩
      if !s.t.waited && decide (pr / 2 ^ 60 ≠ (s.vdev s.g.vd).epoch % 16) then .error missed
      else
        s.inOrder (spadRefs off 32) fun s =>
          if (s.bxAt s.g.block off).ph != par then .ok ((s.writeQ 3 false).acquired (s.bxLast off), .seq)
          else if pr % 2 ^ 60 ≤ s.tickOf s.g.vd ∨ s.tickOf s.g.vd + 2 ^ 34 < pr % 2 ^ 60 then .error missed
          else s.waitAgain

/-- Bytes 12-15 of a barrier: CODE, KIND and what stands above them (R177, R187). -/
def Bx.status (b : Bx) : Word := BitVec.ofNat 32 (b.code + 2 ^ 8 * b.kind + 2 ^ 16 * b.top)

/-- CSTAT: an acquire at block scope (R187). A read of the barrier's words synchronises with no arrival (R286). -/
def State.cstat (s : State) (a : BitVec 7) (f : State → Nat → Bx → State) : Except Trap (State × Next) :=
  s.onBarrier a fun s off =>
    s.inOrder (spadRefs off 32) fun s =>
      let s1 := { s with t := s.t.readsBytes (spadRefs off 32) }
      .ok (f s1 off (s1.bxAt s1.g.block off), .seq)

/-- CSTAT (R187). -/
def execCstat (p : Pre) (d a : BitVec 7) (s : State) : Host.Outcome State Fault Refusal :=
  issue (.cstat p d a) s fun s => s.cstat a fun s _ b => s.writeS p d b.status

/-- CSTAT.idx (R187). -/
def execCstatIdx (p : Pre) (d a : BitVec 7) (s : State) : Host.Outcome State Fault Refusal :=
  issue (.cstatIdx p d a) s fun s => s.cstat a fun s _ b => s.writePair d (BitVec.ofNat 64 b.index)

/-- CSTAT.clr (R187). -/
def execCstatClr (p : Pre) (d a : BitVec 7) (s : State) : Host.Outcome State Fault Refusal :=
  issue (.cstatClr p d a) s fun s =>
    s.cstat a fun s off b =>
      (s.writeS p d b.status).putBx s.g.block off { b with code := 0, kind := 0, index := 0 }

end Sys2Proof.Machine
end

