-- ==== Sys2Proof/Machine/Engine.lean ====
section
/-! DEFINITION. The copy engine: what CPY, CPYP, HEDIT and OLOAD commands do as the engine performs them, some elements or one
tile at a step (R70, R183, R184, R188, R195, R233, R309, R320), with budgets (R351), remote elements (R369) and arrivals
(R183). -/

namespace Sys2Proof.Machine

/-- Why an element is not processed: a fault that its command records (R184), charges that a budget refuses or defers (R351),
or a recoverable missing translation (R320). -/
inductive Halt where
  | code (c : Nat)
  | refused (cs : List Charge) (va : Nat)
  | defer
  | miss (va : Nat) (write hold : Bool)
  deriving DecidableEq, Repr

/-- A source element: its value, and its bits with their format where they pass no map and no scale (R183). -/
structure Got where
  val : FVal
  raw : Option (BitVec 8 × Nat)
  deriving DecidableEq, Repr

/-- A source tile as one step read it: its view, its bits where they pass no map and no scale, and its format. -/
structure TileGot where
  rows : List (List FVal)
  raw : List (List Nat)
  fmt : BitVec 8
  deriving DecidableEq, Repr

/-- A step of a command: the state, the command, the source tiles that the step has read, and the 64-byte units that its last
elements have charged, read ones even and written ones odd. -/
structure Run where
  s : State
  c : CopyCmd
  cache : List (Nat × TileGot)
  units : List Nat

/-- The recorder code of a command (R177). -/
def CopyKind.recorder : CopyKind → Nat
  | .cpy false _ _ => 1
  | .cpy true _ _ => 2
  | .hedit _ _ => 3
  | .oload _ _ _ _ _ _ => 5

/-- Records a fault of an element (R184). -/
def Run.fault (r : Run) (code n : Nat) : Run :=
  { r with s := r.s.bxFault r.c.block r.c.barrier code r.c.kind.recorder n }

/-! ## The command -/

/-- The source side of a command. -/
def CopyCmd.source (c : CopyCmd) : Side :=
  match c.kind with
  | .cpy _ src _ => src
  | .hedit src _ => src
  | .oload src _ _ _ _ _ => src

/-- The elements, or the tiles, of a command (R183, R188). -/
def CopyCmd.total (c : CopyCmd) : Nat :=
  match c.kind with
  | .hedit _ _ => c.bytes / 32
  | _ => c.source.count

/-- The bytes that a command moves for its elements below `n` (R350): as it arrives them. -/
def CopyCmd.before (c : CopyCmd) (n : Nat) : Nat :=
  match c.kind with
  | .cpy _ _ dst => n * dst.width / 8
  | .hedit _ _ => 32 * n
  | .oload _ _ _ _ _ _ => c.bytes * n / max 1 c.total

/-- Whether a command is processed, written and reported in full. -/
def CopyCmd.over (c : CopyCmd) : Bool := decide (c.total ≤ c.pos) && c.outs.isEmpty && c.remote.isEmpty

/-- The bytes that a command has to have arrived: those of the elements processed whose writes are performed, and of an OLOAD
all when it is over (R183, R188, R233, R369). -/
def CopyCmd.due (c : CopyCmd) : Nat :=
  if c.over then c.bytes
  else
    match c.kind with
    | .oload _ _ _ _ _ _ => 0
    | _ =>
      let left := c.remote.length + (c.outs.map fun o => o.els.length).foldl (fun a b => a + b) 0
      min c.bytes (c.before (c.pos - left))

/-- Puts a command back. -/
def State.putCopy (s : State) (c : CopyCmd) : State :=
  { s with copies := replaceFirst (fun x => x.id == c.id) c s.copies }

/-- What a command has performed arrives, and a command that is over leaves its engine (R183, R354). -/
def State.progress (s : State) (c : CopyCmd) : State :=
  let n := c.due - c.arrived
  let s1 := if n = 0 then s else (s.bxArrive c.block c.barrier n c.interval).count c.vd 5 n
  if c.over then (({ s1 with copies := s1.copies.filter fun x => x.id != c.id }).returnSlots).reap c.gang
  else s1.putCopy { c with arrived := c.arrived + n, performed := decide (c.total ≤ c.pos) && c.outs.isEmpty }

/-! ## Budgets -/

/-- Charges of a command's request, unless a budget refuses or defers them; none defers a block that is pre-empted (R316,
R351). -/
def Run.admitted (r : Run) (cs : List Charge) (va : Nat) : Except Halt Run :=
  match r.s.verdict r.c.vd cs with
  | .refuse _ => .error (.refused cs va)
  | .defer _ => if r.s.preempting r.c.block then .ok { r with s := r.s.pay r.c.vd cs } else .error .defer
  | .admitted => .ok { r with s := r.s.pay r.c.vd cs }

/-- A request of a command for cells at an address, over a Perzil link if one carries it: the units that the step's last
elements have not charged are charged (R350). -/
def Run.ask (r : Run) (cells : List (Nat × Nat)) (link : Option Nat) (va : Nat) (read write : Bool) : Except Halt Run :=
  let key := fun (c : Nat × Nat) => 2 * (c.1 / 64) + if write then 1 else 0
  let new := cells.filter fun c => !(r.units.contains (key c))
  let cs :=
    match link with
    | some l => if new.isEmpty then [] else [⟨8 + l, 6, (unitsOf new).length, write⟩]
    | none => chargesOf (dieOf r.c.core) read write new
  match r.admitted cs va with
  | .error h => .error h
  | .ok r1 => .ok { r1 with units := (cells.map key).eraseDups ++ r.units.take 8 }

/-! ## Reaching memory -/

/-- The link that carries a device's elements for a fabric window: the first of its links that the device's partition holds
and that is up (R347, R369). -/
def State.liveLink (s : State) (vd : Nat) (f : Fabric) : Option Nat :=
  match s.part (s.vdev vd).part with
  | none => none
  | some p => f.links.find? fun l => p.res.links.contains l && !(s.linksDown.contains l)

/-- The bytes of a linear element, translated for it alone, with the link that carries them if they lie in a fabric window; or
why they are not reached (R184, R320, R334). -/
def State.elemHits (s : State) (c : CopyCmd) (d : Side) (n : Nat) (x : List Int) (write : Bool) :
    Except Halt (List Hit × Option Nat) :=
  let at_ := d.bitPos x / 8
  let len := max 1 (d.width / 8)
  if d.spad then
    .ok ((List.range len).map fun i => ⟨n, i, (at_ + i).toNat, ⟨true, (at_ + i).toNat, 0⟩, 0, none⟩, none)
  else
    let bytes := (List.range len).map fun i => (⟨n, i, ((at_ + i) % (2 ^ 64 : Nat)).toNat⟩ : LaneByte)
    let r := s.reachOf c.vd ⟨!write, write, false⟩ true bytes
    if r.bads ≠ [] ∨ (write = true ∧ s.partBad r.hits ≠ []) then .error (.code 0x06)
    else
      match r.missing with
      | b :: _ => if (s.vdev c.vd).rpf then .error (.miss b.1.va write b.2) else .error (.code 0x06)
      | [] =>
        match (r.hits.head?.bind fun h => s.fabricAt h.ref.addr) with
        | none => .ok (r.hits, none)
        | some f =>
          match s.liveLink c.vd f with
          | some l => .ok (r.hits, some l)
          | none => .error (.code 0x06)

/-- What an element's translations and reads leave (R333, R341). -/
def Run.touched (r : Run) (vas : List Nat) (refs : List ByteRef) : Run :=
  { r with s := (r.s.readErrors refs).fillXl r.c.vd (dieOf r.c.core) vas }

/-- The fault code of a tile's failed check (R184). -/
def tileCode : Cause → Nat
  | .headerFormat => 0x03
  | .illegalOperand => 0x04
  | _ => 0x06

/-- The memory bytes of a tile's header. -/
def headerRefs (e : RangeEntry) (t : Nat) : List ByteRef :=
  (List.range 32).map fun i => ⟨false, canonOf (e.dpa (e.hoff + 32 * t + i)), e.key⟩

/-- Whether a tile's header is poisoned, or its payload or scale plane where those are read too (R341). -/
def State.tilePoison (s : State) (e : RangeEntry) (t : Nat) (all : Bool) : Bool :=
  (s.poisonedIn (if all then s.tileRefs e t else headerRefs e t)).isSome

/-- A tile's bytes as cells homed by its header (R69, R337). -/
def State.tileCells (s : State) (e : RangeEntry) (t : Nat) : List (Nat × Nat) :=
  let home := canonOf (e.dpa (e.hoff + 32 * t))
  (s.tileRefs e t).map fun r => (r.addr, home)

/-- The tile at an address, as an engine reaches it for an element: one of the descriptor's shape, with rights over its bytes,
or why it does not (R54, R184, R320). -/
def State.engineTile (s : State) (c : CopyCmd) (d : Side) (n va : Nat) (need : Need) : Except Halt (RangeEntry × Nat) :=
  let l := s.lookBy c.vd n va (s.look (s.vdev c.vd) va)
  match tileOf l va with
  | none =>
    match l with
    | .missing h => if (s.vdev c.vd).rpf then .error (.miss va need.w h) else .error (.code 0x06)
    | _ => .error (.code 0x06)
  | some x =>
    let r := s.reachOf c.vd need true ((tileVas x.1 x.2).map fun v => ⟨n, 0, v⟩)
    if r.bads = [] ∧ r.missing = [] ∧ x.1.lrows = d.lrows ∧ x.1.lcols = d.lcols ∧ x.1.ss = d.ss then .ok x
    else .error (.code 0x06)

/-! ## Source elements -/

/-- A byte that a linear element reads, a remote one a free value; where the command itself has written the byte, what stood
there at its start or what stands now, as a free value says (R72, R183, R369; log entry 3). -/
def Run.byteAt (r : Run) (vs : List ((RangeEntry × Nat) × Except Cause (List Byte))) (free : Nat) (h : Hit) : Byte :=
  let now :=
    if h.ref.spad then r.s.byteOf r.c.block h.ref
    else
      match r.s.fabricAt h.ref.addr with
      | some f => Config.remoteByte (f.remote + (h.ref.addr - f.base)) free
      | none => r.s.hitByte vs h
  match r.c.wrote.find? fun w => w.1 == h.ref with
  | some w => if Config.freeBool free then w.2 else now
  | none => now

/-- A linear source element (R183, R184). -/
def Run.readLinear (r : Run) (d : Side) (n : Nat) (x : List Int) (f : Fmt) : Except Halt (Run × Got) :=
  match r.s.elemHits r.c d n x false with
  | .error h => .error h
  | .ok (hits, link) =>
    let cells := (hits.filter fun h => !h.ref.spad).map r.s.hitCell
    match r.ask cells link ((hits.head?.map fun h => h.va).getD 0) true false with
    | .error h => .error h
    | .ok r0 =>
      let mem := hits.filter fun h => !h.ref.spad
      let r1 := r0.touched (mem.map fun h => h.va) ((mem.flatMap (Hit.poisonRefs false)).map fun x => x.2)
      let vs := r1.s.tileViews false (tilesOf hits)
      match badViews vs with
      | b :: _ => .error (.code (tileCode b.2))
      | [] =>
        match r1.s.poisonOf false mem with
        | some _ => .error (.code 0x07)
        | none =>
          let free := link.isSome || hits.any fun h => r1.c.wrote.any fun w => w.1 == h.ref
          let bs := (List.zip (List.range hits.length) hits).map fun p => r1.byteAt vs (r1.s.freeCount + p.1) p.2
          let v := leNat bs
          let b := if d.width = 4 then v / 2 ^ ((d.bitPos x % 8).toNat) % 16 else v
          let s1 := if free then { r1.s with freeCount := r1.s.freeCount + hits.length } else r1.s
          .ok ({ r1 with s := s1 }, ⟨fmtValue f b, some (d.fmt, b)⟩)

/-- A tile as one step at its home slice reads it (R69, R183). -/
def State.tileGot (s : State) (e : RangeEntry) (t : Nat) : TileGot :=
  let h := s.tileHeader e t
  let m := hMap h
  let raw := match fmtOf (hFmt h) with
    | some f =>
      if m.kind = .identity ∧ hScl h = false then
        permRows m.perm (rowsOf (2 ^ e.lcols) (2 ^ e.lrows)
          (unpackElems f.width (s.readR e (e.poff + e.ss * t) (2 ^ (e.lrows + e.lcols) * f.width / 8))))
      else []
    | none => []
  ⟨s.tileView e t h, raw, hFmt h⟩

/-- A source element of a tiled side: its tile is read once by a step of the command (R69, R183). -/
def Run.readTiled (r : Run) (d : Side) (n : Nat) (x : List Int) : Except Halt (Run × Got) :=
  let va := d.tileAt x
  let row := (x.getD 1 0 % (2 ^ d.lrows : Nat)).toNat
  let col := (x.getD 0 0 % (2 ^ d.lcols : Nat)).toNat
  let pick := fun (g : TileGot) =>
    (⟨(g.rows.getD row []).getD col .nan,
      if g.raw = [] then none else some (g.fmt, (g.raw.getD row []).getD col 0)⟩ : Got)
  match r.cache.find? fun p => p.1 == va with
  | some (_, g) => .ok (r, pick g)
  | none =>
    match r.s.engineTile r.c d n va ⟨true, false, false⟩ with
    | .error h => .error h
    | .ok (e, t) =>
      match r.ask (r.s.tileCells e t) none va true false with
      | .error h => .error h
      | .ok r0 =>
        let r1 := r0.touched (tileVas e t) (r0.s.tileRefs e t)
        if r1.s.tilePoison e t true then .error (.code 0x07)
        else if headerBad e (r1.s.tileHeader e t) then .error (.code 0x03)
        else
          let g := r1.s.tileGot e t
          .ok ({ r1 with cache := (va, g) :: r1.cache }, pick g)

/-- The coordinate of a side's element, its indexed dimension replaced (R183). -/
def Side.indexed (d : Side) (x : List Int) (box : List Nat) : List Int :=
  if d.idx then x.set d.idim (d.index.getD (box.getD d.idim 0) 0) else x

/-- A source element of the box, with its padding: `none` where it is skipped (R183). -/
def Run.source (r : Run) (d : Side) (n : Nat) : Except Halt (Run × Option Got) :=
  match fmtOf d.fmt with
  | none => .error (.code 0x04)
  | some f =>
    let b := d.coord n
    let x := d.indexed (List.zipWith (fun (o : Int) (k : Nat) => o + k) r.c.origin b) b
    let read := fun (x : List Int) =>
      match (if d.tiled then r.readTiled d n x else r.readLinear d n x f) with
      | .ok (r1, g) => Except.ok (r1, some g)
      | .error h => .error h
    if d.inBounds x then read x
    else if d.pad = 1 then .ok (r, none)
    else if d.pad = 0 then .ok (r, some ⟨val32 d.padv, none⟩)
    else
      read ((List.range 4).map fun i =>
        if i ≤ d.nd then min (max (x.getD i 0) 0) ((d.ext.getD i 0 : Int) - 1) else x.getD i 0)

/-! ## Destination elements -/

/-- The engine's write of bytes, each with its race attribute: what they carried goes, and the shadow records it (R286,
R298). -/
def State.engineWrote (s : State) (c : CopyCmd) (refs : List (ByteRef × Nat)) : State :=
  (s.setCarries c.block (refs.map fun x => x.1) [] false).shadowEngine c.gang c.interval
    ((refs.filter fun x => !x.1.spad).map fun x => (x.1.addr, x.2))

/-- Sends an element to another package, one of 4 bits with the half of its byte that it fills (R369). -/
def State.sendRemote (s : State) (f : Fabric) (link addr : Nat) (bs : List Byte) (half : Option Bool) : State :=
  s.emit (.remote link (f.remote + (addr - f.base)) bs half)

/-- The lowest and the highest byte that a linear side's elements can have, from address 0 of its space. -/
def Side.reachSpan (d : Side) : Int × Int :=
  let ends := (List.range (d.nd + 1)).map fun i => ((d.ext.getD i 0 : Int) - 1) * d.str.getD i 0
  let sum := fun (l : List Int) => l.foldl (fun a b => a + b) 0
  ((d.base : Int) + (d.width : Int) * sum (ends.map fun e => min e 0) / 8,
    (d.base : Int) + ((d.width : Int) * (sum (ends.map fun e => max e 0) + 1) + 7) / 8)

/-- Whether a later element of a command may read what it writes: its linear sides share addresses (R183; that two addresses
may name one byte is left out: log entry 44). -/
def CopyCmd.overlaps (c : CopyCmd) : Bool :=
  match c.kind with
  | .cpy _ src dst =>
    let a := src.reachSpan
    let b := dst.reachSpan
    !src.tiled && src.spad == dst.spad && decide (a.1 < b.2 ∧ b.1 < a.2)
  | _ => false

/-- A command's record of bytes that it writes, each with what stood there at the command's start (R183). -/
def CopyCmd.writes (c : CopyCmd) (l : List (ByteRef × Byte)) : CopyCmd :=
  if c.overlaps then { c with wrote := c.wrote ++ l.filter fun p => !(c.wrote.any fun w => w.1 == p.1) } else c

/-- Writes a linear element's bits (R72, R183, R369). -/
def Run.writeLinear (r : Run) (d : Side) (x : List Int) (n v : Nat) : Except Halt Run :=
  match r.s.elemHits r.c d n x true with
  | .error h => .error h
  | .ok (hits, link) =>
    let mem := hits.filter fun h => !h.ref.spad
    match r.ask (mem.map r.s.hitCell) link ((hits.head?.map fun h => h.va).getD 0) false true with
    | .error h => .error h
    | .ok r0 =>
      let ts := tilesOf hits
      let r1 := r0.touched (mem.map fun h => h.va) (ts.flatMap fun t => r0.s.tileRefs t.1 t.2)
      if ts.any fun t => r1.s.tilePoison t.1 t.2 (r1.s.materialises t.1 t.2) then .error (.code 0x07)
      else if ts.any fun t => headerBad t.1 (r1.s.tileHeader t.1 t.2) then .error (.code 0x03)
      else
        let s1 := ts.foldl (fun s t => s.readyTile t.1 t.2) r1.s
        let sh := (d.bitPos x % 8).toNat
        let byte := fun (h : Hit) =>
          if d.width = 4 then
            let old := if link.isSome then 0 else (s1.byteOf r.c.block h.ref).toNat
            BitVec.ofNat 8 (old - old / 2 ^ sh % 16 * 2 ^ sh + v % 16 * 2 ^ sh)
          else BitVec.ofNat 8 (v / 2 ^ (8 * h.idx))
        let data := hits.map fun (h : Hit) => (h, byte h)
        let at_ := (hits.head?.map fun h => h.ref.addr).getD 0
        match link, s1.fabricAt at_ with
        | some l, some f =>
          .ok { r1 with
            s := s1.sendRemote f l at_ (data.map fun p => p.2) (if d.width = 4 then some (decide (sh = 4)) else none)
            c := { r1.c with remote := r1.c.remote ++ [(n, l)] } }
        | _, _ =>
          let c1 := r1.c.writes (hits.map fun h => (h.ref, s1.byteOf r.c.block h.ref))
          let s2 :=
            if d.spad then s1.writeRefs c1.block (data.map fun (p : Hit × Byte) => (p.1.ref, p.2)) else s1.putHits data
          .ok { r1 with s := s2.engineWrote c1 (hits.map fun (h : Hit) => (h.ref, h.rd)), c := c1 }

/-- Keeps an element for a destination tile, whose place the first one translates (R183). -/
def Run.writeTiled (r : Run) (d : Side) (x : List Int) (n v : Nat) (val : FVal) : Except Halt Run :=
  let va := d.tileAt x
  let k := (x.getD 1 0 % (2 ^ d.lrows : Nat)).toNat * 2 ^ d.lcols + (x.getD 0 0 % (2 ^ d.lcols : Nat)).toNat
  let outs := r.c.outs
  match outs.find? fun o => o.va == va with
  | some o =>
    .ok { r with c := { r.c with
      outs := replaceFirst (fun o => o.va == va) { o with els := smSet none o.els k (some (v, val)) } outs } }
  | none =>
    match r.s.engineTile r.c d n va ⟨false, true, false⟩ with
    | .error h => .error h
    | .ok _ => .ok { r with c := { r.c with outs := outs ++ [⟨va, n, [(k, some (v, val))]⟩] } }

/-- One element of a copy (R183): the event of its conversion is recorded before it is written (R85). -/
def Run.copyElem (src dst : Side) (n : Nat) (r : Run) : Run × Option Halt :=
  match r.source src n with
  | .error h => (r, some h)
  | .ok (r1, none) => (r1, none)
  | .ok (r1, some g) =>
    let b := src.coord n
    let y := dst.indexed (b.map fun (k : Nat) => (k : Int)) b
    if !(dst.inBounds y) then (r1, some (.code 0x05))
    else
      match fmtOf dst.fmt, rmodeOf (BitVec.ofNat 3 dst.rnd) with
      | some f, some mode =>
        let cv := convert g.val f mode (if dst.sat then .ovi else .satf) dst.ftz 0
        let out := match g.raw with
          | some (code, bits) => if code = dst.fmt then (bits, 0) else cv
          | none => cv
        let r2 := if out.2 = 0 then r1 else r1.fault out.2 n
        match (if dst.tiled then r2.writeTiled dst y n out.1 g.val else r2.writeLinear dst y n out.1) with
        | .error h => (r2, some h)
        | .ok r3 => (r3, none)
      | _, _ => (r1, some (.code 0x04))

/-! ## The elements in turn -/

/-- What an element that halts leaves: its fault is recorded, a refusal logged; one that waits stops the command. -/
def Run.halted (r : Run) (n : Nat) : Halt → Except Halt Run
  | .code k => .ok (r.fault k n)
  | .refused cs va =>
    .ok (Run.fault { r with s := r.s.noteRefusal r.c.vd (dieOf r.c.core) cs va } 0x09 n)
  | h => .error h

/-- Whether element `n` is the first of a unit of 128 bytes that the engine moves (R350). -/
def CopyCmd.unitStart (c : CopyCmd) (n : Nat) : Bool := n == 0 || c.before n / 128 != c.before (n - 1) / 128

/-- One element under the engine's own budget, one unit for each 128 bytes: a refused unit is logged once, and each of its
elements records 0x09; an admitted one is charged as its first element is processed (R350, R351). -/
def Run.element (f : Nat → Run → Run × Option Halt) (n : Nat) (r : Run) : Except Halt Run :=
  let own : List Charge := [⟨dieOf r.c.core, 3, 1, false⟩]
  let start := r.c.unitStart n
  let go : Except Halt Run :=
    let r0 := { r with c := { r.c with refused := false } }
    let out := if r.c.failed.contains n then (r0, some (.code 0x06)) else f n r0
    let next := match out.2 with
      | none => Except.ok out.1
      | some h => out.1.halted n h
    next.map fun r1 => if start then { r1 with s := r1.s.pay r1.c.vd own } else r1
  if start then
    match r.s.verdict r.c.vd own with
    | .refuse _ => Run.halted { r with c := { r.c with refused := true } } n (.refused own r.c.source.base)
    | .defer _ => if r.s.preempting r.c.block then go else .error .defer
    | .admitted => go
  else if r.c.refused then .ok (r.fault 0x09 n)
  else go

/-- Processes some elements from one on, until one waits: its number is the place the command has come to. -/
def Run.loop (f : Nat → Run → Run × Option Halt) : Nat → Nat → Run → Run × Option Halt
  | 0, n, r => ({ r with c := { r.c with pos := n } }, none)
  | k + 1, n, r =>
    match r.element f n with
    | .error h => ({ r with c := { r.c with pos := n } }, some h)
    | .ok r1 => Run.loop f k (n + 1) r1

/-- How many elements a step of a command processes: at most to the next 4 KiB of elements of `w` bits, fewer where a free value
says, so that what others do may fall between any two (R70, R309; log entry 3). -/
def CopyCmd.slice (c : CopyCmd) (w free : Nat) : Nat :=
  let q := max 1 (32768 / max 1 w)
  let len := min c.total ((c.pos / q + 1) * q) - c.pos
  len - Config.freeNat free % len

/-- What follows a step of a command: what is performed arrives; it waits at an element on a page-fault record, whose queue when
full answers fail, or on a budget, counted once (R320, R346, R351, R354). -/
def State.afterRun (out : Run × Option Halt) : State :=
  let r := out.1
  match out.2 with
  | some (.miss va w h) =>
    let kind := 4 + (if w then 1 else 0) + (if h then 8 else 0)
    let n := match r.c.outs, decide (r.c.total ≤ r.c.pos) with
      | o :: _, true => o.first
      | _, _ => r.c.pos
    match r.s.pageFault r.c.vd (dieOf r.c.core) va kind with
    | (s1, some id) => s1.progress { r.c with waiting := some (id, n), deferred := false }
    | (s1, none) => s1.progress { r.c with failed := n :: r.c.failed, deferred := false }
  | some .defer =>
    let s1 := if r.c.deferred then r.s else r.s.count r.c.vd 13 1
    s1.progress { r.c with deferred := true }
  | _ => r.s.progress { r.c with deferred := false }

/-! ## Destination tiles -/

/-- The bytes of a packed payload that some elements fill, each with its place; `old` gives the byte that an element of 4 bits
shares (R68, R78). -/
def elemBytes (w : Nat) (old : Nat → Byte) (els : List (Nat × Nat)) : List (Nat × Byte) :=
  if w = 4 then
    let places := (els.map fun x => x.1 / 2).eraseDups
    places.map fun j =>
      let half := fun (h : Nat) =>
        match els.find? fun x => x.1 == 2 * j + h with
        | some x => x.2 % 16
        | none => (old j).toNat / 16 ^ h % 16
      (j, BitVec.ofNat 8 (half 0 + 16 * half 1))
  else els.flatMap fun x => (List.zip (List.range (w / 8)) (natBytes (w / 8) x.2)).map fun b => (x.1 * (w / 8) + b.1, b.2)

/-- Writes some elements of a tile whose map is identity (R68, R183). -/
def State.putElems (s : State) (e : RangeEntry) (t w : Nat) (els : List (Nat × Nat)) : State :=
  let at_ := e.poff + e.ss * t
  let old := fun j => (s.readR e (at_ + j) 1).headD 0
  s.writeBytes ((elemBytes w old els).map fun b => (canonOf (e.dpa (at_ + b.1)), e.key, b.2))

/-- The elements that a command holds for a tile: place, bits and value. -/
def TileOut.elems (o : TileOut) : List (Nat × Nat × FVal) := o.els.filterMap fun p => p.2.map fun q => (p.1, q)

/-- Writes a destination tile in one step: a whole-tile write, or a partial one (R68, R183). A whole-tile write checks the old
header with SCLW only; a partial one needs R where it materialises (R57, R331). -/
def Run.flush (d : Side) (f : Fmt) (o : TileOut) (r : Run) : Run × Option Halt :=
  let els := o.elems
  let whole := decide (els.length = 2 ^ (d.lrows + d.lcols))
  let scaled := d.sclw && f.isFamily
  if r.c.failed.contains o.first then (r, some (.code 0x06))
  else
    match r.s.engineTile r.c d o.first o.va ⟨d.sclw && whole, true, false⟩ with
    | .error h => (r, some h)
    | .ok (e, t) =>
      let more := !whole && r.s.materialises e t
      if more && !e.r then (r, some (.code 0x06))
      else
        match r.ask (r.s.tileCells e t) none o.va more true with
        | .error h => (r, some h)
        | .ok r0 =>
          let r1 := r0.touched (tileVas e t) (r0.s.tileRefs e t)
          let h := r1.s.tileHeader e t
          let wrote := fun (s : State) => ({ r1 with s := s.engineWrote r1.c ((s.tileRefs e t).map fun x => (x, e.rd)) }, none)
          if r1.s.tilePoison e t more then (r1, some (.code 0x07))
          else if (!whole || d.sclw) && headerBad e h then (r1, some (.code 0x03))
          else if !whole && hFmt h != d.fmt then (r1, some (.code 0x04))
          else if whole && scaled then
            let out := encodeRows f true (rowsOf (2 ^ e.lcols) (2 ^ e.lrows) (els.map fun x => x.2.2))
            wrote (r1.s.wholeTile e t d.fmt (packElems f.width out.1) (some (out.2.map fun x => BitVec.ofNat 8 x)))
          else if whole then wrote (r1.s.wholeTile e t d.fmt (packElems f.width (els.map fun x => x.2.1)) none)
          else wrote ((r1.s.readyTile e t).putElems e t f.width (els.map fun x => (x.1, x.2.1)))

/-- The step that writes the first of the tiles that a command holds; a fault of it is recorded with its first element. -/
def Run.flushNext (d : Side) (r : Run) : Run × Option Halt :=
  match r.c.outs, fmtOf d.fmt with
  | o :: rest, some f =>
    let out := r.flush d f o
    match out.2 with
    | none => ({ out.1 with c := { out.1.c with outs := rest } }, none)
    | some h =>
      match out.1.halted o.first h with
      | .ok r1 => ({ r1 with c := { r1.c with outs := rest } }, none)
      | .error h => (r, some h)
  | _, _ => ({ r with c := { r.c with outs := [] } }, none)

/-- A step of CPY or CPYP: some elements, or one destination tile once all elements are processed (R70, R183, R309). -/
def State.runCopy (s : State) (c : CopyCmd) (src dst : Side) : State :=
  if c.pos < c.total then
    let r : Run := ⟨{ s with freeCount := s.freeCount + 1 }, c, [], []⟩
    .afterRun (Run.loop (Run.copyElem src dst) (c.slice dst.width s.freeCount) c.pos r)
  else .afterRun (Run.flushNext dst ⟨s, c, [], []⟩)

/-! ## HEDIT -/

/-- The coordinate of the first element of covered tile `k` (R188). -/
def tileCoord (d : Side) (o : List Int) (k : Nat) : List Int :=
  let C := 2 ^ d.lcols
  let R := 2 ^ d.lrows
  let n0 := d.boxOf 0 / C
  let n1 := if d.nd = 0 then 1 else d.boxOf 1 / R
  let n2 := d.boxOf 2
  let b := [k % n0 * C, k / n0 % n1 * R, k / (n0 * n1) % n2, k / (n0 * n1 * n2)]
  d.indexed (List.zipWith (fun (a : Int) (j : Nat) => a + j) o b) b

/-- Applies one step of an edit block to a tile (R188). -/
def State.editStep (s : State) (e : RangeEntry) (t : Nat) (x : EditStep) : State :=
  match x.edit with
  | some ed => s.editTile e t ed
  | none => s.materialise e t (if x.kind = 6 then BitVec.ofNat 8 x.arg else hFmt (s.tileHeader e t))

/-- Whether a step of an edit block materialises a tile, and so reads its payload (R65, R67). -/
def State.editReads (s : State) (e : RangeEntry) (t : Nat) (x : EditStep) : Bool :=
  let h := s.tileHeader e t
  let m := hMap h
  match x.edit with
  | some ed => (composeMap m ed).isNone
  | none => !decide (m.kind = .identity ∧ m.perm = 0 ∧ (x.kind ≠ 6 ∨ BitVec.ofNat 8 x.arg = hFmt h))

/-- The steps of an edit block applied to a tile in order, and whether one of them materialises it. -/
def State.editAll (s : State) (e : RangeEntry) (t : Nat) (steps : List EditStep) : State × Bool :=
  steps.foldl (fun a x => (a.1.editStep e t x, a.2 || a.1.editReads e t x)) (s, false)

/-- Whether a step meets a permutation that a tile's shape excludes, or a format wider than EW (R188). -/
def EditStep.refused (e : RangeEntry) (x : EditStep) : Bool :=
  (x.kind == 5 && decide (4 ≤ x.arg) && e.lrows != e.lcols) ||
    (x.kind == 6 && decide (e.ew < (fmtWidth (BitVec.ofNat 8 x.arg)).getD 64))

/-- One covered tile of HEDIT, in one step at its home slice (R188). -/
def Run.heditTile (d : Side) (steps : List EditStep) (k : Nat) (r : Run) : Run × Option Halt :=
  let x := tileCoord d r.c.origin k
  if !(d.inBounds x) then (r, some (.code 0x05))
  else
    let va := d.tileAt x
    match r.s.engineTile r.c d k va ⟨true, true, false⟩ with
    | .error h => (r, some h)
    | .ok (e, t) =>
      let more := (r.s.editAll e t steps).2
      let cells := if more then r.s.tileCells e t else (headerRefs e t).map fun x => (x.addr, x.addr)
      match r.ask cells none va true true with
      | .error h => (r, some h)
      | .ok r0 =>
        let r1 := r0.touched (tileVas e t) (if more then r0.s.tileRefs e t else headerRefs e t)
        if r1.s.tilePoison e t more then (r1, some (.code 0x07))
        else if headerBad e (r1.s.tileHeader e t) then (r1, some (.code 0x03))
        else if steps.any (EditStep.refused e) then (r1, some (.code 0x04))
        else
          let s1 := (r1.s.editAll e t steps).1
          let refs := if more then s1.tileRefs e t else headerRefs e t
          ({ r1 with s := s1.engineWrote r1.c (refs.map fun x => (x, e.rd)) }, none)

/-- A step of HEDIT: one tile (R70, R188, R309). -/
def State.runHedit (s : State) (c : CopyCmd) (d : Side) (steps : List EditStep) : State :=
  .afterRun (Run.loop (Run.heditTile d steps) (min 1 (c.total - c.pos)) c.pos ⟨s, c, [], []⟩)

/-! ## OLOAD -/

/-- The slot row and element of a box element (R233). -/
def slotPlace (d : Side) (tr : Bool) (n : Nat) : Nat × Nat :=
  let b := d.coord n
  if tr then (b.getD 0 0, b.getD 1 0) else (b.getD 1 0, b.getD 0 0)

/-- One element of an OLOAD: its value is kept under its row and element; a fault leaves zero bits (R233). -/
def Run.oloadElem (d : Side) (tr : Bool) (n : Nat) (r : Run) : Run × Option Halt :=
  match r.source d n with
  | .error h => (r, some h)
  | .ok (r1, none) => (r1, none)
  | .ok (r1, some g) =>
    let p := slotPlace d tr n
    ({ r1 with c := { r1.c with outs := r1.c.outs.map fun o =>
        { o with els := smSet none o.els (256 * p.1 + p.2) (some (n, g.val)) } } }, none)

/-- A slot row's elements and scale bytes, with the events of its conversions by box element (R233). -/
def slotRow (f : Fmt) (scw : Bool) (vals : List (Option (Nat × FVal))) : List Nat × List Nat × List (Nat × Nat) :=
  if scw then
    let blocks := rowsOf 32 ((vals.length + 31) / 32) vals
    let out := blocks.map fun (b : List (Option (Nat × FVal))) =>
      let vs := b.filterMap fun x => x.map fun p => p.2
      let sc := if vs = [] then 127 else blockScale f vs
      (b.map fun x =>
        match x with
        | some p => (convert (p.2.scale (127 - (sc : Int))) f .rne .satf false 0).1
        | none => 0, sc)
    (out.flatMap fun p => p.1, out.map fun p => p.2, [])
  else
    let cv := vals.map fun x =>
      match x with
      | some p => let r := convert p.2 f .rne .satf false 0; (r.1, p.1, r.2)
      | none => (0, 0, 0)
    (cv.map fun x => x.1, [], (cv.filter fun x => x.2.2 != 0).map fun x => (x.2.1, x.2.2))

/-- The slot of a core by number. -/
def State.slotOf (s : State) (core num : Nat) : Option Slot := s.slots.find? fun k => k.core == core && k.num == num

/-- Puts a slot back. -/
def State.putSlot (s : State) (k : Slot) : State :=
  { s with slots := replaceFirst (fun x => x.core == k.core && x.num == k.num) k s.slots }

/-- The rows of the slot that the values of an OLOAD's elements make. -/
def slotRows (f : Fmt) (scw : Bool) (c : CopyCmd) : List (List Nat × List Nat × List (Nat × Nat)) :=
  let els := match c.outs.head? with
    | some o => o.els
    | none => []
  (List.range 64).map fun i => slotRow f scw (smRead none els (256 * i) (1024 / f.width))

/-- What an OLOAD leaves in its slot (R233). -/
def slotImage (f : Fmt) (dfmt : BitVec 8) (scw : Bool) (rows : List (List Nat × List Nat × List (Nat × Nat))) : SlotImage :=
  let data := rows.flatMap fun x => packElems f.width x.1
  let sc := (List.zip (List.range 64) rows).flatMap fun x =>
    (List.zip (List.range x.2.2.1.length) x.2.2.1).map fun y => (8 * x.1 + y.1, BitVec.ofNat 8 y.2)
  { data := smSetAll 0 [] (List.zip (List.range data.length) data), scales := smSetAll 127 [] sc, ftag := dfmt, sval := scw }

/-- Whether an instruction reads a slot handle. -/
def namesHandle (i : Instr) (k : Nat) : Bool := i.reads.any fun r => r == .slot k

/-- Whether an instruction fills a slot handle with data, or with scale bytes (R234). -/
def fillsHandle (i : Instr) (sc : Bool) (k : Nat) : Bool :=
  match i with
  | .ofill _ h _ _ _ _ _ _ s _ => decide (h.toNat = k) && s == sc
  | _ => false

/-- The matrix operations outstanding that use a slot of a core, through a test of their instruction and handle. -/
def State.slotOps (s : State) (core num : Nat) (p : Instr → Nat → Bool) : List MOp :=
  s.mops.filter fun m => m.core == core &&
    match s.gangOf m.gang with
    | none => false
    | some g => (List.range 32).any fun k => smGet 32 g.handles k == num && p m.instr k

/-- A slot that takes what an OLOAD leaves: the tag and the scale bit that a check meets are those that fills still queued will
leave, else these (R229, R233, R234). -/
def Slot.take (k : Slot) (im : SlotImage) (fills scales : Bool) : Slot :=
  { k with
    data := im.data, scales := im.scales, ftag := im.ftag, sval := im.sval, incoming := none
    planTag := if fills then k.planTag else im.ftag
    planSval := if scales then k.planSval else im.sval }

/-- The end of an OLOAD, in two steps: its writes begin, once every earlier matrix operation that reads the slot has finished
reading it, and until the second each element and scale byte reads as before or after; then it arrives (R233). -/
def State.endOload (s : State) (c : CopyCmd) (num : Nat) (dfmt : BitVec 8) (scw : Bool) : State :=
  match s.slotOf c.core num, fmtOf dfmt with
  | some k, some f =>
    match k.incoming with
    | some im =>
      let queued := fun sc => s.slotOps c.core num (fun i h => fillsHandle i sc h) != []
      (s.putSlot (k.take im (queued false) (queued true))).progress { c with outs := [] }
    | none =>
      if (s.slotOps c.core num namesHandle).any fun m => decide (m.id < c.id) then s
      else
        let rows := slotRows f scw c
        let s1 := s.putSlot { k with incoming := some (slotImage f dfmt scw rows) }
        (rows.flatMap fun x => x.2.2).foldl (fun u x => u.bxFault c.block c.barrier x.2 c.kind.recorder x.1) s1
  | _, _ => s.progress { c with outs := [] }

/-- A step of OLOAD: some elements, whose values the command holds, then its slot (R233). -/
def State.runOload (s : State) (c : CopyCmd) (d : Side) (num : Nat) (dfmt : BitVec 8) (tr scw : Bool) : State :=
  if c.pos < c.total then
    let c1 := if c.outs.isEmpty then { c with outs := [⟨0, 0, []⟩] } else c
    let r : Run := ⟨{ s with freeCount := s.freeCount + 1 }, c1, [], []⟩
    .afterRun (Run.loop (Run.oloadElem d tr) (c.slice d.width s.freeCount) c.pos r)
  else s.endOload c num dfmt scw

/-! ## The engine's events -/

/-- The class weight of a device for a unit (R310, R363). -/
def VDev.weight (d : VDev) (u : GrantUnit) : Nat :=
  let k := match u with
    | .pipes => 0
    | .matrix => 8
    | .copy => 16
    | .bank => 24
  (d.weights.extractLsb' k 8).toNat

/-- Whether a strand has work for the pipes: it waits for nothing but what holds its next instruction. -/
def Strand.mayIssue (t : Strand) : Bool :=
  match t.wait with
  | .none => true
  | .hold _ => true
  | _ => false

/-- The devices that have work for a unit (R310). -/
def State.workers (s : State) (u : GrantUnit) (n : Nat) : List Nat :=
  let all : List Nat :=
    match u with
    | .pipes => (s.allGangs.filter fun g => g.core == n && !g.saved && g.strands.any Strand.mayIssue).map fun g => g.vd
    | .matrix => (s.mops.filter fun m => m.core == n).map fun m => m.vd
    | .copy => (s.copyQueue n).map fun c => c.vd
    | .bank => (s.banks.filter fun b => b.ch == n).map fun b => b.vd
  all.eraseDups

/-- The least of some numbers above a bound, else the least of all (R310: round robin in ascending device number). -/
def nextAfter (cur : Option Nat) (l : List Nat) : Option Nat :=
  let least := fun (l : List Nat) =>
    l.foldl
      (fun b x =>
        match b with
        | none => some x
        | some y => some (min x y)) none
  match cur with
  | none => least l
  | some c =>
    match least (l.filter fun x => decide (c < x)) with
    | some x => some x
    | none => least l

/-- Whether a bank engine is inside a program of its device with transfers outstanding, so that it does not switch yet
(R309). -/
def State.bankHeld (s : State) (u : GrantUnit) (n : Nat) : Bool :=
  u == .bank && s.banks.any fun b => b.ch == n && b.started && b.transfers != []

/-- The device to which a unit has granted itself, as recorded (R309). -/
def State.grantedTo (s : State) (u : GrantUnit) (n : Nat) : Option Nat :=
  (s.grants.find? fun g => g.unit == u && g.num == n).map fun g => g.vd

/-- The devices that a unit may pass to: those of nonzero weight that have work for it, else those of weight 0 (R310). -/
def State.claimants (s : State) (u : GrantUnit) (n : Nat) : List Nat :=
  let ws := s.workers u n
  let heavy := ws.filter fun v => decide ((s.vdev v).weight u ≠ 0)
  if heavy = [] then ws else heavy

/-- The device that a unit serves: the one it is granted to while that has work and no device of nonzero weight waits
behind one of weight 0, else the next in the round (R309, R310). -/
def State.holder (s : State) (u : GrantUnit) (n : Nat) : Option Nat :=
  let ws := s.claimants u n
  match s.grantedTo u n with
  | some v => if ws = [] || ws.contains v || s.bankHeld u n then some v else nextAfter (some v) ws
  | none => nextAfter none ws

/-- Whether a unit serves a device now: the one that holds it, or one whose blocks are being pre-empted (R309, R316). -/
def State.served (s : State) (u : GrantUnit) (n vd : Nat) : Bool :=
  match s.holder u n with
  | some v => v == vd || s.blocks.any fun b => b.vd == vd && b.preemptFrom.isSome
  | none => true

/-- The command that a core's copy engine takes next: the oldest of the device that holds it (R309). -/
def State.headCopy (s : State) (core : Nat) : Option CopyCmd :=
  (s.copyQueue core).find? fun c => s.served .copy core c.vd

/-- The copy engine goes on with its command, of one kind, where it stopped, unless that waits on a page-fault record (R183,
R309, R320). -/
def State.engineStep (s : State) (core : Nat) (f : State → CopyCmd → State) : State :=
  match s.headCopy core with
  | none => s
  | some c => if c.waiting.isSome then s else f s c

/-- COPY_EXECUTE (R183). -/
def execCopyExecute (core : Nat) (s : State) : Host.Outcome State Fault Refusal :=
  event s fun s => s.engineStep core fun s c =>
    match c.kind with
    | .cpy _ src dst => s.runCopy c src dst
    | _ => s

/-- HEDIT_EXECUTE (R188). -/
def execHeditExecute (core : Nat) (s : State) : Host.Outcome State Fault Refusal :=
  event s fun s => s.engineStep core fun s c =>
    match c.kind with
    | .hedit src steps => s.runHedit c src steps
    | _ => s

/-- OLOAD_EXECUTE (R233). -/
def execOloadExecute (core : Nat) (s : State) : Host.Outcome State Fault Refusal :=
  event s fun s => s.engineStep core fun s c =>
    match c.kind with
    | .oload src num dfmt tr scw _ => s.runOload c src num dfmt tr scw
    | _ => s

/-! ## Remote elements (R369) -/

/-- A byte with the half of it that a 4-bit element fills replaced. -/
def halfByte (old new : Byte) : Option Bool → Byte
  | none => new
  | some true => (old &&& 0x0F#8) ||| (new &&& 0xF0#8)
  | some false => (old &&& 0xF0#8) ||| (new &&& 0x0F#8)

/-- REMOTE_ELEMENT (R369): a copy element from another package is performed at this package's home slice, by a
system-scope party; one of 4 bits fills a half of its byte. -/
def execRemoteElement (_link dpa : Nat) (data : ElemData) (s : State) : Host.Outcome State Fault Refusal :=
  event s fun s =>
    let refs := (List.range data.bytes.length).map fun i =>
      let c := canonOf (dpa + i)
      (⟨false, c, (smGet noKey s.lineKey (c / 128)).key⟩ : ByteRef)
    (s.putBytes ((refs.zip data.bytes).map fun p => (p.1, halfByte (s.byteUnder p.1.key p.1.addr) p.2 data.half))).setCarries 0 refs []
      false

/-- Forgets remote elements of a command that a test names, and what they kept from arriving (R368, R369). -/
def CopyCmd.reported (c : CopyCmd) (p : Nat × Nat → Bool) : CopyCmd := { c with remote := c.remote.filter fun x => !(p x) }

/-- REMOTE_ELEMENT_PERFORMED (R369): the report of an element returns, and the element counts towards its command's
arrival. -/
def execRemoteElementPerformed (cmd elem : Nat) (s : State) : Host.Outcome State Fault Refusal :=
  event s fun s =>
    match s.copies.find? fun c => c.id == cmd with
    | none => s
    | some c => if c.remote.any (fun x => x.1 == elem) then s.progress (c.reported fun x => x.1 == elem) else s

end Sys2Proof.Machine
end

