-- ==== Sys2Proof/Machine/Bank.lean ====
section
/-! DEFINITION. Bank engines: BANKCMD, the words of bank programs, and the events of a bank engine (R189-R192, R196,
R339). -/

namespace Sys2Proof.Machine

/-! ## BANKCMD -/

/-- The channels that a channel-set word names (R189); `none` where a field is illegal or a channel repeats. -/
def channelSet (v : Word) : Option (List Nat) :=
  let first := (v.extractLsb' 0 9).toNat
  let num := (v.extractLsb' 9 10).toNat
  let step := 2 ^ (v.extractLsb' 19 3).toNat
  let chs := (List.range num).map fun i => (first + i * step) % 512
  if num = 0 ∨ 512 < num ∨ v.extractLsb' 22 10 ≠ 0 ∨ chs.eraseDups.length ≠ num then none else some chs

/-- The commands in a bank engine's queue (R165). -/
def State.bankQueue (s : State) (ch : Nat) : List BankCmd := s.banks.filter fun b => b.ch == ch

/-- A command as it enters a bank engine's queue: registers at the start of a program (R191). -/
def bankCmd (ch id vd gang block barrier interval : Nat) (prog : Addr) (args : List Addr) : BankCmd :=
  { ch := ch, id := id, vd := vd, gang := gang, block := block, barrier := barrier, interval := interval,
    started := false, prog := [], progAddr := prog, args := args, acc := [], lc := [], wfmt := 0, xfmt := 0,
    wscl := false, wbase := 0, sbase := 0, wp := 0, sp := 0, op := 0, pos := 0, steps := 0, buffer := [],
    transfers := [], nextTransfer := 0, deferred := false }

/-- The 64-bit words of bytes. -/
def words64s : Nat → List Byte → List Addr
  | 0, _ => []
  | n + 1, bs => BitVec.ofNat 64 (leNat (bs.take 8)) :: words64s n (bs.drop 8)

/-- Sends one command to each channel, with its argument block (R189). -/
def State.sendBank (s : State) (off : Nat) (prog : Addr) (chs : List Nat) (args : List Byte) : State :=
  let cmd := fun (x : Nat × Nat) =>
    bankCmd x.2 (s.nextId + x.1) s.g.vd s.g.id s.g.block off s.g.interval prog (words64s 8 (args.drop (64 * x.1)))
  { s with
    nextId := s.nextId + chs.length
    banks := s.banks ++ ((List.range chs.length).zip chs).map cmd }

/-- BANKCMD (R189): the argument blocks are read at issue. -/
def execBankcmd (p : Pre) (d a e b : BitVec 7) (s : State) : Host.Outcome State Fault Refusal :=
  issue (.bankcmd p d a e b) s fun s =>
    match channelSet (s.readS d.toNat) with
    | none => .error (s.trap .illegalOperand)
    | some chs =>
      match chs.find? fun ch => decide (16 ≤ (s.bankQueue ch).length) with
      | some ch => .ok (s, .held (.bankQueue ch))
      | none =>
        s.settled fun s =>
          let off := s.spadBase e
          let prog := s.readPair a.toNat
          let low := lowLane s.t.active
          let own := match s.part (s.vdev s.g.vd).part with
            | some p => p.res.bankChannels
            | none => []
          let pre := s.imageBad off 32 ++
            (if prog.toNat % 64 ≠ 0 then [(⟨low, .misaligned, prog.toNat⟩ : Bad)] else []) ++
            if chs.all own.contains then [] else [⟨low, .protectionFault, 0⟩]
          s.readSources pre [⟨false, (s.readPair b.toNat).toNat, 64 * chs.length, 64⟩] fun s bs =>
            .ok (s.sendBank off prog chs (bs.getD 0 []), .seq)

/-! ## The engine's own operations -/

/-- Puts a bank command back. -/
def State.putBank (s : State) (b : BankCmd) : State :=
  { s with banks := replaceFirst (fun x => x.ch == b.ch && x.id == b.id) b s.banks }

/-- The recorder's index of a bank program's fault (R192). -/
def BankCmd.index (b : BankCmd) : Nat := b.ch * 2 ^ 32 + b.pos

/-- Records a fault of a bank program at its current word (R192). -/
def State.bankFault (s : State) (b : BankCmd) (code : Nat) : State := s.bxFault b.block b.barrier code 4 b.index

/-- The bytes at virtual addresses of a bank program: in a bank-visible TGT 0 range, with rights; `none` is code 0x0A
(R191, R192, R320, R339). -/
def State.bankHits (s : State) (b : BankCmd) (va n : Nat) (write : Bool) : Option (List Hit) :=
  let d := s.vdev b.vd
  let bytes := (List.range n).map fun i => (⟨0, i, (va + i) % 2 ^ 64⟩ : LaneByte)
  let visible := fun (x : LaneByte) =>
    match s.lookBy b.vd 0 x.va (s.look d x.va) with
    | .range e => e.bv && !e.tgt1
    | _ => false
  let r := s.reachOf b.vd ⟨!write, write, false⟩ true bytes
  let far := r.hits.any fun h => (s.fabricAt h.ref.addr).isSome
  if r.bads = [] ∧ r.missing = [] ∧ far = false ∧ bytes.all visible = true then some r.hits else none

/-- A request of a bank program for cells at an address: charged, logged as refused with code 0x09 recorded, or deferred, which
counts once, the word being tried again (R350, R351, R354); no budget defers a block that is pre-empted (R316). -/
def State.bankAsk (s : State) (b : BankCmd) (cells : List (Nat × Nat)) (va : Nat) (write : Bool) (no yes : State → State) :
    State :=
  let die := b.ch / 128
  let cs := chargesOf die (!write) write cells
  match s.verdict b.vd cs with
  | .refuse _ => no ((s.noteRefusal b.vd die cs va).bankFault b 0x09)
  | .defer _ =>
    if s.preempting b.block then yes (s.pay b.vd cs)
    else if b.deferred then s
    else (s.count b.vd 13 1).putBank { b with deferred := true }
  | .admitted => yes (s.pay b.vd cs)

/-- Bytes of memory as the cells of a request. -/
def State.hitCells (s : State) (hits : List Hit) : List (Nat × Nat) := hits.map s.hitCell

/-- Performs a transfer of a bank program: `none` where its bytes are no longer reached (R191). The table of R72 has no row for
BKLDV and BKST: in a tiled range they read and write the stored bytes, with no view, header check, materialisation or kept BUSY
(DESIGN CHOICE, log entry 95). -/
def State.transfer (s : State) (b : BankCmd) (x : Xfer) : Option (State × BankCmd) :=
  match x with
  | .load va boff len =>
    (s.bankHits b va len false).map fun hits =>
      let refs := hits.map fun (h : Hit) => h.ref
      let s0 := s.readErrors refs
      let s1 := if (s0.poisonedIn refs).isSome then s0.bankFault b 0x07 else s0
      let bs := s1.bytesAt refs
      (s1, { b with buffer := smSetAll 0 b.buffer ((List.range len).map fun i => (boff + i, bs.getD i 0)) })
  | .store va vals =>
    (s.bankHits b va (4 * vals.length) true).map fun hits =>
      let refs := hits.map fun (h : Hit) => h.ref
      let s1 := s.putBytes (refs.zip (vals.flatMap fun v => natBytes 4 v.toNat))
      let s2 := (s1.setCarries b.block refs [] false).shadowEngine b.gang b.interval (hits.map fun h => (h.ref.addr, h.rd))
      (s2, b)

/-- Ends a bank program: it arrives 32 bytes, and its command leaves the engine (R189, R192). -/
def State.bankLeave (s : State) (b : BankCmd) : State :=
  let s1 := s.bxArrive b.block b.barrier 32 b.interval
  ({ s1 with banks := s1.banks.filter fun x => !(x.ch == b.ch && x.id == b.id) }).reap b.gang

/-- Ends a bank program early: the transfers that it has started are performed, the fault is recorded, and it arrives
(R192). -/
def State.bankEnd (s : State) (b : BankCmd) (code : Nat) : State :=
  let r := b.transfers.foldl
    (fun (acc : State × BankCmd) x =>
      match acc.1.transfer acc.2 x.2 with
      | some y => y
      | none => acc) (s, b)
  (r.1.bankFault b code).bankLeave b

/-- Goes on to the next word of a program, charging its cycles (R350). -/
def State.bankNext (s : State) (b : BankCmd) (cycles : Nat) : State :=
  (s.charge b.vd (b.ch / 128) 4 cycles).putBank { b with pos := b.pos + 1, steps := b.steps + 1, deferred := false }

/-- The command that a bank engine runs or takes next: of the device that holds it, the oldest (R190, R309). -/
def State.headBank (s : State) (ch : Nat) : Option BankCmd :=
  (s.bankQueue ch).find? fun b => s.served .bank ch b.vd

/-- The command whose program a bank engine executes: that of the device which holds it (R191, R309). -/
def State.runningBank (s : State) (ch : Nat) : Option BankCmd :=
  (s.bankQueue ch).find? fun b => b.started && s.served .bank ch b.vd

/-- Whether an exhausted budget holds the next word of a bank program (R351, R373). -/
def State.bankDeferred (s : State) (b : BankCmd) : Bool := s.heldBack b.vd (b.ch / 128) 4 && !(s.preempting b.block)

/-- A word that a budget holds: the deferral counts once (R354). -/
def State.bankHold (s : State) (b : BankCmd) : State :=
  if b.deferred then s else (s.count b.vd 13 1).putBank { b with deferred := true }

/-- A word of the bank program of the engine whose turn it is; the 2^26-th word has been executed where the step limit
ends the program (R192). -/
def onBank (s : State) (f : State → BankCmd → State) : Host.Outcome State Fault Refusal :=
  match s.curBank with
  | none => .fault .noBankProgram
  | some ch =>
    match s.runningBank ch with
    | none => .fault .noBankProgram
    | some b =>
      let s1 := { s.unfocus with curBank := none }
      .next (if 2 ^ 26 ≤ b.steps then s1.bankEnd b 0x0B else if s1.bankDeferred b then s1.bankHold b else f s1 b)

/-! ## Weights -/

/-- The place of local byte `l` of a range on a channel, as an offset of the range (R191, R336). -/
def RangeEntry.localAt (e : RangeEntry) (ch l : Nat) : Option Nat :=
  let n := 2 ^ e.pcn
  let size := e.limit - e.base
  match (List.range n).find? fun i => (e.pcf + i * 2 ^ e.pcs) % 512 == ch with
  | none => none
  | some i =>
    let o :=
      if e.lsel = 7 then i * (size / n) + l
      else
        let G := granule e.lsel
        let g := l / G
        let j := if e.lsel = 6 then i ^^^ (g * n / 4096 % n) else i
        G * (g * n + j) + l % G
    if (if e.lsel = 7 then l < size / n else o < size) then some o else none

/-- Local bytes of a linear range on an engine's channel; `none` outside its share (R339). -/
def State.shareBytes (s : State) (b : BankCmd) (e : RangeEntry) (l n : Nat) : Option (List ByteRef) :=
  ((List.range n).map fun i =>
    match e.localAt b.ch (l + i) with
    | none => none
    | some o =>
      match s.xlateLook (s.vdev b.vd) (.range e) (e.base + o) ⟨true, false, false⟩ false with
      | .ok dpa key _ => some (⟨false, canonOf dpa, key⟩ : ByteRef)
      | _ => none).foldr (fun x acc =>
        match x, acc with
        | some y, some l => some (y :: l)
        | _, _ => none) (some [])

/-- The range that a base address names for weights or scales: bank-visible, TGT 0 (R191, R339). -/
def State.bankRange (s : State) (b : BankCmd) (va : Addr) : Option RangeEntry :=
  match s.look (s.vdev b.vd) va.toNat with
  | .range e => if e.bv && !e.tgt1 then some e else none
  | _ => none

/-- The `j`-th tile from `t` on whose slot starts on a channel. -/
def RangeEntry.tileOn (e : RangeEntry) (ch : Nat) : Nat → Nat → Nat → Option Nat
  | 0, _, _ => none
  | fuel + 1, t, j =>
    if (e.place (e.poff + e.ss * t)).1 = ch then (if j = 0 then some t else e.tileOn ch fuel (t + 1) (j - 1))
    else e.tileOn ch fuel (t + 1) j

/-- The weights of a tile, converted to the weight format under RNE and SATF, with the fault that its read records: a
header that fails its check leaves free values (R57, R72, R184; log entry 3). `none` outside the share. -/
def State.tileWeights (s : State) (b : BankCmd) (e : RangeEntry) (t : Nat) (f : Fmt) : Option (List FVal × List ByteRef × Nat) :=
  let r := s.reachOf b.vd ⟨true, false, false⟩ false ((List.range e.ps).map fun i => ⟨0, i, e.tileAddr t + i⟩)
  let own := r.hits.all fun h => decide (pcOf h.ref.addr = b.ch)
  if r.bads ≠ [] ∨ r.missing ≠ [] ∨ own = false then none
  else
    let h := s.tileHeader e t
    let refs := r.hits.map (fun (x : Hit) => x.ref) ++ headerRefs e t
    if headerBad e h then
      some ((List.range (2 ^ (e.lrows + e.lcols))).map fun i => fmtValue f (Config.freeNat (s.freeCount + i) % 2 ^ f.width),
        refs, 0x03)
    else
      some ((s.tileView e t h).flatten.map fun v => fmtValue f (convert v f .rne .satf false 0).1, refs,
        if (s.poisonedIn refs).isSome then 0x07 else 0)

/-- What a read of weights gives: values, bytes read, and a fault code to record. -/
structure Weights where
  vals : List FVal
  refs : List ByteRef
  code : Nat
  deriving DecidableEq, Repr

/-- `n` weights of a tiled range from weight `k` on (R191). -/
def State.tiledWeights (s : State) (b : BankCmd) (e : RangeEntry) (f : Fmt) : Nat → Nat → Nat → Option Weights
  | 0, _, _ => some ⟨[], [], 0⟩
  | fuel + 1, k, n =>
    if n = 0 then some ⟨[], [], 0⟩
    else
      let per := 2 ^ (e.lrows + e.lcols)
      match e.tileOn b.ch e.nt 0 (k / per) with
      | none => none
      | some t =>
        match s.tileWeights b e t f with
        | none => none
        | some (vals, refs, code) =>
          let got := (vals.drop (k % per)).take n
          (s.tiledWeights b e f fuel (k + got.length) (n - got.length)).map fun w =>
            ⟨got ++ w.vals, refs ++ w.refs, if code = 0 then w.code else code⟩

/-- `n` weights from weight WP on (R72, R191). -/
def State.weights (s : State) (b : BankCmd) (f : Fmt) (n : Nat) : Option Weights :=
  match s.bankRange b b.wbase with
  | none => none
  | some e =>
    if e.tiled then s.tiledWeights b e f (n + 1) b.wp n
    else
      let w := f.width
      let first := b.wp * w / 8
      let len := ((b.wp + n) * w + 7) / 8 - first
      (s.shareBytes b e first len).map fun refs =>
        let els := (unpackElems w (s.bytesAt refs)).drop (b.wp * w % 8 / w)
        ⟨(els.take n).map (fmtValue f), refs, if (s.poisonedIn refs).isSome then 0x07 else 0⟩

/-- Whether a tile's header stands in memory with BUSY set, so that a bank engine reads it again until BUSY is clear (R71). -/
def State.tileBusy (s : State) (e : RangeEntry) (t : Nat) : Bool := bits (leNat (s.readR e (e.hoff + 32 * t) 32)) 22 1 == 1

/-- Whether a tile that `n` weights from weight WP on lie in has BUSY set (R71). -/
def State.weightsBusy (s : State) (b : BankCmd) (n : Nat) : Bool :=
  match s.bankRange b b.wbase with
  | none => false
  | some e =>
    let per := 2 ^ (e.lrows + e.lcols)
    e.tiled && n != 0 && (List.range ((b.wp + n - 1) / per + 1 - b.wp / per)).any fun i =>
      match e.tileOn b.ch e.nt 0 (b.wp / per + i) with
      | some t => s.tileBusy e t
      | none => false

/-- The scale bytes that serve `n` weights from weight WP on, one for each 32 (R192). -/
def State.weightScales (s : State) (b : BankCmd) (n : Nat) : Option (List Byte × List ByteRef × Nat) :=
  if !b.wscl then some ([], [], 0)
  else
    match s.bankRange b b.sbase with
    | none => none
    | some e =>
      (s.shareBytes b e (b.wp / 32) ((b.wp + n + 31) / 32 - b.wp / 32)).map fun refs =>
        (s.bytesAt refs, refs, if (s.poisonedIn refs).isSome then 0x07 else 0)

/-- A buffer byte: under a load that has not completed it is as before the load or as loaded, a free value (R192; log
entry 3). -/
def State.bufByte (s : State) (b : BankCmd) (j : Nat) : Byte :=
  let old := smGet 0 b.buffer j
  let slow := b.transfers.filterMap fun x =>
    match x.2 with
    | .load va boff len => if boff ≤ j ∧ j < boff + len then some (va + (j - boff)) else none
    | .store _ _ => none
  match slow.getLast? with
  | none => old
  | some va =>
    match s.bankHits b va 1 false with
    | some (h :: _) =>
      let new := s.byteUnder h.ref.key h.ref.addr
      if new ≠ old ∧ Config.freeBool (s.freeCount + j) = true then new else old
    | _ => old

/-- `n` activations from element XOFF on (R192). -/
def State.activations (s : State) (b : BankCmd) (f : Fmt) (xoff n : Nat) : List FVal :=
  let k := f.width / 8
  (List.range n).map fun i => fmtValue f (leNat ((List.range k).map fun j => s.bufByte b ((xoff + i) * k + j)))

/-- Accumulates products in groups of 128 (R192). -/
def macGroups : Nat → List FVal → List FVal → Word → Word
  | 0, _, _, acc => acc
  | fuel + 1, ws, xs, acc =>
    if ws = [] then acc
    else macGroups fuel (ws.drop 128) (xs.drop 128) (round32 ((val32 acc).add (groupSum (ws.take 128) (xs.take 128))))

/-! ## Bank words -/

/-- BKNOP (R191). -/
def execBknop (s : State) : Host.Outcome State Fault Refusal := onBank s fun s b => s.bankNext b 1

/-- The weight formats (R191). -/
def wfmtOk (c : BitVec 8) : Bool :=
  match fmtOf c with
  | some (.sint 8) => true
  | some (.sint 4) => true
  | some (.ieee 5 10) => true
  | some (.ieee 8 7) => true
  | some (.fam _ p _ _) => decide (2 ≤ p)
  | _ => false

/-- The activation formats (R191). -/
def xfmtOk (c : BitVec 8) : Bool :=
  match fmtOf c with
  | some (.ieee _ _) => true
  | some (.sint 8) => true
  | some (.fam 8 _ _ _) => true
  | _ => false

/-- BKCFG (R191). -/
def execBkcfg (wfmt xfmt : BitVec 8) (wscl : Bool) (gw gs go : BitVec 3) (s : State) :
    Host.Outcome State Fault Refusal :=
  onBank s fun s b =>
    if !(wfmtOk wfmt) || !(xfmtOk xfmt) then s.bankEnd b 0x08
    else
      s.bankNext
        { b with
          wfmt := wfmt, xfmt := xfmt, wscl := wscl, wbase := b.args.getD gw.toNat 0, sbase := b.args.getD gs.toNat 0,
          wp := 0, sp := 0, op := (b.args.getD go.toNat 0).toNat } 1

/-- Starts a transfer of a bank program. -/
def BankCmd.start (b : BankCmd) (x : Xfer) : BankCmd :=
  { b with transfers := b.transfers ++ [(b.nextTransfer, x)], nextTransfer := b.nextTransfer + 1 }

/-- BKLDV (R191). -/
def execBkldv (gx : BitVec 3) (len boff : BitVec 16) (s : State) : Host.Outcome State Fault Refusal :=
  onBank s fun s b =>
    let n := len.toNat
    let o := boff.toNat
    let va := (b.args.getD gx.toNat 0).toNat
    if n % 64 ≠ 0 ∨ o % 64 ≠ 0 ∨ 16384 < o + n then s.bankEnd b 0x08
    else
      match s.bankHits b va n false with
      | none => s.bankEnd b 0x0A
      | some hits =>
        let s1 := s.fillXl b.vd (b.ch / 128) (hits.map fun h => h.va)
        s1.bankAsk b (s1.hitCells hits) va false (fun s => s.bankNext b 1) fun s => s.bankNext (b.start (.load va o n)) 1

/-- BKMAC (R192): it waits while a tile of its weights has BUSY set (R71). Of activations past the end of the buffer the manual
states nothing: an XOFF and N that run past it end the program with 0x08 (DESIGN CHOICE, log entry 94). -/
def execBkmac (a : BitVec 3) (xoff n : BitVec 16) (s : State) : Host.Outcome State Fault Refusal :=
  onBank s fun s b =>
    match fmtOf b.wfmt, fmtOf b.xfmt with
    | some wf, some xf =>
      let k := n.toNat
      if 16384 < (xoff.toNat + k) * xf.width / 8 then s.bankEnd b 0x08
      else
        let adv := { b with wp := b.wp + k, sp := (b.wp + k) / 32 }
        let cycles := max 1 ((k + 127) / 128)
        match s.weights b wf k, s.weightScales b k with
        | some w, some sc =>
          if s.weightsBusy b k then s
          else
            let refs := w.refs ++ sc.2.1
            let s0 := (s.readErrors refs).fillXl b.vd (b.ch / 128) ([b.wbase.toNat] ++ if b.wscl then [b.sbase.toNat] else [])
            s0.bankAsk b (cellsOf refs) b.wbase.toNat false (fun s => s.bankNext adv cycles) fun s =>
            let ws := if b.wscl then
                List.zipWith (fun (i : Nat) v => scaleBy v (sc.1.getD ((b.wp + i) / 32 - b.wp / 32) 0).toNat) (List.range k) w.vals
              else w.vals
            let xs := s.activations b xf xoff.toNat k
            let acc := macGroups (k + 1) ws xs (smGet 0 b.acc a.toNat)
            let s1 := { s with freeCount := s.freeCount + 16384 }
            let code := if w.code = 0 then sc.2.2 else w.code
            let s2 := if code = 0 then s1 else s1.bankFault b code
            s2.bankNext { adv with acc := smSet 0 b.acc a.toNat acc } cycles
        | _, _ => s.bankEnd b 0x0A
    | _, _ => s.bankEnd b 0x08

/-- BKSCL (R191). -/
def execBkscl (a : BitVec 3) (f : Word) (s : State) : Host.Outcome State Fault Refusal :=
  onBank s fun s b =>
    s.bankNext { b with acc := smSet 0 b.acc a.toNat (fmul32 (smGet 0 b.acc a.toNat) f) } 1

/-- BKSUM (R191). -/
def execBksum (a c : BitVec 3) (s : State) : Host.Outcome State Fault Refusal :=
  onBank s fun s b =>
    let v := fadd32 (smGet 0 b.acc a.toNat) (smGet 0 b.acc c.toNat)
    s.bankNext { b with acc := smSet 0 (smSet 0 b.acc a.toNat v) c.toNat 0 } 1

/-- BKST (R191). -/
def execBkst (a : BitVec 3) (n : BitVec 4) (s : State) : Host.Outcome State Fault Refusal :=
  onBank s fun s b =>
    let k := n.toNat
    if k = 0 ∨ 8 < a.toNat + k then s.bankEnd b 0x08
    else
      match s.bankHits b b.op (4 * k) true with
      | none => s.bankEnd b 0x0A
      | some hits =>
      let vals := (List.range k).map fun i => smGet 0 b.acc (a.toNat + i)
      let b1 := { b with op := b.op + 4 * k, acc := smSetAll 0 b.acc ((List.range k).map fun i => (a.toNat + i, 0)) }
      let s1 := s.fillXl b.vd (b.ch / 128) (hits.map fun h => h.va)
      s1.bankAsk b (s1.hitCells hits) b.op true (fun s => s.bankNext b1 1) fun s =>
        s.bankNext (b1.start (.store b.op vals)) 1

/-- BKLOOP (R191, R196). -/
def execBkloop (c : BitVec 2) (set : Bool) (v : Word) (s : State) : Host.Outcome State Fault Refusal :=
  onBank s fun s b =>
    if set then s.bankNext { b with lc := smSet 0 b.lc c.toNat v } 1
    else
      let n := smGet 0 b.lc c.toNat - 1
      let b1 := { b with lc := smSet 0 b.lc c.toNat n }
      let move := (v.extractLsb' 0 16).toInt
      if v.extractLsb' 16 16 ≠ 0 ∨ 0 ≤ move ∨ (n ≠ 0 ∧ (b.pos : Int) + move < 0) then s.bankEnd b 0x08
      else if n = 0 then s.bankNext b1 1
      else
        (s.charge b.vd (b.ch / 128) 4 1).putBank
          { b1 with pos := ((b.pos : Int) + move).toNat, steps := b.steps + 1, deferred := false }

/-- BKWAIT (R191). -/
def execBkwait (s : State) : Host.Outcome State Fault Refusal :=
  onBank s fun s b => if b.transfers = [] then s.bankNext b 1 else s

/-- BKEND (R191). -/
def execBkend (s : State) : Host.Outcome State Fault Refusal :=
  onBank s fun s b => if b.transfers = [] then (s.charge b.vd (b.ch / 128) 4 1).bankLeave b else s

/-! ## Events of a bank engine -/

/-- The words of a program up to and including the first BKEND, at most 256, or the code of its end: 0x0A for a word that is
not reached, 0x07 for a poisoned one (R184, R191, R192). -/
def State.loadProgram (s : State) (b : BankCmd) : Nat → Nat → Except Nat (List Addr)
  | 0, _ => .ok []
  | left + 1, i =>
    match s.vaRefs (s.vdev b.vd) ((b.progAddr.toNat + 8 * i) % 2 ^ 64) 8 ⟨true, false, false⟩ false with
    | .error _ => .error 0x0A
    | .ok refs =>
      if (s.poisonedIn refs).isSome then .error 0x07
      else
        let w := BitVec.ofNat 64 (leNat (s.bytesAt refs))
        if w.extractLsb' 0 8 = 9 then .ok [w] else (s.loadProgram b left (i + 1)).map fun r => w :: r

/-- BANK_PROGRAM_START (R191): a program whose first word is not BKCFG ends with code 0x08. One whose words are not all read
ends here; the word index recorded is 0, since the manual names none (DESIGN CHOICE, log entry 94). -/
def execBankProgramStart (ch : Nat) (s : State) : Host.Outcome State Fault Refusal :=
  event s fun s =>
    match s.headBank ch with
    | none => s
    | some b =>
      if b.started then s
      else
        match s.loadProgram b 256 0 with
        | .error code => s.bankEnd b code
        | .ok ws =>
          if (ws.headD 0).extractLsb' 0 8 = 1 then s.putBank { b with started := true, prog := ws } else s.bankEnd b 0x08

/-- BANK_TRANSFER_COMPLETE (R191). -/
def execBankTransferComplete (ch i : Nat) (s : State) : Host.Outcome State Fault Refusal :=
  event s fun s =>
    match s.banks.find? fun b => b.ch == ch && b.transfers.any fun x => x.1 == i with
    | none => s
    | some b =>
      match b.transfers.find? fun x => x.1 == i with
      | none => s
      | some x =>
        let b1 := { b with transfers := b.transfers.filter fun y => y.1 != i }
        match s.transfer b1 x.2 with
        | some (s1, b2) => s1.putBank b2
        | none => s.bankEnd b1 0x0A

/-- BANK_STEP_LIMIT (R192). -/
def execBankStepLimit (ch : Nat) (s : State) : Host.Outcome State Fault Refusal :=
  event s fun s =>
    match s.runningBank ch with
    | none => s
    | some b => if 2 ^ 26 ≤ b.steps then s.bankEnd b 0x0B else s

end Sys2Proof.Machine
end

