-- ==== Sys2Proof/Machine/Cache.lean ====
section
/-! DEFINITION. Cache maintenance, major 0x34 (R193). Code and data are fetched as memory holds them (log entry 5),
but for a loop that a strand runs from a loop buffer (R142, R161); the instructions keep their release, and ISYNC refetches. -/

namespace Sys2Proof.Machine

/-- The loop buffers without those of some cores (R161). -/
def State.emptyLoops (s : State) (p : Nat → Bool) : State :=
  { s with loopBufs := s.loopBufs.filter fun e => !(p (e.1 / 8)) }

/-- ICINV: a release at die scope; the loop buffers of the core are emptied, and a pass that runs from one completes (R161,
R193). -/
def execIcinv (p : Pre) (s : State) : Host.Outcome State Fault Refusal :=
  issue (.icinv p) s fun s => s.settled fun s => .ok (s.released.emptyLoops fun c => c == s.g.core, .seq)

/-- The cores on which a device has gangs (R193). -/
def State.deviceCores (s : State) (vd : Nat) : List Nat := (s.allGangs.filter fun g => g.vd == vd).map fun g => g.core

/-- ICINV.dev: a release at device scope; the same on every core of the device (R193). -/
def execIcinvDev (p : Pre) (s : State) : Host.Outcome State Fault Refusal :=
  issue (.icinvDev p) s fun s =>
    s.settled fun s =>
      let cores := (match s.part (s.vdev s.g.vd).part with
        | some p => p.res.cores
        | none => []) ++ s.deviceCores s.g.vd
      .ok (s.released.emptyLoops cores.contains, .seq)

/-- The words of a clause with those past the current one replaced. -/
def Strand.refetched (t : Strand) (ws : List Word) : Strand :=
  match t.clause with
  | none => t
  | some c => { t with clause := some { c with words := c.words.take (t.wordIndex + 1) ++ ws } }

/-- ISYNC: the words of the clause past it are fetched anew, and a loop leaves its buffer; a fetch that fails traps here (R140,
R142, R193). -/
def execIsync (p : Pre) (s : State) : Host.Outcome State Fault Refusal :=
  issue (.isync p) s fun s =>
    let n := match s.t.clause with
      | some c => c.cnt - (s.t.wordIndex + 1)
      | none => 0
    match s.fetchWords s.g.vd (s.t.pc + 4) n with
    | .ok ws => .ok ({ s with t := { s.t.refetched ws with pass := none } }, .seq)
    | .error m =>
      let tr := fun (c : Cause) => (⟨c, s.t.active, BitVec.ofNat 64 m.addr, 2⟩ : Trap)
      match m.cause with
      | some c => .error (tr c)
      | none =>
        if (s.vdev s.g.vd).rpf then .ok (s, .miss m.addr (2 + (if m.hold then 8 else 0)) (tr .translationFault))
        else .error (tr .translationFault)

/-- DCWB (R193): it changes no value that the ordering model gives. -/
def execDcwb (p : Pre) (d a : BitVec 7) (s : State) : Host.Outcome State Fault Refusal :=
  issueSeq (.dcwb p d a) s fun s => s

/-- DCINV (R193): it changes no value that the ordering model gives. -/
def execDcinv (p : Pre) (d a : BitVec 7) (s : State) : Host.Outcome State Fault Refusal :=
  issueSeq (.dcinv p d a) s fun s => s

end Sys2Proof.Machine
end

