-- ==== Sys2Proof/Machine/Scalar.lean ====
section
/-! DEFINITION. The meanings of the scalar words, majors 0x01-0x11 (R129-R134). -/

namespace Sys2Proof.Machine

/-- A scalar word of two operands that writes one S register (R129). -/
def scalarOp (i : Instr) (p : Pre) (d a b : BitVec 7) (n : Bool) (f : Word → Word → Word) (s : State) :
    Host.Outcome State Fault Refusal :=
  issueSeq i s fun s => s.writeS p d (f (s.readS a.toNat) (s.sOperand b n))

/-- A scalar word whose N chooses between two operations of S[A] and S[B] (R129). -/
def scalarPick (i : Instr) (p : Pre) (d a b : BitVec 7) (f : Word → Word → Word) (s : State) :
    Host.Outcome State Fault Refusal :=
  issueSeq i s fun s => s.writeS p d (f (s.readS a.toNat) (s.readS b.toNat))

/-- A scalar shift (R129). -/
def scalarShift (i : Instr) (p : Pre) (d a b : BitVec 7) (n : Bool) (f : Word → Nat → Word) (s : State) :
    Host.Outcome State Fault Refusal :=
  issueSeq i s fun s => s.writeS p d (f (s.readS a.toNat) (s.sCount b n))

/-- Bits [63:32] of the 64-bit product, signed or unsigned (R129, R200). -/
def mulHigh (uns : Bool) (x y : Word) : Word :=
  if uns then (x.zeroExtend 64 * y.zeroExtend 64).extractLsb' 32 32
  else (x.signExtend 64 * y.signExtend 64).extractLsb' 32 32

/-- The minimum, signed or unsigned (R129, R200). -/
def wordMin (uns : Bool) (x y : Word) : Word := if (if uns then y.ult x else y.slt x) then y else x

/-- The maximum, signed or unsigned (R129, R200). -/
def wordMax (uns : Bool) (x y : Word) : Word := if (if uns then x.ult y else x.slt y) then y else x

/-- SADD (R129). -/
def execSadd (p : Pre) (d a b : BitVec 7) (n : Bool) (s : State) : Host.Outcome State Fault Refusal :=
  scalarOp (.sadd p d a b n) p d a b n (fun x y => x + y) s

/-- SSUB (R129). -/
def execSsub (p : Pre) (d a b : BitVec 7) (n : Bool) (s : State) : Host.Outcome State Fault Refusal :=
  scalarOp (.ssub p d a b n) p d a b n (fun x y => x - y) s

/-- SMUL (R129). -/
def execSmul (p : Pre) (d a b : BitVec 7) (n : Bool) (s : State) : Host.Outcome State Fault Refusal :=
  scalarPick (.smul p d a b n) p d a b (fun x y => x * y) s

/-- SMULH (R129). -/
def execSmulh (p : Pre) (d a b : BitVec 7) (n : Bool) (s : State) : Host.Outcome State Fault Refusal :=
  scalarPick (.smulh p d a b n) p d a b (mulHigh n) s

/-- SAND (R129). -/
def execSand (p : Pre) (d a b : BitVec 7) (n : Bool) (s : State) : Host.Outcome State Fault Refusal :=
  scalarOp (.sand p d a b n) p d a b n (fun x y => x &&& y) s

/-- SOR (R129). -/
def execSor (p : Pre) (d a b : BitVec 7) (n : Bool) (s : State) : Host.Outcome State Fault Refusal :=
  scalarOp (.sor p d a b n) p d a b n (fun x y => x ||| y) s

/-- SXOR (R129). -/
def execSxor (p : Pre) (d a b : BitVec 7) (n : Bool) (s : State) : Host.Outcome State Fault Refusal :=
  scalarOp (.sxor p d a b n) p d a b n (fun x y => x ^^^ y) s

/-- SSHL (R129). -/
def execSshl (p : Pre) (d a b : BitVec 7) (n : Bool) (s : State) : Host.Outcome State Fault Refusal :=
  scalarShift (.sshl p d a b n) p d a b n (fun x k => x <<< k) s

/-- SSHR (R129). -/
def execSshr (p : Pre) (d a b : BitVec 7) (n : Bool) (s : State) : Host.Outcome State Fault Refusal :=
  scalarShift (.sshr p d a b n) p d a b n (fun x k => x >>> k) s

/-- SSRA (R129). -/
def execSsra (p : Pre) (d a b : BitVec 7) (n : Bool) (s : State) : Host.Outcome State Fault Refusal :=
  scalarShift (.ssra p d a b n) p d a b n (fun x k => x.sshiftRight k) s

/-- SMIN (R129). -/
def execSmin (p : Pre) (d a b : BitVec 7) (n : Bool) (s : State) : Host.Outcome State Fault Refusal :=
  scalarPick (.smin p d a b n) p d a b (wordMin n) s

/-- SMAX (R129). -/
def execSmax (p : Pre) (d a b : BitVec 7) (n : Bool) (s : State) : Host.Outcome State Fault Refusal :=
  scalarPick (.smax p d a b n) p d a b (wordMax n) s

/-- SCMP (R130). -/
def execScmp (p : Pre) (cc : Cc) (q : BitVec 2) (a b : BitVec 7) (n : Bool) (s : State) :
    Host.Outcome State Fault Refusal :=
  issueSeq (.scmp p cc q a b n) s fun s => s.writeQ q (icmpHolds cc n (s.readS a.toNat) (s.readS b.toNat))

/-- SSEL (R131). -/
def execSsel (p : Pre) (d a : BitVec 7) (gd : BitVec 4) (s : State) : Host.Outcome State Fault Refusal :=
  issueSeq (.ssel p d a gd) s fun s => if s.scalarGuardHolds gd then s.writeS p d (s.readS a.toNat) else s

/-- SMOV (R132). -/
def execSmov (p : Pre) (d a : BitVec 7) (s : State) : Host.Outcome State Fault Refusal :=
  issueSeq (.smov p d a) s fun s => s.writeS p d (s.readS a.toNat)

/-- SRDV.first (R132). -/
def execSrdvFirst (p : Pre) (d a : BitVec 7) (s : State) : Host.Outcome State Fault Refusal :=
  issueSeq (.srdvFirst p d a) s fun s => s.writeS p d (s.readV a.toNat (lowLane s.t.active))

/-- SRDV of a lane; a lane at or above the gang's width raises illegal-operand (R132). -/
def execSrdv (p : Pre) (d a : BitVec 7) (l : BitVec 6) (s : State) : Host.Outcome State Fault Refusal :=
  issue (.srdv p d a l) s fun s =>
    if s.g.width ≤ l.toNat then .error (s.trap .illegalOperand)
    else .ok (s.writeS p d (s.readV a.toNat l.toNat), .seq)

/-- The identifiers of SRDID (R133). -/
def State.identifier (s : State) (id : BitVec 3) : Word :=
  let lane := lowLane s.t.active
  match id.toNat with
  | 0 => BitVec.ofNat 32 lane
  | 1 => BitVec.ofNat 32 (lane / 8)
  | 2 => BitVec.ofNat 32 s.t.idx
  | 3 =>
    match s.g.gangIndex with
    | some n => BitVec.ofNat 32 n
    | none => 0xFFFFFFFF#32
  | 4 =>
    match s.blockOf s.g.block with
    | some b => BitVec.ofNat 32 b.index
    | none => 0
  | 5 => BitVec.ofNat 32 s.g.core
  | 6 => BitVec.ofNat 32 (dieOf s.g.core)
  | _ =>
    match s.launchOf s.g.launch with
    | some l => BitVec.ofNat 32 (l.num % 256)
    | none => 0

/-- SRDID (R133). -/
def execSrdid (p : Pre) (d : BitVec 7) (id : BitVec 3) (s : State) : Host.Outcome State Fault Refusal :=
  issueSeq (.srdid p d id) s fun s => s.writeS p d (s.identifier id)

/-- SMOVI (R134). -/
def execSmovi (p : Pre) (d : BitVec 7) (imm : BitVec 15) (s : State) : Host.Outcome State Fault Refusal :=
  issueSeq (.smovi p d imm) s fun s => s.writeS p d (imm.signExtend 32)

/-- SLUI (R134). -/
def execSlui (p : Pre) (d : BitVec 7) (imm : BitVec 15) (s : State) : Host.Outcome State Fault Refusal :=
  issueSeq (.slui p d imm) s fun s => s.writeS p d ((s.readS d.toNat <<< 15) ||| imm.zeroExtend 32)

end Sys2Proof.Machine
end

