-- ==== Sys2Proof/Machine/Control.lean ====
section
/-! DEFINITION. The meanings of branches, joins and calls, majors 0x12-0x17 (R135-R147). -/

namespace Sys2Proof.Machine

/-- BRA (R135). -/
def execBra (p : Pre) (gd : BitVec 4) (off : BitVec 18) (s : State) : Host.Outcome State Fault Refusal :=
  issue (.bra p gd off) s fun s =>
    .ok (s, .jump (if s.scalarGuardHolds gd then s.branchTarget off else s.nextClause))

/-- The join stack that both strands of a split receive: the current FMTR is saved in the top entry when it holds
none (R34). -/
def splitJoins (fmtr : Word) : List Join → List Join
  | [] => []
  | j :: r => if j.valid then j :: r else { j with saved := fmtr, valid := true } :: r

/-- Whether an owed trap names the lanes of its operation as a whole, and so is not divided: that of a held arrival, or of
ACCST and BTST (R238, R246, R302). -/
def Pending.oneTrap (p : Pending) : Bool :=
  p.cause == .illegalState || p.cause == .headerFormat || p.cause == .conversionError

/-- The pending traps that a part of a split strand owes: an undivided one with the lowest of its lanes that is left, any other
with its own lanes; one whose lanes are in neither part stays with the strand that keeps the entry (R238, R246, R302; DEDUCED,
log entry 30). `other` is the mask of the other part. -/
def pendingOf (m other : Mask) (keeps : Bool) (ps : List Pending) : List Pending :=
  ps.filterMap fun p =>
    let left := p.mask &&& (m ||| other)
    if left = 0 then (if keeps then some p else none)
    else if p.oneTrap then (if m.getLsbD (lowLane left) then some p else none)
    else if p.mask &&& m ≠ 0 then some { p with mask := p.mask &&& m }
    else none

/-- The split of the focused strand by a BRL word: the not-taken strand stays focused and keeps the entry, the
taken strand takes a free entry and stands at the target (R34, R48, R267). -/
def State.splitAt (s : State) (taken : Mask) (target : Addr) : State :=
  let used := s.t.idx :: s.g.strands.map fun u => u.idx
  let pick := s.pickFree ((List.range 64).filter fun n => !(used.contains n))
  let s1 := pick.1
  let base := { s1.t with joins := splitJoins s1.t.fmtr s1.t.joins }
  let rest := s1.t.active &&& ~~~taken
  let part := { base with active := taken }
  let u := part.finish 1 s1.cycle (s1.g.dbgc.getLsbD 20) (.jump target)
  let new := { u with idx := pick.2, since := s1.cycle + 1, pending := pendingOf taken rest false u.pending }
  { s1 with
    t := { base with active := rest, since := s1.cycle + 1, pending := pendingOf rest taken true base.pending }
    g := { s1.g with strands := insertStrand new s1.g.strands } }

/-- BRL (R136). -/
def execBrl (p : Pre) (gd : BitVec 4) (off : BitVec 18) (s : State) : Host.Outcome State Fault Refusal :=
  issue (.brl p gd off) s fun s =>
    let taken := s.laneGuard gd
    if taken = s.t.active then .ok (s, .jump (s.branchTarget off))
    else if taken = 0 then .ok (s, .jump s.nextClause)
    else .ok (s.splitAt taken (s.branchTarget off), .jump s.nextClause)

/-- JOINAT: a full stack raises illegal-state (R33, R137). -/
def execJoinat (p : Pre) (off : BitVec 18) (s : State) : Host.Outcome State Fault Refusal :=
  issue (.joinat p off) s fun s =>
    if 16 ≤ s.t.joins.length then .error (s.trap .illegalState)
    else .ok ({ s with t := { s.t with joins := ⟨s.branchTarget off, s.t.active, 0, false⟩ :: s.t.joins } }, .seq)

/-- BCALL (R138). -/
def execBcall (p : Pre) (gd : BitVec 4) (off : BitVec 18) (s : State) : Host.Outcome State Fault Refusal :=
  issue (.bcall p gd off) s fun s =>
    if s.scalarGuardHolds gd then .ok (s.writePair 58#7 s.nextClause, .jump (s.branchTarget off))
    else .ok (s, .jump s.nextClause)

/-- The loop that a taken LOOPB at a word closes, from its target through the word, of 64 words or fewer, as memory holds it
now (R142). -/
def State.loopSpan (s : State) (target : Addr) : Option Span :=
  let n := (s.t.pc - target).toNat / 4 + 1
  if target.toNat ≤ s.t.pc.toNat ∧ n ≤ 64 then
    match s.fetchWords s.g.vd target n with
    | .ok ws => some ⟨target, ws⟩
    | .error _ => none
  else none

/-- A taken LOOPB: the buffers of the pipes that the strand spans hold the loop, which its next pass runs from; the words
are those of memory at the loop-closing LOOPB (R142, R161, R193). -/
def State.capture (s : State) (target : Addr) : State :=
  match s.loopSpan target with
  | none => { s with t := { s.t with pass := none } }
  | some sp =>
    { s with
      loopBufs := s.pipeKeys.foldl (fun m k => smSet none m k (some sp)) s.loopBufs
      t := { s.t with pass := some sp } }

/-- LOOPB (R141, R142). -/
def execLoopb (p : Pre) (a : BitVec 7) (i8 : BitVec 8) (s : State) : Host.Outcome State Fault Refusal :=
  issue (.loopb p a i8) s fun s =>
    let v := s.readS a.toNat - 1
    let s1 := { s with t := s.t.setS a.toNat v }
    let target := s.t.pc + (i8.signExtend 64 <<< 2)
    if v = 0 then .ok ({ s1 with t := { s1.t with pass := none } }, .jump s.nextClause)
    else .ok (s1.capture target, .jump target)

/-- A transfer to the address in an S pair, which must be a multiple of 4 (R140). -/
def State.indirect (s : State) (a : BitVec 7) : Except Trap Addr :=
  let target := s.readPair a.toNat
  if target.extractLsb' 0 2 ≠ 0 then .error { s.trap .misaligned with addr := target } else .ok target

/-- BRET (R140). -/
def execBret (p : Pre) (a : BitVec 7) (s : State) : Host.Outcome State Fault Refusal :=
  issue (.bret p a) s fun s => (s.indirect a).map fun target => (s, .jump target)

/-- BIND (R140). -/
def execBind (p : Pre) (a : BitVec 7) (s : State) : Host.Outcome State Fault Refusal :=
  issue (.bind p a) s fun s => (s.indirect a).map fun target => (s, .jump target)

/-- BIND.call: the target is read before the return address is written (R140). -/
def execBindCall (p : Pre) (d a : BitVec 7) (s : State) : Host.Outcome State Fault Refusal :=
  issue (.bindCall p d a) s fun s => (s.indirect a).map fun target => (s.writePair d s.nextClause, .jump target)

/-- REGRP: a strand with every lane passes at once, any other parks (R143). -/
def execRegrp (p : Pre) (s : State) : Host.Outcome State Fault Refusal :=
  issue (.regrp p) s fun s =>
    if s.isWhole then .ok ({ s with t := { s.t with joins := [] } }, .seq)
    else
      let g := ({ s with t := { s.t.ripen with wait := .regrp, prev := some s.cycle, ignNext := false, entered := false } }).whole
      .ok (s.unfocus.putGang (Gang.settle s.cycle (2 * g.strands.length) g), .done)

/-- EXIT (R37, R145). -/
def execExit (p : Pre) (s : State) : Host.Outcome State Fault Refusal :=
  issue (.exit p) s fun s => .ok (s.exitLanes s.t.active, .done)

/-- YIELD: the age in the issue selector counts from now (R146, R304). -/
def execYield (p : Pre) (s : State) : Host.Outcome State Fault Refusal :=
  issueSeq (.yield p) s fun s => { s with t := { s.t with since := s.cycle } }

/-- The strand sleeps until a device tick; a time already reached lets it go on (R147). -/
def State.sleepTo (s : State) (tick : Nat) : State × Next :=
  if tick ≤ s.tickOf s.g.vd then (s, .seq)
  else ({ s with t := { s.t with wait := .sleep tick } }, .stay)

/-- SLEEP (R147). -/
def execSleep (p : Pre) (a : BitVec 7) (s : State) : Host.Outcome State Fault Refusal :=
  issue (.sleep p a) s fun s => .ok (s.sleepTo (s.readPair a.toNat).toNat)

/-- SLEEP.rel (R147). -/
def execSleepRel (p : Pre) (a : BitVec 7) (s : State) : Host.Outcome State Fault Refusal :=
  issue (.sleepRel p a) s fun s => .ok (s.sleepTo (s.tickOf s.g.vd + (s.readS a.toNat).toNat))

end Sys2Proof.Machine
end

