-- ==== Sys2Proof/Machine/Vector.lean ====
section
/-! DEFINITION. Vector integer, FP32 and packed 16-bit arithmetic, compares, selects, reductions and scans, majors
0x38-0x57 (R197-R211). -/

namespace Sys2Proof.Machine

/-! ## Integer operations -/

/-- A vector word of two operands that writes one V register (R197, R200). -/
def vecOp (i : Instr) (p : Pre) (d a b : BitVec 7) (n : Bool) (f : Word → Word → Word) (s : State) :
    Host.Outcome State Fault Refusal :=
  issueSeq i s fun s => s.mapV p d fun l => f (s.readV a.toNat l) (s.vOperand b n l)

/-- A vector word whose third operand is the destination (R200, R206). -/
def vecOp3 (i : Instr) (p : Pre) (d a b : BitVec 7) (n : Bool) (f : Word → Word → Word → Word) (s : State) :
    Host.Outcome State Fault Refusal :=
  issueSeq i s fun s => s.mapV p d fun l => f (s.readV a.toNat l) (s.vOperand b n l) (s.readV d.toNat l)

/-- A vector word of one V operand (R202, R207). -/
def vecUn (i : Instr) (p : Pre) (d a : BitVec 7) (f : Word → Word) (s : State) : Host.Outcome State Fault Refusal :=
  issueSeq i s fun s => s.mapV p d fun l => f (s.readV a.toNat l)

/-- The absolute value of a signed word, modulo 2^32 (R202). -/
def wordAbs (x : Word) : Word := if x.msb then -x else x

/-- The number of leading zero bits (R202). -/
def wordClz (x : Word) : Word := BitVec.ofNat 32 (if x = 0 then 32 else 31 - Nat.log2 x.toNat)

/-- The number of set bits (R202). -/
def wordPop (x : Word) : Word := BitVec.ofNat 32 (((List.range 32).filter x.getLsbD).length)

/-- The word with its bits in reverse order (R202). -/
def wordRev (x : Word) : Word :=
  (List.range 32).foldl (fun (acc : Word) i => if x.getLsbD i then acc ||| (1#32 <<< (31 - i)) else acc) 0

/-- The funnel shift of the 64-bit value V[A]·2^32 + V[B] (R201). -/
def funnel (right : Bool) (hi lo : Word) (count : Nat) : Word :=
  let w : BitVec 64 := hi ++ lo
  if right then (w >>> (count % 64)).extractLsb' 0 32 else (w <<< (count % 64)).extractLsb' 32 32

/-- The count of a funnel shift in a lane (R201). -/
def State.funnelCount (s : State) (ck : BitVec 2) (c : BitVec 7) (imm : BitVec 6) (l : Nat) : Nat :=
  if ck = 0 then (s.readV c.toNat l).toNat else if ck = 1 then (s.readS c.toNat).toNat else imm.toNat

/-- VADD (R200). -/
def execVadd (p : Pre) (d a b : BitVec 7) (n : Bool) (s : State) : Host.Outcome State Fault Refusal :=
  vecOp (.vadd p d a b n) p d a b n (fun x y => x + y) s

/-- VSUB (R200). -/
def execVsub (p : Pre) (d a b : BitVec 7) (n : Bool) (s : State) : Host.Outcome State Fault Refusal :=
  vecOp (.vsub p d a b n) p d a b n (fun x y => x - y) s

/-- VMUL (R200). -/
def execVmul (p : Pre) (d a b : BitVec 7) (n : Bool) (s : State) : Host.Outcome State Fault Refusal :=
  vecOp (.vmul p d a b n) p d a b n (fun x y => x * y) s

/-- VMULH: B names a V register (R200). -/
def execVmulh (p : Pre) (d a b : BitVec 7) (n : Bool) (s : State) : Host.Outcome State Fault Refusal :=
  vecOp (.vmulh p d a b n) p d a b false (mulHigh n) s

/-- VMAD (R200). -/
def execVmad (p : Pre) (d a b : BitVec 7) (n : Bool) (s : State) : Host.Outcome State Fault Refusal :=
  vecOp3 (.vmad p d a b n) p d a b n (fun x y z => x * y + z) s

/-- VAND (R200). -/
def execVand (p : Pre) (d a b : BitVec 7) (n : Bool) (s : State) : Host.Outcome State Fault Refusal :=
  vecOp (.vand p d a b n) p d a b n (fun x y => x &&& y) s

/-- VOR (R200). -/
def execVor (p : Pre) (d a b : BitVec 7) (n : Bool) (s : State) : Host.Outcome State Fault Refusal :=
  vecOp (.vor p d a b n) p d a b n (fun x y => x ||| y) s

/-- VXOR (R200). -/
def execVxor (p : Pre) (d a b : BitVec 7) (n : Bool) (s : State) : Host.Outcome State Fault Refusal :=
  vecOp (.vxor p d a b n) p d a b n (fun x y => x ^^^ y) s

/-- VSHL (R200). -/
def execVshl (p : Pre) (d a b : BitVec 7) (n : Bool) (s : State) : Host.Outcome State Fault Refusal :=
  vecOp (.vshl p d a b n) p d a b n (fun x y => x <<< (y.toNat % 32)) s

/-- VSHR (R200). -/
def execVshr (p : Pre) (d a b : BitVec 7) (n : Bool) (s : State) : Host.Outcome State Fault Refusal :=
  vecOp (.vshr p d a b n) p d a b n (fun x y => x >>> (y.toNat % 32)) s

/-- VSRA (R200). -/
def execVsra (p : Pre) (d a b : BitVec 7) (n : Bool) (s : State) : Host.Outcome State Fault Refusal :=
  vecOp (.vsra p d a b n) p d a b n (fun x y => x.sshiftRight (y.toNat % 32)) s

/-- VFSHL (R201). -/
def execVfshl (p : Pre) (d a b : BitVec 7) (ck : BitVec 2) (c : BitVec 7) (imm : BitVec 6) (s : State) :
    Host.Outcome State Fault Refusal :=
  issueSeq (.vfshl p d a b ck c imm) s fun s =>
    s.mapV p d fun l => funnel false (s.readV a.toNat l) (s.readV b.toNat l) (s.funnelCount ck c imm l)

/-- VFSHR (R201). -/
def execVfshr (p : Pre) (d a b : BitVec 7) (ck : BitVec 2) (c : BitVec 7) (imm : BitVec 6) (s : State) :
    Host.Outcome State Fault Refusal :=
  issueSeq (.vfshr p d a b ck c imm) s fun s =>
    s.mapV p d fun l => funnel true (s.readV a.toNat l) (s.readV b.toNat l) (s.funnelCount ck c imm l)

/-- VMIN: B names a V register (R200). -/
def execVmin (p : Pre) (d a b : BitVec 7) (n : Bool) (s : State) : Host.Outcome State Fault Refusal :=
  vecOp (.vmin p d a b n) p d a b false (wordMin n) s

/-- VMAX: B names a V register (R200). -/
def execVmax (p : Pre) (d a b : BitVec 7) (n : Bool) (s : State) : Host.Outcome State Fault Refusal :=
  vecOp (.vmax p d a b n) p d a b false (wordMax n) s

/-- VABS (R202). -/
def execVabs (p : Pre) (d a : BitVec 7) (s : State) : Host.Outcome State Fault Refusal :=
  vecUn (.vabs p d a) p d a wordAbs s

/-- VCLZ (R202). -/
def execVclz (p : Pre) (d a : BitVec 7) (s : State) : Host.Outcome State Fault Refusal :=
  vecUn (.vclz p d a) p d a wordClz s

/-- VPOP (R202). -/
def execVpop (p : Pre) (d a : BitVec 7) (s : State) : Host.Outcome State Fault Refusal :=
  vecUn (.vpop p d a) p d a wordPop s

/-- VBREV (R202). -/
def execVbrev (p : Pre) (d a : BitVec 7) (s : State) : Host.Outcome State Fault Refusal :=
  vecUn (.vbrev p d a) p d a wordRev s

/-- VMOV (R202). -/
def execVmov (p : Pre) (d a : BitVec 7) (s : State) : Host.Outcome State Fault Refusal :=
  vecUn (.vmov p d a) p d a (fun x => x) s

/-- VBCAST (R202). -/
def execVbcast (p : Pre) (d a : BitVec 7) (s : State) : Host.Outcome State Fault Refusal :=
  issueSeq (.vbcast p d a) s fun s => s.mapV p d fun _ => s.readS a.toNat

/-- VLANE (R202). -/
def execVlane (p : Pre) (d : BitVec 7) (s : State) : Host.Outcome State Fault Refusal :=
  issueSeq (.vlane p d) s fun s => s.mapV p d fun l => BitVec.ofNat 32 l

/-- VMOVI (R203). -/
def execVmovi (p : Pre) (d : BitVec 7) (imm : Word) (s : State) : Host.Outcome State Fault Refusal :=
  issueSeq (.vmovi p d imm) s fun s => s.mapV p d fun _ => imm

/-! ## Compares and select -/

/-- The active lanes on which a relation of V[A] and the operand holds (R204). -/
def State.holding (s : State) (a b : BitVec 7) (bk : Bool) (rel : Word → Word → Bool) : Mask :=
  maskOf ((lanesOf s.t.active).filter fun l => rel (s.readV a.toNat l) (s.vOperand b bk l))

/-- VCMP (R204). -/
def execVcmp (p : Pre) (pd : BitVec 3) (a b : BitVec 7) (bk : Bool) (cc : Cc) (u : Bool) (s : State) :
    Host.Outcome State Fault Refusal :=
  issueSeq (.vcmp p pd a b bk cc u) s fun s => s.writeP pd.toNat (s.holding a b bk (icmpHolds cc u))

/-- A relation of two FP32 values, in the numeric order or with TOT in the total one (R204). -/
def fcmp32 (cc : Cc) (tot : Bool) (x y : Word) : Bool :=
  fcmpHolds cc (if tot then some (fcmpTotal x y) else (val32 x).cmp (val32 y))

/-- VFCMP (R204). -/
def execVfcmp (p : Pre) (pd : BitVec 3) (a b : BitVec 7) (bk : Bool) (cc : Cc) (tot : Bool) (s : State) :
    Host.Outcome State Fault Refusal :=
  issueSeq (.vfcmp p pd a b bk cc tot) s fun s => s.writeP pd.toNat (s.holding a b bk (fcmp32 cc tot))

/-- VSEL (R205). -/
def execVsel (p : Pre) (d a b : BitVec 7) (bk : Bool) (gd : BitVec 4) (s : State) : Host.Outcome State Fault Refusal :=
  issueSeq (.vsel p d a b bk gd) s fun s =>
    let m := s.laneGuard gd
    s.mapV p d fun l => if m.getLsbD l then s.readV a.toNat l else s.vOperand b bk l

/-! ## FP32 arithmetic -/

/-- VFADD (R206). -/
def execVfadd (p : Pre) (d a b : BitVec 7) (n : Bool) (s : State) : Host.Outcome State Fault Refusal :=
  vecOp (.vfadd p d a b n) p d a b n fadd32 s

/-- VFSUB (R206). -/
def execVfsub (p : Pre) (d a b : BitVec 7) (n : Bool) (s : State) : Host.Outcome State Fault Refusal :=
  vecOp (.vfsub p d a b n) p d a b n fsub32 s

/-- VFMUL (R206). -/
def execVfmul (p : Pre) (d a b : BitVec 7) (n : Bool) (s : State) : Host.Outcome State Fault Refusal :=
  vecOp (.vfmul p d a b n) p d a b n fmul32 s

/-- VFMA (R206). -/
def execVfma (p : Pre) (d a b : BitVec 7) (n : Bool) (s : State) : Host.Outcome State Fault Refusal :=
  vecOp3 (.vfma p d a b n) p d a b n fma32 s

/-- VFMIN (R206). -/
def execVfmin (p : Pre) (d a b : BitVec 7) (n : Bool) (s : State) : Host.Outcome State Fault Refusal :=
  vecOp (.vfmin p d a b n) p d a b n (fminmax32 false) s

/-- VFMAX (R206). -/
def execVfmax (p : Pre) (d a b : BitVec 7) (n : Bool) (s : State) : Host.Outcome State Fault Refusal :=
  vecOp (.vfmax p d a b n) p d a b n (fminmax32 true) s

/-- VFDIV (R206). -/
def execVfdiv (p : Pre) (d a b : BitVec 7) (n : Bool) (s : State) : Host.Outcome State Fault Refusal :=
  vecOp (.vfdiv p d a b n) p d a b n fdiv32 s

/-- VFSQRT (R207). -/
def execVfsqrt (p : Pre) (d a : BitVec 7) (s : State) : Host.Outcome State Fault Refusal :=
  vecUn (.vfsqrt p d a) p d a fsqrt32 s

/-- VRCP (R207). -/
def execVrcp (p : Pre) (d a : BitVec 7) (s : State) : Host.Outcome State Fault Refusal :=
  vecUn (.vrcp p d a) p d a frcp32 s

/-- VRSQ (R207). -/
def execVrsq (p : Pre) (d a : BitVec 7) (s : State) : Host.Outcome State Fault Refusal :=
  vecUn (.vrsq p d a) p d a frsq32 s

/-- VLOG2 (R207). -/
def execVlog2 (p : Pre) (d a : BitVec 7) (s : State) : Host.Outcome State Fault Refusal :=
  vecUn (.vlog2 p d a) p d a flog232 s

/-- 2^(s·(x − m)), x − m and the product exact (R91, R208). -/
def fexp2 (x m k : Word) : Word := exp2Val ((val32 k).mul ((val32 x).add (val32 m).neg))

/-- VEXP2 (R208). -/
def execVexp2 (p : Pre) (d a b : BitVec 7) (bk : Bool) (c : BitVec 7) (ck : Bool) (s : State) :
    Host.Outcome State Fault Refusal :=
  issueSeq (.vexp2 p d a b bk c ck) s fun s =>
    s.mapV p d fun l => fexp2 (s.readV a.toNat l) (s.vOperand b bk l) (s.vOperand c ck l)

/-! ## Packed 16-bit arithmetic -/

/-- The format of the packed instructions: FMTR must hold f16 or bf16 (R87, R209). -/
def packedFmt (fmtr : Word) : Option Fmt :=
  if fmtr = 1 then some (.ieee 5 10) else if fmtr = 2 then some (.ieee 8 7) else none

/-- The value of element `e` of a packed word. -/
def half (f : Fmt) (w : Word) (e : Nat) : FVal := fmtValue f (bits w.toNat (16 * e) 16)

/-- A packed operation: each element computed exactly and rounded once to nearest even (R90). -/
def packed (f : Fmt) (op : Nat → FVal) : Word :=
  let r := fun e => (convert (op e) f .rne .ovi false 0).1
  BitVec.ofNat 32 (r 0 + 65536 * r 1)

/-- A packed 16-bit word; another format in FMTR raises illegal-operand (R209). -/
def vecHalf (i : Instr) (p : Pre) (d a b : BitVec 7) (n : Bool) (op : FVal → FVal → FVal → FVal) (s : State) :
    Host.Outcome State Fault Refusal :=
  issue i s fun s =>
    match packedFmt s.t.fmtr with
    | none => .error (s.trap .illegalOperand)
    | some f =>
      .ok (s.mapV p d fun l =>
        packed f fun e => op (half f (s.readV a.toNat l) e) (half f (s.vOperand b n l) e) (half f (s.readV d.toNat l) e),
        .seq)

/-- VHADD (R209). -/
def execVhadd (p : Pre) (d a b : BitVec 7) (n : Bool) (s : State) : Host.Outcome State Fault Refusal :=
  vecHalf (.vhadd p d a b n) p d a b n (fun x y _ => x.add y) s

/-- VHMUL (R209). -/
def execVhmul (p : Pre) (d a b : BitVec 7) (n : Bool) (s : State) : Host.Outcome State Fault Refusal :=
  vecHalf (.vhmul p d a b n) p d a b n (fun x y _ => x.mul y) s

/-- VHFMA (R209). -/
def execVhfma (p : Pre) (d a b : BitVec 7) (n : Bool) (s : State) : Host.Outcome State Fault Refusal :=
  vecHalf (.vhfma p d a b n) p d a b n (fun x y z => (x.mul y).add z) s

/-! ## Reductions and scans -/

/-- What a reduction combines with (R210). -/
def redRun : RedOp → Word → Word → Word
  | .add => fun x y => x + y
  | .fadd => fadd32
  | .fmul => fmul32
  | .min => wordMin false
  | .minu => wordMin true
  | .max => wordMax false
  | .maxu => wordMax true
  | .fmin => fminmax32 false
  | .fmax => fminmax32 true
  | .and => fun x y => x &&& y
  | .or => fun x y => x ||| y
  | .xor => fun x y => x ^^^ y

/-- The identity that an exclusive scan begins with (R210). -/
def redIdentity : RedOp → Word
  | .add => 0 | .fadd => 0x80000000#32 | .fmul => 0x3F800000#32 | .min => 0x7FFFFFFF#32 | .minu => 0xFFFFFFFF#32
  | .max => 0x80000000#32 | .maxu => 0 | .fmin => 0x7F800000#32 | .fmax => 0xFF800000#32 | .and => 0xFFFFFFFF#32
  | .or => 0 | .xor => 0

/-- The values of a V register in the active lanes, ascending (R211). -/
def State.activeVals (s : State) (a : BitVec 7) : List Word := (lanesOf s.t.active).map fun l => s.readV a.toNat l

/-- VRED (R211). -/
def execVred (p : Pre) (d a : BitVec 7) (w ds : Bool) (op : RedOp) (s : State) : Host.Outcome State Fault Refusal :=
  issue (.vred p d a w ds op) s fun s =>
    match s.wholeTrap w with
    | some tr => .error tr
    | none =>
      let r := treeReduce (redRun op) 6 (s.activeVals a)
      .ok (if ds then s.writeS p d r else s.mapV p d fun _ => r, .seq)

/-- The running combinations of a list, left to right. -/
def scanFrom (f : Word → Word → Word) : Word → List Word → List Word
  | _, [] => []
  | acc, x :: r => let y := f acc x; y :: scanFrom f y r

/-- The scan of a list: inclusive, or exclusive from an identity that is never combined (R211). -/
def scanOf (op : RedOp) (ex : Bool) : List Word → List Word
  | [] => []
  | x :: r =>
    let inc := x :: scanFrom (redRun op) x r
    if ex then redIdentity op :: inc.take r.length else inc

/-- VSCAN (R211). -/
def execVscan (p : Pre) (d a : BitVec 7) (w ex : Bool) (op : RedOp) (s : State) : Host.Outcome State Fault Refusal :=
  issue (.vscan p d a w ex op) s fun s =>
    match s.wholeTrap w with
    | some tr => .error tr
    | none => .ok (s.writeV p d ((lanesOf s.t.active).zip (scanOf op ex (s.activeVals a))), .seq)

end Sys2Proof.Machine
end

