-- ==== Sys2Proof/Machine/Convert.lean ====
section
/-! DEFINITION. Conversions, packing, block scales, compress and expand, and stream decode, majors 0x58-0x5D
(R212-R223). -/

namespace Sys2Proof.Machine

/-! ## Conversion -/

/-- What a lane's conversions give: per element its bits and event, and the lane's state after them. -/
structure LaneCvt where
  lane : Nat
  outs : List (Nat × Nat)
  sr : Word
  deriving DecidableEq, Repr

/-- Whether a lane had a conversion event (R85). -/
def LaneCvt.eventful (c : LaneCvt) : Bool := c.outs.any fun o => o.2 != 0

/-- Converts the values of each active lane in element order (R83, R84). -/
def State.cvtLanes (s : State) (c : CvtMode) (f : Fmt) (vals : Nat → List FVal) : List LaneCvt :=
  (lanesOf s.t.active).map fun l =>
    let r := c.runs f (vals l) (s.g.readSr l)
    ⟨l, r.1, r.2⟩

/-- Keeps the draws of conversions that have completed (R83). -/
def State.keepDraws (s : State) (cs : List LaneCvt) : State :=
  { s with g := cs.foldl (fun g c => g.writeSr c.lane c.sr) s.g }

/-- A conversion on lanes: an event with TRP set raises conversion-error and nothing is written (R85). -/
def State.converting (s : State) (c : CvtMode) (f : Fmt) (vals : Nat → List FVal)
    (k : State → List LaneCvt → State) : Except Trap (State × Next) :=
  let cs := s.cvtLanes c f vals
  let hit := cs.filter LaneCvt.eventful
  if c.trp && hit != [] then .error { s.trap .conversionError with mask := maskOf (hit.map fun h => h.lane) }
  else .ok (k (s.keepDraws cs) cs, .seq)

/-- The format and mode of a conversion: a reserved code or mode raises illegal-operand (R82, R212). -/
def State.cvtTo (s : State) (fmt : BitVec 8) (mode : BitVec 3) (sat : Bool) : Except Trap (Fmt × CvtMode) :=
  match fmtOf fmt with
  | none => .error (s.trap .illegalOperand)
  | some f =>
    match cvtMode s.t.cvmr f mode sat with
    | none => .error (s.trap .illegalOperand)
    | some c => .ok (f, c)

/-- The exact value of an element of a register word (R78). -/
def elemOf (f : Fmt) (w : Word) (e : Nat) : FVal := fmtValue f (bits w.toNat (f.width * e) f.width)

/-- VCVT (R212). -/
def execVcvt (p : Pre) (d a : BitVec 7) (sfmt dfmt : BitVec 8) (mode : BitVec 3) (sat : Bool) (sel : BitVec 3)
    (s : State) : Host.Outcome State Fault Refusal :=
  issue (.vcvt p d a sfmt dfmt mode sat sel) s fun s =>
    match fmtOf sfmt, s.cvtTo dfmt mode sat with
    | none, _ => .error (s.trap .illegalOperand)
    | _, .error tr => .error tr
    | some f, .ok (g, c) =>
      s.converting c g (fun l => [elemOf f (s.readV a.toNat l) sel.toNat]) fun s cs =>
        s.writeV p d (cs.map fun c => (c.lane, BitVec.ofNat 32 (c.outs.headD (0, 0)).1))

/-- The residual of a tandem conversion from its narrowed bits (R88). -/
def tandemRest (x : Word) (f : Fmt) (n : Nat) : Word :=
  match val32 x, fmtValue f n with
  | .fin s m e, .fin t k g => round32 ((FVal.fin s m e).add (FVal.fin t k g).neg)
  | .inf s, .inf t => if s = t then 0 else nan32
  | _, _ => nan32

/-- VCVTEF (R88, R213). -/
def execVcvtef (p : Pre) (d a e : BitVec 7) (dfmt : BitVec 8) (mode : BitVec 3) (sat : Bool) (pd : BitVec 3)
    (s : State) : Host.Outcome State Fault Refusal :=
  issue (.vcvtef p d a e dfmt mode sat pd) s fun s =>
    match s.cvtTo dfmt mode sat with
    | .error tr => .error tr
    | .ok (f, c) =>
      if 32 ≤ f.width then .error (s.trap .illegalOperand)
      else
        let src := fun l => s.readV a.toNat l
        s.converting c f (fun l => [val32 (src l)]) fun s cs =>
          let n := fun (c : LaneCvt) => (c.outs.headD (0, 0)).1
          let flags := maskOf ((cs.filter fun c => (c.outs.headD (0, 0)).2 == 1).map fun c => c.lane)
          ((s.writeV p d (cs.map fun c => (c.lane, BitVec.ofNat 32 (n c)))).writeV p e
            (cs.map fun c => (c.lane, tandemRest (src c.lane) f (n c)))).writeP pd.toNat flags

/-- A packable format: width 16, 8 or 4 (R214). -/
def packable (fmt : BitVec 8) : Option Fmt :=
  match fmtOf fmt with
  | some f => if f.width = 32 then none else some f
  | none => none

/-- A VPACK source word as its format's class reads it: f32, or a signed or unsigned integer (R214). -/
def packSource (f : Fmt) (w : Word) : FVal :=
  match f with
  | .sint _ => FVal.ofInt w.toInt
  | .uint _ => FVal.ofInt w.toNat
  | _ => val32 w

/-- Elements of a width put together, element 0 in the low bits (R78). -/
def packWord (w : Nat) (els : List Nat) : Word :=
  BitVec.ofNat 32 (els.foldr (fun e acc => e % 2 ^ w + 2 ^ w * acc) 0)

/-- VPACK (R214). -/
def execVpack (p : Pre) (d a : BitVec 7) (fmt : BitVec 8) (mode : BitVec 3) (sat : Bool) (s : State) :
    Host.Outcome State Fault Refusal :=
  issue (.vpack p d a fmt mode sat) s fun s =>
    match packable fmt, s.cvtTo fmt mode sat with
    | none, _ => .error (s.trap .illegalOperand)
    | _, .error tr => .error tr
    | some f, .ok (_, c) =>
      let vals := fun l => (List.range (32 / f.width)).map fun j => packSource f (s.readV (a.toNat + j) l)
      s.converting c f vals fun s cs =>
        s.writeV p d (cs.map fun c => (c.lane, packWord f.width (c.outs.map fun o => o.1)))

/-- An unpacked element: integers extended, others rounded to FP32 (R214). -/
def unpackElem (f : Fmt) (w : Word) (j : Nat) : Word :=
  let b := bits w.toNat (f.width * j) f.width
  match f with
  | .sint k => BitVec.ofInt 32 (sextN b k)
  | .uint _ => BitVec.ofNat 32 b
  | _ => round32 (fmtValue f b)

/-- VUNPK (R214): every source is read before a destination is written. -/
def execVunpk (p : Pre) (d a : BitVec 7) (fmt : BitVec 8) (s : State) : Host.Outcome State Fault Refusal :=
  issue (.vunpk p d a fmt) s fun s =>
    match packable fmt with
    | none => .error (s.trap .illegalOperand)
    | some f =>
      let src := fun l => s.readV a.toNat l
      .ok ((List.range (32 / f.width)).foldl (fun (s : State) j =>
        s.setV (d.toNat + j) ((lanesOf s.t.active).map fun l => (l, unpackElem f (src l) j))) s, .seq)

/-- VSCLAP's value: the word times the block scale (R215). -/
def sclap (x b : Word) : Word := round32 (scaleBy (val32 x) (b.toNat % 256))

/-- VSCLAP (R215). -/
def execVsclap (p : Pre) (d a b : BitVec 7) (n : Bool) (s : State) : Host.Outcome State Fault Refusal :=
  vecOp (.vsclap p d a b n) p d a b n sclap s

/-! ## Compress and expand -/

/-- The fill of a receiving lane (R216). -/
def State.fillOf (s : State) (f : BitVec 7) (fk : Bool) (l : Nat) : Word := if fk then s.readV f.toNat l else 0

/-- VCMPRS's values by lane (R217). -/
def State.compressed (s : State) (a f : BitVec 7) (fk : Bool) (m : Mask) : List (Nat × Word) :=
  let vals := (lanesOf m).map fun l => s.readV a.toNat l
  let ls := lanesOf s.t.active
  (List.range ls.length).map fun i =>
    let l := ls.getD i 0
    (l, vals.getD i (s.fillOf f fk l))

/-- VEXPND's values by lane (R217). -/
def State.expanded (s : State) (a f : BitVec 7) (fk : Bool) (m : Mask) : List (Nat × Word) :=
  let ls := lanesOf s.t.active
  let put := (lanesOf m).zip (ls.map fun l => s.readV a.toNat l)
  ls.map fun l =>
    match put.find? fun q => q.1 == l with
    | some q => (l, q.2)
    | none => (l, s.fillOf f fk l)

/-- Writes what a compress or expand gives, and the count (R217). -/
def State.packed (s : State) (p : Pre) (d sc : BitVec 7) (w : Bool) (m : Mask) (vals : List (Nat × Word)) :
    Except Trap (State × Next) :=
  match s.wholeTrap w with
  | some tr => .error tr
  | none => .ok ((s.writeV p d vals).writeS p sc (BitVec.ofNat 32 (popMask m)), .seq)

/-- VCMPRS (R217). -/
def execVcmprs (p : Pre) (d a f : BitVec 7) (fk w : Bool) (mask : BitVec 4) (sc : BitVec 7) (s : State) :
    Host.Outcome State Fault Refusal :=
  issue (.vcmprs p d a f fk w mask sc) s fun s =>
    s.packed p d sc w (s.laneGuard mask) (s.compressed a f fk (s.laneGuard mask))

/-- VEXPND (R217). -/
def execVexpnd (p : Pre) (d a f : BitVec 7) (fk w : Bool) (mask : BitVec 4) (sc : BitVec 7) (s : State) :
    Host.Outcome State Fault Refusal :=
  issue (.vexpnd p d a f fk w mask sc) s fun s =>
    s.packed p d sc w (s.laneGuard mask) (s.expanded a f fk (s.laneGuard mask))

/-! ## Stream decode -/

/-- How a decode ended: code, values emitted, bytes consumed; or the first byte outside the allocation (R222). -/
inductive DecodeEnd where
  | ended (code : Nat) (vals : List Word) (cons : Nat)
  | outside (off : Nat)
  deriving DecidableEq, Repr

/-- What a decode has so far: values in reverse order, how many, and its offset in the chunk. -/
structure DecodeRun where
  rev : List Word
  n : Nat
  pos : Nat
  v : Word
  deriving DecidableEq, Repr

/-- The limits of a decode: the values to emit, and how many may be emitted, with the code of the end when fewer than
COUNT may (R222, R225). -/
structure DecodeLimit where
  count : Nat
  cap : Nat
  code : Nat
  deriving DecidableEq, Repr

/-- Emits values until COUNT or the limit is met: the run, and whether it has ended. -/
def DecodeRun.emit (lim : DecodeLimit) : DecodeRun → List Word → DecodeRun × Bool
  | r, [] => (r, decide (lim.count ≤ r.n ∨ lim.cap ≤ r.n))
  | r, x :: xs =>
    if lim.count ≤ r.n ∨ lim.cap ≤ r.n then (r, true)
    else DecodeRun.emit lim { r with rev := x :: r.rev, n := r.n + 1 } xs

/-- The end of a run that has emitted what it may. -/
def DecodeRun.done (lim : DecodeLimit) (r : DecodeRun) (cons : Nat) : DecodeEnd :=
  .ended (if lim.count ≤ r.n then 0 else lim.code) r.rev.reverse cons

/-- The values of the deltas of a group, from the value before it (R220). -/
def groupVals (z : Bool) (w v0 : Nat) (deltas : Nat) : Nat → List Word
  | 0 => []
  | k + 1 =>
    let u := deltas % 2 ^ w
    let d := if z then (if u % 2 = 1 then 2 ^ 32 - 1 - u / 2 else u / 2) else u
    let v := (v0 + d) % 2 ^ 32
    BitVec.ofNat 32 v :: groupVals z w v (deltas / 2 ^ w) k

/-- Decodes DBP groups; `byte` reads a chunk byte, `avail` is how many lie in the allocation (R220, R222). -/
def dbp (lim : DecodeLimit) (z : Bool) (byte : Nat → Byte) (avail : Nat) : Nat → DecodeRun → DecodeEnd
  | 0, r => r.done lim r.pos
  | fuel + 1, r =>
    if lim.count ≤ r.n ∨ lim.cap ≤ r.n then r.done lim r.pos
    else if avail ≤ r.pos then .outside avail
    else
      let w := (byte r.pos).toNat
      if 32 < w then .ended 2 r.rev.reverse r.pos
      else if avail < r.pos + 1 + 2 * w then .outside avail
      else
        let deltas := leNat ((List.range (2 * w)).map fun i => byte (r.pos + 1 + i))
        let vals := groupVals z w r.v.toNat deltas 16
        let e := DecodeRun.emit lim r vals
        let r1 := { e.1 with pos := r.pos + 1 + 2 * w, v := vals.getLastD r.v }
        if e.2 then r1.done lim r1.pos else dbp lim z byte avail fuel r1

/-- Decodes RLE runs (R220, R222). -/
def rle (lim : DecodeLimit) (byte : Nat → Byte) (avail : Nat) : Nat → DecodeRun → DecodeEnd
  | 0, r => r.done lim r.pos
  | fuel + 1, r =>
    if lim.count ≤ r.n ∨ lim.cap ≤ r.n then r.done lim r.pos
    else if avail < r.pos + 5 then .outside avail
    else
      let v := BitVec.ofNat 32 (leNat ((List.range 4).map fun i => byte (r.pos + 1 + i)))
      let k := (byte r.pos).toNat + 1
      let e := DecodeRun.emit lim r (List.replicate k v)
      let whole := decide (e.1.n = r.n + k ∨ lim.count ≤ e.1.n)
      let r1 := { e.1 with pos := if whole then r.pos + 5 else r.pos }
      if e.2 then r1.done lim r1.pos else rle lim byte avail fuel r1

/-- Decodes a chunk into at most `room` values; with `stop`, the cycle limit falls when that many values are out
(R219-R222, R225). -/
def decodeChunk (byte : Nat → Byte) (avail room : Nat) (stop : Option Nat) : DecodeEnd :=
  if avail < 4 then .outside avail
  else
    let h := leNat ((List.range 4).map byte)
    let count := bits h 0 16
    let codec := bits h 16 8
    let z := bits h 24 1 == 1
    if count = 0 ∨ (codec ≠ 1 ∧ codec ≠ 2) ∨ (z = true ∧ codec = 2) ∨ bits h 25 7 ≠ 0 then .ended 1 [] 0
    else
      let n3 := match stop with
        | some k => min k 1024
        | none => 1024
      let lim : DecodeLimit := ⟨count, min n3 room, if n3 ≤ room then 3 else 4⟩
      if codec = 1 then
        if avail < 8 then .outside avail
        else dbp lim z byte avail 1025 ⟨[], 0, 8, BitVec.ofNat 32 (leNat ((List.range 4).map fun i => byte (4 + i)))⟩
      else rle lim byte avail 1025 ⟨[], 0, 4, 0⟩

/-- The places of decoded values: register and lane of value number `n` (R222). -/
def decodePlaces (d : Nat) (ls : List Nat) (vals : List Word) : List (Nat × Nat × Word) :=
  (List.range vals.length).map fun n => (d + n / ls.length, ls.getD (n % ls.length) 0, vals.getD n 0)

/-- The instruction at the focused strand's word. -/
def State.instrHere (s : State) : Option Instr := (decode (s.t.wordAt 0) (s.t.wordAt 1)).toOption

/-- The S and V registers that a decode writes, and DSW (R222). -/
def State.decodeWrite (s : State) (d c : BitVec 7) (te : Bool) (code : Nat) (vals : List Word) (cons : Nat) :
    Except Trap State :=
  let dsw := BitVec.ofNat 32 (code + 2 ^ 16 * cons)
  let s1 := { s with t := { s.t with dsw := dsw } }
  if te && code != 0 then .error { s.trap .decodeLength with info := dsw }
  else
    let ps := decodePlaces d.toNat (lanesOf s.t.active) vals
    let regs := (ps.map fun x => x.1).eraseDups
    let s2 := regs.foldl (fun s r => s.setV r ((ps.filter fun x => x.1 == r).map fun x => x.2)) s1
    .ok { s2 with t := s2.t.setS c.toNat (BitVec.ofNat 32 vals.length) }

/-- The end of a decode of the focused strand from the offset that S[A] held at issue (R221-R223). -/
def State.decodeEnd (s : State) (i : Instr) (off : Nat) (d c : BitVec 7) (te : Bool) (nreg : BitVec 7) (stop : Option Nat) :
    State :=
  let image := s.spadRead off (s.spadSize - off)
  let byte := fun n => image.getD n 0
  let step := s.g.dbgc.getLsbD 20
  match decodeChunk byte (s.spadSize - off) ((lanesOf s.t.active).length * nreg.toNat) stop with
  | .outside n => s.trapHere ⟨.scratchpadBounds, s.t.active, BitVec.ofNat 64 (max off (off + n)), s.t.wordAt 0⟩
  | .ended code vals cons =>
    let s0 := { s with t := s.t.readsBytes (spadRefs off cons) }
    match s0.decodeWrite d c te code vals cons with
    | .error tr =>
      ({ s0 with t := { s0.t with dsw := tr.info } }).trapHere tr
    | .ok s1 => { s1 with t := (s1.t.soil i).finish 2 s1.cycle step .seq }

/-- Whether the decoder of a pipe that the focused strand spans is busy (R223). -/
def State.decoderBusy (s : State) : Bool :=
  let mine := s.pipeKeys
  (s.g :: s.gangs).any fun g => g.core == s.g.core && g.strands.any fun t =>
    t.decodes && (slicesOf t.active).any fun j => mine.contains (8 * g.core + (g.firstPipe + j) % 8)

/-- VDECODE (R221-R223): the strand waits until its decode ends; before, until the decoders of its pipes are free. -/
def execVdecode (p : Pre) (d a c : BitVec 7) (te : Bool) (nreg : BitVec 7) (w : Bool) (s : State) :
    Host.Outcome State Fault Refusal :=
  issue (.vdecode p d a c te nreg w) s fun s =>
    match s.wholeTrap w with
    | some tr => .error tr
    | none =>
      let off := s.spadBase a
      if off % 4 ≠ 0 then .error { s.trap .misaligned with addr := BitVec.ofNat 64 off }
      else if s.decoderBusy then .ok (s, .held .decoder)
      else .ok ({ s with t := { s.t.ripen with wait := .decode off s.cycle } }, .stay)

/-- A decode that has begun ends, the strand's earlier operations performed first, so that its chunk reads keep their place as
loads (R223, R281, R283): behind a matrix operation that accesses memory it goes on waiting. `open_` says at how many cycles
since issue it may end so (R222). -/
def State.endDecode (s : State) (gang strand : Nat) (stop : Option Nat) (open_ : Nat → Bool) : State :=
  let s0 := s.focus gang strand
  if s0.focused = false then s0
  else
    match s0.t.wait, s0.instrHere with
    | .decode off c0, some (.vdecode p d a c te nreg w) =>
      if !(open_ (s0.cycle - c0)) || s0.mops.any (fun m => s0.t.issued.contains m.id && memMop m.instr) then s0.unfocus
      else (s0.drainMine.decodeEnd (.vdecode p d a c te nreg w) off d c te nreg stop).unfocus
    | _, _ => s0.unfocus

/-- DECODE_END, within 4,096 cycles since issue (R222). -/
def execDecodeEnd (gang strand : Nat) (s : State) : Host.Outcome State Fault Refusal :=
  event s fun s => s.endDecode gang strand none fun n => decide (n ≤ 4096)

/-- DECODE_CYCLE_LIMIT: 4,096 cycles have passed since issue, with so many values emitted (R222). -/
def execDecodeCycleLimit (gang strand values : Nat) (s : State) : Host.Outcome State Fault Refusal :=
  event s fun s => s.endDecode gang strand (some values) fun n => decide (4096 ≤ n)

/-- VDSTAT (R221). -/
def execVdstat (p : Pre) (d : BitVec 7) (s : State) : Host.Outcome State Fault Refusal :=
  issueSeq (.vdstat p d) s fun s => s.writeS p d s.t.dsw

/-- VDSTAT.clr (R221). -/
def execVdstatClr (p : Pre) (d : BitVec 7) (s : State) : Host.Outcome State Fault Refusal :=
  issueSeq (.vdstatClr p d) s fun s =>
    let s1 := s.writeS p d s.t.dsw
    { s1 with t := { s1.t with dsw := 0 } }

end Sys2Proof.Machine
end

