-- ==== Sys2Proof/Machine/Matrix.lean ====
section
/-! DEFINITION. Operand slots, the matrix queue and the issue of matrix operations, majors 0x60-0x66 (R227-R246). What
a queued operation does when it is performed stands in MatrixRun. -/

namespace Sys2Proof.Machine

/-! ## Operand slots -/

/-- A slot as OCLAIM leaves it: data 0, scale bytes 127, FTAG 0xFF, SVAL 0 (R228). -/
def freshSlot (core num gang : Nat) : Slot :=
  { core := core, num := num, gang := gang, data := [], scales := [], ftag := 0xFF, sval := false, planTag := 0xFF,
    planSval := false, incoming := none }

/-- The free slots of a core, ascending (R228). -/
def State.freeSlots (s : State) (core : Nat) : List Nat :=
  (List.range 32).filter fun n => (s.slotOf core n).isNone

/-- The slot number that a handle of a gang is bound to (R227). -/
def Gang.boundTo (g : Gang) (k : Nat) : Option Nat :=
  let n := smGet 32 g.handles k
  if n = 32 then none else some n

/-- The slot that a handle of a gang names. -/
def State.slotAt (s : State) (g : Gang) (k : Nat) : Option Slot := (g.boundTo k).bind fun n => s.slotOf g.core n

/-- The part of a cycle's record about the slots of a core. -/
def claimMark (core : Nat) (m : CycleMark) : Option (List Nat) :=
  match m with
  | .claim c key => if c = core then some key else none
  | _ => none

/-- OCLAIM (R228). -/
def execOclaim (p : Pre) (q : BitVec 2) (k : BitVec 7) (s : State) : Host.Outcome State Fault Refusal :=
  issue (.oclaim p q k) s fun s =>
    match s.g.boundTo k.toNat, s.freeSlots s.g.core with
    | some _, _ => .error (s.trap .illegalState)
    | none, [] => .ok ((s.writeQ q false).marked (.claim s.g.core (s.g.turnKey (lowLane s.t.active))), .seq)
    | none, n :: _ =>
      let s1 := (s.writeQ q true).marked (.claim s.g.core (s.g.turnKey (lowLane s.t.active)))
      .ok ({ s1 with
        slots := s1.slots ++ [freshSlot s.g.core n s.g.id]
        g := { s1.g with handles := smSet 32 s1.g.handles k.toNat n } }, .seq)

/-- ORELEASE: it waits for the operations that use the slot (R228). -/
def execOrelease (p : Pre) (k : BitVec 7) (s : State) : Host.Outcome State Fault Refusal :=
  issue (.orelease p k) s fun s =>
    match s.g.boundTo k.toNat with
    | none => .error (s.trap .illegalState)
    | some n =>
      if s.slotBusy s.g.core n then .ok (s, .held (.slot n))
      else
        .ok ({ s with
          slots := s.slots.filter fun x => !(x.core == s.g.core && x.num == n)
          g := { s.g with handles := smSet 32 s.g.handles k.toNat 32 } }, .seq)

/-- The status word of OQRY (R228). -/
def State.slotWord (s : State) (k : Nat) : Word :=
  let free := 2 ^ 16 * (s.freeSlots s.g.core).length
  match s.g.boundTo k, s.slotAt s.g k with
  | some n, some x =>
    BitVec.ofNat 32 (x.ftag.toNat + (if x.sval then 2 ^ 8 else 0) + 2 ^ 9 +
      (if s.slotBusy s.g.core n then 2 ^ 10 else 0) + 2 ^ 11 * n + free)
  | _, _ => BitVec.ofNat 32 (0xFF + free)

/-- OQRY (R228). -/
def execOqry (p : Pre) (d k : BitVec 7) (s : State) : Host.Outcome State Fault Refusal :=
  issueSeq (.oqry p d k) s fun s => s.writeS p d (s.slotWord k.toNat)

/-- Whether the box or the format of an OLOAD does not fit a slot (R232). -/
def oloadBad (d : Side) (dfmt : BitVec 8) (tr scw : Bool) : Bool :=
  match fmtOf dfmt with
  | none => true
  | some f =>
    let rows := if tr then d.boxOf 0 else d.boxOf 1
    let els := if tr then d.boxOf 1 else d.boxOf 0
    f.width == 32 || (scw && !f.isFamily) || d.boxOf 2 != 1 || d.boxOf 3 != 1 || decide (64 < rows) ||
      decide (1024 / f.width < els)

/-- OLOAD (R232): an engine command that arrives 8,192 bytes. -/
def execOload (p : Pre) (k a e o : BitVec 7) (dfmt : BitVec 8) (ds tr scw : Bool) (s : State) :
    Host.Outcome State Fault Refusal :=
  issue (.oload p k a e o dfmt ds tr scw) s fun s =>
    s.engineIssue fun s =>
      let off := s.spadBase e
      s.readSources (s.imageBad off 32) [s.descSource a ds] fun s bs =>
        let ba := bs.getD 0 []
        let src := sideOf ba
        s.basesOk [src] fun s =>
          match leastOf (descFails false ba (s.sideRange src)), s.g.boundTo k.toNat with
          | some f, _ => .error (s.fieldTrap f)
          | none, none => .error (s.trap .illegalOperand)
          | none, some n =>
            if oloadBad src dfmt tr scw then .error (s.trap .illegalOperand)
            else
              s.withIndexes [src.shaped (s.sideRange src)] src fun s sides =>
                .ok (s.enqueue off o 8192 (.oload (sides.getD 0 src) n dfmt tr scw (lowLane s.t.active)), .seq)

/-! ## The matrix queue -/

/-- The operations in the matrix queue of a device on a core (R229). -/
def State.matrixQueue (s : State) (core vd : Nat) : List MOp := s.mops.filter fun m => m.core == core && m.vd == vd

/-- The V registers and lanes that an operation reads at issue. -/
def vSources (i : Instr) (ls : List Nat) : List (Nat × Nat) :=
  i.reads.flatMap fun r =>
    match r with
    | .v n k => (List.range k).flatMap fun j => ls.map fun l => (n + j, l)
    | _ => []

/-- The bit tiles that a matrix operation reads. -/
def btReads : Instr → List Nat
  | .btcnt _ _ a _ _ => [a.toNat]
  | .btcolc _ _ a _ _ => [a.toNat]
  | .btand _ _ a b _ => [a.toNat, b.toNat]
  | .btor _ _ a b _ => [a.toNat, b.toNat]
  | .btxor _ _ a b _ => [a.toNat, b.toNat]
  | .btnot _ _ a _ => [a.toNat]
  | .btt _ _ a _ => [a.toNat]
  | .btcomp _ _ a b _ => [a.toNat, b.toNat]
  | .btclos _ _ a _ _ => [a.toNat]
  | .btfirst _ _ a _ _ => [a.toNat]
  | .btrowRd _ _ a _ _ => [a.toNat]
  | .btst _ d _ _ _ _ _ => [d.toNat]
  | _ => []

/-- The bit tiles that a matrix operation writes. -/
def btWrites : Instr → List Nat
  | .ocmp _ d _ _ _ _ _ _ _ _ _ _ => [d.toNat]
  | .btand _ d _ _ _ => [d.toNat]
  | .btor _ d _ _ _ => [d.toNat]
  | .btxor _ d _ _ _ => [d.toNat]
  | .btnot _ d _ _ => [d.toNat]
  | .btt _ d _ _ => [d.toNat]
  | .btcomp _ d _ _ _ => [d.toNat]
  | .btclos _ d _ _ _ => [d.toNat]
  | .bteye _ d _ => [d.toNat]
  | .btrowWr _ d _ _ _ => [d.toNat]
  | .btld _ d _ _ _ _ _ => [d.toNat]
  | _ => []

/-- The units of storage that flashback follows: accumulator tiles from 204, slots by handle from 212, bit tiles one
by one from 300 (R247). -/
def storageUnits (rs : List Reg) (bts : List Nat) : List Nat :=
  (rs.filterMap fun r =>
    match r with
    | .acc n => some (204 + n)
    | .slot n => some (212 + n)
    | _ => none) ++ bts.map fun n => 300 + n

/-- A strand that issues a matrix operation: what it reads and writes of its gang's storage since its mark (R247). -/
def Strand.usesStorage (t : Strand) (i : Instr) : Strand :=
  if t.mark.isSome then
    let u := (storageUnits i.reads (btReads i)).foldl Strand.readsUnit t
    (storageUnits i.writes (btWrites i)).foldl Strand.writesUnit u
  else t

/-- What a matrix operation that accesses memory takes to its queue: its order, its address and its bytes. -/
structure MemPart where
  acq : Option Nat
  rel : List Carry
  addr : Addr
  refs : List ByteRef
  deriving DecidableEq, Repr

/-- The memory part of an operation that accesses none. -/
def noMem : MemPart := ⟨none, [], 0, []⟩

/-- Puts a matrix operation of the focused strand into its queue, its V sources read (R229); the registers that it will
write join the written set (R259). -/
def State.enqueueMop (s : State) (i : Instr) (fs : Bool) (x : MemPart) : State :=
  let src := (vSources i (lanesOf s.t.active)).map fun r => (64 * r.1 + r.2, s.readV r.1 r.2)
  let m : MOp :=
    { id := s.nextId, before := s.t.issued, acq := x.acq, rel := x.rel, cvmr := s.t.cvmr, deferred := false,
      core := s.g.core, vd := s.g.vd, gang := s.g.id, strand := s.t.idx, block := s.g.block, flag := s.flagFor fs,
      word := s.t.pc, mask := s.t.active, instr := i, vsrc := smSetAll 0 [] src, ssrc := x.addr, refs := x.refs,
      started := false }
  let s1 := s.recordIssue
  { s1 with mops := s.mops ++ [m], t := ((i.writes.flatMap Reg.cells).foldl Strand.note s1.t).usesStorage i }

/-- A matrix operation: it does not issue while its queue is full; its `.whole` form is checked (R229, R231). -/
def State.matrixIssue (s : State) (w : Bool) (k : State → Except Trap (State × Next)) : Except Trap (State × Next) :=
  if 32 ≤ (s.matrixQueue s.g.core s.g.vd).length then .ok (s, .held .matrixQueue)
  else
    match s.wholeTrap w with
    | some tr => .error tr
    | none => k s

/-- A matrix operation without operand checks of its own. -/
def matrixOp (i : Instr) (fs w : Bool) (s : State) : Host.Outcome State Fault Refusal :=
  issue i s fun s => s.matrixIssue w fun s => .ok (s.enqueueMop i fs noMem, .seq)

/-! ## OFILL, MMA and MMAS -/

/-- The tag and the scale-valid bit that the operations queued before will leave a handle's slot (R229). -/
def State.planned (s : State) (k : Nat) : BitVec 8 × Bool :=
  match s.slotAt s.g k with
  | some x => (x.planTag, x.planSval)
  | none => (0xFF, false)

/-- Sets what a slot's queued operations will leave. -/
def State.plan (s : State) (k : Nat) (f : Slot → Slot) : State :=
  match s.slotAt s.g k with
  | some x => s.putSlot (f x)
  | none => s

/-- OFILL (R234). -/
def execOfill (p : Pre) (k a : BitVec 7) (fmt : BitVec 8) (fs : Bool) (row : BitVec 6) (woff : BitVec 5)
    (nreg : BitVec 6) (sc w : Bool) (s : State) : Host.Outcome State Fault Refusal :=
  issue (.ofill p k a fmt fs row woff nreg sc w) s fun s =>
    s.matrixIssue w fun s =>
      if (fmtOf fmt).isNone then .error (s.trap .illegalOperand)
      else
        let s1 := s.plan k.toNat fun x => if sc then { x with planSval := true } else { x with planTag := fmt }
        .ok (s1.enqueueMop (.ofill p k a fmt fs row woff nreg sc w) fs noMem, .seq)

/-- The element width of a tag that the array multiplies: 16, 8 or 4 bits; others raise illegal-operand (R236). -/
def mmaWidth (tag : BitVec 8) : Option Nat :=
  match fmtOf tag with
  | some (.ieee _ fb) => if fb = 23 then none else some 16
  | some (.fam K p _ _) => if 2 ≤ p then some K else none
  | _ => none

/-- The operand checks of MMA and MMAS (R235, R236). -/
def State.mmaBad (s : State) (a b : BitVec 7) (pi : BitVec 7) (scaled : Bool) : Bool :=
  let x := s.planned a.toNat
  let y := s.planned b.toNat
  pi == 0 || decide (64 < pi.toNat) ||
    match mmaWidth x.1, mmaWidth y.1 with
    | some v, some w => v != w || (scaled && (v == 16 || !x.2 || !y.2))
    | _, _ => true

/-- The issue of MMA and MMAS; counter 4 counts it (R235, R354). -/
def State.mmaIssue (s : State) (i : Instr) (a b : BitVec 7) (fs : Bool) (pi : BitVec 7) (w scaled : Bool) :
    Except Trap (State × Next) :=
  s.matrixIssue w fun s =>
    if s.mmaBad a b pi scaled then .error (s.trap .illegalOperand)
    else .ok ((s.count s.g.vd 4 1).enqueueMop i fs noMem, .seq)

/-- MMA (R235). -/
def execMma (p : Pre) (d a b : BitVec 7) (fs : Bool) (pi : BitVec 7) (arow : BitVec 6) (w : Bool) (s : State) :
    Host.Outcome State Fault Refusal :=
  issue (.mma p d a b fs pi arow w) s fun s => s.mmaIssue (.mma p d a b fs pi arow w) a b fs pi w false

/-- MMAS (R235). -/
def execMmas (p : Pre) (d a b : BitVec 7) (fs : Bool) (pi : BitVec 7) (arow : BitVec 6) (w : Bool) (s : State) :
    Host.Outcome State Fault Refusal :=
  issue (.mmas p d a b fs pi arow w) s fun s => s.mmaIssue (.mmas p d a b fs pi arow w) a b fs pi w true

/-! ## Accumulator moves -/

/-- ACCZ (R237). -/
def execAccz (p : Pre) (d : BitVec 7) (fs w : Bool) (s : State) : Host.Outcome State Fault Refusal :=
  matrixOp (.accz p d fs w) fs w s

/-- ACCRD (R237). -/
def execAccrd (p : Pre) (d a : BitVec 7) (fs : Bool) (col : BitVec 6) (nreg : BitVec 7) (w : Bool) (s : State) :
    Host.Outcome State Fault Refusal :=
  matrixOp (.accrd p d a fs col nreg w) fs w s

/-- ACCWR (R237). -/
def execAccwr (p : Pre) (d a : BitVec 7) (fs : Bool) (col : BitVec 6) (nreg : BitVec 7) (w : Bool) (s : State) :
    Host.Outcome State Fault Refusal :=
  matrixOp (.accwr p d a fs col nreg w) fs w s

/-- The operand checks of ACCST against the shape of its tile (R238). -/
def State.accstBad (s : State) (fmt : BitVec 8) (col row : BitVec 6) (mode : BitVec 3) (scw : Bool) (sat : Bool)
    (e : Option (RangeEntry × Nat)) : Bool :=
  match fmtOf fmt with
  | none => true
  | some f =>
    (cvtMode s.t.cvmr f mode sat).isNone || (scw && (!f.isFamily || mode != 0)) ||
      match e with
      | some x =>
        decide (s.g.width < row.toNat + 2 ^ x.1.lrows) || decide (64 < col.toNat + 2 ^ x.1.lcols) ||
          decide (x.1.ew < f.width)
      | none => false

/-- ACCST (R238): the tile is checked at issue; the conversion and the write come when it is performed. -/
def execAccst (p : Pre) (d a : BitVec 7) (fmt : BitVec 8) (fs : Bool) (col : BitVec 6) (mode : BitVec 3)
    (sat scw : Bool) (row : BitVec 6) (ord : BitVec 2) (scp : BitVec 3) (s : State) :
    Host.Outcome State Fault Refusal :=
  issue (.accst p d a fmt fs col mode sat scw row ord scp) s fun s =>
    s.matrixIssue false fun s =>
      match s.scopeOf scp with
      | .error tr => .error tr
      | .ok scope =>
        let va := (s.readPair a.toNat).toNat
        let l := s.lookAt va
        let x := s.tileAt a
        let low := lowLane s.t.active
        let bad := if x.isNone && mapped l then [(⟨low, .misaligned, va⟩ : Bad)] else []
        let vas := match x with
          | some y => s.tileSpan y.1 y.2 scw
          | none => if mapped l then [] else [va]
        if s.accstBad fmt col row mode scw sat x then .error (s.trap .illegalOperand)
        else
          s.access ⟨bad, vas.map fun v => ⟨low, 0, v⟩, scw, true, false, true, true, []⟩ fun s _ =>
            match x with
            | none => .error (s.trap .misaligned)
            | some (e, n) =>
              let refs := s.spanRefs e n scw
              s.racedOne (refs.map fun r => (low, r.addr, e.rd)) true fun s1 =>
                let s2 := { s1.shadowMine (refs.map fun r => (r.addr, e.rd)) 7 with t := s1.t.writesBytes refs }
                let i := Instr.accst p d a fmt fs col mode sat scw row ord scp
                .ok ((s2.enqueueMop i fs ⟨none, s2.relOf ord scope, BitVec.ofNat 64 va, refs⟩).afterRelease ord, .seq)

/-! ## Outer comparison -/

/-- OCMP (R239). -/
def execOcmp (p : Pre) (d a b : BitVec 7) (bk fs : Bool) (cc : Cc) (tie tot : Bool) (fmt : BitVec 8) (seg : BitVec 5)
    (w : Bool) (s : State) : Host.Outcome State Fault Refusal :=
  issue (.ocmp p d a b bk fs cc tie tot fmt seg w) s fun s =>
    s.matrixIssue w fun s =>
      let int := decide (fmt = 0x08#8 ∨ fmt = 0x0C#8)
      if (decide (fmt ≠ 0) && !int) || (int && (tot || decide (cc = .un))) then .error (s.trap .illegalOperand)
      else .ok (s.enqueueMop (.ocmp p d a b bk fs cc tie tot fmt seg w) fs noMem, .seq)

/-! ## Bit tiles -/

/-- BTCNT (R243). -/
def execBtcnt (p : Pre) (d a : BitVec 7) (fs w : Bool) (s : State) : Host.Outcome State Fault Refusal :=
  matrixOp (.btcnt p d a fs w) fs w s

/-- BTCOLC (R243). -/
def execBtcolc (p : Pre) (d a : BitVec 7) (fs w : Bool) (s : State) : Host.Outcome State Fault Refusal :=
  matrixOp (.btcolc p d a fs w) fs w s

/-- BTAND (R244). -/
def execBtand (p : Pre) (d a b : BitVec 7) (fs : Bool) (s : State) : Host.Outcome State Fault Refusal :=
  matrixOp (.btand p d a b fs) fs false s

/-- BTOR (R244). -/
def execBtor (p : Pre) (d a b : BitVec 7) (fs : Bool) (s : State) : Host.Outcome State Fault Refusal :=
  matrixOp (.btor p d a b fs) fs false s

/-- BTXOR (R244). -/
def execBtxor (p : Pre) (d a b : BitVec 7) (fs : Bool) (s : State) : Host.Outcome State Fault Refusal :=
  matrixOp (.btxor p d a b fs) fs false s

/-- BTNOT (R244). -/
def execBtnot (p : Pre) (d a : BitVec 7) (fs : Bool) (s : State) : Host.Outcome State Fault Refusal :=
  matrixOp (.btnot p d a fs) fs false s

/-- BTT (R244). -/
def execBtt (p : Pre) (d a : BitVec 7) (fs : Bool) (s : State) : Host.Outcome State Fault Refusal :=
  matrixOp (.btt p d a fs) fs false s

/-- BTCOMP (R244). -/
def execBtcomp (p : Pre) (d a b : BitVec 7) (fs : Bool) (s : State) : Host.Outcome State Fault Refusal :=
  matrixOp (.btcomp p d a b fs) fs false s

/-- BTCLOS (R245). -/
def execBtclos (p : Pre) (d a x : BitVec 7) (fs : Bool) (s : State) : Host.Outcome State Fault Refusal :=
  matrixOp (.btclos p d a x fs) fs false s

/-- BTEYE (R244). -/
def execBteye (p : Pre) (d : BitVec 7) (fs : Bool) (s : State) : Host.Outcome State Fault Refusal :=
  matrixOp (.bteye p d fs) fs false s

/-- BTFIRST (R243). -/
def execBtfirst (p : Pre) (d a : BitVec 7) (fs w : Bool) (s : State) : Host.Outcome State Fault Refusal :=
  matrixOp (.btfirst p d a fs w) fs w s

/-- BTROW.rd (R243). -/
def execBtrowRd (p : Pre) (d a : BitVec 7) (fs w : Bool) (s : State) : Host.Outcome State Fault Refusal :=
  matrixOp (.btrowRd p d a fs w) fs w s

/-- BTROW.wr (R243). -/
def execBtrowWr (p : Pre) (d a : BitVec 7) (fs w : Bool) (s : State) : Host.Outcome State Fault Refusal :=
  matrixOp (.btrowWr p d a fs w) fs w s

/-- A tile image that BTLD or BTST moves: its address checks and the bytes it reaches, with their race attributes
(R246). -/
def State.image (s : State) (a : BitVec 7) (sp write : Bool)
    (k : State → Addr → List ByteRef → List (Nat × Nat × Nat) → Except Trap (State × Next)) :
    Except Trap (State × Next) :=
  let low := lowLane s.t.active
  if sp then
    let off := s.spadBase a
    s.accessSpad (s.spadRangeBad off 512 64) write ((List.range 512).map fun i => (low, off + i)) true fun s =>
      k s (BitVec.ofNat 64 off) (spadRefs off 512) []
  else
    let va := (s.readPair a.toNat).toNat
    let pre := laneBad low va 64 true
    s.access ⟨pre, if pre = [] then laneBytes low va 512 else [], !write, write, write, true, true, []⟩ fun s hits =>
      k s (BitVec.ofNat 64 va) (hits.map fun (h : Hit) => h.ref) (raceBytes hits)

/-- A strand that reads an image it has written since its mark is no longer clean (R247). -/
def Strand.readsOwn (t : Strand) (refs : List ByteRef) : Strand :=
  if t.clean && (refs.any fun r => t.wroteBytes.any fun q => q.spad == r.spad && q.addr == r.addr) then
    { t with clean := false }
  else t

/-- BTLD (R246). -/
def execBtld (p : Pre) (d a : BitVec 7) (fs sp : Bool) (ord : BitVec 2) (scp : BitVec 3) (s : State) :
    Host.Outcome State Fault Refusal :=
  issue (.btld p d a fs sp ord scp) s fun s =>
    s.matrixIssue false fun s =>
      match s.scopeOf scp with
      | .error tr => .error tr
      | .ok scope =>
        s.image a sp false fun s addr refs rb =>
          s.racedOne rb false fun s1 =>
            let s2 := { s1 with t := (s1.t.readsOwn refs).readsBytes refs }
            let acq := acqOf ord (if sp then spadScope scope else scope)
            .ok (s2.enqueueMop (.btld p d a fs sp ord scp) fs ⟨acq, [], addr, refs⟩, .seq)

/-- BTST (R246). -/
def execBtst (p : Pre) (d a : BitVec 7) (fs sp : Bool) (ord : BitVec 2) (scp : BitVec 3) (s : State) :
    Host.Outcome State Fault Refusal :=
  issue (.btst p d a fs sp ord scp) s fun s =>
    s.matrixIssue false fun s =>
      match s.scopeOf scp with
      | .error tr => .error tr
      | .ok scope =>
        s.image a sp true fun s addr refs rb =>
          s.racedOne rb true fun s1 =>
            let s2 := { s1.shadowMine (rb.map fun b => (b.2.1, b.2.2)) 7 with t := s1.t.writesBytes refs }
            let rel := s2.relOf ord (if sp then spadScope scope else scope)
            .ok ((s2.enqueueMop (.btst p d a fs sp ord scp) fs ⟨none, rel, addr, refs⟩).afterRelease ord, .seq)

end Sys2Proof.Machine
end

