-- ==== Sys2Proof/Machine/Strands.lean ====
section
/-! DEFINITION. Strand queries, votes, shuffles, mode registers, extended register blocks, fork and join, majors
0x18-0x1E (R148-R159), and the slice blocks of a core (R27, R154, R162). -/

namespace Sys2Proof.Machine

/-! ## Queries and votes -/

/-- SWIDTH (R148). -/
def execSwidth (p : Pre) (d : BitVec 7) (s : State) : Host.Outcome State Fault Refusal :=
  issueSeq (.swidth p d) s fun s => s.writeS p d (BitVec.ofNat 32 (popMask s.t.active))

/-- SWIDTH.gang (R148). -/
def execSwidthGang (p : Pre) (d : BitVec 7) (s : State) : Host.Outcome State Fault Refusal :=
  issueSeq (.swidthGang p d) s fun s => s.writeS p d (BitVec.ofNat 32 s.g.width)

/-- SMASKQ.act (R148). -/
def execSmaskqAct (p : Pre) (d : BitVec 7) (s : State) : Host.Outcome State Fault Refusal :=
  issueSeq (.smaskqAct p d) s fun s => s.writePair d s.t.active

/-- SMASKQ.live (R148). -/
def execSmaskqLive (p : Pre) (d : BitVec 7) (s : State) : Host.Outcome State Fault Refusal :=
  issueSeq (.smaskqLive p d) s fun s => s.writePair d s.g.live

/-- The gang status word (R148). -/
def State.gangWord (s : State) : Word :=
  BitVec.ofNat 32 (s.g.width + 2 ^ 8 * (s.g.strands.length + 1) + 2 ^ 16 * s.t.joins.length + 2 ^ 21 * s.g.firstPipe)

/-- SGANGQ (R148). -/
def execSgangq (p : Pre) (d : BitVec 7) (s : State) : Host.Outcome State Fault Refusal :=
  issueSeq (.sgangq p d) s fun s => s.writeS p d s.gangWord

/-- A vote: its `.whole` form raises illegal-state on a split gang (R40, R149). -/
def vote (i : Instr) (w : Bool) (f : State → State) (s : State) : Host.Outcome State Fault Refusal :=
  issue i s fun s =>
    match s.wholeTrap w with
    | some tr => .error tr
    | none => .ok (f s, .seq)

/-- VOTE.ANY (R149). -/
def execVoteAny (p : Pre) (w : Bool) (q : BitVec 2) (a : BitVec 7) (s : State) : Host.Outcome State Fault Refusal :=
  vote (.voteAny p w q a) w (fun s => s.writeQ q (s.ballot a != 0)) s

/-- VOTE.ALL (R149). -/
def execVoteAll (p : Pre) (w : Bool) (q : BitVec 2) (a : BitVec 7) (s : State) : Host.Outcome State Fault Refusal :=
  vote (.voteAll p w q a) w (fun s => s.writeQ q (s.ballot a == s.t.active)) s

/-- VOTE.EQ (R149). -/
def execVoteEq (p : Pre) (w : Bool) (q : BitVec 2) (a : BitVec 7) (s : State) : Host.Outcome State Fault Refusal :=
  vote (.voteEq p w q a) w (fun s => s.writeQ q (s.voteEqual a)) s

/-- VOTE.BAL (R149). -/
def execVoteBal (p : Pre) (w : Bool) (d a : BitVec 7) (s : State) : Host.Outcome State Fault Refusal :=
  vote (.voteBal p w d a) w (fun s => s.writePair d (s.ballot a)) s

/-! ## Shuffles -/

/-- The source lane of a shuffle; a lane outside the strand delivers the fill (R39, R151). -/
def shflSource (kind : ShflKind) (L x : Nat) : Int :=
  match kind with
  | .idx => x
  | .up => (L : Int) - x
  | .dn => (L : Int) + x
  | .xor => ((L ^^^ x : Nat) : Int)

/-- SHFL (R150, R151). -/
def execShfl (p : Pre) (d a b : BitVec 7) (bk : Bool) (kind : ShflKind) (w fk : Bool) (fr : BitVec 7) (imm : Bool)
    (c : BitVec 6) (s : State) : Host.Outcome State Fault Refusal :=
  issue (.shfl p d a b bk kind w fk fr imm c) s fun s =>
    match s.wholeTrap w with
    | some tr => .error tr
    | none =>
      .ok (s.mapV p d fun L =>
        let x := if imm then c.toNat else (s.vOperand b bk L).toNat
        let src := shflSource kind L x
        if 0 ≤ src ∧ src < 64 ∧ s.t.active.getLsbD src.toNat then s.readV a.toNat src.toNat
        else if fk then s.readV fr.toNat L
        else 0, .seq)

/-! ## Mode registers -/

/-- FMTR takes a format code; a reserved one raises illegal-operand (R152). -/
def State.takeFmt (s : State) (code : BitVec 8) : Except Trap (State × Next) :=
  match fmtOf code with
  | none => .error (s.trap .illegalOperand)
  | some _ => .ok ({ s with t := { s.t with fmtr := code.zeroExtend 32 } }, .seq)

/-- SETFMT from an S register (R152). -/
def execSetfmt (p : Pre) (a : BitVec 7) (s : State) : Host.Outcome State Fault Refusal :=
  issue (.setfmt p a) s fun s => s.takeFmt ((s.readS a.toNat).extractLsb' 0 8)

/-- SETFMT of an immediate code (R152). -/
def execSetfmtImm (p : Pre) (code : BitVec 8) (s : State) : Host.Outcome State Fault Refusal :=
  issue (.setfmtImm p code) s fun s => s.takeFmt code

/-- GETFMT (R152). -/
def execGetfmt (p : Pre) (d : BitVec 7) (s : State) : Host.Outcome State Fault Refusal :=
  issueSeq (.getfmt p d) s fun s => s.writeS p d s.t.fmtr

/-- The writable bits of CVMR (R86). -/
def cvmrMask : Word := 0x273F3F3F#32

/-- SETCVM: 5-7 in a rounding field raise illegal-operand (R86, R152). -/
def execSetcvm (p : Pre) (a : BitVec 7) (s : State) : Host.Outcome State Fault Refusal :=
  issue (.setcvm p a) s fun s =>
    let v := s.readS a.toNat
    if [0, 8, 16, 24].any fun k => decide (5 ≤ (v.extractLsb' k 3).toNat) then .error (s.trap .illegalOperand)
    else .ok ({ s with t := { s.t with cvmr := v &&& cvmrMask } }, .seq)

/-- GETCVM (R152). -/
def execGetcvm (p : Pre) (d : BitVec 7) (s : State) : Host.Outcome State Fault Refusal :=
  issueSeq (.getcvm p d) s fun s => s.writeS p d s.t.cvmr

/-- Seeds the active lanes (R83, R152). -/
def State.seed (s : State) (f : Nat → Word) : State :=
  { s with g := (lanesOf s.t.active).foldl (fun g l => g.writeSr l (seedLane (f l) l)) s.g }

/-- SEEDSR (R152). -/
def execSeedsr (p : Pre) (a : BitVec 7) (s : State) : Host.Outcome State Fault Refusal :=
  issueSeq (.seedsr p a) s fun s => s.seed fun _ => s.readS a.toNat

/-- SEEDSR.v (R152). -/
def execSeedsrV (p : Pre) (a : BitVec 7) (s : State) : Host.Outcome State Fault Refusal :=
  issueSeq (.seedsrV p a) s fun s => s.seed fun l => s.readV a.toNat l

/-! ## Extended register blocks -/

/-- The gang without a block, its contents lost (R156). -/
def Gang.surrender (g : Gang) (what : Nat) : Gang :=
  if what = 0 then { g with heldV := false, vregs := smDrop g.vregs 4096 8192 }
  else if what = 5 then { g with heldBt := false, bt := [] }
  else
    { g with
      heldAcc := g.heldAcc &&& ~~~(1#4 <<< (what - 1))
      acc := smDrop g.acc (accKey (what - 1) 0 0) (accKey what 0 0) }

/-- XACQ of a block (R154). -/
def State.xacq (s : State) (what : Nat) : Except Trap (State × Next) :=
  if s.g.holdsBlock what || (s.g.xreqs.any fun x => x.what == what) || decide (s.g.xmax ≤ s.g.nheld + s.g.xreqs.length) then
    .error (s.trap .illegalState)
  else if s.blockFits s.whole then .ok ({ s with g := s.g.grant what }, .seq)
  else
    .ok ({ s with
      nextId := s.nextId + 1
      g := { s.g with xreqs := s.g.xreqs ++ [⟨what, s.t.idx, s.nextId⟩] }
      t := { s.t with wait := .xacq } }, .stay)

/-- XREL of a block: it waits for the operations that use the block, and what it frees goes to pending requests (R154,
R156). -/
def State.xrel (s : State) (what : Nat) : Except Trap (State × Next) :=
  if !(s.g.holdsBlock what) then .error (s.trap .illegalState)
  else if s.blockBusy s.g.id what then .ok (s, .held (.block what))
  else .ok (({ s with g := s.g.surrender what }).examine s.g.core, .seq)

/-- XACQ.v (R154). -/
def execXacqV (p : Pre) (s : State) : Host.Outcome State Fault Refusal := issue (.xacqV p) s fun s => s.xacq 0

/-- XACQ.acc (R154). -/
def execXacqAcc (p : Pre) (n : BitVec 2) (s : State) : Host.Outcome State Fault Refusal :=
  issue (.xacqAcc p n) s fun s => s.xacq (n.toNat + 1)

/-- XACQ.bt (R154). -/
def execXacqBt (p : Pre) (s : State) : Host.Outcome State Fault Refusal := issue (.xacqBt p) s fun s => s.xacq 5

/-- XREL.v (R156). -/
def execXrelV (p : Pre) (s : State) : Host.Outcome State Fault Refusal := issue (.xrelV p) s fun s => s.xrel 0

/-- XREL.acc (R156). -/
def execXrelAcc (p : Pre) (n : BitVec 2) (s : State) : Host.Outcome State Fault Refusal :=
  issue (.xrelAcc p n) s fun s => s.xrel (n.toNat + 1)

/-- XREL.bt (R156). -/
def execXrelBt (p : Pre) (s : State) : Host.Outcome State Fault Refusal := issue (.xrelBt p) s fun s => s.xrel 5

/-- The status word of XQRY (R157). -/
def State.xWord (s : State) : Word :=
  let n := fun (b : Bool) (k : Nat) => if b then 2 ^ k else 0
  BitVec.ofNat 32 (n s.g.heldV 0 + 2 * s.g.heldAcc.toNat + n s.g.heldBt 5 + n (s.g.xreqs != []) 6 + 2 ^ 8 * s.g.nheld +
    2 ^ 12 * s.g.xmax + n s.g.xres 15 + 2 ^ 16 * s.leastFree s.g)

/-- XQRY (R157). -/
def execXqry (p : Pre) (d : BitVec 7) (s : State) : Host.Outcome State Fault Refusal :=
  issueSeq (.xqry p d) s fun s => s.writeS p d s.xWord

/-! ## Fork and join -/

/-- The records in a core's deque (R43). -/
def State.dequeOf (s : State) (core : Nat) : List Task := s.deque.filter fun k => k.core == core

/-- Whether a launch is cancelled (R17, R18). -/
def State.launchCancelled (s : State) (id : Nat) : Bool :=
  match s.level id with
  | some l => l.cancelled
  | none => false

/-- The record that FORK pushes (R43, R158). -/
def State.taskRecord (s : State) (a : BitVec 7) (loc : Bool) (entry : Addr) : Task :=
  { core := s.g.core, isLocal := loc, entry := entry, args := (List.range 6).map fun i => s.readS (a.toNat + i),
    launch := s.g.launch, block := s.g.block,
    blockIndex := match s.blockOf s.g.block with | some b => b.index | none => 0
    width := s.g.width, vd := s.g.vd, interval := s.g.interval }

/-- The place of a FORK among what reaches its deque in one cycle: after takes and steals, by admission, then by lowest lane
(R49). -/
def State.forkKey (s : State) : List Nat := [2, s.g.id, lowLane s.t.active]

/-- The part of a cycle's record about the deque of a core. -/
def dequeMark (core : Nat) (m : CycleMark) : Option (List Nat) :=
  match m with
  | .deque c key => if c = core then some key else none
  | _ => none

/-- FORK (R158): a release at die scope; a full deque sets Q, a cancelled launch pushes nothing. -/
def execFork (p : Pre) (q : BitVec 2) (a e : BitVec 7) (loc ek : Bool) (off : BitVec 18) (s : State) :
    Host.Outcome State Fault Refusal :=
  issue (.fork p q a e loc ek off) s fun s =>
    let entry := if ek then s.readPair e.toNat else s.branchTarget off
    if entry.extractLsb' 0 2 ≠ 0 then .error { s.trap .misaligned with addr := entry }
    else
      s.settled fun s =>
        if s.launchCancelled s.g.launch then .ok ((s.writeQ q false).released, .seq)
        else if 256 ≤ (s.dequeOf s.g.core).length then
          .ok (((s.writeQ q true).released).marked (.deque s.g.core s.forkKey), .seq)
        else
          let k := s.taskRecord a loc entry
          .ok (((({ s with deque := k :: s.deque }.writeQ q false).released).childOpen s.g.launch).marked
            (.deque s.g.core s.forkKey), .seq)

/-- The counter of JOIN is zero: an acquire, and the strand goes on; else it sleeps until the location is written or
1,024 cycles pass (R159). -/
def State.joinValue (s : State) (scope : Nat) (refs : List ByteRef) (v : Nat) : Except Trap (State × Next) :=
  if v = 0 then
    .ok (s.acquired
      (carriedBy scope s.g.id s.g.block (dieOf s.g.core) (carriesOfKind false (s.carriesAt s.g.block refs))), .seq)
  else
    .ok ({ s with t := { s.t with wait := .join (refs.map fun r => (r, s.byteOf s.g.block r)) s.cycle } }, .stay)

/-- A 32-bit acquire load of the counter: a tiled one applies the map; a poisoned one reads 0 and owes
memory-poison, as a load does (R159, R166). -/
def State.joinLoad (s : State) (scope : Nat) (hits : List Hit) : Except Trap (State × Next) :=
  s.racedOne (raceBytes hits) false fun s =>
    s.settled fun s0 =>
      let s1 := s0.readErrors ((hits.flatMap (Hit.poisonRefs false)).map fun x => x.2)
      let refs := hits.map fun (h : Hit) => h.ref
      let vs := s1.tileViews false (tilesOf hits)
      match s1.tileTrap hits (badViews vs) with
      | some tr => .error { tr with mask := s1.t.active }
      | none =>
        match s1.poisonOf false hits with
        | none => s1.joinValue scope refs (leNat (hits.map (s1.hitByte vs)))
        | some a =>
          let owed : Pending := ⟨.memoryPoison, s1.t.active, BitVec.ofNat 64 a.1, s1.t.pc.extractLsb' 0 32⟩
          ({ s1.noteError (a.2 / 32 * 32) 3 with t := { s1.t with pending := s1.t.pending ++ [owed] } }).joinValue scope
            refs 0

/-- JOIN (R46, R159). -/
def execJoin (p : Pre) (scp : BitVec 3) (a : BitVec 7) (s : State) : Host.Outcome State Fault Refusal :=
  issue (.join p scp a) s fun s =>
    match s.scopeOf scp with
    | .error tr => .error tr
    | .ok scope =>
      let va := (s.readPair a.toNat).toNat
      let low := lowLane s.t.active
      let pre := laneBad low va 4 true
      s.access ⟨pre, if pre = [] then laneBytes low va 4 else [], true, false, false, true, false, []⟩ fun s hits =>
        s.joinLoad scope hits

/-- JOIN.sp (R46, R159). -/
def execJoinSp (p : Pre) (scp : BitVec 3) (a : BitVec 7) (s : State) : Host.Outcome State Fault Refusal :=
  issue (.joinSp p scp a) s fun s =>
    match s.scopeOf scp with
    | .error tr => .error tr
    | .ok scope =>
      let off := s.spadBase a
      let low := lowLane s.t.active
      s.accessSpad (s.spadBad low off 4) false [] true fun s =>
        s.settled fun s => s.joinValue (spadScope scope) (spadRefs off 4) (leNat (s.spadRead off 4))

/-- DEQD (R159). -/
def execDeqd (p : Pre) (d : BitVec 7) (s : State) : Host.Outcome State Fault Refusal :=
  issueSeq (.deqd p d) s fun s => s.writeS p d (BitVec.ofNat 32 (s.dequeOf s.g.core).length)

end Sys2Proof.Machine
end

