-- ==== Sys2Proof/Machine/MatrixRun.lean ====
section
/-! DEFINITION. What the operations of the matrix queue do when they are performed (R230, R234-R246), and their events
(R229). -/

namespace Sys2Proof.Machine

/-! ## Reading what an operation took with it -/

/-- A V source of an operation, as read at issue. -/
def MOp.readV (m : MOp) (r l : Nat) : Word := smGet 0 m.vsrc (64 * r + l)

/-- An element of an accumulator tile (R231). -/
def Gang.readAcc (g : Gang) (n row col : Nat) : Word := smGet 0 g.acc (accKey n row col)

/-- Writes elements of accumulator tiles, (key, value). -/
def Gang.putAcc (g : Gang) (vs : List (Nat × Word)) : Gang := { g with acc := smSetAll 0 g.acc vs }

/-- A row of a bit tile (R241). -/
def Gang.btRow (g : Gang) (n row : Nat) : Mask := smGet 0 g.bt (64 * n + row)

/-- The rows of a bit tile. -/
def Gang.btRows (g : Gang) (n : Nat) : List Mask := (List.range 64).map fun i => g.btRow n i

/-- Writes rows of a bit tile, (row, value). -/
def Gang.putBt (g : Gang) (n : Nat) (rows : List (Nat × Mask)) : Gang :=
  { g with bt := smSetAll 0 g.bt (rows.map fun r => (64 * n + r.1, r.2)) }

/-- Writes a whole bit tile. -/
def Gang.putTile (g : Gang) (n : Nat) (rows : List Mask) : Gang := g.putBt n ((List.range 64).zip rows)

/-- Changes the slot that a handle of a gang names. -/
def State.modSlot (s : State) (g : Gang) (k : Nat) (f : Slot → Slot) : State :=
  match s.slotAt g k with
  | some x => s.putSlot (f x)
  | none => s

/-! ## OFILL -/

/-- The word bytes of a slot array that a fill writes, row by row (R234). -/
def fillBytes (m : MOp) (a row woff nreg rowBytes : Nat) : List (Nat × Byte) :=
  (lanesOf m.mask).flatMap fun l =>
    (List.range nreg).flatMap fun j =>
      let at_ := rowBytes * ((row + l) % 64) + 4 * (woff + j)
      (List.range 4).map fun b => (at_ + b, (m.readV (a + j) l).extractLsb' (8 * b) 8)

/-- OFILL (R234). Of what an OLOAD is about to leave in the slot, each byte that the fill writes too takes one of the two
values (R233). -/
def Slot.fill (x : Slot) (m : MOp) (a : Nat) (fmt : BitVec 8) (row woff nreg : Nat) (sc : Bool) (free : Nat) : Slot :=
  let bs := fillBytes m a row woff nreg (if sc then 8 else 128)
  let late := bs.filter fun b => Config.freeBool (free + 1 + b.1)
  let tagLate := Config.freeBool free
  let y :=
    if sc then { x with scales := smSetAll 127 x.scales bs, sval := true }
    else { x with data := smSetAll 0 x.data bs, ftag := fmt }
  { y with
    incoming := x.incoming.map fun im =>
      if sc then { im with scales := smSetAll 127 im.scales late, sval := im.sval || tagLate }
      else { im with data := smSetAll 0 im.data late, ftag := if tagLate then fmt else im.ftag } }

/-! ## Slots under an OLOAD (R233) -/

/-- A byte of a slot whose elements of `w` bits each read as before an OLOAD or as it leaves them. -/
def mixByte (free w i : Nat) (old new : Byte) : Byte :=
  if w = 4 then
    (if Config.freeBool (free + 2 * i) then new &&& 0x0F#8 else old &&& 0x0F#8) |||
      if Config.freeBool (free + 2 * i + 1) then new &&& 0xF0#8 else old &&& 0xF0#8
  else if Config.freeBool (free + 8 * i / w) then new
  else old

/-- Bytes by place, each one of two values. -/
def mixMap (dflt : Byte) (f : Nat → Byte → Byte → Byte) (old new : SMap Byte) : SMap Byte :=
  smSetAll dflt [] (((old ++ new).map fun x => x.1).map fun i => (i, f i (smGet dflt old i) (smGet dflt new i)))

/-- A slot as a matrix operation reads it while an OLOAD writes it: each element and scale byte, and FTAG, as before or as the
OLOAD leaves it (R233; log entry 3). -/
def Slot.mixed (k : Slot) (im : SlotImage) (free : Nat) : Slot :=
  let tag := if Config.freeBool free then im.ftag else k.ftag
  let w := (fmtWidth tag).getD 8
  { k with
    data := mixMap 0 (mixByte (free + 1024) w) k.data im.data
    scales := mixMap 127 (fun i old new => if Config.freeBool (free + 1 + i) then new else old) k.scales im.scales
    ftag := tag }

/-- The slot of a handle as a matrix operation reads it (R233). -/
def State.slotRead (s : State) (g : Gang) (k : Nat) : State × Option Slot :=
  match s.slotAt g k with
  | none => (s, none)
  | some x =>
    match x.incoming with
    | none => (s, some x)
    | some im => ({ s with freeCount := s.freeCount + 32768 }, some (x.mixed im s.freeCount))

/-! ## MMA -/

/-- The elements of a slot row, with their block scales when `scaled` (R236). -/
def Slot.row (x : Slot) (f : Fmt) (scaled : Bool) (r : Nat) : List FVal :=
  let els := (unpackElems f.width (smRead 0 x.data (128 * r) 128)).map (fmtValue f)
  if scaled then
    let sc := smRead 127 x.scales (8 * r) 8
    (List.range els.length).map fun k => scaleBy (els.getD k .zero) (sc.getD (k / 32) 0).toNat
  else els

/-- MMA and MMAS: the elements of the active lanes' accumulator rows (R236). -/
def mmaRows (g : Gang) (m : MOp) (d : Nat) (x y : Slot) (fx fy : Fmt) (pi arow : Nat) (scaled : Bool) :
    List (Nat × Word) :=
  let cols := (List.range 64).map fun j => y.row fy scaled j
  (lanesOf m.mask).flatMap fun l =>
    let as := x.row fx scaled ((arow + l) % 64)
    (List.range 64).map fun j =>
      (accKey d l j, mmaElement (g.readAcc d l j) as (cols.getD j []) (32 / fx.width) pi)

/-- The elements of the active lanes' accumulator rows as free values. -/
def freeRows (m : MOp) (d free : Nat) : List (Nat × Word) :=
  (lanesOf m.mask).flatMap fun l =>
    (List.range 64).map fun j => (accKey d l j, BitVec.ofNat 32 (Config.freeNat (free + 64 * l + j)))

/-- MMA and MMAS on the slots of two handles (R236). Where a tag that an OLOAD leaves and one that it finds meet, so that the
two are not of one width, the manual states no result: it is a free value (R233; DESIGN CHOICE, log entry 104). -/
def State.runMma (s : State) (g : Gang) (m : MOp) (d a b pi arow : Nat) (scaled : Bool) : State :=
  let p := s.slotRead g a
  let q := p.1.slotRead g b
  match p.2, q.2 with
  | some x, some y =>
    match mmaWidth x.ftag, mmaWidth y.ftag, fmtOf x.ftag, fmtOf y.ftag with
    | some v, some w, some fx, some fy =>
      if v = w then q.1.modGang g.id fun g => g.putAcc (mmaRows g m d x y fx fy pi arow scaled)
      else { q.1 with freeCount := q.1.freeCount + 4096 }.modGang g.id fun g => g.putAcc (freeRows m d q.1.freeCount)
    | _, _, _, _ => { q.1 with freeCount := q.1.freeCount + 4096 }.modGang g.id fun g => g.putAcc (freeRows m d q.1.freeCount)
  | _, _ => s

/-! ## Accumulator moves -/

/-- ACCZ: the active lanes' rows become +0 (R237). -/
def Gang.zeroRows (g : Gang) (d : Nat) (ls : List Nat) : Gang :=
  { g with acc := ls.foldl (fun acc l => smDrop acc (accKey d l 0) (accKey d l 0 + 64)) g.acc }

/-- The registers that ACCRD writes (R237). -/
def accRead (g : Gang) (m : MOp) (d a col nreg : Nat) : List (Nat × Nat × Word) :=
  (List.range nreg).flatMap fun j => (lanesOf m.mask).map fun l => (d + j, l, g.readAcc a l (col + j))

/-- The elements that ACCWR writes (R237). -/
def accWrite (m : MOp) (d a col nreg : Nat) : List (Nat × Word) :=
  (lanesOf m.mask).flatMap fun l => (List.range nreg).map fun j => (accKey d l (col + j), m.readV (a + j) l)

/-- A trap owed at its next boundary to the strand that issued an operation (R238, R246). -/
def State.oweAt (s : State) (m : MOp) (c : Cause) (mask : Mask) (addr : Nat) : State :=
  s.modIssuer m.gang m.strand m.id fun t =>
    { t with pending := t.pending ++ [⟨c, mask, BitVec.ofNat 64 addr, m.word.extractLsb' 0 32⟩] }

/-- Converts the rows of a block of accumulator values, each under its lane's state: bits and events row by row, and
the states (R83, R238). -/
def accRows (c : CvtMode) (f : Fmt) (g : Gang) (row : Nat) (rows : List (List FVal)) :
    List (List (Nat × Nat)) × List (Nat × Word) :=
  let out := (List.range rows.length).map fun i => (row + i, c.runs f (rows.getD i []) (g.readSr (row + i)))
  (out.map fun x => x.2.1, out.map fun x => (x.1, x.2.2))

/-- ACCST (R238). -/
def State.runAccst (s : State) (g : Gang) (m : MOp) (d : Nat) (fmt : BitVec 8) (col : Nat) (mode : BitVec 3)
    (sat scw : Bool) (row : Nat) : State :=
  let va := m.ssrc.toNat
  match tileOf (s.look (s.vdev m.vd) va) va, fmtOf fmt, (fmtOf fmt).bind fun f => cvtMode m.cvmr f mode sat with
  | some (e, t), some f, some c =>
    let vals := (List.range (2 ^ e.lrows)).map fun i =>
      (List.range (2 ^ e.lcols)).map fun j => val32 (g.readAcc d (row + i) (col + j))
    let wrote := fun (s : State) (payload : List Byte) (sc : Option (List Byte)) =>
      let s1 := s.wholeTile e t fmt payload sc
      s1.setCarries m.block (s1.tileRefs e t) m.rel false
    if scw then
      if headerBad e (s.tileHeader e t) then s.oweAt m .headerFormat m.mask (e.tileAddr t)
      else
        let out := encodeRows f true vals
        wrote s (packElems f.width out.1) (some (out.2.map fun x => BitVec.ofNat 8 x))
    else
      let r := accRows c f g row vals
      let hit := (List.range r.1.length).filter fun i => (r.1.getD i []).any fun x => x.2 != 0
      if c.trp && hit != [] then s.oweAt m .conversionError (maskOf (hit.map fun i => row + i)) 0
      else
        let s1 := s.modGang m.gang fun g => r.2.foldl (fun g x => g.writeSr x.1 x.2) g
        wrote s1 (packElems f.width (r.1.flatten.map fun x => x.1)) none
  | _, _, _ => s

/-! ## OCMP -/

/-- The order of two words in a format, `none` when a NaN is met without TOT (R240). -/
def ocmpOrder (fmt : BitVec 8) (tot : Bool) (x y : Word) : Option Ordering :=
  if fmt = 0x08#8 then some (compare x.toInt y.toInt)
  else if fmt = 0x0C#8 then some (compare x.toNat y.toNat)
  else if tot then some (fcmpTotal x y)
  else (val32 x).cmp (val32 y)

/-- `ocmp_bit` (R240). -/
def ocmpBit (cc : Cc) (tie tot : Bool) (fmt : BitVec 8) (x y : Word) (i j : Nat) : Bool :=
  match cc, ocmpOrder fmt tot x y with
  | .un, o => o.isNone
  | _, none => cc == .ne
  | _, some o =>
    let lt := o == .lt || (tie && o == .eq && decide (i < j))
    let eq := o == .eq && (!tie || i == j)
    let gt := !lt && !eq
    match cc with
    | .eq => eq
    | .ne => !eq
    | .lt => lt
    | .le => lt || eq
    | .gt => gt
    | .ge => gt || eq
    | _ => false

/-- A row of bits. -/
def rowBits (f : Nat → Bool) : Mask := maskOf ((List.range 64).filter f)

/-- The rows that OCMP writes; `y` gives a column's element where there is one (R240). -/
def ocmpRows (m : MOp) (a : Nat) (cc : Cc) (tie tot : Bool) (fmt : BitVec 8) (y : Nat → Option Word) :
    List (Nat × Mask) :=
  (lanesOf m.mask).map fun i =>
    (i, rowBits fun j =>
      match y j with
      | some v => ocmpBit cc tie tot fmt (m.readV a i) v i j
      | none => false)

/-- The column elements of OCMP: a slot's segment, or V[B] in the active lanes (R240). -/
def ocmpColumn (x : Option Slot) (m : MOp) (b : Nat) (bk : Bool) (seg j : Nat) : Option Word :=
  if bk then
    x.map fun k => BitVec.ofNat 32 (leNat (smRead 0 k.data (256 * seg + 4 * j) 4))
  else if m.mask.getLsbD j then some (m.readV b j)
  else none

/-! ## Bit tiles -/

/-- The number of set bits of column `j` among the rows of some lanes (R243). -/
def colCount (rows : List Mask) (ls : List Nat) (j : Nat) : Nat :=
  (ls.filter fun i => (rows.getD i 0).getLsbD j).length

/-- The transposed tile (R244). -/
def btTranspose (rows : List Mask) : List Mask := (List.range 64).map fun i => rowBits fun j => (rows.getD j 0).getLsbD i

/-- The composition of two relations (R244). -/
def btCompose (a b : List Mask) : List Mask :=
  a.map fun r => (lanesOf r).foldl (fun (acc : Mask) k => acc ||| b.getD k 0) 0

/-- The steps of BTCLOS: the closure and how many steps were taken (R245). -/
def btClosure : Nat → List Mask → Nat → List Mask × Nat
  | 0, t, n => (t, n)
  | fuel + 1, t, n =>
    let u := List.zipWith (fun (x y : Mask) => x ||| y) t (btCompose t t)
    if u = t then (t, n) else btClosure fuel u (n + 1)

/-- A value per active lane of an operation, for one V register. -/
def perLane (m : MOp) (d : Nat) (f : Nat → Word) : List (Nat × Nat × Word) := (lanesOf m.mask).map fun l => (d, l, f l)

/-- A whole-tile operation of two tiles (R244). -/
def Gang.btZip (g : Gang) (d a b : Nat) (f : Mask → Mask → Mask) : Gang :=
  g.putTile d (List.zipWith f (g.btRows a) (g.btRows b))

/-- The bytes of an image that a BTLD or BTST reaches in memory, as its address translates. -/
def State.imageHits (s : State) (m : MOp) (write : Bool) : List Hit :=
  (s.reachOf m.vd ⟨!write, write, false⟩ false ((List.range 512).map fun i => ⟨0, i, (m.ssrc.toNat + i) % 2 ^ 64⟩)).hits

/-- The rows of an image. -/
def rowsFrom (bs : List Byte) : List Mask := (List.range 64).map fun i => BitVec.ofNat 64 (leNat ((bs.drop (8 * i)).take 8))

/-- The bytes of an image. -/
def rowBytes (rows : List Mask) : List Byte := rows.flatMap fun r => natBytes 8 r.toNat

/-- Whether row `i` of an operation's image holds a poisoned byte: its place and its canonical address. -/
def State.rowPoison (s : State) (m : MOp) (i : Nat) : Option (Nat × Nat) :=
  (s.poisonedIn ((m.refs.drop (8 * i)).take 8)).map fun x => (8 * i + x.1, x.2)

/-- BTLD: a poisoned row reads as 0 and owes memory-poison (R246). -/
def State.runBtld (s0 : State) (m : MOp) (d : Nat) (sp : Bool) : State :=
  let s := s0.readErrors m.refs
  let hits := if sp then [] else s.imageHits m false
  let bs := if hits.length = 512 then hits.map (s.hitByte (s.tileViews true (tilesOf hits))) else m.refs.map (s.byteOf m.block)
  let bad := (List.range 64).filterMap fun i => s.rowPoison m i
  let rows := (List.range 64).map fun i => if (s.rowPoison m i).isSome then 0 else (rowsFrom bs).getD i 0
  let s1 := (s.modGang m.gang fun g => g.putTile d rows).noteRead m.gang m.strand m.id m.acq false (s.carriesAt m.block m.refs)
  match bad with
  | [] => s1
  | x :: _ =>
    (bad.foldl (fun s b => s.noteError (b.2 / 32 * 32) 3) s1).oweAt m .memoryPoison m.mask (m.ssrc.toNat + x.1)

/-- BTST: rows that fall in a tile whose header fails are not written, and header-format is owed (R246). Which tiles the bytes
fall in is seen as the address translates then; bytes whose translation is gone since the issue are written as they were
reached (DEDUCED, log entry 104). -/
def State.runBtst (s : State) (g : Gang) (m : MOp) (d : Nat) (sp : Bool) : State :=
  let bs := rowBytes (g.btRows d)
  let hits := if sp then [] else s.imageHits m true
  let plain := fun (s : State) => (s.writeRefs m.block (m.refs.zip bs)).setCarries m.block m.refs m.rel false
  if hits.length ≠ 512 ∨ (hits.any Hit.tiled) = false then plain s
  else
    let ts := tilesOf hits
    let bad := ts.filter fun t => headerBad t.1 (s.tileHeader t.1 t.2)
    let good := ts.filter fun t => !(bad.contains t)
    let s1 := good.foldl (fun s t => s.readyTile t.1 t.2) s
    let put := (hits.zip bs).filter fun x =>
      match x.1.tile with
      | some t => !(bad.contains t)
      | none => true
    let s2 := (s1.putHits put).setCarries m.block (put.map fun (x : Hit × Byte) => x.1.ref) m.rel false
    match bad.map fun t => t.1.tileAddr t.2 with
    | [] => s2
    | a :: r => s2.oweAt m .headerFormat m.mask (r.foldl min a)

/-! ## Performing an operation -/

/-- Changes the gang of an operation. -/
def State.onGang (s : State) (m : MOp) (f : Gang → Gang) : State := s.modGang m.gang f

/-- The V registers that an operation writes, of one that writes nothing else: ACCRD, BTCNT, BTCOLC, BTFIRST and BTROW.rd
(R237, R243). -/
def MOp.vResults (m : MOp) (g : Gang) : Option (List (Nat × Nat × Word)) :=
  match m.instr with
  | .accrd _ d a _ col nreg _ => some (accRead g m d.toNat a.toNat col.toNat nreg.toNat)
  | .btcnt _ d a _ _ => some (perLane m d.toNat fun l => BitVec.ofNat 32 (popMask (g.btRow a.toNat l)))
  | .btcolc _ d a _ _ => some (perLane m d.toNat fun l => BitVec.ofNat 32 (colCount (g.btRows a.toNat) (lanesOf m.mask) l))
  | .btfirst _ d a _ _ => some (perLane m d.toNat fun l => BitVec.ofNat 32 (lowLane (g.btRow a.toNat l)))
  | .btrowRd _ d a _ _ =>
    some ((perLane m d.toNat fun l => (g.btRow a.toNat l).extractLsb' 0 32) ++
      perLane m (d.toNat + 1) fun l => (g.btRow a.toNat l).extractLsb' 32 32)
  | _ => none

/-- Performs a matrix operation: its destinations are written (R229, R234-R246). -/
def State.performMop (s : State) (m : MOp) (g : Gang) : State :=
  match m.instr with
  | .ofill _ k a fmt _ row woff nreg sc _ =>
    { s with freeCount := s.freeCount + 8193 }.modSlot g k.toNat fun x =>
      x.fill m a.toNat fmt row.toNat woff.toNat nreg.toNat sc s.freeCount
  | .mma _ d a b _ pi arow _ => s.runMma g m d.toNat a.toNat b.toNat pi.toNat arow.toNat false
  | .mmas _ d a b _ pi arow _ => s.runMma g m d.toNat a.toNat b.toNat pi.toNat arow.toNat true
  | .accz _ d _ _ => s.onGang m fun g => g.zeroRows d.toNat (lanesOf m.mask)
  | .accwr _ d a _ col nreg _ => s.onGang m fun g => g.putAcc (accWrite m d.toNat a.toNat col.toNat nreg.toNat)
  | .accst _ d _ fmt _ col mode sat scw row _ _ => s.runAccst g m d.toNat fmt col.toNat mode sat scw row.toNat
  | .ocmp _ d a b bk _ cc tie tot fmt seg _ =>
    let x := if bk then s.slotRead g b.toNat else (s, none)
    x.1.onGang m fun g =>
      g.putBt d.toNat (ocmpRows m a.toNat cc tie tot fmt (ocmpColumn x.2 m b.toNat bk seg.toNat))
  | .btrowWr _ d a _ _ =>
    s.onGang m fun g =>
      g.putBt d.toNat ((lanesOf m.mask).map fun l => (l, m.readV (a.toNat + 1) l ++ m.readV a.toNat l))
  | .btand _ d a b _ => s.onGang m fun g => g.btZip d.toNat a.toNat b.toNat fun x y => x &&& y
  | .btor _ d a b _ => s.onGang m fun g => g.btZip d.toNat a.toNat b.toNat fun x y => x ||| y
  | .btxor _ d a b _ => s.onGang m fun g => g.btZip d.toNat a.toNat b.toNat fun x y => x ^^^ y
  | .btnot _ d a _ => s.onGang m fun g => g.putTile d.toNat ((g.btRows a.toNat).map fun x => ~~~x)
  | .btt _ d a _ => s.onGang m fun g => g.putTile d.toNat (btTranspose (g.btRows a.toNat))
  | .btcomp _ d a b _ => s.onGang m fun g => g.putTile d.toNat (btCompose (g.btRows a.toNat) (g.btRows b.toNat))
  | .bteye _ d _ => s.onGang m fun g => g.putTile d.toNat ((List.range 64).map laneBit)
  | .btclos _ d a x _ =>
    let r := btClosure 6 (g.btRows a.toNat) 0
    (s.onGang m fun g => g.putTile d.toNat r.1).modIssuer m.gang m.strand m.id fun t =>
      t.setS x.toNat (BitVec.ofNat 32 r.2)
  | .btld _ d _ _ sp _ _ => s.runBtld m d.toNat sp
  | .btst _ d _ _ sp _ _ => s.runBtst g m d.toNat sp
  | _ =>
    match m.vResults g with
    | some vs => s.putLanes m.gang vs
    | none => s

/-- The cycles that an operation occupies the array (R229). -/
def MOp.occupancy (m : MOp) (g : Gang) : Nat :=
  match m.instr with
  | .mma .. => 64
  | .mmas .. => 64
  | .ocmp .. => 16
  | .btcomp .. => 16
  | .btclos _ _ a _ _ => 16 * ((btClosure 6 (g.btRows a.toNat) 0).2 + 1)
  | .ofill _ _ _ _ _ _ _ nreg _ _ => 1 + (nreg.toNat + 7) / 8
  | .accrd _ _ _ _ _ nreg _ => 1 + (nreg.toNat + 7) / 8
  | .accwr _ _ _ _ _ nreg _ => 1 + (nreg.toNat + 7) / 8
  | .btld .. => 8
  | .btst .. => 8
  | .accst .. => 8
  | _ => 2

/-! ## Events -/

/-- The operation that the array of a core would start next: the oldest not started of the device that holds the
array's grant (R229, R309). -/
def State.nextMop (s : State) (core : Nat) : Option MOp :=
  let waiting := s.mops.filter fun m => m.core == core && !m.started
  waiting.find? fun m => s.served .matrix core m.vd

/-- Puts a matrix operation back. -/
def State.putMop (s : State) (m : MOp) : State := { s with mops := replaceFirst (fun x => x.id == m.id) m s.mops }

/-- Whether the array of a core is occupied: an operation that it performs has not finished (R229). -/
def State.arrayBusy (s : State) (core : Nat) : Bool :=
  s.mops.any fun m => m.core == core && m.started && !(memMop m.instr)

/-- MATRIX_OP_START (R229): the array, when it is free, starts the next operation; an exhausted budget 1 defers it
(R351), but not for a block that is pre-empted (R316). -/
def execMatrixOpStart (core : Nat) (s : State) : Host.Outcome State Fault Refusal :=
  event s fun s =>
    match s.nextMop core with
    | none => s
    | some m =>
      if s.arrayBusy core then s
      else if s.heldBack m.vd (dieOf core) 1 && !(s.preempting m.block) then
        if m.deferred then s else (s.count m.vd 13 1).putMop { m with deferred := true }
      else s.putMop { m with started := true }

/-- The accumulator and bit tiles that an operation reads or writes: accumulator tiles 0-3, bit tiles from 8. -/
def mopTiles (i : Instr) : List Nat :=
  ((i.reads ++ i.writes).filterMap fun r =>
    match r with
    | .acc n => some n
    | _ => none) ++ (btReads i ++ btWrites i).map fun n => 8 + n

/-- Whether every earlier operation of its queue has left what an operation reads and writes (R230). -/
def State.queueReady (s : State) (m : MOp) : Bool :=
  (s.matrixQueue m.core m.vd).all fun e =>
    !decide (e.id < m.id) || (e.started && memMop e.instr && (mopTiles e.instr).all fun t => !((mopTiles m.instr).contains t))

/-- Whether an operation that accesses memory may do so: every earlier operation of its strand is performed, but for a
load the relaxed stores to other bytes (R230, R283). -/
def State.orderReady (s : State) (m : MOp) : Bool :=
  !(memMop m.instr) ||
    ((s.ops.all fun o => !(m.before.contains o.id) ||
      match o.kind with
      | .store bs =>
        readMop m.instr && !(isRelease o.rel && m.acq.isSome) &&
          !(bs.any fun b => m.refs.any fun r => r.spad == b.1.spad && r.addr == b.1.addr)
      | _ => false) &&
      s.mops.all fun e => !(m.before.contains e.id && memMop e.instr))

/-- The plan of a slot that no queued operation fills any more is what it holds (R229). -/
def State.replan (s : State) (m : MOp) (g : Gang) : State :=
  match m.instr with
  | .ofill _ k _ _ _ _ _ _ sc _ =>
    if s.mops.any fun e => e.gang == m.gang && fillsHandle e.instr sc k.toNat then s
    else s.modSlot g k.toNat fun x => if sc then { x with planSval := x.sval } else { x with planTag := x.ftag }
  | _ => s

/-- Takes a matrix operation that has been performed from its queue: its cycles count, and the plan of a slot that it filled
follows (R229, R350, R354). -/
def State.closeMop (s : State) (m : MOp) (g : Gang) : State :=
  let n := m.occupancy g
  let s1 := (s.count m.vd 3 n).charge m.vd (dieOf m.core) 1 n
  ({ s1 with mops := s1.mops.filter fun x => x.id != m.id }).replan m g

/-- Ends a matrix operation (R229). -/
def State.endMop (s : State) (m : MOp) (g : Gang) : State := (s.performMop m g).closeMop m g

/-- Whether a matrix operation may be performed now (R229, R230). -/
def State.mopReady (s : State) (m : MOp) : Bool := m.started && s.queueReady m && s.orderReady m

/-- MATRIX_OP_COMPLETE (R229, R230). -/
def execMatrixOpComplete (op : Nat) (s : State) : Host.Outcome State Fault Refusal :=
  event s fun s =>
    match s.mops.find? fun m => m.id == op with
    | none => s
    | some m =>
      if s.mopReady m then
        match s.gangOf m.gang with
        | none => { s with mops := s.mops.filter fun x => x.id != op }
        | some g => (s.endMop m g).reap m.gang
      else s

end Sys2Proof.Machine
end

