-- ==== Sys2Proof/Machine/System.lean ====
section
/-! DEFINITION. Traps raised and returned from, the handler registers, recipes, debug, the mailbox, counters, time and
features, majors 0x68-0x6C (R248-R277). -/

namespace Sys2Proof.Machine

/-! ## TRAP and TRET -/

/-- TRAP: software, with the code in TINFO (R252, R255). -/
def execTrap (p : Pre) (code : BitVec 14) (s : State) : Host.Outcome State Fault Refusal :=
  issue (.trap p code) s fun s => .error { s.trap .software with info := code.zeroExtend 32 }

/-- Whether place `k` of a word list is the extension word of a LONG; `ext` says whether the first word is one. -/
def extensionAt (ext : Bool) : List Word → Nat → Bool
  | [], _ => false
  | _ :: _, 0 => ext
  | w :: r, k + 1 => extensionAt (!ext && isLongMajor (fOP w).toNat) r k

/-- The place in a held clause at which a strand resumes at TEPC, if it resumes inside it (R257). -/
def Strand.resumePlace (t : Strand) : Option (Clause × Nat) :=
  match t.held with
  | none => none
  | some c =>
    let off := (t.tepc - t.tclh).toNat
    if 0 < off ∧ off ≤ 4 * c.cnt ∧ off % 4 = 0 ∧ t.tclh.toNat < t.tepc.toNat then some (c, off / 4 - 1) else none

/-- The strand as TRET leaves it: out of the handler, inside the held clause at TEPC or at TEPC as a clause header
(R257, R300). TRET is its issue in this cycle. -/
def Strand.returned (t : Strand) (cycle : Nat) (ign : Bool) : Strand :=
  let u := { t.ripen.expire with
    wait := .none, prev := some cycle, opens := cycle + 1, entered := false, handler := false, ignNext := ign, owed := none,
    uncheckedNext := t.raceAt = some t.tepc, raceAt := none, held := none, pc := t.tepc }
  match t.resumePlace with
  | some (c, _) => { u with clause := some c }
  | none => { u with clause := none }

/-- Releases the strands that a trap of a strand halted (R268). -/
def Gang.unhalt (g : Gang) (idx : Nat) : Gang :=
  { g with strands := g.strands.map fun t => if t.haltedBy = some idx then { t with haltedBy := none } else t }

/-- TRET in its forms (R257): the lanes of TMASK go with `.kill`; a resumption at the extension word of a LONG raises
illegal-encoding there, of a clause whose words are to be fetched anew once they are (R317). -/
def State.tret (s : State) (kill ign : Bool) : Except Trap (State × Next) :=
  if s.t.handler = false then .error (s.trap .illegalState)
  else
    let m := if kill then s.t.tmask &&& s.t.active else 0
    let place := s.t.resumePlace
    let s1 := { s with t := s.t.returned s.cycle ign, g := s.g.unhalt s.t.idx }
    let s2 := if m = 0 then s1 else (s1.exitLanes m).focus s.g.id s.t.idx
    match place with
    | some (c, k) =>
      if s2.focused && extensionAt false c.words k then .ok (s2.trapHere (s2.trap .illegalEncoding), .done) else .ok (s2, .done)
    | none => .ok (s2, .done)

/-- TRET (R257). -/
def execTret (p : Pre) (s : State) : Host.Outcome State Fault Refusal :=
  issue (.tret p) s fun s => s.tret false false

/-- TRET.kill (R257). -/
def execTretKill (p : Pre) (s : State) : Host.Outcome State Fault Refusal :=
  issue (.tretKill p) s fun s => s.tret true false

/-- TRET.ign (R257). -/
def execTretIgn (p : Pre) (s : State) : Host.Outcome State Fault Refusal :=
  issue (.tretIgn p) s fun s => s.tret false true

/-! ## Handler registers -/

/-- A handler register's value, a 32-bit one zero-extended (R248). -/
def State.readH (s : State) (n : Nat) : Addr :=
  match n with
  | 0 => s.t.tcause.zeroExtend 64
  | 1 => s.t.tepc
  | 2 => s.t.tmask
  | 3 => s.t.taddr
  | 4 => s.t.tinfo.zeroExtend 64
  | 5 => s.t.tclh
  | 6 => s.t.trwpc
  | 7 => s.t.trcp
  | 8 => s.g.tvec
  | 9 => s.g.dbgc.zeroExtend 64
  | n => smGet 0 s.g.dbga (n - 10)

/-- TRD (R256). -/
def execTrd (p : Pre) (d r : BitVec 7) (s : State) : Host.Outcome State Fault Refusal :=
  issueSeq (.trd p d r) s fun s =>
    let v := s.readH r.toNat
    if hregWide r then s.writePair d v else s.writeS p d (v.extractLsb' 0 32)

/-- The bits of DBGC that are not reserved (R264). -/
def dbgcMask : Word := 0x003FFFFF#32

/-- Whether a DBGC value names an execute slot on the scratchpad (R264). -/
def dbgcBad (v : Word) : Bool := (List.range 4).any fun n => v.getLsbD (8 + n) && decide (v.toNat / 4 ^ n % 4 = 1)

/-- A write to a handler register under its access (R248, R256): one to a read-only register is ignored (R5). TEPC is a code
address, whose bits [1:0] are zero (R96; DEDUCED, log entry 105). -/
def State.writeH (s : State) (n : Nat) (v : Addr) : Except Trap State :=
  let word := v.extractLsb' 0 32
  let inHandler := fun (t : Strand) => if s.t.handler then Except.ok { s with t := t } else .error (s.trap .illegalState)
  match n with
  | 0 => .ok s
  | 1 => inHandler { s.t with tepc := v &&& ~~~3#64 }
  | 2 => inHandler { s.t with tmask := v }
  | 3 => inHandler { s.t with taddr := v }
  | 4 => inHandler { s.t with tinfo := word }
  | 5 => .ok s
  | 6 => .ok s
  | 7 => .ok { s with t := { s.t with trcp := v } }
  | 8 => if v.extractLsb' 0 9 ≠ 0 then .error (s.trap .illegalOperand) else .ok { s with g := { s.g with tvec := v } }
  | 9 =>
    if dbgcBad word then .error (s.trap .illegalOperand)
    else .ok { s with g := { s.g with dbgc := word &&& dbgcMask } }
  | n => .ok { s with g := { s.g with dbga := smSet 0 s.g.dbga (n - 10) v } }

/-- TWR (R256). -/
def execTwr (p : Pre) (r a : BitVec 7) (s : State) : Host.Outcome State Fault Refusal :=
  issue (.twr p r a) s fun s =>
    let v := if hregWide r then s.readPair a.toNat else (s.readS a.toNat).zeroExtend 64
    (s.writeH r.toNat v).map fun s => (s, .seq)

/-- FLASH: an address that is not a multiple of 64 raises misaligned (R260). -/
def execFlash (p : Pre) (a : BitVec 7) (s : State) : Host.Outcome State Fault Refusal :=
  issue (.flash p a) s fun s =>
    let v := s.readPair a.toNat
    if v.extractLsb' 0 6 ≠ 0 then .error { s.trap .misaligned with addr := v }
    else .ok ({ s with t := { s.t with trcp := v } }, .seq)

/-- FLASH.none (R260). -/
def execFlashNone (p : Pre) (s : State) : Host.Outcome State Fault Refusal :=
  issueSeq (.flashNone p) s fun s => { s with t := { s.t with trcp := 0 } }

/-! ## Debug and the mailbox -/

/-- DBGBRK: breakpoint, bit 31 of TINFO and the code; TADDR is the word's address (R252, R269). -/
def execDbgbrk (p : Pre) (code : BitVec 14) (s : State) : Host.Outcome State Fault Refusal :=
  issue (.dbgbrk p code) s fun s =>
    .error ⟨.breakpoint, s.t.active, s.t.pc, 0x80000000#32 + code.zeroExtend 32⟩

/-- A mailbox word of the focused strand's device takes a value (R269, R270). -/
def State.mailOut (s : State) (i : Nat) (v : Word) : State :=
  let d := s.vdev s.g.vd
  s.setVdev { d with outw := smSet 0 d.outw i v }

/-- DMBW: a release at system scope (R269). -/
def execDmbw (p : Pre) (i : BitVec 3) (a : BitVec 7) (s : State) : Host.Outcome State Fault Refusal :=
  issue (.dmbw p i a) s fun s => s.settled fun s => .ok ((s.mailOut i.toNat (s.readS a.toNat)).released, .seq)

/-- OSEQ counts up and the device's debug interrupt is raised (R269, R270). -/
def State.mailPost (s : State) : State :=
  let d := s.vdev s.g.vd
  (s.setVdev { d with oseq := d.oseq + 1 }).raiseIntr s.g.vd d.dbgv.toNat

/-- DMBW.post (R269). -/
def execDmbwPost (p : Pre) (i : BitVec 3) (a : BitVec 7) (s : State) : Host.Outcome State Fault Refusal :=
  issue (.dmbwPost p i a) s fun s =>
    s.settled fun s => .ok ((s.mailOut i.toNat (s.readS a.toNat)).mailPost.released, .seq)

/-- DMBR: an acquire at system scope (R269). -/
def execDmbr (p : Pre) (d i : BitVec 7) (s : State) : Host.Outcome State Fault Refusal :=
  issue (.dmbr p d i) s fun s =>
    s.inOrder [] fun s =>
      let v := s.vdev s.g.vd
      .ok (s.writeS p d (if i = 8#7 then v.iseq else smGet 0 v.inw i.toNat), .seq)

/-! ## Counters, time and features -/

/-- The guest timestamp of a running device at a device tick (R355). -/
def VDev.guestAt (d : VDev) (tick : Nat) : Nat := (tick + 2 ^ 64 - d.toff % 2 ^ 64) % 2 ^ 64

/-- The guest timestamp of a device: the saved one while it is paused (R355). -/
def State.guestTime (s : State) (vd : Nat) : Nat :=
  let d := s.vdev vd
  if d.paused then d.tssave.toNat else d.guestAt (s.tickOf vd)

/-- A counter of the focused strand's device. What only timing decides, misses and walks, is a free number since the last
read, so that such a counter starts at 0 with the device and never goes back (R354; log entry 3). -/
def State.counter (s : State) (n : Nat) : State × Addr :=
  if n = 0 then (s, BitVec.ofNat 64 (s.guestTime s.g.vd))
  else if 16 ≤ n then (s, 0)
  else
    let s1 :=
      if 8 ≤ n ∧ n ≤ 10 then
        { s with freeCount := s.freeCount + 1 }.count s.g.vd n (Config.timingCount s.g.vd n s.freeCount).toNat
      else s
    (s1, BitVec.ofNat 64 (smGet 0 (s1.vdev s.g.vd).counters n))

/-- CNTRD (R271, R354). -/
def execCntrd (p : Pre) (d n : BitVec 7) (s : State) : Host.Outcome State Fault Refusal :=
  issueSeq (.cntrd p d n) s fun s =>
    let r := s.counter n.toNat
    r.1.writePair d r.2

/-- TSRD (R271, R355). -/
def execTsrd (p : Pre) (d : BitVec 7) (s : State) : Host.Outcome State Fault Refusal :=
  issueSeq (.tsrd p d) s fun s => s.writePair d (BitVec.ofNat 64 (s.guestTime s.g.vd))

/-- TICKRD (R271). -/
def execTickrd (p : Pre) (d : BitVec 7) (s : State) : Host.Outcome State Fault Refusal :=
  issueSeq (.tickrd p d) s fun s => s.writePair d (BitVec.ofNat 64 (s.tickOf s.g.vd))

/-- A feature word (R272); word 2 counts the dies and the cores per die of the device's partition. -/
def State.feature (s : State) (n : Nat) : Word :=
  match n with
  | 1 => 0x000120D0#32
  | 2 =>
    let cores := match s.part (s.vdev s.g.vd).part with
      | some p => p.res.cores
      | none => []
    let dies := max 1 (cores.map dieOf).eraseDups.length
    BitVec.ofNat 32 ((cores.map dieOf).eraseDups.length + 2 ^ 8 * (cores.length / dies) + 2 ^ 16 * 32 + 2 ^ 24 * 64)
  | _ => 0

/-- FEATQ (R271, R272). -/
def execFeatq (p : Pre) (d n : BitVec 7) (s : State) : Host.Outcome State Fault Refusal :=
  issueSeq (.featq p d n) s fun s => s.writeS p d (s.feature n.toNat)

/-- NOP (R273). -/
def execNop (p : Pre) (s : State) : Host.Outcome State Fault Refusal := issueSeq (.nop p) s fun s => s

end Sys2Proof.Machine
end

