-- ==== Sys2Proof/Machine/Jobs.lean ====
section
/-! DEFINITION. Work levels and their records (R12-R16), cancel and kill (R17, R18), and the Finby command streams of
jobs (R19-R25). -/

namespace Sys2Proof.Machine

/-! ## Levels -/

/-- A new level, pending, its record set to that (R16). -/
def State.newLevel (s : State) (kind : LevelKind) (vd slot : Nat) (parent : Option Nat) (record : Option Addr) :
    State × Nat :=
  let l : Level :=
    { id := s.nextId, kind := kind, vd := vd, slot := slot, parent := parent, record := record, state := 1,
      opened := 0, done := 0, canc := 0, tstart := 0, tend := 0, closed := false, cancelled := false }
  (({ s with nextId := s.nextId + 1, levels := s.levels ++ [l] }).writeRecord l, s.nextId)

/-- Whether a level is done, or is no longer held (R12). -/
def State.levelOver (s : State) (id : Nat) : Bool :=
  match s.level id with
  | some l => decide (3 ≤ l.state)
  | none => true

/-- The levels below a level. -/
def State.children (s : State) (id : Nat) : List Level := s.levels.filter fun l => l.parent == some id

/-- A child of a level that never started is done, or dropped (R12, R17). -/
def State.childUnopened (s : State) (id n : Nat) (canc : Bool) : State :=
  s.modLevel id fun l =>
    { l with done := if canc then l.done else l.done + n, canc := if canc then l.canc + n else l.canc }

/-- A level becomes running, and its ancestors with it, each counted as started in its parent (R14). -/
def State.startLevel (s : State) : Nat → Nat → State
  | 0, _ => s
  | fuel + 1, id =>
    match s.level id with
    | none => s
    | some l =>
      if l.state ≠ 1 then s
      else
        let s1 := s.modLevel id fun l => { l with state := 2, tstart := s.tickOf l.vd }
        match l.parent with
        | none => s1
        | some p => (s1.startLevel fuel p).childOpen p

/-- Whether a level that is not done has become so (R12): a launch once every unit is placed and ended, a level of
levels once it is closed and they are done, a job that met a stream fault once its issued launches are done (R365). -/
def State.levelReady (s : State) (l : Level) : Bool :=
  let inJob := fun (m : Level) => m.vd == l.vd && m.slot == l.slot
  if 3 ≤ l.state then false
  else
    match l.kind with
    | .launch =>
      match s.launchOf l.id with
      | none => false
      | some k =>
        k.issued && k.unplaced.isEmpty && l.opened == 0 &&
          !(s.steals.any fun x => x.launch == l.id && (x.grant.getD []) != [])
    | .job =>
      if s.jobs.any fun j => j.vd == l.vd && j.slot == l.slot && j.faulted then
        (s.levels.filter inJob).all fun m => m.kind != .launch || m.state != 2
      else l.closed && (s.children l.id).all fun m => decide (3 ≤ m.state)
    | _ => l.closed && (s.children l.id).all fun m => decide (3 ≤ m.state)

/-- A level becomes done: TEND, then STATE, then its parent's counts (R14, R15). -/
def State.finishLevel (s : State) (l : Level) (st : Nat) : State :=
  let s1 := s.modLevel l.id fun m => { m with state := st, tend := s.tickOf m.vd }
  match l.parent with
  | none => s1
  | some p => if l.state = 2 then s1.childDone p (st == 4) else s1.childUnopened p 1 (st == 4)

/-- Forgets a job with its levels and launches: its slot is free (R363). -/
def State.dropJob (s : State) (vd slot : Nat) : State :=
  let mine := fun (l : Level) => l.vd == vd && l.slot == slot
  let ids := (s.levels.filter mine).map fun l => l.id
  { s with
    jobs := s.jobs.filter fun j => !(j.vd == vd && j.slot == slot)
    levels := s.levels.filter fun l => !(mine l)
    launches := s.launches.filter fun k => !(ids.contains k.level) }

/-- LEVEL_DONE (R12, R15). -/
def execLevelDone (l : Nat) (s : State) : Host.Outcome State Fault Refusal :=
  event s fun s =>
    match s.level l with
    | none => s
    | some m =>
      if s.levelReady m then
        let s1 := s.finishLevel m (if m.cancelled || decide (m.canc ≠ 0) then 4 else 3)
        if m.kind = .job then s1.dropJob m.vd m.slot else s1
      else s

/-! ## Cancel and kill -/

/-- Cancels a unit: it stays marked, and each of its strands takes the trap (R17, R18). The gang is not focused. -/
def State.cancelGang (s : State) (gid : Nat) : State :=
  match s.gangs.find? fun g => g.id == gid with
  | none => s
  | some g =>
    if g.cancelled || g.strands.isEmpty then s
    else
      let s1 := s.modGang gid fun g => { g with cancelled := true, cancelTick := s.tick }
      (g.strands.map fun t => t.idx).foldl
        (fun s i =>
          let f := s.focus gid i
          if f.focused then f.cancelStrand.unfocus else s) s1

/-- The units of a launch that have not started are dropped, its task records among them (R17, R18). -/
def State.dropUnits (s : State) (id : Nat) : State :=
  match s.launchOf id with
  | none => s
  | some k =>
    let waiting := (k.unplaced.map fun p => p.2.length).foldl (fun a b => a + b) 0
    let granted := (s.steals.map fun x => if x.launch == id then (x.grant.getD []).length else 0).foldl (fun a b => a + b) 0
    let tasks := (s.deque.filter fun t => t.launch == id).length
    let s1 := { s with
      launches := replaceFirst (fun l => l.level == id) { k with unplaced := [] } s.launches
      steals := s.steals.map fun (x : Steal) => if x.launch == id && x.grant.isSome then { x with grant := some [] } else x
      deque := s.deque.filter fun t => t.launch != id }
    let s2 := s1.childUnopened id ((waiting + granted) * k.gangs) true
    (List.range tasks).foldl (fun s _ => s.childDone id true) s2

/-- Cancel of a level by its state; `fuel` is the depth of levels below it (R17). -/
def State.cancelLevel (s : State) : Nat → Nat → State
  | 0, _ => s
  | fuel + 1, id =>
    match s.level id with
    | none => s
    | some l =>
      if 3 ≤ l.state then s
      else
        let s1 := s.modLevel id fun m => { m with cancelled := true }
        let s2 := (s1.children id).foldl (fun s m => s.cancelLevel fuel m.id) s1
        if l.state = 1 then
          match s2.level id with
          | some m => s2.finishLevel m 4
          | none => s2
        else if l.kind = .launch then
          let s3 := s2.dropUnits id
          ((s3.gangs.filter fun g => g.launch == id).map fun g => g.id).foldl State.cancelGang s3
        else s2

/-- Kills a unit: its lanes go without executing anything further, and a saved state is discarded (R18, R317). The
gang is not focused. -/
def State.killGang (s : State) (gid : Nat) : State :=
  match s.gangs.find? fun g => g.id == gid with
  | none => s
  | some g =>
    let every := BitVec.allOnes 64
    let r := s.lostArrivals g every
    (r.1.putGang { g.dropLanes every with killed := true, saved := false, xreqs := [] }).reap gid

/-- The kill interval of a unit in ticks: that of its job, 0 acting as 1 microsecond (R18, R363). -/
def State.killTicks (s : State) (g : Gang) : Nat :=
  let slot := match s.level g.launch with
    | some l => l.slot
    | none => 0
  1000 * max 1 (smGet 100 (s.vdev g.vd).killi slot)

/-- Whether a cancelled unit is due to be killed (R18). -/
def State.killDue (s : State) (g : Gang) : Bool :=
  g.cancelled && !g.strands.isEmpty && decide (g.cancelTick + s.killTicks g ≤ s.tick)

/-- KILL_INTERVAL_EXPIRY (R18). -/
def execKillIntervalExpiry (gang : Nat) (s : State) : Host.Outcome State Fault Refusal :=
  event s fun s =>
    match s.gangs.find? fun g => g.id == gang with
    | none => s
    | some g => if s.killDue g then s.killGang gang else s

/-! ## Streams -/

/-- A job by slot. -/
def State.jobAt (s : State) (vd slot : Nat) : Option Job := s.jobs.find? fun j => j.vd == vd && j.slot == slot

/-- Puts a job back. -/
def State.setJob (s : State) (j : Job) : State :=
  { s with jobs := replaceFirst (fun k => k.vd == j.vd && k.slot == j.slot) j s.jobs }

/-- A stream fault: interpretation stops, the fault word is written and the fault interrupt raised (R25, R365). -/
def State.streamFault (s : State) (vd slot code : Nat) (cmd : Addr) : State :=
  match s.jobAt vd slot with
  | none => s
  | some j =>
    let d := s.vdev vd
    let w := (smGet 0 d.fword slot).toNat / 16 * 16
    let bytes := natBytes 8 cmd.toNat ++ natBytes 8 code
    let s1 := s.setJob { j with faulted := true, wait := .none }
    let s2 :=
      if w = 0 then s1
      else
        match s1.vaWrite vd w bytes with
        | .ok s2 => s2
        | .error _ => s1
    s2.raiseIntr vd (smGet 0 d.fvec slot)

/-- A command of the current job; its error is a stream-fault code at the command (R25). -/
def withJob (s : State) (f : State → Job → Except Nat State) : Host.Outcome State Fault Refusal :=
  let s := s.unfocus
  match s.curJob with
  | none => .fault .noJob
  | some (vd, slot) =>
    match s.jobAt vd slot with
    | none => .fault .noJob
    | some j =>
      if j.faulted || j.ended then .next s
      else
        match f s j with
        | .ok s1 => .next s1
        | .error c => .next (s.streamFault vd slot c j.pc)

/-- A job past the command at its position. -/
def Job.past (j : Job) (i : Instr) : Job :=
  { j with pc := j.pc + BitVec.ofNat 64 (4 * wordsOf i), wait := .none }

/-- A command that may not stand inside a graph (R22). -/
def Job.outside (j : Job) (k : Except Nat State) : Except Nat State := if j.inGraph then .error 7 else k

/-- Whether a record may be named: it can be written, and no running or pending level of the job has it (R16, R25). -/
def State.recordFree (s : State) (j : Job) (record : Addr) : Except Nat Unit :=
  if s.levels.any fun l => l.vd == j.vd && l.slot == j.slot && l.record == some record && decide (l.state < 3) then .error 8
  else
    match s.vaRefs (s.vdev j.vd) record.toNat 32 ⟨true, true, false⟩ false with
    | .ok _ => .ok ()
    | .error _ => .error 4

/-- A level that is declared under one that is cancelled is dropped (R17). -/
def State.underCancel (s : State) (id parent : Nat) : State :=
  match s.level parent with
  | some p => if p.cancelled then s.cancelLevel 4 id else s
  | none => s

/-- Opens a phase of a job. -/
def State.openPhase (s : State) (j : Job) (record : Option Addr) : State × Nat :=
  let r := s.newLevel .phase j.vd j.slot (some j.level) record
  (r.1.underCancel r.2 j.level, r.2)

/-- The phase that a graph belongs to: the open one, or one of its own (R13). -/
def State.phaseFor (s : State) (j : Job) : State × Nat :=
  match j.phase with
  | some p => (s, p)
  | none => s.openPhase j none

/-- Opens a graph of a job in its phase. -/
def State.openGraph (s : State) (j : Job) (record : Option Addr) : State × Nat × Nat :=
  let p := s.phaseFor j
  let r := p.1.newLevel .graph j.vd j.slot (some p.2) record
  (r.1.underCancel r.2 p.2, p.2, r.2)

/-- Nothing more is added to a level. -/
def State.closeLevel (s : State) (id : Nat) : State :=
  { s with levels := s.levels.map fun l => if l.id = id then { l with closed := true } else l }

/-- Ends a graph; a phase that was opened for it alone ends with it, and the job's later commands wait for that phase
(R13, R22). -/
def State.closeGraph (s : State) (j : Job) (phase graph : Nat) : State :=
  let s1 := s.closeLevel graph
  let own := match s1.level phase with
    | some p => p.record.isNone
    | none => false
  if own then (s1.closeLevel phase).setJob { j with graph := none, inGraph := false, edges := [], phase := none, wait := .phase phase }
  else s1.setJob { j with graph := none, inGraph := false, edges := [], wait := .none }

/-- A launch as its command declares it (R20). -/
def declared (num : Nat) (desc par : Addr) (grid : List Nat) (gridAddr : Option Addr) (cmd : Addr) : Launch :=
  { level := 0, num := num, desc := desc, par := par, grid := grid, gridAddr := gridAddr, cmd := cmd, after := [],
    issued := false, entry := 0, width := 16, gangs := 0, xmax := 0, xres := false, spad := 0, roles := 0, rings := [],
    unplaced := [], tag := 0 }

/-- The launches of a graph. -/
def State.launchesOf (s : State) (graph : Nat) : List Launch :=
  s.launches.filter fun k =>
    match s.level k.level with
    | some l => l.parent == some graph
    | none => false

/-- Adds a launch to a graph. -/
def State.addLaunch (s : State) (j : Job) (graph : Nat) (record : Addr) (k : Launch) : State :=
  let r := s.newLevel .launch j.vd j.slot (some graph) (some record)
  ({ r.1 with launches := r.1.launches ++ [{ k with level := r.2 }] }).underCancel r.2 graph

/-- LAUNCH and LAUNCHI: inside a graph, or a graph of their own (R13, R16, R20, R25). -/
def State.declare (s : State) (j : Job) (i : Instr) (record : Addr) (k : Launch) : Except Nat State :=
  match j.graph with
  | some g =>
    if (s.launchesOf g).any fun l => l.num == k.num then .error 6
    else
      match s.recordFree j record with
      | .error c => .error c
      | .ok _ => .ok ((s.addLaunch j g record k).setJob (j.past i))
  | none =>
    match s.recordFree j record with
    | .error c => .error c
    | .ok _ =>
      let o := s.openGraph j none
      .ok ((o.1.addLaunch j o.2.2 record k).closeGraph (j.past i) o.2.1 o.2.2)

/-- LAUNCH (R20). -/
def execLaunch (num : BitVec 8) (desc par record : Addr) (x y z : Word) (s : State) : Host.Outcome State Fault Refusal :=
  withJob s fun s j =>
    s.declare j (.launch num desc par record x y z) record
      (declared num.toNat desc par [x.toNat, y.toNat, z.toNat] none j.pc)

/-- LAUNCHI (R20). -/
def execLaunchi (num : BitVec 8) (desc par record grid : Addr) (s : State) : Host.Outcome State Fault Refusal :=
  withJob s fun s j =>
    s.declare j (.launchi num desc par record grid) record (declared num.toNat desc par [] (some grid) j.pc)

/-- The Finby NOP (R20). -/
def execFinbyNop (len : BitVec 4) (arg : BitVec 16) (s : State) : Host.Outcome State Fault Refusal :=
  withJob s fun s j => .ok (s.setJob (j.past (.finbyNop len arg)))

/-- EDGE: outside a graph its numbers are not declared (R22, R25). -/
def execEdge (src dst : BitVec 8) (s : State) : Host.Outcome State Fault Refusal :=
  withJob s fun s j =>
    if j.inGraph then .ok (s.setJob { j.past (.edge src dst) with edges := j.edges ++ [(src.toNat, dst.toNat, j.pc)] })
    else .error 6

/-- GBEGIN (R22, R25). -/
def execGbegin (record : Addr) (s : State) : Host.Outcome State Fault Refusal :=
  withJob s fun s j =>
    j.outside
      (match s.recordFree j record with
      | .error c => .error c
      | .ok _ =>
        let o := s.openGraph j (some record)
        .ok (o.1.setJob { j.past (.gbegin record) with phase := some o.2.1, graph := some o.2.2, inGraph := true, edges := [] }))

/-- Takes away, `fuel` times, the launches that wait for none of the rest. -/
def peel (edges : List (Nat × Nat × Addr)) : Nat → List Nat → List Nat
  | 0, left => left
  | fuel + 1, left =>
    peel edges fuel (left.filter fun n => edges.any fun e => e.2.1 == n && left.contains e.1)

/-- Whether edges among launches have a cycle (R25). -/
def cyclic (nums : List Nat) (edges : List (Nat × Nat × Addr)) : Bool := peel edges nums.length nums != []

/-- GEND: the graph is read whole, each launch learns which launches it waits for, and the graph is submitted; an edge
that names no launch is a fault at the EDGE (R22, R25). -/
def execGend (s : State) : Host.Outcome State Fault Refusal :=
  withJob s fun s j =>
    match j.graph with
    | none => .error 7
    | some g =>
      let ls := s.launchesOf g
      let nums := ls.map fun l => l.num
      match j.edges.find? fun e => !(nums.contains e.1 && nums.contains e.2.1) with
      | some e => .ok (s.streamFault j.vd j.slot 6 e.2.2)
      | none =>
        if cyclic nums j.edges then .error 6
        else
          let levelsOf := fun (n : Nat) =>
            ls.filterMap fun l => if j.edges.any fun e => e.1 == l.num && e.2.1 == n then some l.level else none
          let s1 := { s with
            launches := s.launches.map fun (l : Launch) => if ls.any fun m => m.level == l.level then { l with after := levelsOf l.num } else l }
          match s1.level g with
          | none => .error 7
          | some gl => .ok (s1.closeGraph (j.past .gend) (gl.parent.getD 0) g)

/-- PBEGIN (R22, R25). -/
def execPbegin (record : Addr) (s : State) : Host.Outcome State Fault Refusal :=
  withJob s fun s j =>
    j.outside
      (if j.phase.isSome then .error 7
      else
        match s.recordFree j record with
        | .error c => .error c
        | .ok _ =>
          let o := s.openPhase j (some record)
          .ok (o.1.setJob { j.past (.pbegin record) with phase := some o.2 }))

/-- PEND: the commands after it wait until the phase is done (R22). -/
def execPend (s : State) : Host.Outcome State Fault Refusal :=
  withJob s fun s j =>
    j.outside
      (match j.phase with
      | none => .error 7
      | some p => .ok ((s.closeLevel p).setJob { j.past .pend with phase := none, wait := .phase p }))

/-- LOOP (R24). -/
def execLoop (count : Word) (target : Addr) (s : State) : Host.Outcome State Fault Refusal :=
  withJob s fun s j =>
    j.outside
      (match j.loops.find? fun l => l.1 == j.pc with
      | some (_, n) =>
        if n = 0 then .ok (s.setJob { j.past (.loop count target) with loops := j.loops.filter fun l => l.1 != j.pc })
        else
          .ok (s.setJob { j with pc := target, loops := j.loops.map fun l => if l.1 = j.pc then (l.1, n - 1) else l })
      | none =>
        if 8 ≤ j.loops.length then .error 7
        else
          let n := max count.toNat 1 - 1
          if n = 0 then .ok (s.setJob (j.past (.loop count target)))
          else .ok (s.setJob { j with pc := target, loops := (j.pc, n - 1) :: j.loops }))

/-- The conditions of WAITMEM and COND (R21). -/
def condHolds (c : BitVec 3) (w v : Word) : Bool :=
  match c.toNat with
  | 0 => w == v
  | 1 => w != v
  | 2 => v.ule w
  | 3 => w.ult v
  | 4 => v.sle w
  | 5 => w.slt v
  | 6 => w &&& v == v
  | _ => w &&& v != 0

/-- A masked word of memory, as a cadence processor reads it (R21). -/
def State.streamWord (s : State) (vd : Nat) (addr : Addr) (mask : Word) : Except Nat Word :=
  match s.vaRead vd addr.toNat 4 with
  | .ok bs => .ok (BitVec.ofNat 32 (leNat bs) &&& mask)
  | .error _ => .error 4

/-- WAITMEM: a timeout of 0 is none (R20, R21). -/
def execWaitmem (c : BitVec 3) (value : Word) (addr : Addr) (mask timeout : Word) (s : State) :
    Host.Outcome State Fault Refusal :=
  withJob s fun s j =>
    j.outside
      (match s.streamWord j.vd addr mask with
      | .error e => .error e
      | .ok w =>
        if condHolds c w value then .ok (s.setJob (j.past (.waitmem c value addr mask timeout)))
        else
          match j.wait with
          | .mem _ _ _ _ _ => .ok s
          | _ =>
            let dl := if timeout = 0 then none else some (s.tick + 1000 * timeout.toNat)
            .ok (s.setJob { j with wait := .mem c value addr mask dl }))

/-- WAITMEM_REREAD: the word is read again; where the condition holds the stream goes on (R21). -/
def execWaitmemReread (vd slot : Nat) (s : State) : Host.Outcome State Fault Refusal :=
  event s fun s =>
    match s.jobAt vd slot with
    | none => s
    | some j =>
      match j.wait with
      | .mem c value addr mask _ =>
        match s.streamWord vd addr mask with
        | .error e => s.streamFault vd slot e j.pc
        | .ok w => if condHolds c w value then s.setJob { j with pc := j.pc + 32, wait := .none } else s
      | _ => s

/-- Whether a WAITMEM of a job has timed out (R21). -/
def State.waitmemOver (s : State) (j : Job) : Bool :=
  match j.wait with
  | .mem _ _ _ _ (some t) => decide (t ≤ s.tick) && !(s.vdev j.vd).paused
  | _ => false

/-- WAITMEM_TIMEOUT (R21, R25). -/
def execWaitmemTimeout (vd slot : Nat) (s : State) : Host.Outcome State Fault Refusal :=
  event s fun s =>
    match s.jobAt vd slot with
    | none => s
    | some j => if s.waitmemOver j then s.streamFault vd slot 9 j.pc else s

/-- COND (R20, R21). -/
def execCond (c : BitVec 3) (value : Word) (addr : Addr) (mask : Word) (els : Addr) (s : State) :
    Host.Outcome State Fault Refusal :=
  withJob s fun s j =>
    j.outside
      (match s.streamWord j.vd addr mask with
      | .error e => .error e
      | .ok w =>
        .ok (s.setJob (if condHolds c w value then j.past (.cond c value addr mask els) else { j with pc := els })))

/-- WAITCTR: until the record's STATE is 3 or more (R20). -/
def execWaitctr (record : Addr) (s : State) : Host.Outcome State Fault Refusal :=
  withJob s fun s j =>
    j.outside
      (match s.streamWord j.vd record 0xF with
      | .error e => .error e
      | .ok w =>
        if 3 ≤ w.toNat then .ok (s.setJob (j.past (.waitctr record)))
        else .ok (s.setJob { j with wait := .ctr record }))

/-- The Finby FENCE: until every launch and graph that the job has declared is done (R20). -/
def execFinbyFence (scope : BitVec 3) (s : State) : Host.Outcome State Fault Refusal :=
  withJob s fun s j =>
    j.outside
      (if s.levels.all fun l =>
          !(l.vd == j.vd && l.slot == j.slot && (l.kind == .launch || l.kind == .graph)) || decide (3 ≤ l.state)
        then .ok (s.setJob (j.past (.finbyFence scope)))
        else .ok (s.setJob { j with wait := .fence scope.toNat }))

/-- A cancel reaches a record that no level has: an idle one becomes done with cancellation, any other stays as it is (R17). -/
def State.cancelIdle (s : State) (j : Job) (record : Addr) : Except Nat State :=
  match s.vaRead j.vd record.toNat 4 with
  | .error _ => .error 4
  | .ok bs =>
    let w := leNat bs
    if w % 16 ≠ 0 then .ok s
    else
      match s.vaWrite j.vd record.toNat (natBytes 4 (w + 4)) with
      | .error _ => .error 4
      | .ok s1 => .ok s1

/-- CANCEL of the level whose record is named (R17, R20). Whether that may be a level of another job the manual does not say:
the levels of every job of the device are searched (DESIGN CHOICE, log entry 106). -/
def execCancel (record : Addr) (s : State) : Host.Outcome State Fault Refusal :=
  withJob s fun s j =>
    j.outside
      (let s1 := s.setJob (j.past (.cancel record))
      match s1.levels.find? fun l => l.vd == j.vd && l.record == some record && decide (l.state < 3) with
      | none => s1.cancelIdle j record
      | some l => .ok (s1.cancelLevel 4 l.id))

/-- SIGNAL: a write of 64 bits with release, then the interrupt (R20). -/
def execSignal (intr : Bool) (vector : BitVec 8) (addr value : Addr) (s : State) : Host.Outcome State Fault Refusal :=
  withJob s fun s j =>
    j.outside
      (match s.vaWrite j.vd addr.toNat (natBytes 8 value.toNat) with
      | .error _ => .error 4
      | .ok s1 =>
        let s2 := s1.setJob (j.past (.signal intr vector addr value))
        .ok (if intr then s2.raiseIntr j.vd vector.toNat else s2))

/-- LINK (R19). -/
def execLink (next : Addr) (s : State) : Host.Outcome State Fault Refusal :=
  withJob s fun s j => j.outside (.ok (s.setJob { j with pc := next, seg := next, wait := .none }))

/-- END: a phase still open ends with the stream (R20). -/
def execEndStream (s : State) : Host.Outcome State Fault Refusal :=
  withJob s fun s j =>
    j.outside
      (let s1 := match j.phase with
        | some p => s.closeLevel p
        | none => s
      .ok ((s1.closeLevel j.level).setJob { j with ended := true, phase := none, wait := .none }))

/-! ## Issue of a launch -/

/-- A kernel descriptor's fields (R26). -/
def parseKernel (k : Launch) (bs : List Byte) : Option Launch :=
  let at1 := fun i => (bs.getD i 0).toNat
  let at8 := fun i => leNat ((bs.drop i).take 8)
  let at4 := fun i => leNat ((bs.drop i).take 4)
  let w := at1 8
  let rings := (List.range 8).map fun n => at1 (24 + n)
  let bad := at8 0 % 4 ≠ 0 ∨ w = 0 ∨ 3 < w ∨ at1 9 = 0 ∨ 32 < at1 9 ∨ 7 < at1 10 ∨ 1 < at1 11 ∨ at4 12 % 256 ≠ 0 ∨
    0x100000 < at4 12 ∨ at8 16 / 4 ^ at1 9 ≠ 0 ∨ rings.any (fun n => decide (16 < n)) = true ∨ 4096 < at4 32 ∨
    (bs.drop 36).any (fun b => b != 0) = true
  if bad then none
  else
    some
      { k with
        entry := BitVec.ofNat 64 (at8 0), width := 8 * 2 ^ w, gangs := at1 9, xmax := at1 10, xres := at1 11 == 1
        spad := at4 12, roles := BitVec.ofNat 64 (at8 16), rings := rings }

/-- The pipes of a gang of `w` slices from a first pipe (R9). -/
def pipesFrom (first w : Nat) : List Nat := (List.range w).map fun i => (first + i) % 8

/-- The first pipe of a gang that needs `need` slice blocks on each of its pipes, from the free ones per pipe: the
start whose pipes have the most free in total, then the lowest (R28). -/
def firstPipe (free : List Nat) (w need : Nat) : Option Nat :=
  let fits := (List.range 8).filter fun f => (pipesFrom f w).all fun p => decide (need ≤ free.getD p 0)
  let total := fun f => ((pipesFrom f w).map fun p => free.getD p 0).foldl (fun a b => a + b) 0
  fits.foldl
    (fun b f =>
      match b with
      | none => some f
      | some c => if total c < total f then some f else some c) none

/-- The free slice blocks after a gang takes its own. -/
def takeSlices (free : List Nat) (first w need : Nat) : List Nat :=
  (List.range 8).map fun p => if (pipesFrom first w).contains p then free.getD p 0 - need else free.getD p 0

/-- The first pipes of `n` gangs placed in ascending index (R28). -/
def placeGangs (w need : Nat) : Nat → List Nat → Option (List Nat)
  | 0, _ => some []
  | n + 1, free =>
    match firstPipe free w need with
    | none => none
    | some f => (placeGangs w need n (takeSlices free f w need)).map fun r => f :: r

/-- The slice blocks that a gang of a launch needs on each pipe at admission (R28). -/
def Launch.need (k : Launch) : Nat := 1 + (if k.xres then k.xmax else 0)

/-- Whether a block of a launch fits on an empty core (R25). -/
def Launch.fitsEmpty (k : Launch) : Bool := (placeGangs (k.width / 8) k.need k.gangs (List.replicate 8 32)).isSome

/-- The dies on which a device's partition holds cores (R30). -/
def State.coreDies (s : State) (vd : Nat) : List Nat :=
  match s.part (s.vdev vd).part with
  | some p => resCoreDies p.res
  | none => []

/-- The unplaced blocks that a die starts with: slot `k` of `nd` (R30). -/
def shareOf (total nd k : Nat) : List Nat := (List.range total).filter fun i => i / 16 % nd == k

/-- The lowest launch tag that no launch of a device in progress holds (R298). -/
def State.freeTag (s : State) (vd : Nat) : Nat :=
  let used := (s.launches.filter fun k => k.issued && !(s.levelOver k.level) &&
    match s.level k.level with
    | some l => l.vd == vd
    | none => false).map fun k => k.tag
  ((List.range 1024).find? fun t => !(used.contains t)).getD 0

/-- Whether a launch may issue now: its graph is submitted, every earlier graph of the job and every launch it waits
for is done, and no launch before it in stream order may issue (R22). -/
def State.mayIssue (s : State) (k : Launch) : Bool :=
  match s.level k.level with
  | none => false
  | some l =>
    match s.level (l.parent.getD 0), s.jobAt l.vd l.slot with
    | some g, some j =>
      l.state == 1 && !k.issued && g.closed && decide (g.state < 3) && !j.faulted &&
        !(s.vdev l.vd).paused && !(s.vdev l.vd).resetting && k.after.all s.levelOver &&
        s.levels.all fun m =>
          !(m.kind == .graph && m.vd == l.vd && m.slot == l.slot && decide (m.id < g.id)) || decide (3 ≤ m.state)
    | _, _ => false

/-- The grid of a launch at issue (R23). -/
def State.gridOf (s : State) (vd : Nat) (k : Launch) : Except Nat (List Nat) :=
  match k.gridAddr with
  | none => .ok k.grid
  | some a =>
    match s.vaRead vd a.toNat 12 with
    | .ok bs => .ok ((List.range 3).map fun i => leNat ((bs.drop (4 * i)).take 4))
    | .error _ => .error 4

/-- The launch with its descriptor and grid read and checked, or the stream-fault code (R20, R23, R25, R26). -/
def State.readLaunch (s : State) (vd : Nat) (k : Launch) : Except Nat Launch :=
  if k.desc.toNat % 64 ≠ 0 then .error 3
  else
    match s.vaRead vd k.desc.toNat 64 with
    | .error _ => .error 4
    | .ok bs =>
      match parseKernel k bs, s.gridOf vd k with
      | none, _ => .error 5
      | some _, .error c => .error c
      | some k1, .ok grid =>
        let n := grid.foldl (fun a b => a * b) 1
        if 2 ^ 32 ≤ n then .error 11
        else if n ≠ 0 ∧ ((s.coreDies vd).isEmpty = true ∨ k1.fitsEmpty = false) then .error 10
        else
          let dies := s.coreDies vd
          let shares := (List.range dies.length).map fun i => (dies.getD i 0, shareOf n dies.length i)
          .ok { k1 with grid := grid, issued := true, unplaced := shares.filter fun p => p.2 != [] }

/-! ## Steal messages between dies -/

/-- The unplaced blocks of a launch on a die. -/
def Launch.left (k : Launch) (die : Nat) : List Nat := smGet [] k.unplaced die

/-- The die with the most unplaced blocks among those not asked yet, ties to the lowest (R31). -/
def Launch.richest (k : Launch) (asked : List Nat) : Option Nat :=
  ([0, 1, 2, 3].filter fun d => !(asked.contains d) && k.left d != []).foldl
    (fun b d =>
      match b with
      | none => some d
      | some e => if (k.left e).length < (k.left d).length then some d else some e) none

/-- A distributor with no unplaced blocks sends a steal message where blocks are unplaced elsewhere; `asked` are the
dies that have granted it none (R31). -/
def State.askSteal (s : State) (level die : Nat) (asked : List Nat) : State :=
  match s.launchOf level with
  | none => s
  | some k =>
    if k.left die ≠ [] ∨ (s.steals.any fun x => x.launch == level && x.thief == die) = true then s
    else
      match k.richest (die :: asked) with
      | none => s
      | some v => { s with nextId := s.nextId + 1, steals := s.steals ++ [⟨s.nextId, level, die, v, asked, s.tick, none⟩] }

/-- Every die of a launch's partition that has no unplaced blocks asks (R31). -/
def State.askAll (s : State) (vd level : Nat) : State := (s.coreDies vd).foldl (fun s d => s.askSteal level d []) s

/-- Whether the launch of a level may issue and is the first in its graph that may. -/
def State.issueTurn (s : State) (l : Nat) : Option (Launch × Level) :=
  match s.launchOf l, s.level l with
  | some k, some m =>
    let before := (s.launchesOf (m.parent.getD 0)).any fun o => decide (o.level < l) && s.mayIssue o
    if s.mayIssue k && !before then some (k, m) else none
  | _, _ => none

/-- LAUNCH_ISSUE (R22, R23, R26, R30, R298). -/
def execLaunchIssue (l : Nat) (s : State) : Host.Outcome State Fault Refusal :=
  event s fun s =>
    match s.issueTurn l with
    | none => s
    | some (k, m) =>
      match s.readLaunch m.vd k with
      | .error c => s.streamFault m.vd m.slot c k.cmd
      | .ok k1 =>
        let tag := s.freeTag m.vd
        let s1 := { s with
          launches := replaceFirst (fun x => x.level == l) { k1 with tag := tag } s.launches
          shadow := s.shadow.filter fun e => e.2.lt != tag }
        (s1.startLevel 4 l).askAll m.vd l

end Sys2Proof.Machine
end

