-- ==== Sys2Proof/Machine/Place.lean ====
section
/-! DEFINITION. Admission of blocks and task gangs to cores (R26-R29, R42, R45), steal messages between dies (R31, R51),
and the deques of cores (R43, R44, R49, R50). -/

namespace Sys2Proof.Machine

/-! ## Room on a core -/

/-- The first pipes at which `n` gangs of `w` slices fit on a core now, each with `need` slice blocks on its pipes, with
`spad` more bytes of scratchpad (R27, R28). -/
def State.placeOn (s : State) (core w need n spad : Nat) : Option (List Nat) :=
  let resident := s.gangs.filter fun g => g.core == core && !g.saved
  let used := ((s.blocks.filter fun b => b.core == core && !b.saved).map fun b => b.spadBytes).foldl (fun a b => a + b) 0
  if 64 < resident.length + n ∨ 0x100000 < used + spad then none
  else placeGangs w need n ((List.range 8).map (s.freeSlices core))

/-- The blocks resident on a core. -/
def State.blocksOn (s : State) (core : Nat) : Nat := (s.blocks.filter fun b => b.core == core && !b.saved).length

/-- The core among some with the fewest resident blocks, ties to the first (R28). -/
def State.emptiest (s : State) (cores : List Nat) : Option Nat :=
  cores.foldl
    (fun b c =>
      match b with
      | none => some c
      | some d => if s.blocksOn c < s.blocksOn d ∨ (s.blocksOn c = s.blocksOn d ∧ c < d) then some c else some d) none

/-- The cores of a device's partition on a die. -/
def State.coresOn (s : State) (vd die : Nat) : List Nat :=
  match s.part (s.vdev vd).part with
  | some p => p.res.cores.filter fun c => dieOf c == die
  | none => []

/-! ## The start of a gang -/

/-- A gang at its first instruction (R29, R45, R248). -/
def State.startGang (s : State) (k : Launch) (vd core block : Nat) (index : Option Nat) (first role : Nat) (entry : Addr)
    (sregs : SMap Word) (interval : Nat) : Gang :=
  { Gang.init with
    id := s.nextId, core := core, vd := vd, block := block, gangIndex := index, width := k.width, firstPipe := first,
    role := role, launch := k.level, tvec := BitVec.ofNat 64 ((s.vdev vd).tvecd.toNat / 512 * 512), xmax := k.xmax,
    xres := k.xres, interval := interval,
    strands :=
      [{ Strand.init with
          active := BitVec.ofNat 64 (2 ^ k.width - 1), pc := entry, sregs := sregs, since := s.cycle + 1,
          opens := s.cycle + 1 }] }

/-- The parameter-block address in S0:S1 (R29). -/
def paramRegs (par : Addr) : SMap Word := smSet 0 (smSet 0 [] 0 (par.extractLsb' 0 32)) 1 (par.extractLsb' 32 32)

/-- Starts the gangs of a block from an index on, at their first pipes (R28, R29). -/
def State.startGangs (s : State) (k : Launch) (vd core block : Nat) : Nat → List Nat → State
  | _, [] => s
  | i, f :: r =>
    let g := s.startGang k vd core block (some i) f (k.roles.toNat / 4 ^ i % 4) k.entry (paramRegs k.par) 1
    State.startGangs (({ s with nextId := s.nextId + 1, gangs := s.gangs ++ [g] }).childOpen k.level) k vd core block
      (i + 1) r

/-- The chainrings that a launch declares, every stage empty with phase 0 (R42). -/
def ringsOf (k : Launch) : SMap Ring :=
  ((List.range 8).filter fun n => decide (k.rings.getD n 0 ≠ 0)).map fun n => (n, ⟨k.rings.getD n 0, [], [], []⟩)

/-- A block at admission: its scratchpad bytes, fresh barriers, empty rings (R42, R175). -/
def newBlock (id launch index core vd spad : Nat) (isTask : Bool) (rings : SMap Ring) : Block :=
  { id := id, launch := launch, index := index, core := core, vd := vd, spadBytes := spad, isTask := isTask,
    scratch := [], bars := [], rings := rings, bxCarried := [], carries := [], saved := false, preemptFrom := none }

/-! ## Task records -/

/-- The record at the head of a core's deque. -/
def State.headTask (s : State) (core : Nat) : Option Task := s.deque.find? fun k => k.core == core

/-- The record at the tail of a core's deque. -/
def State.tailTask (s : State) (core : Nat) : Option Task := s.deque.reverse.find? fun k => k.core == core

/-- The block that a task joins: the forking block, resident on the core that takes the task (R45). -/
def State.joinedBlock (s : State) (core : Nat) (k : Task) : Option Block :=
  match s.blockOf k.block with
  | some b => if b.core = core ∧ b.saved = false then some b else none
  | none => none

/-- The launch of a record and the first pipe at which its gang fits on a core now; a block that is being pre-empted
takes in no gang. -/
def State.taskFits (s : State) (core : Nat) (k : Task) : Option (Launch × Nat) :=
  match s.launchOf k.launch with
  | none => none
  | some l =>
    if s.preempting k.block || (s.vdev k.vd).paused then none
    else
      match s.placeOn core (k.width / 8) l.need 1 0 with
      | some (f :: _) => some (l, f)
      | _ => none

/-- Admits a task gang, in the forking block or in a block of its own (R45, R299). -/
def State.startTask (s : State) (core : Nat) (k : Task) (l : Launch) (first : Nat) (join : Option Block) : State :=
  let sregs := (List.range 6).foldl (fun m i => smSet 0 m i (k.args.getD i 0)) ([] : SMap Word)
  let j := capJ (k.interval + 1)
  match join with
  | some b =>
    let g := s.startGang l k.vd core b.id none first 0 k.entry sregs j
    { s with nextId := s.nextId + 1, gangs := s.gangs ++ [{ g with width := k.width }] }
  | none =>
    let b := newBlock s.nextId k.launch k.blockIndex core k.vd 0 true []
    let s1 := { s with nextId := s.nextId + 1, blocks := s.blocks ++ [b] }
    let g := s1.startGang l k.vd core b.id none first 0 k.entry sregs j
    { s1 with nextId := s1.nextId + 1, gangs := s1.gangs ++ [{ g with width := k.width }] }

/-- What TASK_TAKE would place on a core: the record at the head of its deque, where its gang fits (R44). -/
def State.takeable (s : State) (core : Nat) : Option (Task × Launch × Nat) :=
  match s.headTask core with
  | none => none
  | some k => (s.taskFits core k).map fun r => (k, r.1, r.2)

/-- TASK_TAKE (R44, R45); in one cycle it comes before the steals and pushes that reach the deque (R49). -/
def execTaskTake (core : Nat) (s : State) : Host.Outcome State Fault Refusal :=
  event s fun s =>
    match s.takeable core with
    | none => s
    | some (k, l, f) =>
      if s.later (dequeMark core) [0] then s
      else
        (({ s with deque := dropFirst (fun (x : Task) => x.core == core) s.deque }).startTask core k l f
          (s.joinedBlock core k)).marked (.deque core [0])

/-- The cores of its die and partition that a core visits to steal, in ring order (R44). -/
def State.stealRing (s : State) (core : Nat) : List Nat :=
  match s.parts.find? fun p => p.res.cores.contains core with
  | none => []
  | some p =>
    ((List.range 63).map fun i => 64 * dieOf core + (core % 64 + i + 1) % 64).filter fun c => p.res.cores.contains c

/-- The tail record of a core's deque, if it may be stolen. -/
def State.lootOf (s : State) (core : Nat) : Option Task :=
  match s.tailTask core with
  | some k => if k.isLocal then none else some k
  | none => none

/-- The cores that a thief visits, in order: up to the first whose tail record may be stolen (R44). -/
def State.visits (s : State) : List Nat → List Nat
  | [] => []
  | c :: r => if (s.lootOf c).isSome then [c] else c :: s.visits r

/-- The record that a core with an empty deque steals: the first tail record with LOCAL 0, whose gang fits (R44). -/
def State.stealable (s : State) (core : Nat) : Option (Task × Launch × Nat) :=
  if (s.headTask core).isSome then none
  else
    match (s.stealRing core).findSome? s.lootOf with
    | none => none
    | some k => (s.taskFits core k).map fun r => (k, r.1, r.2)

/-- Whether a steal comes too early or too late in its cycle: an owner whose deque the thief visits takes first, and what
comes after it in the order of R49 has been applied to such a deque (R49, R50). -/
def State.stealOutOfTurn (s : State) (core : Nat) : Bool :=
  (s.visits (s.stealRing core)).any fun c => (s.takeable c).isSome || s.later (dequeMark c) [1, core]

/-- TASK_STEAL: a block of one gang, with no scratchpad and no rings (R44, R45). -/
def execTaskSteal (core : Nat) (s : State) : Host.Outcome State Fault Refusal :=
  event s fun s =>
    match s.stealable core with
    | none => s
    | some (k, l, f) =>
      if s.stealOutOfTurn core then s
      else
        (({ s with deque := (dropFirst (fun (x : Task) => x.core == k.core) s.deque.reverse).reverse }).startTask core k l f
          none).marked (.deque k.core [1, core])

/-! ## Blocks -/

/-- Where the next block of a launch on a die is admitted now: its index, its core and the first pipes of its gangs
(R28, R30). Nothing is admitted before a task that waits on that core and fits. -/
def State.admittable (s : State) (l die : Nat) : Option (Launch × Nat × Nat × Nat × List Nat) :=
  match s.launchOf l, s.level l with
  | some k, some m =>
    match k.left die with
    | [] => none
    | i :: _ =>
      let fits := fun c => s.placeOn c (k.width / 8) k.need k.gangs k.spad
      match s.emptiest ((s.coresOn m.vd die).filter fun c => (fits c).isSome) with
      | none => none
      | some c =>
        if (s.takeable c).isSome || (s.vdev m.vd).paused || (s.vdev m.vd).resetting then none
        else (fits c).map fun fs => (k, m.vd, i, c, fs)
  | _, _ => none

/-- Every die of a launch whose distributor has no unplaced blocks, and no message under way, asks where some are (R31). -/
def State.reask (s : State) (level : Nat) : State :=
  match s.level level with
  | some l => s.askAll l.vd level
  | none => s

/-- BLOCK_ADMIT (R28-R31, R42). -/
def execBlockAdmit (l die : Nat) (s : State) : Host.Outcome State Fault Refusal :=
  event s fun s =>
    match s.admittable l die with
    | none => s
    | some (k, vd, i, core, fs) =>
      let k1 := { k with unplaced := smSet [] k.unplaced die (k.left die).tail }
      let b := newBlock s.nextId l i core vd k.spad false (ringsOf k)
      let s1 := { s with
        nextId := s.nextId + 1
        launches := replaceFirst (fun (x : Launch) => x.level == l) k1 s.launches
        blocks := s.blocks ++ [b] }
      (s1.startGangs k vd core b.id 0 fs).reask l

/-! ## Steal messages -/

/-- The number of its `n` unplaced blocks that a victim grants (R31). -/
def grantOf (n : Nat) : Nat := min 8 ((n + 1) / 2)

/-- Whether a message is the next that its victim answers: it has arrived, and in order of arrival, those of one tick in order
of their thieves (R51). -/
def State.stealNext (s : State) (x : Steal) : Bool :=
  decide (x.arrive < s.tick) &&
    (s.steals.filter fun y => y.grant.isNone && y.victim == x.victim && (s.launchOf y.launch).isSome).all fun y =>
      decide (x.arrive < y.arrive ∨ (x.arrive = y.arrive ∧ x.thief ≤ y.thief))

/-- STEAL_MESSAGE: the victim answers from the blocks it holds now, its highest indices, and gives them up (R31, R51). -/
def execStealMessage (n : Nat) (s : State) : Host.Outcome State Fault Refusal :=
  event s fun s =>
    match s.steals.find? fun x => x.id == n && x.grant.isNone with
    | none => s
    | some x =>
      match s.launchOf x.launch with
      | none => { s with steals := s.steals.filter fun (y : Steal) => y.id != n }
      | some k =>
        if !(s.stealNext x) then s
        else
          let mine := k.left x.victim
          let keep := mine.length - grantOf mine.length
          let k1 := { k with unplaced := smSet [] k.unplaced x.victim (mine.take keep) }
          ({ s with
            launches := replaceFirst (fun (l : Launch) => l.level == x.launch) k1 s.launches
            steals := replaceFirst (fun (y : Steal) => y.id == n) { x with grant := some (mine.drop keep) } s.steals }).reask
              x.launch

/-- STEAL_REPLY: the thief takes the blocks granted, or asks the next die; blocks that have landed may be asked for (R31). -/
def execStealReply (n : Nat) (s : State) : Host.Outcome State Fault Refusal :=
  event s fun s =>
    match s.steals.find? fun x => x.id == n && x.grant.isSome with
    | none => s
    | some x =>
      let s1 := { s with steals := s.steals.filter fun (y : Steal) => y.id != n }
      match s1.launchOf x.launch, x.grant with
      | some k, some (b :: r) =>
        let k1 := { k with unplaced := smSet [] k.unplaced x.thief (k.left x.thief ++ (b :: r)) }
        ({ s1 with launches := replaceFirst (fun (l : Launch) => l.level == x.launch) k1 s1.launches }).reask x.launch
      | some _, _ => (s1.askSteal x.launch x.thief (x.asked ++ [x.victim])).reask x.launch
      | none, _ => s1

end Sys2Proof.Machine
end

