-- ==== Sys2Proof/Machine/Wake.lean ====
section
/-! DEFINITION. What ends waits: completions (R163, R302), rechecks, deadlines and grants (R144, R147, R154, R159, R187),
the throttle (R307), scheduling units (R309, R310), and answers to page faults with TLB invalidation (R319, R320, R334,
R346). -/

namespace Sys2Proof.Machine

/-! ## Completions -/

/-- Ends an operation of one kind where its order allows it (R163, R283). -/
def State.completeKind (s : State) (op : Nat) (p : OpKind → Bool) : State :=
  match s.ops.find? fun o => o.id == op with
  | none => s
  | some o => if p o.kind then s.complete op else s

/-- The results of an operation that are left to write, in place of it: same number, same flag (R102). -/
def State.residue (s : State) (o : Op) (vs : List (Nat × Nat × Word)) (ss : List (Nat × Word)) (bs : List (ByteRef × Byte)) :
    State :=
  { s with ops := replaceFirst (fun (p : Op) => p.id == o.id) { o with kind := .tile vs ss bs } s.ops }

/-- Some lanes of an operation's results land; the others are left to it (R102). -/
def State.landLanes (s : State) (o : Op) (lanes : Mask) : State :=
  let on := fun (v : Nat × Nat × Word) => lanes.getLsbD v.2.1
  match o.kind with
  | .load d sz ls =>
    let now := ls.filter fun l => lanes.getLsbD l.1
    let refs := now.flatMap fun (l : Nat × Nat × List ByteRef) => l.2.2
    let s1 := (s.performLoad o d sz now).noteRead o.gang o.strand o.id o.acq false (s.carriesAt o.block refs)
    { s1 with
      ops := replaceFirst (fun (p : Op) => p.id == o.id)
        { o with kind := .load d sz (ls.filter fun l => !(lanes.getLsbD l.1)) } s1.ops }
  | .atom op d sz ls =>
    let refs := o.kind.refs
    let cs := s.carriesAt o.block refs
    let r := s.atomNow o op d sz ls
    let s1 := (r.1.noteRead o.gang o.strand o.id o.acq (isRelease o.rel) cs).setCarries o.block refs
      (carryAfter (s.syncTo o.gang o.acq cs) o.rel) true
    (s1.putLanes o.gang (r.2.filter on)).residue o (r.2.filter fun v => !(on v)) [] []
  | .tile vs ss bs => (s.putLanes o.gang (vs.filter on)).residue o (vs.filter fun v => !(on v)) ss bs
  | _ => s

/-- The lanes of an operation's results that are left to land. -/
def OpKind.lanesLeft : OpKind → List Nat
  | .load _ _ ls => ls.map fun l => l.1
  | .atom _ _ _ ls => ls.map fun l => l.1
  | .tile vs _ _ => vs.map fun v => v.2.1
  | _ => []

/-- Some lanes of the results of a matrix operation land, which is performed; the others are left to an operation in its place
(R102, R229). -/
def State.landMop (s : State) (m : MOp) (lanes : Mask) : State :=
  match s.gangOf m.gang with
  | none => s
  | some g =>
    match m.vResults g with
    | none => s
    | some vs =>
      let on := fun (v : Nat × Nat × Word) => lanes.getLsbD v.2.1
      let o : Op :=
        { id := m.id, gang := m.gang, strand := m.strand, before := [], block := m.block, flag := m.flag, acq := none, rel := [],
          word := m.word, mask := m.mask, interval := 0, kind := .tile (vs.filter fun v => !(on v)) [] [] }
      let s1 := ((s.putLanes m.gang (vs.filter on)).closeMop m g)
      { s1 with ops := s1.ops ++ [o] }

/-- LOAD_COMPLETE: the lanes named of an operation's results land, those of a load, an atomic or a matrix operation each by
itself; with the last of them the operation has completed (R102, R163). -/
def execLoadComplete (op : Nat) (lanes : Mask) (s : State) : Host.Outcome State Fault Refusal :=
  event s fun s =>
    match s.ops.find? fun o => o.id == op with
    | some o =>
      if o.kind.lanesLeft.all lanes.getLsbD then
        match o.kind with
        | .store _ => s
        | .held _ => s
        | _ => s.complete op
      else if s.mayEnd o then s.landLanes o lanes
      else s
    | none =>
      match s.mops.find? fun m => m.id == op with
      | some m => if s.mopReady m then s.landMop m lanes else s
      | none => s

/-- STORE_PERFORMED (R163). -/
def execStorePerformed (op : Nat) (s : State) : Host.Outcome State Fault Refusal :=
  event s fun s => s.completeKind op fun k =>
    match k with
    | .store _ => true
    | _ => false

/-- ATOMIC_COMPLETE (R163). -/
def execAtomicComplete (op : Nat) (s : State) : Host.Outcome State Fault Refusal :=
  event s fun s => s.completeKind op fun k =>
    match k with
    | .atom _ _ _ _ => true
    | _ => false

/-- TILE_STEP_COMPLETE (R163). -/
def execTileStepComplete (op : Nat) (s : State) : Host.Outcome State Fault Refusal :=
  event s fun s => s.completeKind op fun k =>
    match k with
    | .tile _ _ _ => true
    | _ => false

/-- HELD_RELEASE_APPLY (R302): not in a cycle in which its barrier has taken what comes after it (R176). -/
def execHeldReleaseApply (op : Nat) (s : State) : Host.Outcome State Fault Refusal :=
  event s fun s =>
    match s.ops.find? fun o => o.id == op with
    | none => s
    | some o =>
      match o.kind with
      | .held k => if s.heldInTurn o k then s.complete op else s
      | _ => s

/-! ## Deadlock -/

/-- Whether every live strand of a gang is parked and waits for nothing else (R144). -/
def Gang.deadlocked (g : Gang) : Bool :=
  !g.strands.isEmpty && !g.saved && g.strands.all fun t =>
    (t.wait == .parked || t.wait == .regrp) && (t.handler || !t.cancelOwed)

/-- DEADLOCK_TRAP: the parked strand with the lowest lane raises illegal-state with TINFO 1 (R144). -/
def execDeadlockTrap (gang : Nat) (s : State) : Host.Outcome State Fault Refusal :=
  event s fun s =>
    match s.gangs.find? fun g => g.id == gang with
    | none => s
    | some g =>
      match lowest g.strands with
      | none => s
      | some t =>
        if g.deadlocked then
          let f := s.focus gang t.idx
          let tr : Trap := ⟨.illegalState, f.t.active, 0, 1⟩
          (if t.wait = .regrp then f.trapHere tr else f.trapBoundary tr false).unfocus
        else s

/-! ## Waits that end -/

/-- An event on one strand: it acts with the strand focused. -/
def State.onStrand (s : State) (gang idx : Nat) (f : State → State) : State :=
  let s1 := s.focus gang idx
  if s1.focused then (f s1).unfocus else s1

/-- Whether the focused strand's JOIN reads its counter again: the location has been written, as its bytes show, or 1,024
cycles have passed (R159; of a write that changes no byte see log entry 107). -/
def State.joinDue (s : State) : Bool :=
  match s.t.wait with
  | .join seen cycle => decide (cycle + 1024 ≤ s.cycle) || seen.any fun x => s.byteOf s.g.block x.1 != x.2
  | _ => false

/-- JOIN_RECHECK (R159). -/
def execJoinRecheck (gang strand : Nat) (s : State) : Host.Outcome State Fault Refusal :=
  let s1 := s.focus gang strand
  if s1.focused && s1.joinDue then
    match s1.instrHere with
    | some (.join p scp a) => execJoin p scp a s1
    | some (.joinSp p scp a) => execJoinSp p scp a s1
    | _ => .next s1.unfocus
  else .next s1.unfocus

/-- Whether the focused strand waits at BXWAIT, CRWAIT or CWAIT. -/
def State.waitsAgain (s : State) : Bool :=
  match s.t.wait with
  | .again _ => true
  | _ => false

/-- CWAIT_DEADLINE: a barrier that has completed is found complete, else the promise is missed (R187). -/
def execCwaitDeadline (gang strand : Nat) (s : State) : Host.Outcome State Fault Refusal :=
  let s1 := s.focus gang strand
  if s1.focused && s1.waitsAgain then
    match s1.instrHere with
    | some (.cwait p par d a) => execCwait p par d a s1
    | _ => .next s1.unfocus
  else .next s1.unfocus

/-- A strand goes on past the word at which it waited (R147, R154). -/
def State.passWord (s : State) : State :=
  { s with t := s.t.finish 1 s.cycle (s.g.dbgc.getLsbD 20) .seq }

/-- SLEEP_WAKE (R147). -/
def execSleepWake (gang strand : Nat) (s : State) : Host.Outcome State Fault Refusal :=
  event s fun s => s.onStrand gang strand fun s =>
    match s.t.wait with
    | .sleep k => if k ≤ s.tickOf s.g.vd then s.passWord else s
    | _ => s

/-- XACQ_GRANT: the pending requests of the gang's core are examined, in order of issue (R154). -/
def execXacqGrant (gang : Nat) (s : State) : Host.Outcome State Fault Refusal :=
  event s fun s =>
    match s.gangs.find? fun g => g.id == gang with
    | none => s
    | some g => s.examine g.core

/-! ## The throttle -/

/-- CONGESTION_SIGNAL: acted on at most once in 1,000 ticks (R307). -/
def execCongestionSignal (core : Nat) (s : State) : Host.Outcome State Fault Refusal :=
  event s fun s =>
    let h := smGet freshThrottle s.throttles core
    let ignored := match h.lastSignal with
      | some t => decide (s.tick < t + 1000)
      | none => false
    if ignored then s
    else { s with throttles := smSet freshThrottle s.throttles core ⟨max 1 (h.k - 1), some s.tick, s.tick⟩ }

/-- Whether a throttle level is due to rise (R307). -/
def State.recoveryDue (s : State) (core : Nat) : Bool :=
  let h := smGet freshThrottle s.throttles core
  decide (h.k < 8 ∧ h.lastStep + 10000 ≤ s.tick)

/-- THROTTLE_RECOVERY (R307). -/
def execThrottleRecovery (core : Nat) (s : State) : Host.Outcome State Fault Refusal :=
  event s fun s =>
    let h := smGet freshThrottle s.throttles core
    if s.recoveryDue core then
      { s with throttles := smSet freshThrottle s.throttles core { h with k := min 8 (h.k + 1), lastStep := s.tick } }
    else s

/-! ## Scheduling units -/

/-- The ticks of a slice: the device's part, by its weight, of a period of 100 µs, in whole microseconds, at least 2 (R310). -/
def State.sliceOf (s : State) (u : GrantUnit) (n vd : Nat) : Nat :=
  let total := ((s.claimants u n).map fun v => (s.vdev v).weight u).foldl (fun a b => a + b) 0
  let w := (s.vdev vd).weight u
  1000 * max 2 (if total = 0 then 100 else (200 * w + total) / (2 * total))

/-- Whether the slice of a unit is over: it is granted to no device that may hold it, or its time has passed and another
device has work (R310). -/
def State.sliceOver (s : State) (u : GrantUnit) (n : Nat) : Bool :=
  let ws := s.claimants u n
  match s.grants.find? fun g => g.unit == u && g.num == n with
  | none => ws != []
  | some g => !(s.bankHeld u n) && ws != [] && (!(ws.contains g.vd) || (decide (g.ends ≤ s.tick) && ws != [g.vd]))

/-- A unit grants itself to a device for a slice (R309, R310). -/
def State.grant (s : State) (u : GrantUnit) (n vd : Nat) : State :=
  { s with
    grants := (s.grants.filter fun (g : Grant) => !(g.unit == u && g.num == n)) ++ [⟨u, n, vd, s.tick + s.sliceOf u n vd⟩] }

/-- GRANT_SLICE_EXPIRY: the unit goes to the next device that has work; one of weight 0 only where no other has (R309,
R310). -/
def execGrantSliceExpiry (u : GrantUnit) (n : Nat) (s : State) : Host.Outcome State Fault Refusal :=
  event s fun s =>
    if s.sliceOver u n then
      match nextAfter (s.grantedTo u n) (s.claimants u n) with
      | some v => s.grant u n v
      | none => s
    else s

/-! ## Page faults -/

/-- An answer to a page-fault record reaches the strands that stall on it (R319). -/
def State.answerStrands (s : State) (vd rec : Nat) (fail : Bool) : State :=
  (s.gangs.filter fun g => g.vd == vd).foldl
    (fun s g =>
      g.strands.foldl
        (fun s t =>
          match t.wait with
          | .fault r mask addr info =>
            if r ≠ rec then s
            else
              s.onStrand g.id t.idx fun s =>
                let s1 := { s with t := { s.t with wait := .none, since := s.cycle + 1, opens := s.cycle + 1 } }
                if fail then
                  let tr : Trap := ⟨.translationFault, mask, addr, info⟩
                  if s1.t.clause.isSome then s1.trapHere tr else s1.trapBoundary tr false
                else s1
          | _ => s) s) s

/-- An answer reaches the copy commands that wait at an element: a failed element records code 0x06 when it is
processed (R320). -/
def State.answerCopies (s : State) (vd rec : Nat) (fail : Bool) : State :=
  { s with
    copies := s.copies.map fun (c : CopyCmd) =>
      match c.waiting with
      | some (r, e) =>
        if c.vd = vd ∧ r = rec then { c with waiting := none, failed := if fail then e :: c.failed else c.failed } else c
      | none => c }

/-- Answers a page-fault record that is outstanding (R319, R320, R346). -/
def State.answerFault (s : State) (vd rec : Nat) (fail : Bool) : State :=
  if s.pfrecs.any fun r => r.vd == vd && r.id == rec then
    (({ s with pfrecs := s.pfrecs.filter fun (r : PfRec) => !(r.vd == vd && r.id == rec) }).answerStrands vd rec fail).answerCopies
      vd rec fail
  else s

/-- PFANS: an answer that names no outstanding record is ignored (R335, R346). -/
def execPfans (vd : Nat) (value : Addr) (s : State) : Host.Outcome State Fault Refusal :=
  event s fun s => s.answerFault vd (value.extractLsb' 0 32).toNat (value.getLsbD 32)

/-- Whether a record has gone unanswered for the fault timeout (R319, R335). -/
def State.faultLate (s : State) (r : PfRec) : Bool := decide (r.tick + 1000 * (s.vdev r.vd).pfto ≤ s.tick)

/-- FAULT_TIMEOUT: as an answer of fail (R319). -/
def execFaultTimeout (vd rec : Nat) (s : State) : Host.Outcome State Fault Refusal :=
  event s fun s =>
    match s.pfrecs.find? fun r => r.vd == vd && r.id == rec with
    | none => s
    | some r => if s.faultLate r then s.answerFault vd rec true else s

/-- TLBI: BUSY is set; while it is, each lane, element and fetch uses an old translation or the new one (R334). -/
def execTlbi (vd : Nat) (s : State) : Host.Outcome State Fault Refusal :=
  event s fun s => if 256 ≤ vd then s else s.setVdev { s.vdev vd with busy := some s.nextId }

/-- Whether every access that was translated before an invalidation has been performed (R334). -/
def State.flushed (s : State) (vd since : Nat) : Bool :=
  let mine := fun gid =>
    match s.gangOf gid with
    | some g => g.vd == vd
    | none => false
  (s.ops.all fun o => !(mine o.gang && decide (o.id < since))) &&
    s.mops.all fun m => !(m.vd == vd && memMop m.instr && decide (m.id < since))

/-- TLB_INVALIDATION_DONE: the device's cached translations are gone (R334). -/
def execTlbInvalidationDone (vd : Nat) (s : State) : Host.Outcome State Fault Refusal :=
  event s fun s =>
    match (s.vdev vd).busy with
    | some n =>
      if s.flushed vd n then
        { (s.setVdev { s.vdev vd with busy := none }) with cached := s.cached.filter fun (c : Cached) => c.vd != vd }
      else s
    | none => s

end Sys2Proof.Machine
end

