-- ==== Sys2Proof/Machine/Preempt.lean ====
section
/-! DEFINITION. Pre-emption of blocks: the request and the run-on (R312, R313, R316), rewinds under recipes (R261, R262,
R325), full saves (R314) and the resumption of a saved block (R315, R317). -/

namespace Sys2Proof.Machine

/-! ## The request -/

/-- A strand that stops for a pre-emption: its wait ends as it will resume, a sleeping one past its SLEEP (R160, R194,
R313); a parked strand stays parked, and what is never interrupted part-way goes on. -/
def Strand.stop (t : Strand) (cycle : Nat) (step : Bool) : Strand :=
  match t.wait with
  | .parked => t
  | .regrp => t
  | .decode _ _ => t
  | .heldBar _ => t
  | .sleep _ => { t.finish 1 cycle step .seq with wait := .stopped }
  | _ => { t with wait := .stopped }

/-- Whether a strand is not eligible, or stands at a clause boundary (R313). -/
def Strand.restful (t : Strand) : Bool := t.wait != .none || t.haltedBy.isSome || t.clause.isNone

/-- The governor raises a core's arithmetic clock to 1.2 GHz for a pre-emption (R316). -/
def State.raiseClock (s : State) (core : Nat) : State :=
  let d := s.die (dieOf core)
  if d.clock < 12 then { s with dies := smSet freshDie s.dies (dieOf core) { d with clock := 12 } } else s

/-- Requests the pre-emption of a block: clean strands that are not eligible or stand at a boundary stop at once; the
others run on (R313). A request for a block that is being pre-empted has no further effect (R312). -/
def State.preemptBlock (s : State) (block : Nat) : State :=
  match s.blockOf block with
  | none => s
  | some b =>
    if b.saved || b.preemptFrom.isSome then s
    else
      let s1 := ((s.setBlock { b with preemptFrom := some s.cycle }).count b.vd 15 1).raiseClock b.core
      { s1 with
        gangs := s1.gangs.map fun (g : Gang) =>
          if g.block ≠ block then g
          else
            let stop := fun (t : Strand) =>
              if t.clean && t.restful then t.stop s.cycle (g.dbgc.getLsbD 20) else t
            let gone := (g.strands.filter fun t => t.clean && t.restful).map fun t => t.idx
            { g with strands := g.strands.map stop, xreqs := g.xreqs.filter fun x => !(gone.contains x.strand) } }

/-- PREEMPTION_REQUEST (R312, R313). -/
def execPreemptionRequest (block : Nat) (s : State) : Host.Outcome State Fault Refusal :=
  event s fun s => s.preemptBlock block

/-! ## The end of the run-on -/

/-- Whether a strand stands where a pre-emption leaves it: stopped, parked, or fault-stalled, its instruction not issued
(R313). -/
def Strand.atRest (t : Strand) : Bool :=
  match t.wait with
  | .stopped => true
  | .parked => true
  | .regrp => true
  | .fault _ _ _ _ => true
  | _ => false

/-- Whether a strand has stopped clean (R313). -/
def Strand.stoppedClean (t : Strand) : Bool := t.clean && !t.handler && t.atRest

/-- Whether a strand has stopped; one that is fault-stalled has (R313). -/
def Strand.hasStopped (t : Strand) : Bool :=
  match t.wait with
  | .stopped => true
  | .fault _ _ _ _ => true
  | _ => t.stoppedClean

/-- Whether a strand that has not stopped is eligible: no full queue, busy decoder or use of what it releases holds its next
instruction (R303, R313). -/
def Strand.runsOn (t : Strand) : Bool :=
  t.haltedBy.isNone &&
    match t.wait with
    | .none => true
    | .hold .settle => true
    | .hold .follow => true
    | .hold (.budget _) => true
    | _ => false

/-- The gangs of a block. -/
def State.gangsIn (s : State) (block : Nat) : List Gang := s.gangs.filter fun g => g.block == block

/-- Whether an operation that a gang issued to memory or to the matrix queue is outstanding, or a decode runs (R313). -/
def State.issuedLeft (s : State) (g : Gang) : Bool :=
  (s.ops.any fun o => o.gang == g.id) || (s.mops.any fun m => m.gang == g.id) ||
    g.strands.any Strand.decodes

/-- Whether the run-on of a block has ended (R313). -/
def State.runonOver (s : State) (b : Block) (t0 : Nat) : Bool :=
  let gs := s.gangsIn b.id
  let ts := gs.flatMap fun g => g.strands
  ts.all Strand.hasStopped ||
    (ts.all (fun t => t.hasStopped || !t.runsOn) && !(gs.any s.issuedLeft)) ||
    decide (t0 + 8192 ≤ s.cycle)

/-- A strand at the end of the run-on: one that has not stopped does, unclean; a fault-stalled one, which counts as stopped,
leaves its stall, and its instruction will be executed anew (R313). -/
def Strand.halted (t : Strand) (cycle : Nat) (step : Bool) : Strand :=
  match t.wait with
  | .fault _ _ _ _ => { t with wait := .stopped }
  | _ => if t.hasStopped then t else { t.stop cycle step with clean := false }

/-- The end of the run-on in a gang. -/
def Gang.haltAll (g : Gang) (cycle : Nat) : Gang :=
  { g with xreqs := [], strands := g.strands.map fun t => t.halted cycle (g.dbgc.getLsbD 20) }

/-! ## Recipes (R261) -/

/-- A recipe: where recomputation starts, 0 for none, and the units of state that it lists live, numbered as the written
set numbers them (R259). -/
structure Recipe where
  recomp : Addr
  live : List Nat
  deriving DecidableEq, Repr

/-- The fields of a recipe's 64 bytes; `none` for an invalid one (R261). -/
def parseRecipe (bs : List Byte) : Option Recipe :=
  let v := leNat bs
  let on := fun (lo n base : Nat) => ((List.range n).filter fun i => decide (bits v (lo + i) 1 = 1)).map fun i => base + i
  if bits v 0 2 ≠ 0 ∨ bits v 206 2 ≠ 0 ∨ bits v 212 12 ≠ 0 ∨ (bs.drop 32).any (fun b => b != 0) = true then none
  else
    some
      { recomp := BitVec.ofNat 64 (bits v 0 64)
        live := on 64 64 0 ++ on 128 64 128 ++ on 192 7 192 ++ on 200 4 200 ++
          (if bits v 204 1 = 1 then (List.range 64).map fun i => 64 + i else []) ++
          (if bits v 205 1 = 1 then [208] else []) ++ on 208 4 204 ++ on 224 32 212 }

/-- The recipe that a strand's TRCP names, if it names a valid one. -/
def State.recipeOf (s : State) (vd : Nat) (t : Strand) : Option Recipe :=
  if t.trcp = 0 then none
  else
    match s.vaRead vd t.trcp.toNat 64 with
    | .ok bs => parseRecipe bs
    | .error _ => none

/-! ## Rewind and save -/

/-- The strands of a mark group in a gang. -/
def Gang.groupOf (g : Gang) (m : Mark) : List Strand :=
  g.strands.filter fun t => (t.mark.map fun x => x.group) == some m.group

/-- The mark groups of a gang. -/
def Gang.marks (g : Gang) : List Mark :=
  (g.strands.filterMap fun t => t.mark).foldl (fun l m => if l.any fun x => x.group == m.group then l else l ++ [m]) []

/-- The recipe under which a mark group is rewound: every strand of it stopped clean, they hold the lanes of its mark,
and no written set holds what the recipe lists live (R259, R262, R313). -/
def State.rewindable (s : State) (g : Gang) (m : Mark) : Option Recipe :=
  let ts := g.groupOf m
  match lowest ts with
  | none => none
  | some low =>
    if !(ts.all Strand.stoppedClean) || decide (unionOf ts ≠ m.active &&& ~~~g.exited) then none
    else
      match s.recipeOf g.vd low with
      | none => none
      | some r => if ts.any fun t => t.written.any fun u => r.live.contains u then none else some r

/-- A free 64-bit value (log entry 3). -/
def State.freeAddr (s : State) (k : Nat) : Addr := BitVec.ofNat 64 (Config.freeNat (s.freeCount + k))

/-- The one strand that a rewound group becomes. DSW and the trap registers of the strand, of which the manual says
nothing, are free values (R262, R325; log entry 3); what its strands owe at a boundary stays owed (R254). -/
def State.rewoundStrand (s : State) (low : Strand) (ts : List Strand) (m : Mark) (exited : Mask) (r : Recipe) : Strand :=
  { Strand.init with
    idx := low.idx
    active := m.active &&& ~~~exited
    pc := if r.recomp = 0 then low.trwpc else r.recomp
    joins := m.joins.map fun j => { j with rejoin := j.rejoin &&& ~~~exited }
    fmtr := m.fmtr
    cvmr := m.cvmr
    sregs := low.sregs.filter fun e => r.live.contains (128 + e.1)
    qregs := (List.range 4).foldl
      (fun q i => if r.live.contains (200 + i) && low.qregs.getLsbD i then q ||| (1#4 <<< i) else q) 0
    trwpc := low.trwpc
    trcp := low.trcp
    dsw := (s.freeAddr 0).extractLsb' 0 32
    tcause := (s.freeAddr 1).extractLsb' 0 32
    tepc := s.freeAddr 2
    tmask := s.freeAddr 3
    taddr := s.freeAddr 4
    tinfo := (s.freeAddr 5).extractLsb' 0 32
    tclh := s.freeAddr 6
    haltedBy := low.haltedBy
    wait := .stopped
    pending := ts.flatMap fun t => t.pending
    cancelOwed := ts.any fun t => t.cancelOwed
    seen := ts.foldl (fun l t => addCarries t.seen l) []
    relFence := ts.foldl (fun l t => addCarries t.relFence l) []
    issued := (ts.flatMap fun t => t.issued).eraseDups }

/-- Rewinds a mark group: its strands become one, and of its lanes' registers only the live ones are kept (R262). -/
def State.rewind (s : State) (g : Gang) (m : Mark) (r : Recipe) : State × Gang :=
  let ts := g.groupOf m
  match lowest ts with
  | none => (s, g)
  | some low =>
    let lanes := m.active &&& ~~~g.exited
    let rest := g.strands.filter fun t => !(ts.any fun u => u.idx == t.idx)
    ({ s with freeCount := s.freeCount + 7 },
      { g with
        strands := insertStrand (s.rewoundStrand low ts m g.exited r) rest
        vregs := g.vregs.filter fun e => !(lanes.getLsbD (e.1 % 64)) || r.live.contains (e.1 / 64) || decide (64 ≤ e.1 / 64)
        pregs := ((List.range 7).foldl
          (fun (p : SMap Mask) n => if r.live.contains (192 + n) then p else smSet 0 p n (smGet 0 p n &&& ~~~lanes)) g.pregs) })

/-- Gang storage that no recipe of a rewound group lists live and no full save keeps: a tile is zero, the bit tiles are
clear, V64-V127 are zero, and a bound slot will be as a fresh OCLAIM leaves it (R247, R262). -/
def Gang.keepOnly (g : Gang) (live : List Nat) : Gang :=
  let v := if live.contains 64 then g.vregs else smDrop g.vregs 4096 8192
  let acc := (List.range 4).foldl
    (fun a n => if live.contains (204 + n) then a else smDrop a (accKey n 0 0) (accKey (n + 1) 0 0)) g.acc
  { g with
    vregs := v, acc := acc, bt := if live.contains 208 then g.bt else []
    freshSlots := (g.handles.filter fun e => !(live.contains (212 + e.1))).map fun e => e.2 }

/-- Rewinds or saves the groups of a gang (R313). -/
def State.saveGang (s : State) (gid : Nat) : State :=
  match s.gangs.find? fun g => g.id == gid with
  | none => s
  | some g =>
    let plans := g.marks.filterMap fun m => (s.rewindable g m).map fun r => (m, r)
    let r := plans.foldl (fun (p : State × Gang) x => p.1.rewind p.2 x.1 x.2) (s, g)
    let whole := plans ≠ [] ∧ (g.strands.all fun t => plans.any fun x => (t.mark.map fun m => m.group) == some x.1.group) = true
    let kept := if whole then r.2.keepOnly (plans.flatMap fun x => x.2.live) else r.2
    r.1.putGang { kept with saved := true, permit := false, throttled := none, xreqs := [] }

/-- Saves a block: its gangs, and its records in the core's deque; its storage goes to pending requests (R162, R313, R314). -/
def State.saveBlock (s : State) (b : Block) : State :=
  let s1 := ((s.gangsIn b.id).map fun g => g.id).foldl State.saveGang s
  ({ s1 with
    deque := s1.deque.map fun (k : Task) => if k.block = b.id ∧ k.core = b.core then { k with core := noCore } else k }.setBlock
      { b with saved := true, preemptFrom := none }).returnSlots.examine b.core

/-- PREEMPT_RUNON_END: the run-on ends, and once every operation that the block's gangs issued has completed, the block
is saved (R313). -/
def execPreemptRunonEnd (block : Nat) (s : State) : Host.Outcome State Fault Refusal :=
  event s fun s =>
    match s.blockOf block with
    | none => s
    | some b =>
      match b.preemptFrom with
      | none => s
      | some t0 =>
        if s.runonOver b t0 then
          let s1 := { s with
            gangs := s.gangs.map fun (g : Gang) => if g.block = block then g.haltAll s.cycle else g }
          let gs := s1.gangsIn block
          let waits := gs.any fun g => s1.issuedLeft g || g.strands.any fun t =>
            match t.wait with
            | .heldBar _ => true
            | _ => false
          if waits then s1 else s1.saveBlock b
        else s

/-! ## Resumption -/

/-- First pipes for gangs of given slice and block needs, in order, as at an admission (R28, R315). -/
def placeList : List (Nat × Nat) → List Nat → Option (List Nat)
  | [], _ => some []
  | (w, need) :: r, free =>
    match firstPipe free w need with
    | none => none
    | some f => (placeList r (takeSlices free f w need)).map fun l => f :: l

/-- Whether a saved block may resume on a core, and then at which first pipes: every engine command that its gangs issued
has arrived, the core is of its partition, and everything that it holds fits (R315, R316). -/
def State.resumeAt (s : State) (b : Block) (core : Nat) : Option (List Nat) :=
  let gs := s.gangsIn b.id
  let busy := gs.any fun g => (s.copies.any fun c => c.gang == g.id) || s.banks.any fun k => k.gang == g.id
  let mine := match s.part (s.vdev b.vd).part with
    | some p => p.res.cores.contains core
    | none => false
  let slots := (s.slots.filter fun k => gs.any fun g => g.id == k.gang).length
  let resident := (s.gangs.filter fun g => g.core == core && !g.saved).length
  let used := ((s.blocks.filter fun c => c.core == core && !c.saved).map fun c => c.spadBytes).foldl (fun a c => a + c) 0
  let need := fun (g : Gang) => 1 + (if g.xres then max g.xmax g.nheld else g.nheld)
  if !b.saved || busy || !mine || (s.vdev b.vd).paused || decide (64 < resident + gs.length) ||
      decide (0x100000 < used + b.spadBytes) || decide (32 < (s.slots.filter fun k => k.core == core).length + slots) then none
  else placeList (gs.map fun g => (g.width / 8, need g)) ((List.range 8).map (s.freeSlices core))

/-- Binds a resumed gang's handles to free slots of its core, with the same contents or, after a rewind, fresh (R228,
R262, R315). -/
def State.rebind (s : State) (gid core : Nat) : State :=
  match s.gangs.find? fun g => g.id == gid with
  | none => s
  | some g =>
    g.handles.foldl
      (fun s e =>
        match s.slots.find? fun k => k.gang == gid && k.core == noCore && k.num == e.2 with
        | none => s
        | some k =>
          let taken := (s.slots.filter fun x => x.core == core).map fun x => x.num
          let n := ((List.range 32).find? fun n => !(taken.contains n)).getD 0
          let k1 := if g.freshSlots.contains e.2 then freshSlot core n gid else { k with core := core, num := n }
          ({ s with
            slots := replaceFirst (fun (x : Slot) => decide (x = k)) k1 s.slots }).modGang gid fun h =>
              { h with handles := smSet 32 h.handles e.1 n, freshSlots := h.freshSlots }) s

/-- A clause none of whose words is kept: they are fetched anew before the next one is issued (R317). -/
def Clause.emptied (c : Clause) : Clause := { c with words := [] }

/-- A strand as it resumes: no gap holds it, and no word is kept from an earlier fetch, in a handler nor of the clause that
the handler interrupted (R315, R317). -/
def Strand.resume (t : Strand) (cycle : Nat) : Strand :=
  { t with
    wait := if t.wait = .stopped then .none else t.wait
    prev := none
    since := cycle + 1
    opens := cycle + 1
    pass := none
    clause := t.clause.map Clause.emptied
    held := t.held.map Clause.emptied }

/-- Places the gangs of a resumed block at their first pipes. -/
def State.replace (s : State) (core : Nat) : List (Gang × Nat) → State
  | [] => s
  | (g, f) :: r =>
    let h := { g with core := core, firstPipe := f, saved := false, strands := g.strands.map fun t => t.resume s.cycle }
    State.replace (((s.putGang h).rebind g.id core).modGang g.id fun h => { h with freshSlots := [] }) core r

/-- BLOCK_RESUME (R315). -/
def execBlockResume (block core : Nat) (s : State) : Host.Outcome State Fault Refusal :=
  event s fun s =>
    match s.blockOf block with
    | none => s
    | some b =>
      match s.resumeAt b core with
      | none => s
      | some fs =>
        let s1 := { s with
          deque := s.deque.map fun (k : Task) => if k.block = block ∧ k.core = noCore then { k with core := core } else k }
        (s1.setBlock { b with core := core, saved := false }).replace core ((s1.gangsIn block).zip fs)

end Sys2Proof.Machine
end

