-- ==== Sys2Proof/Machine/HostSide.lean ====
section
/-! DEFINITION. The host's side of a virtual device: control page and partition window (R335, R353, R362-R364), the
coherent aperture and host memory (R362), interrupts (R356), and function reset with its pending clear (R357, R358). -/

namespace Sys2Proof.Machine

/-! ## The control page -/

/-- A job slot's register block: slot and offset within it, for offsets 0x100-0x17F. -/
def slotReg (off : Nat) : Nat × Nat := ((off - 0x100) / 32, off % 32)

/-- What a control-page offset reads as; a register starts at its offset, and one not listed reads 0 (R270, R335, R363).
A write-only register reads 0. -/
def State.controlRead (s : State) (vd off : Nat) : Addr :=
  let d := s.vdev vd
  let n := fun (x : Nat) => BitVec.ofNat 64 x
  match off with
  | 0x000 => n (d.id % 256 + 2 ^ 8 * (d.part % 32))
  | 0x004 => n ((if d.rdone then 2 else 0) + (if d.mgr then 4 else 0))
  | 0x010 => d.tvecd
  | 0x018 => n (d.dbgv.toNat + 2 ^ 8 * d.pfv.toNat + 2 ^ 16 * d.tlv.toNat)
  | 0x020 => d.tlogb
  | 0x028 => n (d.tlogh + 2 ^ 16 * d.tlogt)
  | 0x02C => n d.tlogo
  | 0x030 => d.rlogb
  | 0x038 => n (d.rlogh + 2 ^ 16 * d.rlogt)
  | 0x03C => n d.rlogo
  | 0x040 => d.weights.zeroExtend 64
  | 0x048 => if d.paused then d.tssave else 0
  | 0x200 => n d.tkey ||| d.troot
  | 0x208 => d.rtab
  | 0x210 => n (d.rcnt + (if d.rpf then 512 else 0))
  | 0x218 => if d.busy.isSome then 2 else 0
  | 0x220 => d.pfqb
  | 0x228 => n d.pfqh
  | 0x22C => n d.pfqt
  | 0x238 => n d.pfto
  | _ =>
    if 0x100 ≤ off ∧ off < 0x180 then
      let r := slotReg off
      match r.2 with
      | 8 => n (smGet 100 d.killi r.1)
      | 12 => n (smGet 0 d.fvec r.1 + (if (s.jobAt vd r.1).isSome then 256 else 0))
      | 16 => smGet 0 d.fword r.1
      | _ => 0
    else if 0x500 ≤ off ∧ off < 0x548 ∧ off % 4 = 0 then
      let i := (off - 0x500) / 4
      (if i < 8 then smGet 0 d.outw i else if i = 8 then d.oseq else if i < 17 then smGet 0 d.inw (i - 9) else d.iseq).zeroExtend
        64
    else 0

/-- A device with the RW fields of a control-page register written; RO fields, reserved bits and offsets not listed
ignore the write (R5, R6, R363). The registers with a behaviour of their own have their own events. -/
def VDev.writeControl (d : VDev) (off : Nat) (v : Addr) : VDev :=
  let f := fun (lo n : Nat) => bits v.toNat lo n
  match off with
  | 0x010 => { d with tvecd := v }
  | 0x018 => { d with dbgv := v.extractLsb' 0 8, pfv := v.extractLsb' 8 8, tlv := v.extractLsb' 16 8 }
  | 0x020 => { d with tlogb := v }
  | 0x028 => { d with tlogt := f 16 7 }
  | 0x030 => { d with rlogb := v }
  | 0x038 => { d with rlogt := f 16 7 }
  | 0x040 => { d with weights := v.extractLsb' 0 32 }
  | 0x200 => { d with tkey := f 0 11, troot := BitVec.ofNat 64 (4096 * f 12 52) }
  | 0x208 => { d with rtab := v }
  | 0x210 => { d with rcnt := f 0 9, rpf := f 9 1 == 1 }
  | 0x220 => { d with pfqb := v }
  | 0x22C => { d with pfqt := f 0 7 }
  | 0x238 => { d with pfto := f 0 32 }
  | _ =>
    if 0x100 ≤ off ∧ off < 0x180 then
      let r := slotReg off
      match r.2 with
      | 8 => { d with killi := smSet 100 d.killi r.1 (f 0 32) }
      | 12 => { d with fvec := smSet 0 d.fvec r.1 (f 0 8) }
      | 16 => { d with fword := smSet 0 d.fword r.1 v }
      | _ => d
    else if 0x524 ≤ off ∧ off < 0x548 ∧ off % 4 = 0 then
      let i := (off - 0x524) / 4
      if i < 8 then { d with inw := smSet 0 d.inw i (v.extractLsb' 0 32) } else { d with iseq := v.extractLsb' 0 32 }
    else d

/-- Whether a page of a device's partition window lets the device act on its partition's budget log: its own partition,
or a child's for a manager function (R353). -/
def State.windowActs (s : State) (vd page : Nat) : Bool :=
  let d := s.vdev vd
  match s.part page with
  | some p => page == d.part || (d.mgr && p.parent == some d.part)
  | none => false

/-- Changes a partition. -/
def State.modPart (s : State) (n : Nat) (f : Part → Part) : State :=
  { s with parts := s.parts.map fun p => if p.num = n then f p else p }

/-- What an offset of a device's partition window reads as: the control block of its own partition or of a child of it,
else 0 (R350, R352, R353). -/
def State.windowRead (s : State) (vd off : Nat) : Addr :=
  let d := s.vdev vd
  let page := off / 4096
  let o := off % 4096
  let n := fun (x : Nat) => BitVec.ofNat 64 x
  match s.part page with
  | none => 0
  | some p =>
    if page ≠ d.part ∧ p.parent ≠ some d.part then 0
    else if o = 0 then n (p.num + 2 ^ 5 * p.parent.getD 0x3F + 2 ^ 11 * (s.partDies p).length)
    else if 0x100 ≤ o ∧ o < 0x190 ∧ o % 8 = 0 then
      let b := p.budget ((o - 0x100) / 16)
      if o % 16 = 0 then n (b.limit + (if b.refuse then 2 ^ 40 else 0) + (if b.en then 2 ^ 41 else 0))
      else n ((b.used.map fun u => u.2).foldl (fun a c => a + c) 0)
    else if o = 0x200 then n p.blogh
    else if o = 0x204 then n p.blogt
    else if o = 0x208 then n p.blogo
    else if 0x400 ≤ o ∧ o < 0x800 ∧ o % 8 = 0 then
      let r := smGet ⟨0, 0, 0, 0⟩ p.blog ((o - 0x400) / 16)
      if o % 16 = 0 then n r.addr else n (r.k + 2 ^ 8 * r.die + 2 ^ 32 * r.tick)
    else 0

/-- REGISTER_WRITE: window 0 is the control page, window 1 the partition window, of which BLOGT is the RW register
without behaviour (R5, R353, R363). -/
def execRegisterWrite (vd window off : Nat) (value : Addr) (s : State) : Host.Outcome State Fault Refusal :=
  event s fun s =>
    if 256 ≤ vd then s
    else if window = 0 then s.setVdev ((s.vdev vd).writeControl off value)
    else if window = 1 ∧ off % 4096 = 0x204 ∧ s.windowActs vd (off / 4096) = true then
      s.modPart (off / 4096) fun p => { p with blogt := bits value.toNat 0 6 }
    else s

/-- TLOGO: the read returns the count and clears it (R5, R363). -/
def execTlogo (vd : Nat) (s : State) : Host.Outcome State Fault Refusal :=
  event s fun s =>
    if 256 ≤ vd then s else (s.emit (.read vd (s.controlRead vd 0x02C))).setVdev { s.vdev vd with tlogo := 0 }

/-- RLOGO: the read returns the count and clears it (R5, R363). -/
def execRlogo (vd : Nat) (s : State) : Host.Outcome State Fault Refusal :=
  event s fun s =>
    if 256 ≤ vd then s else (s.emit (.read vd (s.controlRead vd 0x03C))).setVdev { s.vdev vd with rlogo := 0 }

/-- BLOGO: the read returns the count, and clears it where the function may act through the page (R353). -/
def execBlogo (vd page : Nat) (s : State) : Host.Outcome State Fault Refusal :=
  event s fun s =>
    let s1 := s.emit (.read vd (s.windowRead vd (4096 * page + 0x208)))
    if s.windowActs vd page then s1.modPart page fun p => { p with blogo := 0 } else s1

/-- A job at the start of its stream (R19). -/
def newJob (vd slot : Nat) (addr : Addr) (level : Nat) : Job :=
  { vd := vd, slot := slot, pc := addr, seg := addr, loops := [], level := level, phase := none, graph := none,
    inGraph := false, edges := [], wait := .none, ended := false, faulted := false }

/-- STRM: starts a job in a free slot; ignored where a job occupies it, or while the device resets; devices are numbered
below 256 (R1, R19, R363, R364). -/
def execStrm (vd slot : Nat) (addr : Addr) (s : State) : Host.Outcome State Fault Refusal :=
  event s fun s =>
    if 256 ≤ vd ∨ 4 ≤ slot ∨ (s.jobAt vd slot).isSome = true ∨ (s.vdev vd).resetting = true then s
    else
      let r := s.newLevel .job vd slot none none
      { r.1 with jobs := r.1.jobs ++ [newJob vd slot addr r.2] }

/-- Whether a device is descheduled: it has blocks, and each of them is saved or being pre-empted (R312, R356). -/
def State.descheduled (s : State) (vd : Nat) : Bool :=
  let mine := s.blocks.filter fun b => b.vd == vd
  !mine.isEmpty && mine.all fun b => b.saved || b.preemptFrom.isSome

/-- Whether a device is running, so that its interrupts reach the host (R356). -/
def State.running (s : State) (vd : Nat) : Bool :=
  !((s.vdev vd).paused || (s.vdev vd).resetting || s.descheduled vd)

/-- INTERRUPT_DELIVERY: while the device runs, the host is interrupted once for each pending vector, ascending, and each
is cleared (R356). -/
def execInterruptDelivery (vd : Nat) (s : State) : Host.Outcome State Fault Refusal :=
  event s fun s =>
    let d := s.vdev vd
    if decide (256 ≤ vd) || !(s.running vd) then s
    else
      let s1 := s.setVdev { d with intr := [] }
      { s1 with outbox := s.outbox ++ d.intr.map fun (p : Nat × Nat) => Output.interrupt vd p.1 }

/-! ## Host processors (R362) -/

/-- The bytes at a canonical address as a host processor or another package names them: the manual names no key for such an
access, and it acts under the key of the line (log entry 111). -/
def State.lineRefs (s : State) (dpas : List Nat) : List ByteRef :=
  dpas.map fun a => ⟨false, canonOf a, (smGet noKey s.lineKey (canonOf a / 128)).key⟩

/-- The bytes that a host processor's access names: through a device's coherent aperture those of its memory share, else those
of host memory, where no fabric window stands (R327, R362, R369). -/
def State.hostRefs (s : State) (vd : Nat) (at_ : HostAddr) (size : Nat) : Option (List ByteRef) :=
  let dpas := (List.range size).map fun i => at_.off + i
  let may := fun a =>
    if at_.mem then decide (2 ^ 48 ≤ a ∧ a < 2 ^ 52) && (s.fabricAt a).isNone
    else decide (a < 2 ^ 39) && s.inShare (s.vdev vd).part a
  if dpas.all may then some (s.lineRefs dpas) else none

/-- HOST_LOAD: outside what it may reach it reads all ones and is reported (R362). -/
def execHostLoad (vd : Nat) (off : HostAddr) (size : Nat) (s : State) : Host.Outcome State Fault Refusal :=
  event s fun s =>
    match s.hostRefs vd off size with
    | some refs => (s.readErrors refs).emit (.read vd (BitVec.ofNat 64 (leNat ((s.readErrors refs).bytesAt refs))))
    | none => (s.emit (.read vd (BitVec.ofNat 64 (2 ^ (8 * size) - 1)))).emit (.unsupported vd)

/-- HOST_STORE: outside what it may reach it is dropped and reported (R362). -/
def execHostStore (vd : Nat) (off : HostAddr) (size : Nat) (value : Addr) (s : State) : Host.Outcome State Fault Refusal :=
  event s fun s =>
    match s.hostRefs vd off size with
    | some refs => (s.putBytes (refs.zip (natBytes size value.toNat))).setCarries 0 refs [] false
    | none => s.emit (.unsupported vd)

/-! ## Function reset -/

/-- The gangs of a device. -/
def State.gangsFor (s : State) (vd : Nat) : List Nat := (s.gangs.filter fun g => g.vd == vd).map fun g => g.id

/-- Streams stop and every unit is killed; what has not started is dropped (R357 steps 1 and 2). -/
def State.startReset (s : State) (vd : Nat) : State :=
  let mine := (s.levels.filter fun l => l.vd == vd && l.kind == .launch).map fun l => l.id
  let s1 := mine.foldl State.dropUnits s
  let s2 := { s1 with
    jobs := s1.jobs.map fun (j : Job) => if j.vd = vd then { j with faulted := true, wait := .none } else j
    steals := s1.steals.filter fun (x : Steal) => !(mine.contains x.launch) }
  let s3 := s2.setVdev { s2.vdev vd with resetting := true, rdone := false }
  (s3.gangsFor vd).foldl State.killGang s3

/-- Whether everything that a device issued has ended. -/
def State.quiet (s : State) (vd : Nat) : Bool :=
  !(s.gangs.any fun g => g.vd == vd) && !(s.mops.any fun m => m.vd == vd) && !(s.copies.any fun c => c.vd == vd) &&
    !(s.banks.any fun b => b.vd == vd)

/-- The pages of a device's memory share that are not all zero as they stand: those that hold a byte, a line key or a
bad sector (R357; a page of none reads as zero whether its clearing is pending or not). -/
def State.dirtyPages (s : State) (vd : Nat) : List Nat :=
  let part := (s.vdev vd).part
  let pages := (s.mem.map fun c => c.1 / 4096) ++ (s.lineKey.map fun l => l.1 / 32) ++ (s.poison.map fun p => p / 128) ++
    s.softErrors.map fun e => e.1 / 128
  pages.eraseDups.filter fun p => isDevice (4096 * p) && s.inShare part (4096 * p)

/-- The control page of a device at its After reset values; its placement epoch, its time bases and the numbering of its
page-fault records, which the manual does not reset, stay (R355, R357, R363). -/
def VDev.afterReset (d : VDev) : VDev :=
  { VDev.init with id := d.id, part := d.part, mgr := d.mgr, epoch := d.epoch, toff := d.toff, tickOff := d.tickOff, pfNext := d.pfNext }

/-- The key of a translation. -/
def Look.keyOf : Look → List Nat
  | .range e => [e.key]
  | .page _ _ _ _ _ _ k => [k]
  | _ => []

/-- The keys of a device: of its tables, of what its range table lists and its buffers hold, and of the lines of its share and
its windows (R340, R357; DEDUCED, log entry 112). -/
def State.deviceKeys (s : State) (vd : Nat) : List Nat :=
  let d := s.vdev vd
  let ranges := (List.range (min d.rcnt 256)).filterMap fun i =>
    (parseRange (s.readDpa d.tkey (d.rtab.toNat / 64 * 64 + 64 * i) 64)).map fun e => e.1.key
  let cached := (s.cached.filter fun c => c.vd == vd).flatMap fun c => c.look.keyOf
  let lines := (s.lineKey.filter fun l => s.inShare d.part (128 * l.1)).map fun l => l.2.key
  (d.tkey :: ranges ++ cached ++ lines).eraseDups

/-- The rest of a reset, once the device is quiet: its log is cleared, its keys are revoked, each of their slots taking a
fresh one, its share is marked pending clear, and RDONE reads 1 (R357 steps 3 to 5). -/
def State.endReset (s : State) (vd : Nat) : State :=
  let d := s.vdev vd
  let pages := s.dirtyPages vd
  let ids := (s.levels.filter fun l => l.vd == vd).map fun l => l.id
  ({ s with
    keyGen := (s.deviceKeys vd).foldl (fun m k => smSet 0 m k (smGet 0 m k + 1)) s.keyGen
    cached := s.cached.filter fun c => c.vd != vd
    pendingClear := pages.foldl (fun (m : SMap (List Nat)) p => m.filter (fun (e : Nat × List Nat) => e.1 != p) ++ [(p, [])]) s.pendingClear
    poison := s.poison.filter fun p => !(pages.contains (p / 128))
    softErrors := s.softErrors.filter fun e => !(pages.contains (e.1 / 128))
    pfrecs := s.pfrecs.filter fun (r : PfRec) => r.vd != vd
    blocks := s.blocks.filter fun (b : Block) => b.vd != vd
    jobs := s.jobs.filter fun (j : Job) => j.vd != vd
    levels := s.levels.filter fun (l : Level) => l.vd != vd
    launches := s.launches.filter fun (k : Launch) => !(ids.contains k.level) }).setVdev d.afterReset

/-- RST: a reset starts, and a started one ends when everything that the device issued has completed (R357). -/
def execRst (vd : Nat) (s : State) : Host.Outcome State Fault Refusal :=
  event s fun s =>
    if 256 ≤ vd then s
    else
      let s1 := if (s.vdev vd).resetting then s else s.startReset vd
      if s1.quiet vd then s1.endReset vd else s1

/-- PAGE_CLEAR: the sectors of a pending page that nothing has written are zeroed, each a write of the whole sector, and the
page is released (R341, R358). -/
def execPageClear (page : Nat) (s : State) : Host.Outcome State Fault Refusal :=
  event s fun s =>
    match s.pendingClear.find? fun p => p.1 == page with
    | none => s
    | some (_, marked) =>
      let clear := (List.range 128).filter fun i => !(marked.contains i)
      let lines := (List.range 32).filter fun l => (List.range 4).all fun i => clear.contains (4 * l + i)
      { s with
        mem := clear.foldl (fun m i => smDrop m (4096 * page + 32 * i) (4096 * page + 32 * i + 32)) s.mem
        poison := s.poison.filter fun p => !(p / 128 == page && clear.contains (p % 128))
        softErrors := s.softErrors.filter fun e => !(e.1 / 128 == page && clear.contains (e.1 % 128))
        lineKey := lines.foldl (fun m l => smDrop m (32 * page + l) (32 * page + l + 1)) s.lineKey
        pendingClear := s.pendingClear.filter fun (p : Nat × List Nat) => p.1 != page }

end Sys2Proof.Machine
end

