-- ==== Sys2Proof/Machine/Manage.lean ====
section
/-! DEFINITION. The package's own events: bring-up and power (R372, R373), periods of budgets and governor (R350, R351,
R373), errors and repair (R341-R345, R366, R368), partitions and their plans (R347-R349, R353, R360), migration and live
update (R323, R355, R374), and the management interface (R340, R342, R369-R371, R375). -/

namespace Sys2Proof.Machine

/-! ## Bring-up and power -/

/-- Everything that the package holds, as its first partition holds it (R1, R327, R340, R372). -/
def allResources : Resources :=
  { cores := List.range 256
    extents := [⟨0, 9, 0, 0, 2 ^ 30⟩]
    bankChannels := List.range 512
    keys := List.range 2048
    windows := [(2 ^ 44, 2 ^ 44), (2 ^ 48, 15 * 2 ^ 48)]
    links := List.range 12 }

/-- A partition at its creation: its budgets are at their After reset values (R350, R353). -/
def newPart (n : Nat) (parent : Option Nat) (res : Resources) (fw : Nat) : Part :=
  { num := n, parent := parent, res := res, budgets := [], blogh := 0, blogt := 0, blogo := 0, blog := [], firmware := fw,
    switchedAt := none }

/-- Device memory of the dies that satisfy a test is zeroed (R372 step 4). -/
def State.zeroMemory (s : State) (p : Nat → Bool) : State :=
  let hit := fun c => isDevice c && p (pcOf c / 128)
  { s with
    mem := s.mem.filter fun (c : Host.Cell) => !(hit c.1)
    lineKey := s.lineKey.filter fun (l : Nat × LineKey) => !(hit (128 * l.1))
    poison := s.poison.filter fun c => !(hit (32 * c))
    softErrors := s.softErrors.filter fun e => !(hit (32 * e.1))
    pendingClear := s.pendingClear.filter fun (p : Nat × List Nat) => !(hit (4096 * p.1)) }

/-- POWER_GOOD: the firmware slot that verifies, the bad-page list, zeroed memory, and one top-level partition that holds
everything; without a valid image nothing comes up (R343, R370, R372). -/
def execPowerGood (s : State) : Host.Outcome State Fault Refusal :=
  event s fun s =>
    if s.powered || (!s.fwA.valid && !s.fwB.valid) then s
    else
      let fw := if s.fwA.valid then 0 else 1
      { s.zeroMemory fun _ => true with
        powered := true
        fwActive := fw
        badPages := s.badList
        dies := []
        parts := [newPart 0 none allResources fw] }

/-- Whether a die may enter D2 or D3: no block is resident on it and no partition lists it (R373). -/
def State.dieFree (s : State) (d : Nat) : Bool :=
  !(s.blocks.any fun b => !b.saved && dieOf b.core == d) && !(s.parts.any fun p => (resDies p.res).contains d)

/-- DIE_POWER_STATE: a die that leaves D3 comes up as from step 3, its memory zeroed (R372, R373). -/
def execDiePowerState (die st : Nat) (s : State) : Host.Outcome State Fault Refusal :=
  event s fun s =>
    if 4 ≤ die ∨ 4 ≤ st ∨ (2 ≤ st ∧ s.dieFree die = false) then s
    else
      let old := s.die die
      let s1 := if old.power = 3 ∧ st ≠ 3 then s.zeroMemory fun d => d == die else s
      { s1 with dies := smSet freshDie s1.dies die { old with power := st } }

/-! ## Periods -/

/-- Whether a period of some ticks has begun since the one last applied. -/
def State.periodDue (s : State) (last n : Nat) : Bool := decide (last < s.tick / n * n)

/-- A budget at a period boundary: each die's count keeps its overshoot over the die's share (R351). -/
def Budget.carryOver (b : Budget) (nd : Nat) : Budget :=
  { b with used := b.used.filterMap fun u =>
      let left := u.2 - b.limit / max 1 nd
      if left = 0 then none else some (u.1, left) }

/-- BUDGET_PERIOD: at each multiple of 100,000 ticks (R351). -/
def execBudgetPeriod (s : State) : Host.Outcome State Fault Refusal :=
  event s fun s =>
    if s.periodDue s.budgetAt 100000 then
      { s with
        budgetAt := s.tick / 100000 * 100000
        parts := s.parts.map fun (p : Part) =>
          { p with budgets := p.budgets.map fun b => (b.1, b.2.carryOver (s.partDies p).length) } }
    else s

/-- The floor of a die's arithmetic clock: 1.2 GHz while one of its cores takes part in a pre-emption (R316, R373). -/
def State.clockFloor (s : State) (d : Nat) : Nat :=
  if s.blocks.any fun b => b.preemptFrom.isSome && dieOf b.core == d then 12 else 6

/-- Changes a die. -/
def State.modDie (s : State) (d : Nat) (f : Die → Die) : State := { s with dies := smSet freshDie s.dies d (f (s.die d)) }

/-- GOVERNOR_PERIOD: the governor budgets are counted anew; the estimate of the draw and the die that draws most are free values; a clock steps down, or at the
floors the governor budgets do, and after ten low estimates one step is undone, budgets first (R373; log entry 3). -/
def execGovernorPeriod (s : State) : Host.Outcome State Fault Refusal :=
  event s fun s =>
    if s.periodDue s.governorAt 10000 then
      let draw := Config.freeNat s.freeCount
      let s1 := { s with freeCount := s.freeCount + 1, governorAt := s.tick / 10000 * 10000, governorUsed := [] }
      let dies := [0, 1, 2, 3]
      if 2300 < draw then
        let s2 := { s1 with governorLow := 0 }
        match dies.filter fun d => decide (s2.clockFloor d < (s2.die d).clock) with
        | [] => dies.foldl (fun s d => s.modDie d fun x => { x with eighths := max 1 (x.eighths - 1) }) s2
        | l =>
          let p := s2.pickFree l
          p.1.modDie p.2 fun x => { x with clock := x.clock - 1 }
      else if 2200 ≤ draw then { s1 with governorLow := 0 }
      else if s1.governorLow < 9 then { s1 with governorLow := s1.governorLow + 1 }
      else
        let s2 := { s1 with governorLow := 0 }
        match dies.filter fun d => decide ((s2.die d).eighths < 8), dies.filter fun d => decide ((s2.die d).clock < 24) with
        | [], [] => s2
        | [], l =>
          let p := s2.pickFree l
          p.1.modDie p.2 fun x => { x with clock := x.clock + 1 }
        | l, _ => l.foldl (fun s d => s.modDie d fun x => { x with eighths := x.eighths + 1 }) s2
    else s

/-! ## Errors and repair -/

/-- BAD_PAGE_REQUEST (R343). -/
def execBadPageRequest (page : Nat) (s : State) : Host.Outcome State Fault Refusal := event s fun s => s.listPage page

/-- Whether a sector is memory in which errors arise: device memory, or behind a CXL port (R341, R366). -/
def State.maySpoil (s : State) (sec : Nat) : Bool :=
  isDevice (32 * sec) || ((portOf (32 * sec)).isSome && !(s.cxlGone (32 * sec)))

/-- PATROL_SCRUB: a pass over every cell of device memory finds the soft errors that it holds. The head of State.strikes, where
there is one, names the errors that arise from here on, each a sector with 1 for a correctable or 2 for an uncorrectable one,
poison that a memory expander will return among them; a read finds them, or the next pass (R341, R342, R366; log entry 108). -/
def execPatrolScrub (s : State) : Host.Outcome State Fault Refusal :=
  event s fun s =>
    let secs := (s.softErrors.map fun e => e.1).filter fun sec => isDevice (32 * sec)
    let s1 := secs.foldl State.foundError s
    { s1 with
      strikes := s.strikes.tail
      softErrors := ((s.strikes.head?.getD []).filter fun x => s.maySpoil x.1 && (x.2 == 1 || x.2 == 2)).foldl
        (fun m x => smSet 0 m x.1 (max x.2 (smGet 0 m x.1))) s1.softErrors }

/-- LANE_REMAP: a spare DQ lane of a stack, or a spare lane of a link, is put in service; no access is lost, repeated or
reordered. The failure of a stack's lane is an error at the sector at which it showed (R342, R345; DEDUCED, log entry 108). -/
def execLaneRemap (link : LaneOf) (n : Nat) (s : State) : Host.Outcome State Fault Refusal :=
  event s fun s =>
    match link with
    | .link => { s with linkSpares := smSet 0 s.linkSpares n (smGet 0 s.linkSpares n + 1) }
    | .stack sector =>
      { s with dqSpares := smSet 0 s.dqSpares n (smGet 0 s.dqSpares n + 1) }.noteIn n (sector / 32 * 32) 4

/-- FLIT_REPLAY: the sender's buffer holds the flit, so nothing but the count of replays changes (R368). -/
def execFlitReplay (link : Nat) (s : State) : Host.Outcome State Fault Refusal :=
  event s fun s => { s with replays := smSet 0 s.replays link (smGet 0 s.replays link + 1) }

/-- LINK_DOWN: the link is reported down, and the remote elements still in flight on it record code 0x06 and are waited for no
longer (R368). -/
def execLinkDown (link : Nat) (s : State) : Host.Outcome State Fault Refusal :=
  event s fun s =>
    if s.linksDown.contains link then s
    else
      (s.copies.filter fun c => c.remote.any fun x => x.2 == link).foldl
        (fun s c =>
          let lost := (c.remote.filter fun x => x.2 == link).map fun x => x.1
          (lost.foldl (fun s n => s.bxFault c.block c.barrier 0x06 c.kind.recorder n) s).progress
            (c.reported fun x => x.2 == link))
        { s with linksDown := s.linksDown ++ [link] }

/-- CXL_LINK_DOWN (R366). -/
def execCxlLinkDown (port : Nat) (s : State) : Host.Outcome State Fault Refusal :=
  event s fun s => if s.cxlDown.contains port then s else { s with cxlDown := s.cxlDown ++ [port] }

/-! ## Partitions -/

/-- Whether two channel sets with their windows share a cell (R347). -/
def extentMeets (a b : Extent) : Bool :=
  decide (a.lo < b.hi ∧ b.lo < a.hi) &&
    (List.range (2 ^ a.pcn)).any fun i => (List.range (2 ^ b.pcn)).any fun j =>
      (a.pcf + i * 2 ^ a.pcs) % 512 == (b.pcf + j * 2 ^ b.pcs) % 512

/-- Whether every cell of an extent lies in another. -/
def extentWithin (a b : Extent) : Bool :=
  decide (b.lo ≤ a.lo ∧ a.hi ≤ b.hi) &&
    (List.range (2 ^ a.pcn)).all fun i => (List.range (2 ^ b.pcn)).any fun j =>
      (a.pcf + i * 2 ^ a.pcs) % 512 == (b.pcf + j * 2 ^ b.pcs) % 512

/-- Whether resources are a subset of others (R347). -/
def resWithin (a b : Resources) : Bool :=
  a.cores.all b.cores.contains && a.bankChannels.all b.bankChannels.contains && a.keys.all b.keys.contains &&
    a.links.all b.links.contains && a.extents.all (fun e => b.extents.any fun f => extentWithin e f) &&
    a.windows.all fun w => b.windows.any fun v => decide (v.1 ≤ w.1 ∧ w.1 + w.2 ≤ v.1 + v.2)

/-- Whether resources have nothing in common (R347). -/
def resApart (a b : Resources) : Bool :=
  !(a.cores.any b.cores.contains) && !(a.bankChannels.any b.bankChannels.contains) && !(a.keys.any b.keys.contains) &&
    !(a.links.any b.links.contains) && !(a.extents.any fun e => b.extents.any fun f => extentMeets e f) &&
    !(a.windows.any fun w => b.windows.any fun v => decide (v.1 < w.1 + w.2 ∧ w.1 < v.1 + v.2))

/-- What a parent keeps of the numbered resources that it gives away; its extents and windows stay listed, and the
parts given away are no share of it (R347). -/
def resLess (a b : Resources) : Resources :=
  { a with
    cores := a.cores.filter fun c => !(b.cores.contains c)
    bankChannels := a.bankChannels.filter fun c => !(b.bankChannels.contains c)
    keys := a.keys.filter fun k => !(b.keys.contains k)
    links := a.links.filter fun l => !(b.links.contains l) }

/-- A parent takes back what a child held. -/
def resPlus (a b : Resources) : Resources :=
  { a with
    cores := a.cores ++ b.cores, bankChannels := a.bankChannels ++ b.bankChannels, keys := a.keys ++ b.keys
    links := a.links ++ b.links }

/-- Whether the package has some resources (R327, R347). -/
def resExist (r : Resources) : Bool :=
  r.cores.all (fun c => decide (c < 256)) && r.bankChannels.all (fun c => decide (c < 512)) &&
    r.keys.all (fun k => decide (k < 2048)) && r.links.all (fun l => decide (l < 12)) &&
    r.extents.all (fun e => decide (e.hi ≤ 2 ^ 30)) &&
    r.windows.all fun w => allResources.windows.any fun v => decide (v.1 ≤ w.1 ∧ w.1 + w.2 ≤ v.1 + v.2)

/-- The channels of a memory share (R336, R347). -/
def resChannels (r : Resources) : List Nat :=
  r.extents.flatMap fun e => (List.range (2 ^ e.pcn)).map fun i => (e.pcf + i * 2 ^ e.pcs) % 512

/-- The children of a partition. -/
def State.childParts (s : State) (n : Nat) : List Part := s.parts.filter fun p => p.parent == some n

/-- What a partition and its children hold together (R347). -/
def State.heldBy (s : State) (p : Part) : Resources := (s.childParts p.num).foldl (fun r q => resPlus r q.res) p.res

/-- Whether a partition of a number may hold some resources, those of its children among them: at most 64 extents, with bank
engines on their pseudo-channels alone; for a child, within its top-level parent and apart from its siblings; for a top-level
one, of the package and apart from the others and their children (R347). -/
def State.planFits (s : State) (n : Nat) (parent : Option Nat) (res : Resources) : Bool :=
  let peers := s.parts.filter fun p => p.num != n && p.parent == parent
  decide (res.extents.length ≤ 64) && res.bankChannels.all (resChannels res).contains &&
    peers.all (fun p => resApart res (s.heldBy p)) && (s.childParts n).all (fun q => resWithin q.res res) &&
    match parent with
    | none => resExist res
    | some m =>
      match s.part m with
      | some p => p.parent.isNone && m != n && resWithin res p.res
      | none => false

/-- Assigns devices, numbered below 256, to a partition; the platform manager says which of them are managers (R347, R349,
R363, R375). -/
def State.assign (s : State) (n : Nat) (devices : List Nat) (managers : Option (List Nat)) : State :=
  devices.foldl
    (fun s v =>
      if 256 ≤ v then s
      else
        s.setVdev { s.vdev v with
          part := n
          mgr := match managers with
            | some l => l.contains v
            | none => false }) s

/-- Whether a plan may be made: a top-level partition by the platform manager, a child by a manager function of its parent,
which gives it devices of its own (R347, R349, R363). -/
def State.mayPlan (s : State) (by_ parent : Option Nat) (devices : List Nat) : Bool :=
  match by_, parent with
  | none, none => true
  | some v, some m => (s.vdev v).mgr && (s.vdev v).part == m && devices.all fun d => (s.vdev d).part == m
  | _, _ => false

/-- PARTITION_CREATE: a plan that breaks R347 is refused (R347, R353, R363, R375). -/
def execPartitionCreate (n : Nat) (parent : Ancestry) (res : Resources) (devices managers : List Nat) (s : State) :
    Host.Outcome State Fault Refusal :=
  event s fun s =>
    if 32 ≤ n ∨ (s.part n).isSome = true ∨ s.mayPlan parent.asker parent.parent devices = false ∨
        s.planFits n parent.parent res = false then
      s.emit (.refusal n)
    else
      let s1 := match parent.parent with
        | some m => s.modPart m fun p => { p with res := resLess p.res res }
        | none => s
      ({ s1 with parts := s1.parts ++ [newPart n parent.parent res s1.fwActive] }).assign n devices
        (if parent.asker.isNone then some managers else none)

/-- The devices of a partition that have anything in the package. -/
def State.devicesOf (s : State) (n : Nat) : List Nat :=
  ((s.vdevs.map fun d => d.id) ++ (s.jobs.map fun j => j.vd) ++ s.blocks.map fun b => b.vd).eraseDups.filter fun v =>
    (s.vdev v).part == n

/-- The blocks of some devices that are on cores. -/
def State.onCores (s : State) (vds : List Nat) : List Nat :=
  (s.blocks.filter fun b => vds.contains b.vd && !b.saved).map fun b => b.id

/-- The spare cores of a die (R1). -/
def sparesPerDie : Nat := 4

/-- Spare cores take the logical numbers of failed ones; `none` where a die has no spare left (R1, R9, R348). -/
def State.spareFor (s : State) (failed : List Nat) : Option (SMap Nat) :=
  failed.foldl
    (fun m c =>
      match m with
      | none => none
      | some m =>
        let used := smGet 0 m (dieOf c)
        if used < sparesPerDie then some (smSet 0 m (dieOf c) (used + 1)) else none) (some s.coreSpares)

/-- A planned change is applied: a child's resources come from its parent, a parent keeps what its children do not hold, and
the memory of a CXL port whose link went down returns with a plan that names it (R347, R348, R366). -/
def State.applyPlan (s : State) (p : Part) (res : Resources) (spares : SMap Nat) : State :=
  let s1 := match p.parent with
    | some m => s.modPart m fun q => { q with res := resLess q.res res }
    | none => s
  let own := (s.childParts p.num).foldl (fun r q => resLess r q.res) res
  let names := fun port => res.windows.any fun w =>
    decide (w.1 < 2 ^ 44 + (port + 1) * 2 ^ 43 ∧ 2 ^ 44 + port * 2 ^ 43 < w.1 + w.2)
  { s1.modPart p.num fun q => { q with res := own } with
    cxlDown := s1.cxlDown.filter fun port => !(names port), coreSpares := spares }

/-- RE_PLAN: the partition's blocks are pre-empted first; once they are saved the change is applied, with spare cores in the
place of those of its cores that have failed (R348). -/
def execRePlan (part : Nat) (res : Change) (s : State) : Host.Outcome State Fault Refusal :=
  event s fun s =>
    match s.part part with
    | none => s
    | some p =>
      match s.onCores (s.devicesOf part) with
      | [] =>
        let s0 := match p.parent with
          | some m => s.modPart m fun q => { q with res := resPlus q.res p.res }
          | none => s
        match s0.spareFor (res.failed.filter res.res.cores.contains) with
        | some spares => if s0.planFits part p.parent res.res then s0.applyPlan p res.res spares else s.emit (.refusal part)
        | none => s.emit (.refusal part)
      | l => l.foldl State.preemptBlock s

/-- A budget with its control word written; what has been used stays (R350). -/
def Budget.control (b : Budget) (v : Addr) : Budget :=
  { b with limit := bits v.toNat 0 40, refuse := v.getLsbD 40, en := v.getLsbD 41 }

/-- BUDGET_CONTROL_WRITE: of a child partition by a manager function of its parent, of a top-level one by the platform
manager (R350, R353, R360, R375). -/
def execBudgetControlWrite (by_ : Option Nat) (part k : Nat) (value : Addr) (s : State) :
    Host.Outcome State Fault Refusal :=
  event s fun s =>
    match s.part part with
    | none => s
    | some p =>
      let may := match by_ with
        | some v => (s.vdev v).mgr && p.parent == some (s.vdev v).part
        | none => p.parent.isNone
      if may && decide (k ≤ 8) then
        s.modPart part fun p => { p with budgets := smSet freshBudget p.budgets k ((p.budget k).control value) }
      else s

/-! ## Pause, migration and live update -/

/-- A device is paused: its guest time is saved (R355). -/
def State.pause (s : State) (vd : Nat) : State :=
  let d := s.vdev vd
  if d.paused then s else s.setVdev { d with paused := true, tssave := BitVec.ofNat 64 (s.guestTime vd) }

/-- The timer of a waiting job discounts a span of ticks (R374). -/
def Job.later (j : Job) (n : Nat) : Job :=
  match j.wait with
  | .mem c v a m (some t) => { j with wait := .mem c v a m (some (t + n)) }
  | _ => j

/-- A paused device goes on: its guest time continues from the saved value, modulo 2^64 (R355). -/
def State.unpause (s : State) (vd : Nat) : State :=
  let d := s.vdev vd
  if d.paused then
    let now := d.guestAt (s.tickOf vd)
    let span := (now + 2 ^ 64 - d.tssave.toNat) % 2 ^ 64
    let s1 := s.setVdev { d with paused := false, toff := (d.toff + span) % 2 ^ 64 }
    { s1 with jobs := s1.jobs.map fun (j : Job) => if j.vd = vd then j.later span else j }
  else s

/-- Pauses devices and has their blocks saved, then makes a change and lets them go on (R323, R374). -/
def State.swap (s : State) (vds : List Nat) (f : State → State) : State :=
  match s.onCores vds with
  | [] => vds.foldl State.unpause (f (vds.foldl State.pause s))
  | l => l.foldl State.preemptBlock (vds.foldl State.pause s)

/-- A device's state is on another package: the placement epoch advances, and the tick counter there is unrelated to the one
here, so that its offset is a free value; the time base moves with it (R186, R323, R355, R359; log entry 3). -/
def State.migrate (s : State) (vd : Nat) : State :=
  let d := s.vdev vd
  let off := Config.freeNat s.freeCount
  { s with freeCount := s.freeCount + 1 }.setVdev { d with
    epoch := (d.epoch + 1) % 16
    tickOff := off
    toff := (d.toff + off + 2 ^ 64 - d.tickOff % 2 ^ 64) % 2 ^ 64 }

/-- MIGRATION: once the device's blocks are saved (R186, R323, R359). -/
def execMigration (vd : Nat) (s : State) : Host.Outcome State Fault Refusal :=
  event s fun s => if 256 ≤ vd then s else s.swap [vd] fun s => s.migrate vd

/-- A firmware slot. -/
def State.fwSlot (s : State) (n : Nat) : FwSlot := if n = 0 then s.fwA else s.fwB

/-- The partition runs the firmware of a slot; the management controller switches once every partition has (R374). -/
def State.switchFw (s : State) (part slot : Nat) (at_ : Option Nat) : State :=
  let s1 := s.modPart part fun p => { p with firmware := slot, switchedAt := at_ }
  if s1.parts.all fun p => p.firmware == slot then { s1 with fwActive := slot } else s1

/-- LIVE_UPDATE: a partition switches to the verified image of the inactive slot; a rejected image is never run (R370,
R374). -/
def execLiveUpdate (part : Nat) (s : State) : Host.Outcome State Fault Refusal :=
  event s fun s =>
    let slot := 1 - s.fwActive
    match s.part part with
    | none => s
    | some p =>
      if !(s.fwSlot slot).valid || decide (p.firmware = slot) then s.emit (.refusal slot)
      else s.swap (s.devicesOf part) fun s => s.switchFw part slot (some s.tick)

/-- UPDATE_FALLBACK: within 10 s of its switch a partition that faults returns to the old slot (R374). -/
def execUpdateFallback (part : Nat) (s : State) : Host.Outcome State Fault Refusal :=
  event s fun s =>
    match s.part part with
    | none => s
    | some p =>
      match p.switchedAt with
      | some t =>
        if s.tick < t + 10 ^ 10 then s.swap (s.devicesOf part) fun s => s.switchFw part (1 - p.firmware) none else s
      | none => s

/-! ## The management interface -/

/-- KEY_SLOT_LOAD: the slot holds the key from here on; lines written under its old one read as their stored bytes, decrypted
under this (R340). -/
def execKeySlotLoad (slot : KeyLoad) (s : State) : Host.Outcome State Fault Refusal :=
  event s fun s =>
    if slot.num < 2048 then
      let gen := s.genOf slot.num + 1
      { s with
        keyGen := smSet 0 s.keyGen slot.num gen
        keyMat := smSet none s.keyMat (2048 * gen + slot.num) (some slot.key.toNat) }
    else s

/-- FAULT_QUEUE_READ: the entries, and how many were dropped (R342). -/
def execFaultQueueRead (stack : Nat) (s : State) : Host.Outcome State Fault Refusal :=
  event s fun s => s.emit (.faultQueue stack (smGet [] s.faultQ stack) (smGet 0 s.faultOver stack))

/-- A management answer whose bytes the manual does not give: a free value (R371, R375; log entry 3). -/
def State.answer (s : State) (request : Nat) : State :=
  { s.emit (.answer request (Config.answerBytes request s.freeCount)) with freeCount := s.freeCount + 1 }

/-- TELEMETRY_READ: temperatures and module power (R375). -/
def execTelemetryRead (s : State) : Host.Outcome State Fault Refusal := event s fun s => s.answer 0

/-- GET_VERSION (R371). -/
def execGetVersion (_viaHost : Bool) (s : State) : Host.Outcome State Fault Refusal := event s fun s => s.answer 1

/-- GET_CAPABILITIES (R371). -/
def execGetCapabilities (_viaHost : Bool) (s : State) : Host.Outcome State Fault Refusal := event s fun s => s.answer 2

/-- NEGOTIATE_ALGORITHMS (R371). -/
def execNegotiateAlgorithms (_viaHost : Bool) (s : State) : Host.Outcome State Fault Refusal :=
  event s fun s => s.answer 3

/-- GET_DIGESTS (R371). -/
def execGetDigests (_viaHost : Bool) (s : State) : Host.Outcome State Fault Refusal := event s fun s => s.answer 4

/-- GET_CERTIFICATE (R371). -/
def execGetCertificate (_viaHost : Bool) (s : State) : Host.Outcome State Fault Refusal := event s fun s => s.answer 5

/-- CHALLENGE (R371). -/
def execChallenge (_viaHost : Bool) (s : State) : Host.Outcome State Fault Refusal := event s fun s => s.answer 6

/-- GET_MEASUREMENTS: the six measurements (R371). -/
def execGetMeasurements (_viaHost : Bool) (s : State) : Host.Outcome State Fault Refusal := event s fun s => s.answer 7

/-- FABRIC_WINDOW: one of up to 16, within the host-memory region (R369). -/
def execFabricWindow (n base size : Nat) (links : List Nat) (remote : Nat) (s : State) : Host.Outcome State Fault Refusal :=
  event s fun s =>
    if 16 ≤ n ∨ base < 2 ^ 48 ∨ 2 ^ 52 < base + size then s.emit (.refusal n)
    else { s with fabric := (s.fabric.filter fun (f : Fabric) => f.num != n) ++ [⟨n, base, size, links, remote⟩] }

end Sys2Proof.Machine
end

