-- ==== Sys2Proof/Machine/Dispatch.lean ====
section
/-! DEFINITION. One arm per constructor of the instruction set, each one direct call of its meaning. -/

namespace Sys2Proof.Machine

def exec (i : Instr) (s : State) : Host.Outcome State Fault Refusal :=
  match i with
  | .sadd p d a b n => Sys2Proof.Machine.execSadd p d a b n s
  | .ssub p d a b n => Sys2Proof.Machine.execSsub p d a b n s
  | .smul p d a b n => Sys2Proof.Machine.execSmul p d a b n s
  | .smulh p d a b n => Sys2Proof.Machine.execSmulh p d a b n s
  | .sand p d a b n => Sys2Proof.Machine.execSand p d a b n s
  | .sor p d a b n => Sys2Proof.Machine.execSor p d a b n s
  | .sxor p d a b n => Sys2Proof.Machine.execSxor p d a b n s
  | .sshl p d a b n => Sys2Proof.Machine.execSshl p d a b n s
  | .sshr p d a b n => Sys2Proof.Machine.execSshr p d a b n s
  | .ssra p d a b n => Sys2Proof.Machine.execSsra p d a b n s
  | .smin p d a b n => Sys2Proof.Machine.execSmin p d a b n s
  | .smax p d a b n => Sys2Proof.Machine.execSmax p d a b n s
  | .scmp p cc q a b n => Sys2Proof.Machine.execScmp p cc q a b n s
  | .ssel p d a gd => Sys2Proof.Machine.execSsel p d a gd s
  | .smov p d a => Sys2Proof.Machine.execSmov p d a s
  | .srdvFirst p d a => Sys2Proof.Machine.execSrdvFirst p d a s
  | .srdv p d a l => Sys2Proof.Machine.execSrdv p d a l s
  | .srdid p d id => Sys2Proof.Machine.execSrdid p d id s
  | .smovi p d imm => Sys2Proof.Machine.execSmovi p d imm s
  | .slui p d imm => Sys2Proof.Machine.execSlui p d imm s
  | .bra p gd off => Sys2Proof.Machine.execBra p gd off s
  | .brl p gd off => Sys2Proof.Machine.execBrl p gd off s
  | .joinat p off => Sys2Proof.Machine.execJoinat p off s
  | .bcall p gd off => Sys2Proof.Machine.execBcall p gd off s
  | .loopb p a i8 => Sys2Proof.Machine.execLoopb p a i8 s
  | .bret p a => Sys2Proof.Machine.execBret p a s
  | .bind p a => Sys2Proof.Machine.execBind p a s
  | .bindCall p d a => Sys2Proof.Machine.execBindCall p d a s
  | .regrp p => Sys2Proof.Machine.execRegrp p s
  | .exit p => Sys2Proof.Machine.execExit p s
  | .yield p => Sys2Proof.Machine.execYield p s
  | .sleep p a => Sys2Proof.Machine.execSleep p a s
  | .sleepRel p a => Sys2Proof.Machine.execSleepRel p a s
  | .swidth p d => Sys2Proof.Machine.execSwidth p d s
  | .swidthGang p d => Sys2Proof.Machine.execSwidthGang p d s
  | .smaskqAct p d => Sys2Proof.Machine.execSmaskqAct p d s
  | .smaskqLive p d => Sys2Proof.Machine.execSmaskqLive p d s
  | .sgangq p d => Sys2Proof.Machine.execSgangq p d s
  | .voteAny p w q a => Sys2Proof.Machine.execVoteAny p w q a s
  | .voteAll p w q a => Sys2Proof.Machine.execVoteAll p w q a s
  | .voteEq p w q a => Sys2Proof.Machine.execVoteEq p w q a s
  | .voteBal p w d a => Sys2Proof.Machine.execVoteBal p w d a s
  | .shfl p d a b bk kind w fk fr imm c => Sys2Proof.Machine.execShfl p d a b bk kind w fk fr imm c s
  | .setfmt p a => Sys2Proof.Machine.execSetfmt p a s
  | .setfmtImm p code => Sys2Proof.Machine.execSetfmtImm p code s
  | .getfmt p d => Sys2Proof.Machine.execGetfmt p d s
  | .setcvm p a => Sys2Proof.Machine.execSetcvm p a s
  | .getcvm p d => Sys2Proof.Machine.execGetcvm p d s
  | .seedsr p a => Sys2Proof.Machine.execSeedsr p a s
  | .seedsrV p a => Sys2Proof.Machine.execSeedsrV p a s
  | .xacqV p => Sys2Proof.Machine.execXacqV p s
  | .xacqAcc p n => Sys2Proof.Machine.execXacqAcc p n s
  | .xacqBt p => Sys2Proof.Machine.execXacqBt p s
  | .xrelV p => Sys2Proof.Machine.execXrelV p s
  | .xrelAcc p n => Sys2Proof.Machine.execXrelAcc p n s
  | .xrelBt p => Sys2Proof.Machine.execXrelBt p s
  | .xqry p d => Sys2Proof.Machine.execXqry p d s
  | .fork p q a e loc ek off => Sys2Proof.Machine.execFork p q a e loc ek off s
  | .join p scp a => Sys2Proof.Machine.execJoin p scp a s
  | .joinSp p scp a => Sys2Proof.Machine.execJoinSp p scp a s
  | .deqd p d => Sys2Proof.Machine.execDeqd p d s
  | .ld p m raw => Sys2Proof.Machine.execLd p m raw s
  | .ldu p m raw => Sys2Proof.Machine.execLdu p m raw s
  | .lds p m => Sys2Proof.Machine.execLds p m s
  | .ldc p m raw => Sys2Proof.Machine.execLdc p m raw s
  | .st p m gd => Sys2Proof.Machine.execSt p m gd s
  | .stu p m gd mv => Sys2Proof.Machine.execStu p m gd mv s
  | .sts p m gd => Sys2Proof.Machine.execSts p m gd s
  | .atom p m gd raw aop dv cv => Sys2Proof.Machine.execAtom p m gd raw aop dv cv s
  | .fence p kind scp => Sys2Proof.Machine.execFence p kind scp s
  | .tld p d a fmt mode sat fs ord scp => Sys2Proof.Machine.execTld p d a fmt mode sat fs ord scp s
  | .tst p d a fmt sclw fs ord scp => Sys2Proof.Machine.execTst p d a fmt sclw fs ord scp s
  | .thq p d a fs ord scp => Sys2Proof.Machine.execThq p d a fs ord scp s
  | .tmat p a fs ord scp => Sys2Proof.Machine.execTmat p a fs ord scp s
  | .taff p a x y fs ord scp => Sys2Proof.Machine.execTaff p a x y fs ord scp s
  | .tscale p a x fs ord scp => Sys2Proof.Machine.execTscale p a x fs ord scp s
  | .toffs p a x fs ord scp => Sys2Proof.Machine.execToffs p a x fs ord scp s
  | .tclamp p a x y fs ord scp => Sys2Proof.Machine.execTclamp p a x y fs ord scp s
  | .tfill p a x fs ord scp => Sys2Proof.Machine.execTfill p a x fs ord scp s
  | .tperm p a perm fs ord scp => Sys2Proof.Machine.execTperm p a perm fs ord scp s
  | .bara p name a w => Sys2Proof.Machine.execBara p name a w s
  | .bars p name a w => Sys2Proof.Machine.execBars p name a w s
  | .barw p name w => Sys2Proof.Machine.execBarw p name w s
  | .bxinit p d a => Sys2Proof.Machine.execBxinit p d a s
  | .bxexp p d a => Sys2Proof.Machine.execBxexp p d a s
  | .bxarr p d a => Sys2Proof.Machine.execBxarr p d a s
  | .bxwait p par q a => Sys2Proof.Machine.execBxwait p par q a s
  | .crwaitEmpty p ring ph a => Sys2Proof.Machine.execCrwaitEmpty p ring ph a s
  | .crwaitFull p ring ph a => Sys2Proof.Machine.execCrwaitFull p ring ph a s
  | .crfill p ring a => Sys2Proof.Machine.execCrfill p ring a s
  | .crfree p ring a => Sys2Proof.Machine.execCrfree p ring a s
  | .crtakeEmpty p ring q ph a => Sys2Proof.Machine.execCrtakeEmpty p ring q ph a s
  | .crtakeFull p ring q ph a => Sys2Proof.Machine.execCrtakeFull p ring q ph a s
  | .cpy p a e b o ds => Sys2Proof.Machine.execCpy p a e b o ds s
  | .cpyp p d a e b o ds => Sys2Proof.Machine.execCpyp p d a e b o ds s
  | .cwait p par d a => Sys2Proof.Machine.execCwait p par d a s
  | .cstat p d a => Sys2Proof.Machine.execCstat p d a s
  | .cstatIdx p d a => Sys2Proof.Machine.execCstatIdx p d a s
  | .cstatClr p d a => Sys2Proof.Machine.execCstatClr p d a s
  | .hedit p a e b o ds => Sys2Proof.Machine.execHedit p a e b o ds s
  | .bankcmd p d a e b => Sys2Proof.Machine.execBankcmd p d a e b s
  | .icinv p => Sys2Proof.Machine.execIcinv p s
  | .icinvDev p => Sys2Proof.Machine.execIcinvDev p s
  | .isync p => Sys2Proof.Machine.execIsync p s
  | .dcwb p d a => Sys2Proof.Machine.execDcwb p d a s
  | .dcinv p d a => Sys2Proof.Machine.execDcinv p d a s
  | .vadd p d a b n => Sys2Proof.Machine.execVadd p d a b n s
  | .vsub p d a b n => Sys2Proof.Machine.execVsub p d a b n s
  | .vmul p d a b n => Sys2Proof.Machine.execVmul p d a b n s
  | .vmulh p d a b n => Sys2Proof.Machine.execVmulh p d a b n s
  | .vmad p d a b n => Sys2Proof.Machine.execVmad p d a b n s
  | .vand p d a b n => Sys2Proof.Machine.execVand p d a b n s
  | .vor p d a b n => Sys2Proof.Machine.execVor p d a b n s
  | .vxor p d a b n => Sys2Proof.Machine.execVxor p d a b n s
  | .vshl p d a b n => Sys2Proof.Machine.execVshl p d a b n s
  | .vshr p d a b n => Sys2Proof.Machine.execVshr p d a b n s
  | .vsra p d a b n => Sys2Proof.Machine.execVsra p d a b n s
  | .vfshl p d a b ck c imm => Sys2Proof.Machine.execVfshl p d a b ck c imm s
  | .vfshr p d a b ck c imm => Sys2Proof.Machine.execVfshr p d a b ck c imm s
  | .vmin p d a b n => Sys2Proof.Machine.execVmin p d a b n s
  | .vmax p d a b n => Sys2Proof.Machine.execVmax p d a b n s
  | .vabs p d a => Sys2Proof.Machine.execVabs p d a s
  | .vclz p d a => Sys2Proof.Machine.execVclz p d a s
  | .vpop p d a => Sys2Proof.Machine.execVpop p d a s
  | .vbrev p d a => Sys2Proof.Machine.execVbrev p d a s
  | .vmov p d a => Sys2Proof.Machine.execVmov p d a s
  | .vbcast p d a => Sys2Proof.Machine.execVbcast p d a s
  | .vlane p d => Sys2Proof.Machine.execVlane p d s
  | .vcmp p pd a b bk cc u => Sys2Proof.Machine.execVcmp p pd a b bk cc u s
  | .vsel p d a b bk gd => Sys2Proof.Machine.execVsel p d a b bk gd s
  | .vmovi p d imm => Sys2Proof.Machine.execVmovi p d imm s
  | .vfadd p d a b n => Sys2Proof.Machine.execVfadd p d a b n s
  | .vfsub p d a b n => Sys2Proof.Machine.execVfsub p d a b n s
  | .vfmul p d a b n => Sys2Proof.Machine.execVfmul p d a b n s
  | .vfma p d a b n => Sys2Proof.Machine.execVfma p d a b n s
  | .vfmin p d a b n => Sys2Proof.Machine.execVfmin p d a b n s
  | .vfmax p d a b n => Sys2Proof.Machine.execVfmax p d a b n s
  | .vfcmp p pd a b bk cc tot => Sys2Proof.Machine.execVfcmp p pd a b bk cc tot s
  | .vfdiv p d a b n => Sys2Proof.Machine.execVfdiv p d a b n s
  | .vfsqrt p d a => Sys2Proof.Machine.execVfsqrt p d a s
  | .vrcp p d a => Sys2Proof.Machine.execVrcp p d a s
  | .vrsq p d a => Sys2Proof.Machine.execVrsq p d a s
  | .vlog2 p d a => Sys2Proof.Machine.execVlog2 p d a s
  | .vexp2 p d a b bk c ck => Sys2Proof.Machine.execVexp2 p d a b bk c ck s
  | .vhadd p d a b n => Sys2Proof.Machine.execVhadd p d a b n s
  | .vhmul p d a b n => Sys2Proof.Machine.execVhmul p d a b n s
  | .vhfma p d a b n => Sys2Proof.Machine.execVhfma p d a b n s
  | .vred p d a w ds op => Sys2Proof.Machine.execVred p d a w ds op s
  | .vscan p d a w ex op => Sys2Proof.Machine.execVscan p d a w ex op s
  | .vcvt p d a sfmt dfmt mode sat sel => Sys2Proof.Machine.execVcvt p d a sfmt dfmt mode sat sel s
  | .vcvtef p d a e dfmt mode sat pd => Sys2Proof.Machine.execVcvtef p d a e dfmt mode sat pd s
  | .vpack p d a fmt mode sat => Sys2Proof.Machine.execVpack p d a fmt mode sat s
  | .vunpk p d a fmt => Sys2Proof.Machine.execVunpk p d a fmt s
  | .vsclap p d a b n => Sys2Proof.Machine.execVsclap p d a b n s
  | .vcmprs p d a f fk w mask sc => Sys2Proof.Machine.execVcmprs p d a f fk w mask sc s
  | .vexpnd p d a f fk w mask sc => Sys2Proof.Machine.execVexpnd p d a f fk w mask sc s
  | .vdecode p d a c te nreg w => Sys2Proof.Machine.execVdecode p d a c te nreg w s
  | .vdstat p d => Sys2Proof.Machine.execVdstat p d s
  | .vdstatClr p d => Sys2Proof.Machine.execVdstatClr p d s
  | .oclaim p q k => Sys2Proof.Machine.execOclaim p q k s
  | .orelease p k => Sys2Proof.Machine.execOrelease p k s
  | .oqry p d k => Sys2Proof.Machine.execOqry p d k s
  | .oload p k a e o dfmt ds tr scw => Sys2Proof.Machine.execOload p k a e o dfmt ds tr scw s
  | .ofill p k a fmt fs row woff nreg sc w => Sys2Proof.Machine.execOfill p k a fmt fs row woff nreg sc w s
  | .mma p d a b fs pi arow w => Sys2Proof.Machine.execMma p d a b fs pi arow w s
  | .mmas p d a b fs pi arow w => Sys2Proof.Machine.execMmas p d a b fs pi arow w s
  | .accz p d fs w => Sys2Proof.Machine.execAccz p d fs w s
  | .accrd p d a fs col nreg w => Sys2Proof.Machine.execAccrd p d a fs col nreg w s
  | .accwr p d a fs col nreg w => Sys2Proof.Machine.execAccwr p d a fs col nreg w s
  | .accst p d a fmt fs col mode sat scw row ord scp => Sys2Proof.Machine.execAccst p d a fmt fs col mode sat scw row ord scp s
  | .ocmp p d a b bk fs cc tie tot fmt seg w => Sys2Proof.Machine.execOcmp p d a b bk fs cc tie tot fmt seg w s
  | .btcnt p d a fs w => Sys2Proof.Machine.execBtcnt p d a fs w s
  | .btcolc p d a fs w => Sys2Proof.Machine.execBtcolc p d a fs w s
  | .btand p d a b fs => Sys2Proof.Machine.execBtand p d a b fs s
  | .btor p d a b fs => Sys2Proof.Machine.execBtor p d a b fs s
  | .btxor p d a b fs => Sys2Proof.Machine.execBtxor p d a b fs s
  | .btnot p d a fs => Sys2Proof.Machine.execBtnot p d a fs s
  | .btt p d a fs => Sys2Proof.Machine.execBtt p d a fs s
  | .btcomp p d a b fs => Sys2Proof.Machine.execBtcomp p d a b fs s
  | .btclos p d a x fs => Sys2Proof.Machine.execBtclos p d a x fs s
  | .bteye p d fs => Sys2Proof.Machine.execBteye p d fs s
  | .btfirst p d a fs w => Sys2Proof.Machine.execBtfirst p d a fs w s
  | .btrowRd p d a fs w => Sys2Proof.Machine.execBtrowRd p d a fs w s
  | .btrowWr p d a fs w => Sys2Proof.Machine.execBtrowWr p d a fs w s
  | .btld p d a fs sp ord scp => Sys2Proof.Machine.execBtld p d a fs sp ord scp s
  | .btst p d a fs sp ord scp => Sys2Proof.Machine.execBtst p d a fs sp ord scp s
  | .trap p code => Sys2Proof.Machine.execTrap p code s
  | .tret p => Sys2Proof.Machine.execTret p s
  | .tretKill p => Sys2Proof.Machine.execTretKill p s
  | .tretIgn p => Sys2Proof.Machine.execTretIgn p s
  | .trd p d r => Sys2Proof.Machine.execTrd p d r s
  | .twr p r a => Sys2Proof.Machine.execTwr p r a s
  | .flash p a => Sys2Proof.Machine.execFlash p a s
  | .flashNone p => Sys2Proof.Machine.execFlashNone p s
  | .dbgbrk p code => Sys2Proof.Machine.execDbgbrk p code s
  | .dmbw p n a => Sys2Proof.Machine.execDmbw p n a s
  | .dmbwPost p n a => Sys2Proof.Machine.execDmbwPost p n a s
  | .dmbr p d n => Sys2Proof.Machine.execDmbr p d n s
  | .cntrd p d n => Sys2Proof.Machine.execCntrd p d n s
  | .tsrd p d => Sys2Proof.Machine.execTsrd p d s
  | .tickrd p d => Sys2Proof.Machine.execTickrd p d s
  | .featq p d n => Sys2Proof.Machine.execFeatq p d n s
  | .nop p => Sys2Proof.Machine.execNop p s
  | .extensionOneWord w => Sys2Proof.Machine.execExtensionOneWord w s
  | .extensionLong w x => Sys2Proof.Machine.execExtensionLong w x s
  | .clauseHeader w => Sys2Proof.Machine.execClauseHeader w s
  | .illegalEncoding w => Sys2Proof.Machine.execIllegalEncoding w s
  | .finbyNop len arg => Sys2Proof.Machine.execFinbyNop len arg s
  | .launch num desc par rec x y z => Sys2Proof.Machine.execLaunch num desc par rec x y z s
  | .launchi num desc par rec grid => Sys2Proof.Machine.execLaunchi num desc par rec grid s
  | .edge src dst => Sys2Proof.Machine.execEdge src dst s
  | .gbegin rec => Sys2Proof.Machine.execGbegin rec s
  | .gend => Sys2Proof.Machine.execGend s
  | .pbegin rec => Sys2Proof.Machine.execPbegin rec s
  | .pend => Sys2Proof.Machine.execPend s
  | .loop count target => Sys2Proof.Machine.execLoop count target s
  | .waitmem cond value addr mask timeout => Sys2Proof.Machine.execWaitmem cond value addr mask timeout s
  | .cond cond value addr mask els => Sys2Proof.Machine.execCond cond value addr mask els s
  | .waitctr rec => Sys2Proof.Machine.execWaitctr rec s
  | .finbyFence scope => Sys2Proof.Machine.execFinbyFence scope s
  | .cancel rec => Sys2Proof.Machine.execCancel rec s
  | .signal intr vector addr value => Sys2Proof.Machine.execSignal intr vector addr value s
  | .link next => Sys2Proof.Machine.execLink next s
  | .endStream => Sys2Proof.Machine.execEndStream s
  | .bknop => Sys2Proof.Machine.execBknop s
  | .bkcfg wfmt xfmt wscl gw gs go => Sys2Proof.Machine.execBkcfg wfmt xfmt wscl gw gs go s
  | .bkldv gx len boff => Sys2Proof.Machine.execBkldv gx len boff s
  | .bkmac a xoff n => Sys2Proof.Machine.execBkmac a xoff n s
  | .bkscl a f => Sys2Proof.Machine.execBkscl a f s
  | .bksum a b => Sys2Proof.Machine.execBksum a b s
  | .bkst a n => Sys2Proof.Machine.execBkst a n s
  | .bkloop c set v => Sys2Proof.Machine.execBkloop c set v s
  | .bkwait => Sys2Proof.Machine.execBkwait s
  | .bkend => Sys2Proof.Machine.execBkend s
  | .waitmemReread vd slot => Sys2Proof.Machine.execWaitmemReread vd slot s
  | .waitmemTimeout vd slot => Sys2Proof.Machine.execWaitmemTimeout vd slot s
  | .launchIssue l => Sys2Proof.Machine.execLaunchIssue l s
  | .levelDone l => Sys2Proof.Machine.execLevelDone l s
  | .killIntervalExpiry gang => Sys2Proof.Machine.execKillIntervalExpiry gang s
  | .blockAdmit l die => Sys2Proof.Machine.execBlockAdmit l die s
  | .stealMessage n => Sys2Proof.Machine.execStealMessage n s
  | .stealReply n => Sys2Proof.Machine.execStealReply n s
  | .taskTake core => Sys2Proof.Machine.execTaskTake core s
  | .taskSteal core => Sys2Proof.Machine.execTaskSteal core s
  | .deadlockTrap gang => Sys2Proof.Machine.execDeadlockTrap gang s
  | .loadComplete op lanes => Sys2Proof.Machine.execLoadComplete op lanes s
  | .storePerformed op => Sys2Proof.Machine.execStorePerformed op s
  | .atomicComplete op => Sys2Proof.Machine.execAtomicComplete op s
  | .tileStepComplete op => Sys2Proof.Machine.execTileStepComplete op s
  | .heldReleaseApply op => Sys2Proof.Machine.execHeldReleaseApply op s
  | .joinRecheck gang strand => Sys2Proof.Machine.execJoinRecheck gang strand s
  | .sleepWake gang strand => Sys2Proof.Machine.execSleepWake gang strand s
  | .cwaitDeadline gang strand => Sys2Proof.Machine.execCwaitDeadline gang strand s
  | .xacqGrant gang => Sys2Proof.Machine.execXacqGrant gang s
  | .copyExecute core => Sys2Proof.Machine.execCopyExecute core s
  | .heditExecute core => Sys2Proof.Machine.execHeditExecute core s
  | .oloadExecute core => Sys2Proof.Machine.execOloadExecute core s
  | .bankProgramStart ch => Sys2Proof.Machine.execBankProgramStart ch s
  | .bankTransferComplete ch n => Sys2Proof.Machine.execBankTransferComplete ch n s
  | .bankStepLimit ch => Sys2Proof.Machine.execBankStepLimit ch s
  | .matrixOpStart core => Sys2Proof.Machine.execMatrixOpStart core s
  | .matrixOpComplete op => Sys2Proof.Machine.execMatrixOpComplete op s
  | .decodeEnd gang strand => Sys2Proof.Machine.execDecodeEnd gang strand s
  | .decodeCycleLimit gang strand values => Sys2Proof.Machine.execDecodeCycleLimit gang strand values s
  | .congestionSignal core => Sys2Proof.Machine.execCongestionSignal core s
  | .throttleRecovery core => Sys2Proof.Machine.execThrottleRecovery core s
  | .grantSliceExpiry u n => Sys2Proof.Machine.execGrantSliceExpiry u n s
  | .preemptionRequest block => Sys2Proof.Machine.execPreemptionRequest block s
  | .preemptRunonEnd block => Sys2Proof.Machine.execPreemptRunonEnd block s
  | .blockResume block core => Sys2Proof.Machine.execBlockResume block core s
  | .migration vd => Sys2Proof.Machine.execMigration vd s
  | .faultTimeout vd rec => Sys2Proof.Machine.execFaultTimeout vd rec s
  | .pfans vd value => Sys2Proof.Machine.execPfans vd value s
  | .tlbi vd => Sys2Proof.Machine.execTlbi vd s
  | .tlbInvalidationDone vd => Sys2Proof.Machine.execTlbInvalidationDone vd s
  | .rst vd => Sys2Proof.Machine.execRst vd s
  | .pageClear page => Sys2Proof.Machine.execPageClear page s
  | .strm vd slot addr => Sys2Proof.Machine.execStrm vd slot addr s
  | .tlogo vd => Sys2Proof.Machine.execTlogo vd s
  | .rlogo vd => Sys2Proof.Machine.execRlogo vd s
  | .blogo vd page => Sys2Proof.Machine.execBlogo vd page s
  | .registerWrite vd window off value => Sys2Proof.Machine.execRegisterWrite vd window off value s
  | .hostLoad vd off size => Sys2Proof.Machine.execHostLoad vd off size s
  | .hostStore vd off size value => Sys2Proof.Machine.execHostStore vd off size value s
  | .interruptDelivery vd => Sys2Proof.Machine.execInterruptDelivery vd s
  | .budgetPeriod => Sys2Proof.Machine.execBudgetPeriod s
  | .governorPeriod => Sys2Proof.Machine.execGovernorPeriod s
  | .patrolScrub => Sys2Proof.Machine.execPatrolScrub s
  | .laneRemap link n => Sys2Proof.Machine.execLaneRemap link n s
  | .flitReplay link => Sys2Proof.Machine.execFlitReplay link s
  | .linkDown link => Sys2Proof.Machine.execLinkDown link s
  | .cxlLinkDown port => Sys2Proof.Machine.execCxlLinkDown port s
  | .powerGood => Sys2Proof.Machine.execPowerGood s
  | .diePowerState die st => Sys2Proof.Machine.execDiePowerState die st s
  | .liveUpdate part => Sys2Proof.Machine.execLiveUpdate part s
  | .updateFallback part => Sys2Proof.Machine.execUpdateFallback part s
  | .rePlan part res => Sys2Proof.Machine.execRePlan part res s
  | .partitionCreate n parent res devices managers => Sys2Proof.Machine.execPartitionCreate n parent res devices managers s
  | .keySlotLoad slot => Sys2Proof.Machine.execKeySlotLoad slot s
  | .budgetControlWrite by_ part k value => Sys2Proof.Machine.execBudgetControlWrite by_ part k value s
  | .faultQueueRead stack => Sys2Proof.Machine.execFaultQueueRead stack s
  | .telemetryRead => Sys2Proof.Machine.execTelemetryRead s
  | .getVersion viaHost => Sys2Proof.Machine.execGetVersion viaHost s
  | .getCapabilities viaHost => Sys2Proof.Machine.execGetCapabilities viaHost s
  | .negotiateAlgorithms viaHost => Sys2Proof.Machine.execNegotiateAlgorithms viaHost s
  | .getDigests viaHost => Sys2Proof.Machine.execGetDigests viaHost s
  | .getCertificate viaHost => Sys2Proof.Machine.execGetCertificate viaHost s
  | .challenge viaHost => Sys2Proof.Machine.execChallenge viaHost s
  | .getMeasurements viaHost => Sys2Proof.Machine.execGetMeasurements viaHost s
  | .remoteElement link dpa data => Sys2Proof.Machine.execRemoteElement link dpa data s
  | .remoteElementPerformed cmd elem => Sys2Proof.Machine.execRemoteElementPerformed cmd elem s
  | .fabricWindow n base size links remote => Sys2Proof.Machine.execFabricWindow n base size links remote s
  | .badPageRequest page => Sys2Proof.Machine.execBadPageRequest page s

end Sys2Proof.Machine
end

