-- ==== Sys2Proof/Machine/Fetch.lean ====
section
/-! DEFINITION. What a strand, a bank engine or a job executes next: whether it may move (R32, R104, R275, R276, R303),
the fetch of its next header, word or command (R19, R96, R191, R193), and the traps and faults that come before it. -/

namespace Sys2Proof.Machine

/-! ## What an instruction needs of queues and flags -/

/-- The flag selector of a long-latency instruction (R100). -/
def flagTag (i : Instr) : Option Bool :=
  match i with
  | .ld _ m _ => some m.fs
  | .ldu _ m _ => some m.fs
  | .lds _ m => some m.fs
  | .ldc _ m _ => some m.fs
  | .st _ m _ => some m.fs
  | .stu _ m _ _ => some m.fs
  | .sts _ m _ => some m.fs
  | .atom _ m _ _ _ _ _ => some m.fs
  | .tld _ _ _ _ _ _ fs _ _ => some fs
  | .tst _ _ _ _ _ fs _ _ => some fs
  | .thq _ _ _ fs _ _ => some fs
  | .tmat _ _ fs _ _ => some fs
  | .taff _ _ _ _ fs _ _ => some fs
  | .tscale _ _ _ fs _ _ => some fs
  | .toffs _ _ _ fs _ _ => some fs
  | .tclamp _ _ _ _ fs _ _ => some fs
  | .tfill _ _ _ fs _ _ => some fs
  | .tperm _ _ _ fs _ _ => some fs
  | .ofill _ _ _ _ fs _ _ _ _ _ => some fs
  | .mma _ _ _ _ fs _ _ _ => some fs
  | .mmas _ _ _ _ fs _ _ _ => some fs
  | .accz _ _ fs _ => some fs
  | .accrd _ _ _ fs _ _ _ => some fs
  | .accwr _ _ _ fs _ _ _ => some fs
  | .accst _ _ _ _ fs _ _ _ _ _ _ _ => some fs
  | .ocmp _ _ _ _ _ fs _ _ _ _ _ _ => some fs
  | .btcnt _ _ _ fs _ => some fs
  | .btcolc _ _ _ fs _ => some fs
  | .btand _ _ _ _ fs => some fs
  | .btor _ _ _ _ fs => some fs
  | .btxor _ _ _ _ fs => some fs
  | .btnot _ _ _ fs => some fs
  | .btt _ _ _ fs => some fs
  | .btcomp _ _ _ _ fs => some fs
  | .btclos _ _ _ _ fs => some fs
  | .bteye _ _ fs => some fs
  | .btfirst _ _ _ fs _ => some fs
  | .btrowRd _ _ _ fs _ => some fs
  | .btrowWr _ _ _ fs _ => some fs
  | .btld _ _ _ fs _ _ _ => some fs
  | .btst _ _ _ fs _ _ _ => some fs
  | _ => none

/-- Whether an instruction enters a matrix queue (R229). -/
def entersMatrix (i : Instr) : Bool :=
  match i with
  | .ofill .. => true
  | .mma .. => true
  | .mmas .. => true
  | .accz .. => true
  | .accrd .. => true
  | .accwr .. => true
  | .accst .. => true
  | .ocmp .. => true
  | .btcnt .. => true
  | .btcolc .. => true
  | .btand .. => true
  | .btor .. => true
  | .btxor .. => true
  | .btnot .. => true
  | .btt .. => true
  | .btcomp .. => true
  | .btclos .. => true
  | .bteye .. => true
  | .btfirst .. => true
  | .btrowRd .. => true
  | .btrowWr .. => true
  | .btld .. => true
  | .btst .. => true
  | _ => false

/-- Whether the engine queue, or the decoder, that an instruction of the focused strand needs is full or busy: the queue and
decoder holds (R165, R189, R223, R229, R303). -/
def State.queueHeld (s : State) (i : Instr) : Bool :=
  match i with
  | .cpy .. => decide (64 ≤ (s.copyQueue s.g.core).length)
  | .cpyp .. => decide (64 ≤ (s.copyQueue s.g.core).length)
  | .hedit .. => decide (64 ≤ (s.copyQueue s.g.core).length)
  | .oload .. => decide (64 ≤ (s.copyQueue s.g.core).length)
  | .bankcmd _ d _ _ _ =>
    match channelSet (s.readS d.toNat) with
    | some chs => chs.any fun ch => decide (16 ≤ (s.bankQueue ch).length)
    | none => false
  | .vdecode .. => s.decoderBusy
  | i => entersMatrix i && decide (32 ≤ (s.matrixQueue s.g.core s.g.vd).length)

/-! ## Whether a strand may move -/

/-- Whether what held the focused strand's instruction may have ended, so that it is tried again: the period of a budget has
begun, a queue has room, a decoder is free, what it releases is used no more (R156, R228, R303, R351). -/
def State.holdOver (s : State) (h : Hold) : Bool :=
  match h with
  | .copyQueue => decide ((s.copyQueue s.g.core).length < 64)
  | .bankQueue ch => decide ((s.bankQueue ch).length < 16)
  | .matrixQueue => decide ((s.matrixQueue s.g.core s.g.vd).length < 32)
  | .decoder => !s.decoderBusy
  | .settle => !(s.mops.any fun m => s.t.issued.contains m.id && memMop m.instr)
  | .follow => true
  | .block what => !(s.blockBusy s.g.id what)
  | .slot n => !(s.slotBusy s.g.core n)
  | .budget tick => decide (tick ≤ s.tick) || s.preempting s.g.block

/-- Whether the wait of the focused strand lets it move: it waits for nothing that still holds it, its barrier has left the
phase, its counter may have changed, it looks again, or it is parked and owes a cancel (R32, R159, R175, R303, R376). -/
def State.waitOpen (s : State) : Bool :=
  match s.t.wait with
  | .none => true
  | .hold h => s.holdOver h
  | .again _ => true
  | .join _ _ => s.joinDue
  | .bar n ph _ => (s.myBar n).ph != ph
  | _ => false

/-- Whether the focused strand may take a cancel that it owes: at a wait inside a clause, or at a boundary, where nothing
holds the cancel; the holds of its next instruction do not (R17, R254, R317, R324, R376). -/
def State.cancelTurn (s : State) : Bool :=
  s.t.cancelOwed && (s.cancelHere || (s.cancelDue && s.t.clause.isNone && s.cancelOpen s.g.id))

/-- Whether the gap of the focused strand's word has elapsed: its distance from the strand's last issue (R104, R125). -/
def State.gapOver (s : State) : Bool :=
  match s.t.prev with
  | none => true
  | some c => decide (c + 1 + gapOf (s.t.wordAt 0) ≤ s.cycle)

/-- Whether a strand of the focused gang has issued in this cycle. -/
def State.gangIssued (s : State) : Bool := s.cycleMarks.contains (.issued s.g.id)

/-- Whether the WAIT of the clause that the focused strand has begun, and of which no word has come to issue, is unmet: it is
flag-waiting (R101). -/
def State.flagsAgain (s : State) : Bool :=
  s.t.entered &&
    match s.t.clause with
    | some c => !(s.waitMet s.g.id c.word)
    | none => false

/-- What the header at the focused strand's boundary comes to: nothing until something else changes, a turn that issues
nothing, or its clause's words (R41, R95-R101, R254, R303, R308). -/
inductive Entry where
  | idle
  | turn
  | clause (hdr : Word) (ws : List Word)
  deriving DecidableEq, Repr

/-- What the focused strand's clause boundary comes to. -/
def State.entry (s : State) : Entry :=
  if s.cancelDue && !s.cancelTurn && s.t.nextPending.isNone then .idle
  else if s.boundary.isSome then .turn
  else
    match s.nextClauseCode with
    | .error _ => .turn
    | .ok (w, ws) =>
      if hdrBad w || wordsBad (eclOf w) ws || (s.fetchHeld ws.length).isSome ||
          (!s.t.handler && !(roleAdmits s.g.role (eclOf w))) then .turn
      else if !(s.waitMet s.g.id w) then .idle
      else if memClass w ws && !s.permitFree then (if s.g.throttled.isSome then .idle else .turn)
      else if (!s.t.entered && (s.execSlot s.t.pc).isSome) || (w.getLsbD 4 && s.preempting s.g.block) then .turn
      else .clause w ws

/-- The focused strand inside the clause that its boundary comes to; as it stands where it is inside one. -/
def State.begun (s : State) : Option State :=
  match s.t.clause with
  | some _ => some s
  | none =>
    match s.entry with
    | .clause w ws => some { s with t := s.t.begin w ws }
    | _ => none

/-- Whether the focused strand is ready: eligible, no flag that its clause waits for set, and under no hold (R303). Its gap and
its pipes are other matters. -/
def State.isReady (s : State) : Bool :=
  !s.t.waited && s.waitOpen && !(s.t.wait == .hold .follow && s.mustFollow []) && s.t.haltedBy.isNone && s.t.owed.isNone && decide (s.t.opens ≤ s.cycle) &&
    (s.t.clause.isSome || s.served .pipes s.g.core s.g.vd) &&
    match s.begun with
    | none => false
    | some b => !b.flagsAgain && !(b.queueHeld b.t.instruction)

/-- Whether the debug traps that strands of the focused gang owe keep it from moving: the lowest owing strand's is entered
first, in a cycle in which the gang has not issued, and under HG nothing else moves before (R267, R275). -/
def State.owedFirst (s : State) : Bool :=
  let owing := s.g.strands.filter fun u => u.owed.isSome && u.haltedBy.isNone && !u.waited
  let hg := s.g.dbgc.getLsbD 21
  if s.t.owed.isSome then (owing.any fun u => decide (lowLane u.active < lowLane s.t.active)) || (hg && s.gangIssued)
  else hg && owing != []

/-- Whether, under SS and HG, the focused strand may issue: its gang has not in this cycle, and no ready strand with free pipes
holds a lower lane (R276). -/
def State.issuesAlone (s : State) : Bool :=
  !(s.g.dbgc.getLsbD 20 && s.g.dbgc.getLsbD 21) ||
    (!s.gangIssued &&
      !(s.g.strands.any fun u =>
        let f := s.focus s.g.id u.idx
        decide (lowLane u.active < lowLane s.t.active) && f.focused && f.isReady && f.pipesFree))

/-- Whether the focused strand's word may issue in this cycle: its gap has elapsed, the pipes that it spans are free, and its
gang's order lets it (R38, R104, R199, R276, R305). -/
def State.slotOpen (s : State) : Bool := s.gapOver && s.pipesFree && s.issuesAlone

/-- Whether the focused strand may take its turn: its core runs and its gang is resident; it takes a cancel, or it is not
halted and waits for nothing, at a boundary its device holds the pipes, and its word may issue in this cycle (R48, R268, R303,
R309, R324, R373). -/
def State.turnOpen (s : State) : Bool :=
  (s.die (dieOf s.g.core)).power == 0 && !s.g.saved && decide (s.t.opens ≤ s.cycle) &&
    (s.cancelTurn ||
      (s.t.haltedBy.isNone && s.waitOpen && !s.owedFirst && (s.t.clause.isSome || s.served .pipes s.g.core s.g.vd) &&
        (s.t.clause.isNone || s.t.owed.isSome || s.t.waited || s.slotOpen)))

/-! ## The turn of a strand -/

/-- The turn of a strand at a clause boundary: what the boundary holds comes first, then the header (R35, R96, R254). -/
def State.turnHeader (s : State) : State × Option Instr :=
  if s.boundary.isSome then (s, some (.clauseHeader 0))
  else
    match s.codeAt s.t.pc 1 with
    | .error m => (s.fetchFault m, none)
    | .ok ws => (s, some (.clauseHeader (ws.headD 0)))

/-- Whether an instruction of the focused strand comes in its place among what this cycle has applied: to a deque, a named
barrier or a core's slots, and to a flag on which another strand has passed a WAIT (R49, R101, R176, R228). -/
def State.inTurn (s : State) (i : Instr) : Bool :=
  let key := s.g.turnKey (lowLane s.t.active)
  let placed := match i with
    | .fork .. => !(s.later (dequeMark s.g.core) s.forkKey)
    | .bara _ name _ _ => !(s.later (barMark s.g.block name.toNat) key)
    | .bars _ name _ _ => !(s.later (barMark s.g.block name.toNat) key)
    | .oclaim .. => !(s.later (claimMark s.g.core) key)
    | _ => true
  let passed := fun (n : Nat) => s.cycleMarks.any fun m =>
    match m with
    | .waited g k idx => g == s.g.id && k == n && idx != s.t.idx
    | _ => false
  placed &&
    match (flagTag i).bind s.flagFor with
    | some n => !(passed n)
    | none => true

/-- Fetches anew the words of the clause that the focused strand resumes in; a resumption at the extension word of a LONG raises
illegal-encoding there (R257, R317). -/
def State.refill (s : State) (c : Clause) : State :=
  match s.fetchWords s.g.vd (c.hdr + 4) c.cnt with
  | .ok ws =>
    let s1 := { s with t := { s.t with clause := some { c with words := ws } } }
    if extensionAt false ws s1.t.wordIndex then s1.trapHere (s1.trap .illegalEncoding) else s1
  | .error m =>
    let tr := fun (k : Cause) => (⟨k, s.t.active, BitVec.ofNat 64 m.addr, 2⟩ : Trap)
    match m.cause with
    | some k => s.trapHere (tr k)
    | none =>
      if (s.vdev s.g.vd).rpf then
        match s.faultStall m.addr (2 + (if m.hold then 8 else 0)) (tr .translationFault) with
        | .ok s1 => s1
        | .error t => s.trapHere t
      else s.trapHere (tr .translationFault)

/-- The turn of a strand inside a clause: words that are to be fetched anew are; a strand whose flags have been set since its
WAIT goes back to the header; a breakpoint comes before a word that has not been tried (R101, R254, R265, R317). -/
def State.turnWord (s : State) (c : Clause) : State × Option Instr :=
  if c.words.isEmpty then (s.refill c, none)
  else if s.t.waited then (s, some s.t.instruction)
  else if s.flagsAgain then ({ s with t := { s.t with clause := none, pc := c.hdr, wait := .none } }, none)
  else
    match (if s.t.wait = .none then s.execSlot s.t.pc else none) with
    | some n => (s.debugStop (s.breakTrap n s.t.pc), none)
    | none => if s.inTurn s.t.instruction then (s, some s.t.instruction) else (s, none)

/-- The turn of the focused strand: a cancel that reaches it inside its wait, a debug trap that it owes, else its header or word
(R254, R267, R275, R376). -/
def State.turnStrand (s : State) : State × Option Instr :=
  if s.t.cancelOwed && s.cancelHere then (s.takeCancel, none)
  else
    match (if s.t.haltedBy.isSome then none else s.t.owed) with
    | some tr => (({ s with t := { s.t with owed := none } }).trapHere tr, none)
    | none =>
      match s.t.clause with
      | none => s.turnHeader
      | some c => s.turnWord c

/-- The turn of a strand by its gang and table entry; one that may not move does nothing. -/
def State.fetchStrand (s : State) (gang idx : Nat) : State × Option Instr :=
  let f := s.focus gang idx
  if f.focused && f.turnOpen then f.turnStrand else (f, none)

/-! ## Bank engines -/

/-- The turn of a bank engine: a word that is none ends its program with code 0x08 (R192). The same ends one of whose 256 words
none is BKEND, when it has passed the last: the manual gives no outcome (R191; DESIGN CHOICE, log entry 94). -/
def State.fetchBank (s : State) (ch : Nat) : State × Option Instr :=
  let s := s.unfocus
  match s.runningBank ch with
  | none => (s, none)
  | some b =>
    match b.prog[b.pos]? with
    | none => (s.bankEnd b 0x08, none)
    | some w =>
      match decodeBank w with
      | none => (s.bankEnd b 0x08, none)
      | some i => ({ s with curBank := some ch }, some i)

/-! ## Jobs -/

/-- The words of bytes. -/
def words32s : Nat → List Byte → List Word
  | 0, _ => []
  | n + 1, bs => BitVec.ofNat 32 (leNat (bs.take 4)) :: words32s n (bs.drop 4)

/-- The words of the command at a job's position: the first 16 bytes give its length (R19). -/
def State.commandWords (s : State) (j : Job) : Except Nat (List Word) :=
  match s.vaRead j.vd j.pc.toNat 16 with
  | .error _ => .error 4
  | .ok bs =>
    let len := (bs.getD 1 0).toNat % 16
    if cmdLenOk (bs.getD 0 0).toNat len then
      match s.vaRead j.vd j.pc.toNat (16 * len) with
      | .error _ => .error 4
      | .ok bs => .ok (words32s (4 * len) bs)
    else .ok (words32s 4 bs)

/-- Whether the interpreter of a job goes on: it waits for no phase that is not done, and its device is neither paused nor
in reset (R22, R355, R357). -/
def State.jobOpen (s : State) (j : Job) : Bool :=
  let held := match j.wait with
    | .phase l => !(s.levelOver l)
    | _ => false
  !(j.faulted || j.ended || held || (s.vdev j.vd).paused || (s.vdev j.vd).resetting)

/-- The turn of a job: a segment that is not aligned, a command that is not reached, and one that does not decode fault the
stream (R19, R25). -/
def State.fetchJob (s : State) (vd slot : Nat) : State × Option Instr :=
  let s := s.unfocus
  match s.jobAt vd slot with
  | none => (s, none)
  | some j =>
    if !(s.jobOpen j) then (s, none)
    else if j.pc = j.seg ∧ j.pc.toNat % 64 ≠ 0 then (s.streamFault vd slot 3 j.pc, none)
    else
      match s.commandWords j with
      | .error c => (s.streamFault vd slot c j.pc, none)
      | .ok ws =>
        match decodeFinby ws with
        | .error c => (s.streamFault vd slot c j.pc, none)
        | .ok i =>
          let j1 := match j.wait with
            | .phase _ => { j with wait := .none }
            | _ => j
          ({ (s.setJob j1) with curJob := some (vd, slot) }, some i)

/-! ## An instruction put where the next step fetches it -/

/-- A fresh gang of one strand of 16 lanes that stands at the first word of a clause of engine class 7, whose words are
those of one instruction (R95, R193). -/
def wordGang (id : Nat) (ws : List Word) : Gang :=
  { Gang.init with
    id := id
    strands :=
      [{ Strand.init with
          active := 0xFFFF, pc := 0x1004
          clause := some ⟨0x1000, BitVec.ofNat 32 (ws.length * 2 ^ 28 + 7 * 2 ^ 25 + 15 * 2 ^ 9 + 15 * 2 ^ 5), ws⟩ }] }

/-- The state with such a gang, whose turn is next. -/
def State.withWords (s : State) (ws : List Word) : State :=
  { s with
    powered := true
    nextId := s.nextId + 1
    gangs := s.gangs ++ [wordGang s.nextId ws]
    agenda := .strand s.nextId 0 :: s.agenda }

end Sys2Proof.Machine
end

