-- ==== Sys2Proof/Machine/Sched.lean ====
section
/-! DEFINITION. A cycle of the clocks: merges (R36), register starvation (R155), the issue selector (R303-R305), and what
the default policy plans (log entry 2); and the turn that each step takes. -/

namespace Sys2Proof.Machine

/-! ## Merges -/

/-- Whether the focused strand waits for the flags of its next clause, so that it is not eligible (R32, R101). -/
def State.flagWaiting (s : State) : Bool :=
  s.flagsAgain ||
    (s.t.clause.isNone && !s.t.waited && s.boundary.isNone &&
      match s.nextClauseCode with
      | .ok (w, ws) => !(hdrBad w || wordsBad (eclOf w) ws) && !(s.waitMet s.g.id w)
      | .error _ => false)

/-- Whether the state of a strand of a gang is eligible: it waits at no instruction that it has issued, is neither halted nor
flag-waiting; one that a hold or a recoverable fault keeps from issuing is (R32, R101, R303). -/
def State.eligible (s : State) (g : Gang) (t : Strand) : Bool :=
  t.haltedBy.isNone &&
    (match t.wait with
      | .none => true
      | .hold _ => true
      | .fault _ _ _ _ => true
      | _ => false) && !(s.focus g.id t.idx).flagWaiting

/-- Whether two strands of a gang stand where strands merge: the same PC, identical join stacks (R36). -/
def sameSpot (t u : Strand) : Bool := decide (t.idx ≠ u.idx ∧ t.pc = u.pc ∧ t.joins = u.joins)

/-- Merges, `fuel` times, the eligible strands of a gang, given by their entries, that stand at the same spot (R36). -/
def Gang.mergeAll (ok : List Nat) (cycle : Nat) : Nat → Gang → Gang
  | 0, g => g
  | fuel + 1, g =>
    let mine := g.strands.filter fun t => ok.contains t.idx
    match mine.find? fun t => mine.any (sameSpot t) with
    | none => g
    | some t =>
      let ts := mine.filter fun u => u.idx == t.idx || sameSpot t u
      Gang.mergeAll ok cycle fuel (g.merge ts { combine ((lowest ts).getD t) ts with opens := cycle })

/-- A gang with its strands merged, if two of them stand at one spot (R36). -/
def State.merged (s : State) (g : Gang) : Gang :=
  if g.saved || !(g.strands.any fun t => g.strands.any (sameSpot t)) then g
  else g.mergeAll ((g.strands.filter fun t => !t.waited && s.eligible g t).map fun t => t.idx) s.cycle g.strands.length

/-! ## Register starvation -/

/-- Whether a gang is blocked in XACQ (R155). -/
def State.blocked (s : State) (g : Gang) : Bool :=
  (g.strands.any fun t => t.wait == .xacq) && !(g.strands.any (s.eligible g))

/-- The gang admitted last. -/
def newest (gs : List Gang) : Option Gang :=
  gs.foldl
    (fun b g =>
      match b with
      | none => some g
      | some h => if h.id < g.id then some g else some h) none

/-- Where every resident gang of a core is blocked in XACQ, what is free having been granted, the newest takes
register-starvation on its waiting strand of the lowest lane; the request is withdrawn (R154, R155). -/
def State.starve (s0 : State) (core : Nat) : State :=
  let s := s0.examine core
  let gs := s.gangs.filter fun g => g.core == core && !g.saved && g.strands != []
  if gs.all s.blocked then
    match newest gs with
    | none => s
    | some g =>
      match lowest (g.strands.filter fun t => t.wait == .xacq) with
      | none => s
      | some t =>
        s.onStrand g.id t.idx fun s =>
          ({ s with g := { s.g with xreqs := s.g.xreqs.filter fun x => x.strand != t.idx } }).trapHere
            (s.trap .registerStarvation)
  else s

/-! ## The issue selector -/

/-- A strand as the selector ranks it (R304, R305): whether it takes a cancel (R324) or issues a word, after its header or not,
with the flag that the word tags, those that the header waits for, and its place among what issues. -/
structure Cand where
  gang : Nat
  idx : Nat
  core : Nat
  pipes : List Nat
  age : Nat
  low : Nat
  cancels : Bool
  header : Bool
  tags : Option Nat
  waits : List Nat
  place : List Nat
  deriving DecidableEq, Repr

/-- The order of the selector: overdue strands by age, those that take a cancel, then by spanned pipes and age; ties to the
earlier gang and the lower lane (R305, R324). -/
def Cand.first (a b : Cand) : Bool :=
  let key := fun (c : Cand) =>
    if 64 ≤ c.age then [0, 0] else if c.cancels then [1, 0] else [2, 8 - c.pipes.length]
  let ka := key a
  let kb := key b
  if ka ≠ kb then decide (ka < kb)
  else if a.age ≠ b.age then decide (b.age < a.age)
  else if a.gang ≠ b.gang then decide (a.gang < b.gang)
  else decide (a.low ≤ b.low)

/-- Puts a candidate in its place. -/
def Cand.insert (c : Cand) : List Cand → List Cand
  | [] => [c]
  | d :: r => if c.first d then c :: d :: r else d :: c.insert r

/-- The candidates that issue, in the selector's order: those whose pipes no earlier one has claimed (R305). -/
def claim : List Cand → List (Nat × Nat) → List Cand
  | [], _ => []
  | c :: r, claimed =>
    let mine := c.pipes.map fun p => (c.core, p)
    if mine.any claimed.contains then claim r claimed else c :: claim r (claimed ++ mine)

/-- The candidates that issue: a strand whose header waits for a flag that another issuing strand of its gang tags in this cycle
is flag-waiting, and leaves its pipes to others (R101, R305). -/
def chosen : Nat → List Cand → List Cand
  | 0, _ => []
  | fuel + 1, cs =>
    let got := claim cs []
    let flagged := fun (c : Cand) => c.header && got.any fun d =>
      d.gang == c.gang && d.idx != c.idx &&
        match d.tags with
        | some n => c.waits.contains n
        | none => false
    match got.find? flagged with
    | none => got
    | some c => chosen fuel (cs.filter fun d => d != c)

/-- The candidate that the focused strand is, if it may issue a word, or take a cancel, in this cycle (R303-R305, R324). -/
def State.candidate (s : State) : Option Cand :=
  let c : Cand :=
    { gang := s.g.id, idx := s.t.idx, core := s.g.core
      pipes := (slicesOf s.t.active).map fun j => (s.g.firstPipe + j) % 8
      age := s.cycle - max (s.t.prev.getD 0) s.t.since, low := lowLane s.t.active
      cancels := true, header := false, tags := none, waits := [], place := [0, s.g.id, lowLane s.t.active] }
  if !s.turnOpen then none
  else if s.cancelTurn then (if s.pipesFree then some c else none)
  else if !s.isReady then none
  else
    match s.begun with
    | none => none
    | some b =>
      if !b.slotOpen then none
      else
        let i := b.t.instruction
        some { c with
          cancels := false
          header := s.t.clause.isNone
          tags := (flagTag i).bind b.flagFor
          waits := (List.range 12).filter fun n => (b.t.clause.map fun c => c.word.getLsbD (13 + n)) == some true
          place := match i with
            | .oclaim .. => 1 :: s.g.turnKey (lowLane s.t.active)
            | _ => c.place }

/-- Whether the focused strand has a turn that issues nothing: it looks again at what it waits for, a trap or a boundary comes
before its next word, or its words are to be fetched (R35, R254, R275). -/
def State.quietTurn (s : State) : Bool :=
  s.turnOpen && !s.cancelTurn &&
    (s.t.waited || s.t.owed.isSome ||
      match s.t.clause with
      | none => s.entry == .turn
      | some c => c.words.isEmpty || s.flagsAgain || (s.t.wait == .none && (s.execSlot s.t.pc).isSome))

/-- The strands of gangs that are on cores, each with the state in which it is focused. -/
def State.onTable (s : State) : List (State × Strand) :=
  (s.gangs.filter fun g => !g.saved).flatMap fun g => g.strands.map fun t => (s.focus g.id t.idx, t)

/-- The strands whose turns issue nothing. -/
def State.quietTurns (s : State) : List Due :=
  (s.onTable.filter fun x => x.1.quietTurn).map fun x => .strand x.1.g.id x.2.idx

/-- The strands that issue in a cycle (R305), in the order in which what they do is applied: by admission, then by lowest lane,
claims of slots last and by gang index (R49, R176, R228). -/
def State.selected (s : State) : List Due :=
  let cs := s.onTable.filterMap fun x => x.1.candidate
  let got := chosen (cs.length + 1) (cs.foldr Cand.insert [])
  let placed := got.foldr
    (fun c l => (l.takeWhile fun d => decide (d.place < c.place)) ++ c :: l.dropWhile fun d => decide (d.place < c.place)) []
  placed.flatMap fun c => if c.header then [.strand c.gang c.idx, .word c.gang c.idx] else [.strand c.gang c.idx]

/-- A strand that is not ready in this cycle becomes eligible, for its age, in the next at the earliest (R304). -/
def State.aged (s : State) : State :=
  let late := (s.onTable.filter fun x => !x.1.isReady).map fun x => (x.1.g.id, x.2.idx)
  late.foldl (fun u x => u.modStrand x.1 x.2 fun t => { t with since := s.cycle + 1 }) s

/-! ## What is due in a cycle -/

/-- Events that time brings about. -/
def State.dueTime (s : State) : List Due :=
  (if s.powered && s.periodDue s.budgetAt 100000 then [.budgetPeriod] else []) ++
    (if s.powered && s.periodDue s.governorAt 10000 then [.governorPeriod] else []) ++
    (if s.powered && decide (0 < s.tick) && s.tick % 86400000000000 == 0 then [.patrolScrub] else []) ++
    ((s.pfrecs.filter s.faultLate).map fun r => .faultTimeout r.vd r.id) ++
    ((s.gangs.filter s.killDue).map fun g => .killIntervalExpiry g.id) ++
    ((s.throttles.filter fun p => s.recoveryDue p.1).map fun p => .throttleRecovery p.1) ++
    ((s.jobs.filter s.waitmemOver).map fun j => .waitmemTimeout j.vd j.slot)

/-- The scheduling units that some device has work for. -/
def State.busyUnits (s : State) : List (GrantUnit × Nat) :=
  ((s.gangs.map fun g => (GrantUnit.pipes, g.core)) ++ (s.mops.map fun m => (GrantUnit.matrix, m.core)) ++
    (s.copies.map fun c => (GrantUnit.copy, c.core)) ++ s.banks.map fun b => (GrantUnit.bank, b.ch)).eraseDups

/-- Events of operations, engines, queues and scheduling units. -/
def State.dueUnits (s : State) : List Due :=
  (s.ops.map fun o => .opEnd o.id) ++
    (s.mops.map fun m => .matrixOpComplete m.id) ++
    ((s.mops.map fun m => m.core).eraseDups.map fun c => .matrixOpStart c) ++
    ((s.copies.map fun c => c.core).eraseDups.filterMap fun core =>
      match s.headCopy core with
      | none => none
      | some c =>
        if c.waiting.isSome then none
        else
          match c.kind with
          | .cpy _ _ _ => some (.copyExecute core)
          | .hedit _ _ => some (.heditExecute core)
          | .oload _ _ _ _ _ _ => some (.oloadExecute core)) ++
    (s.copies.flatMap fun c => c.remote.map fun e => .remotePerformed c.id e.1) ++
    ((s.banks.map fun b => b.ch).eraseDups.flatMap fun ch =>
      match s.headBank ch, s.runningBank ch with
      | _, some b =>
        (b.transfers.map fun x => Due.bankTransferComplete ch x.1) ++
          [if 2 ^ 26 ≤ b.steps then Due.bankStepLimit ch else Due.bank ch]
      | some _, none => [.bankProgramStart ch]
      | none, none => []) ++
    (s.busyUnits.filter fun u => s.sliceOver u.1 u.2).map fun u => .grantSliceExpiry u.1 u.2

/-- Events of strands that wait. -/
def State.dueStrands (s : State) : List Due :=
  s.gangs.flatMap fun g =>
    (if g.deadlocked then [.deadlockTrap g.id] else []) ++
      g.strands.filterMap fun t =>
        match t.wait with
        | .sleep k => if k ≤ s.tickOf g.vd then some (.sleepWake g.id t.idx) else none
        | .decode _ _ => some (.decodeEnd g.id t.idx)
        | _ => none

/-- A core of its partition on which a saved block may resume. -/
def State.resumeCore (s : State) (b : Block) : Option Nat :=
  match s.part (s.vdev b.vd).part with
  | some p => p.res.cores.find? fun c => (s.resumeAt b c).isSome
  | none => none

/-- Events of levels, launches, blocks and tasks. -/
def State.dueWork (s : State) : List Due :=
  ((s.launches.filter fun k => (s.issueTurn k.level).isSome).map fun k => .launchIssue k.level) ++
    ((s.levels.filter s.levelReady).map fun l => .levelDone l.id) ++
    (s.launches.flatMap fun k =>
      (k.unplaced.filter fun p => (s.admittable k.level p.1).isSome).map fun p => .blockAdmit k.level p.1) ++
    ((sortBy (fun (x : Steal) => 4 * x.arrive + x.thief) (s.steals.filter fun x => x.grant.isSome || decide (x.arrive < s.tick))).map
      fun x => if x.grant.isNone then .stealMessage x.id else .stealReply x.id) ++
    (if s.deque = [] then []
      else
        (((s.deque.map fun k => k.core).eraseDups.filter fun c => (s.takeable c).isSome).map fun c => .taskTake c) ++
          ((sortBy id ((s.parts.flatMap fun p => p.res.cores).filter fun c => (s.stealable c).isSome)).map fun c => .taskSteal c)) ++
    (s.blocks.filterMap fun b =>
      match b.preemptFrom with
      | some t => if s.runonOver b t then some (.preemptRunonEnd b.id) else none
      | none => if b.saved then (s.resumeCore b).map fun c => .blockResume b.id c else none)

/-- Events of devices. -/
def State.dueDevices (s : State) : List Due :=
  (s.vdevs.flatMap fun d =>
    (match d.busy with
      | some n => if s.flushed d.id n then [Due.tlbInvalidationDone d.id] else []
      | none => []) ++
      (if d.resetting && s.quiet d.id then [.rst d.id] else []) ++
      if d.intr != [] && s.running d.id then [.interruptDelivery d.id] else []) ++
    (s.pendingClear.head?.toList.map fun p => .pageClear p.1) ++
    ((s.jobs.filter s.jobOpen).map fun j => .job j.vd j.slot)

/-- What the default policy does in a cycle, in order: what time, operations and engines bring, then devices, then turns of
strands that issue nothing, then the issue of the cycle (R49, R101; log entry 2). -/
def State.schedule (s : State) : List Due :=
  s.dueTime ++ s.dueUnits ++ s.dueStrands ++ s.dueWork ++ s.dueDevices ++ [.wake, .select]

/-- A gang without a permit, or a place among those that wait for one, that it no longer has (R308). -/
def State.dropPermit (s : State) (g : Gang) : Gang :=
  { g with
    permit := g.permit && s.holdsPermit g
    throttled := if g.throttled.isSome && s.wantsPermit g then g.throttled else none }

/-- The clocks advance: a cycle, and under this model a tick with it (log entry 2); strands merge, and a starved core's
newest gang traps. -/
def State.clock (s : State) : State :=
  let s0 := s.unfocus
  let s1 := { s0 with cycle := s0.cycle + 1, tick := s0.tick + 1, issuedNow := [], cycleMarks := [] }
  let s2 := { s1 with gangs := s1.gangs.map fun (g : Gang) => s1.dropPermit (s1.merged g) }
  let s3 := ((s2.gangs.filter fun g => g.xreqs != []).map fun g => g.core).eraseDups.foldl State.starve s2
  { s3 with dueNow := s3.schedule }

/-! ## Turns -/

/-- The state that an outcome leaves; where there is none, the one before it. -/
def outcomeState (s : State) : Host.Outcome State Fault Refusal → State
  | .next t => t
  | _ => s

/-- The end of an operation by its kind (R163, R302). -/
def State.endAny (s : State) (op : Nat) : Host.Outcome State Fault Refusal :=
  match s.ops.find? fun o => o.id == op with
  | none => .next s
  | some o =>
    match o.kind with
    | .load _ _ _ => execLoadComplete op (BitVec.allOnes 64) s
    | .store _ => execStorePerformed op s
    | .atom _ _ _ _ => execAtomicComplete op s
    | .tile _ _ _ => execTileStepComplete op s
    | .held _ => execHeldReleaseApply op s

/-- Whether 4,096 cycles have passed since a strand issued the decode at which it waits (R222). -/
def State.decodeLate (s : State) (gang idx : Nat) : Bool :=
  (s.gangs.filter fun g => g.id == gang).any fun g => g.strands.any fun t => t.idx == idx &&
    match t.wait with
    | .decode _ c => decide (c + 4096 < s.cycle)
    | _ => false

/-- An event that is due, by the same meaning as its row of the table. -/
def dueEvent (d : Due) (s : State) : Host.Outcome State Fault Refusal :=
  match d with
  | .strand _ _ => .next s
  | .word _ _ => .next s
  | .wake => .next s
  | .select => .next s
  | .bank _ => .next s
  | .job _ _ => .next s
  | .opEnd o => s.endAny o
  | .sleepWake g i => execSleepWake g i s
  | .deadlockTrap g => execDeadlockTrap g s
  | .xacqGrant g => execXacqGrant g s
  | .decodeEnd g i => if s.decodeLate g i then execDecodeCycleLimit g i 0 s else execDecodeEnd g i s
  | .copyExecute c => execCopyExecute c s
  | .heditExecute c => execHeditExecute c s
  | .oloadExecute c => execOloadExecute c s
  | .remotePerformed c e => execRemoteElementPerformed c e s
  | .matrixOpStart c => execMatrixOpStart c s
  | .matrixOpComplete o => execMatrixOpComplete o s
  | .bankProgramStart c => execBankProgramStart c s
  | .bankTransferComplete c i => execBankTransferComplete c i s
  | .bankStepLimit c => execBankStepLimit c s
  | .throttleRecovery c => execThrottleRecovery c s
  | .grantSliceExpiry u n => execGrantSliceExpiry u n s
  | .preemptRunonEnd b => execPreemptRunonEnd b s
  | .blockResume b c => execBlockResume b c s
  | .faultTimeout v r => execFaultTimeout v r s
  | .tlbInvalidationDone v => execTlbInvalidationDone v s
  | .rst v => execRst v s
  | .pageClear p => execPageClear p s
  | .interruptDelivery v => execInterruptDelivery v s
  | .budgetPeriod => execBudgetPeriod s
  | .governorPeriod => execGovernorPeriod s
  | .patrolScrub => execPatrolScrub s
  | .launchIssue l => execLaunchIssue l s
  | .levelDone l => execLevelDone l s
  | .killIntervalExpiry g => execKillIntervalExpiry g s
  | .blockAdmit l d => execBlockAdmit l d s
  | .taskTake c => execTaskTake c s
  | .taskSteal c => execTaskSteal c s
  | .stealMessage n => execStealMessage n s
  | .stealReply n => execStealReply n s
  | .waitmemTimeout v j => execWaitmemTimeout v j s

/-- A turn that the policy planned. -/
def State.takeDue (s : State) (d : Due) : State × Option Instr :=
  match d with
  | .strand g i => s.fetchStrand g i
  | .word g i =>
    let f := s.focus g i
    if f.focused && f.t.clause.isSome then s.fetchStrand g i else (f, none)
  | .wake =>
    let u := s.unfocus
    ({ u with dueNow := u.quietTurns ++ u.dueNow }, none)
  | .select =>
    let u := s.unfocus
    ({ u.aged with dueNow := u.selected ++ u.dueNow }, none)
  | .bank ch => s.fetchBank ch
  | .job v j => s.fetchJob v j
  | d => (outcomeState s (dueEvent d s), none)

/-- What the policy does next: bring-up, what is planned, else the next cycle (log entry 2). -/
def State.policy (s : State) : State × Option Instr :=
  if !s.powered && (s.fwA.valid || s.fwB.valid) then (outcomeState s (execPowerGood s), none)
  else
    match s.dueNow with
    | [] => (s.clock, none)
    | d :: r => ({ s with dueNow := r }).takeDue d

/-- The turn of a step: the state before its instruction executes, and the instruction, if the turn has one. A turn of the
agenda that names no event of the table does nothing (log entry 1). -/
def State.turn (s : State) : State × Option Instr :=
  match s.agenda with
  | [] => s.policy
  | x :: r =>
    let s := { s with agenda := r }
    match x with
    | .event i => if encode i = [] then (s.unfocus, some i) else (s, none)
    | .strand g i => s.fetchStrand g i
    | .bank ch => s.fetchBank ch
    | .job v j => s.fetchJob v j
    | .clock => (s.clock, none)

end Sys2Proof.Machine
end

