-- ==== Sys2Proof/Machine/Step.lean ====
section
/-! DEFINITION. One step of the package: the turn that is next, and the instruction or event that it executes. -/

namespace Sys2Proof.Machine

/-- One step: the turn, then the meaning of what it fetched. -/
def step (s : State) : Host.Outcome State Fault Refusal :=
  match s.turn with
  | (t, none) => .next t
  | (t, some i) => exec i t

/-- The state with an instruction, numbered as the opcode table numbers bits, where the next step fetches it: in the
words of the current clause of a fresh strand whose turn is next (R96, R193; log entry 1). -/
def State.withFetchWord (s : State) (nbits w : Nat) : State := s.withWords (tableWords nbits w)

end Sys2Proof.Machine
end

