-- ==== Sys2Proof/Safety.lean ====
section
/-! DEFINITION. What counts as a safe run, and the terms that claims use: when an instruction issues, how a strand goes on,
and what an instruction leaves as it was. -/

namespace Sys2Proof.Machine

/-- A step that neither faults nor refuses. -/
def State.Safe (s : State) : Prop := ∃ t, step s = .next t

/-- The states that a number of steps reach. -/
def State.reaches : Nat → State → State → Prop
  | 0, s, t => s = t
  | n + 1, s, t => ∃ u, step s = .next u ∧ u.reaches n t

/-- An instruction of the focused strand whose register fields pass their checks (R105, R108, R109, R227, R231). -/
abbrev State.Issues (s : State) (i : Instr) : Prop := s.focused = true ∧ s.preCheck i = none

/-- The focused strand stands past the words of an instruction, eligible; past the last word of its clause it stands at
the next header (R96). -/
def State.WentOn (i : Instr) (s t : State) : Prop :=
  let pc := s.t.pc + BitVec.ofNat 64 (4 * wordsOf i)
  t.t.pc = pc ∧ t.t.wait = .none ∧
    t.t.clause = match s.t.clause with
      | some c => if pc = c.past then none else some c
      | none => none

/-- The focused strand stands at an address as at a clause header (R96, R107). -/
def State.WentTo (a : Addr) (t : State) : Prop := t.t.pc = a ∧ t.t.wait = .none ∧ t.t.clause = none

/-- A virtual device but for its counters (R354). -/
def VDev.plain (d : VDev) : VDev := { d with counters := [] }

/-- A partition but for its budgets (R350). -/
def Part.plain (p : Part) : Part := { p with budgets := [] }

/-- Nothing outside the focused gang has changed but what an issue takes and counts: pipes, counters, budgets charged, and
the issuers of the cycle (R38, R276, R350, R354, R373). -/
def State.Elsewhere (s t : State) : Prop :=
  t = { s with
    g := t.g, t := t.t, vdevs := t.vdevs, parts := t.parts, issuedNow := t.issuedNow, governorUsed := t.governorUsed,
    pipesBusy := t.pipesBusy, cycleMarks := t.cycleMarks } ∧
    (∀ n, (t.vdev n).plain = (s.vdev n).plain) ∧ t.parts.map Part.plain = s.parts.map Part.plain

/-- Every byte of memory reads as before, under every key, and every byte of every scratchpad. -/
def State.SameBytes (s t : State) : Prop := (∀ k c, t.byteUnder k c = s.byteUnder k c) ∧ t.blocks = s.blocks

/-- A strand that has changed only in its place, in what times its next issue, in its transients' age, and in what
flashback follows (R96, R104, R105, R259, R267). -/
def Strand.Moved (u v : Strand) : Prop :=
  v = { u with
    pc := v.pc, clause := v.clause, wait := v.wait, prev := v.prev, since := v.since, opens := v.opens,
    entered := v.entered, ignNext := v.ignNext, uncheckedNext := v.uncheckedNext, barPhase := v.barPhase, owed := v.owed,
    owedAt := v.owedAt, trans := v.trans, written := v.written, clean := v.clean }

/-- An instruction has gone on and written one S register: the register file, or with T the bypass; every other register,
flag and special register, the gang and all of memory are as they were (R105, R129). -/
def State.WritesS (i : Instr) (s t : State) (p : Pre) (d : BitVec 7) (v : Word) : Prop :=
  s.Elsewhere t ∧ s.SameBytes t ∧ t.g = s.g ∧ s.WentOn i t ∧ Strand.Moved { s.t with sregs := t.t.sregs } t.t ∧
    (p.t = false → t.readS d.toNat = v ∧ ∀ r, r ≠ d.toNat → smGet 0 t.t.sregs r = smGet 0 s.t.sregs r) ∧
    (p.t = true → t.t.sregs = s.t.sregs ∧ ∃ k, (⟨128 + d.toNat, k, [(0, v)], 0⟩ : Trans) ∈ t.t.trans)

/-- An instruction has gone on and written an S pair, low half first (R108). -/
def State.WritesPair (i : Instr) (s t : State) (d : BitVec 7) (v : Addr) : Prop :=
  s.Elsewhere t ∧ s.SameBytes t ∧ t.g = s.g ∧ s.WentOn i t ∧ Strand.Moved { s.t with sregs := t.t.sregs } t.t ∧
    t.readPair d.toNat = v ∧
    ∀ r, r ≠ d.toNat → r ≠ d.toNat + 1 → smGet 0 t.t.sregs r = smGet 0 s.t.sregs r

/-- An instruction has gone on and written one V register in the active lanes (R105, R197). -/
def State.WritesV (i : Instr) (s t : State) (p : Pre) (d : BitVec 7) (v : Nat → Word) : Prop :=
  s.Elsewhere t ∧ s.SameBytes t ∧ t.g = { s.g with vregs := t.g.vregs } ∧ s.WentOn i t ∧ Strand.Moved s.t t.t ∧
    (p.t = false →
      (∀ l ∈ lanesOf s.t.active, t.readV d.toNat l = v l) ∧
      ∀ r l, l < 64 → r ≠ d.toNat ∨ l ∉ lanesOf s.t.active → t.g.readV r l = s.g.readV r l) ∧
    (p.t = true → t.g.vregs = s.g.vregs ∧
      ∃ k, (⟨d.toNat, k, (lanesOf s.t.active).map fun l => (l, v l), 0⟩ : Trans) ∈ t.t.trans)

/-- An instruction has gone on and written one Q register. -/
def State.WritesQ (i : Instr) (s t : State) (q : BitVec 2) (b : Bool) : Prop :=
  s.Elsewhere t ∧ s.SameBytes t ∧ t.g = s.g ∧ s.WentOn i t ∧ Strand.Moved { s.t with qregs := t.t.qregs } t.t ∧
    t.readQ q.toNat = b ∧ ∀ n, n < 4 → n ≠ q.toNat → t.readQ n = s.readQ n

/-- An instruction has gone on and written one predicate in the active lanes; P7 reads true whatever is written (R108). -/
def State.WritesP (i : Instr) (s t : State) (n : BitVec 3) (b : Nat → Bool) : Prop :=
  s.Elsewhere t ∧ s.SameBytes t ∧ t.g = { s.g with pregs := t.g.pregs } ∧ s.WentOn i t ∧ Strand.Moved s.t t.t ∧
    (n ≠ 7 → ∀ l ∈ lanesOf s.t.active, (t.g.readP n.toNat).getLsbD l = b l) ∧
    (∀ l, l < 64 → l ∉ lanesOf s.t.active → (t.g.readP n.toNat).getLsbD l = (s.g.readP n.toNat).getLsbD l) ∧
    (t.g.readP 7 = BitVec.allOnes 64) ∧ ∀ m, m ≠ n.toNat → t.g.readP m = s.g.readP m

/-- An instruction has gone on and changed nothing else. -/
def State.OnlyWentOn (i : Instr) (s t : State) : Prop :=
  s.Elsewhere t ∧ s.SameBytes t ∧ t.g = s.g ∧ s.WentOn i t ∧ Strand.Moved s.t t.t

end Sys2Proof.Machine
end

