-- ==== Sys2Proof/Certificates/Slice0/Obligations.lean ====
section
/-! DEFINITION. What is claimed of the machine, for the provers: one Prop for each statement. -/

/-! ## Tables of results -/

namespace Sys2Proof.Machine

/-- The second operand of scalar arithmetic as R129 gives it: with N the sign-extended field, else S[B]. -/
def scalarB (s : State) (b : BitVec 7) (n : Bool) : Word := if n then BitVec.ofInt 32 b.toInt else s.readS b.toNat

/-- The count of a scalar shift as R129 gives it: bits [4:0] of the field or of S[B]. -/
def scalarCount (s : State) (b : BitVec 7) (n : Bool) : Nat := (if n then b.toNat else (s.readS b.toNat).toNat) % 32

/-- Bits [63:32] of the exact product, signed or unsigned (R129, R200). -/
def highProduct (uns : Bool) (x y : Word) : Word :=
  if uns then BitVec.ofNat 32 (x.toNat * y.toNat / 2 ^ 32) else BitVec.ofInt 32 (x.toInt * y.toInt / 2 ^ 32)

/-- Whether one word is at most another, unsigned or signed. -/
def atMost (uns : Bool) (x y : Word) : Bool := if uns then decide (x.toNat ≤ y.toNat) else decide (x.toInt ≤ y.toInt)

/-- The scalar instructions whose whole effect is one S register: T and gap, destination and value (R129, R132-R134, R148,
R152, R157, R159, R221, R272). -/
def scalarRow (s : State) : Instr → Option (Pre × BitVec 7 × Word)
  | .sadd p d a b n => some (p, d, BitVec.ofNat 32 ((s.readS a.toNat).toNat + (scalarB s b n).toNat))
  | .ssub p d a b n => some (p, d, BitVec.ofInt 32 ((s.readS a.toNat).toNat - (scalarB s b n).toNat))
  | .smul p d a b _ => some (p, d, BitVec.ofNat 32 ((s.readS a.toNat).toNat * (s.readS b.toNat).toNat))
  | .smulh p d a b n => some (p, d, highProduct n (s.readS a.toNat) (s.readS b.toNat))
  | .sand p d a b n => some (p, d, s.readS a.toNat &&& scalarB s b n)
  | .sor p d a b n => some (p, d, s.readS a.toNat ||| scalarB s b n)
  | .sxor p d a b n => some (p, d, s.readS a.toNat ^^^ scalarB s b n)
  | .sshl p d a b n => some (p, d, BitVec.ofNat 32 ((s.readS a.toNat).toNat * 2 ^ scalarCount s b n))
  | .sshr p d a b n => some (p, d, BitVec.ofNat 32 ((s.readS a.toNat).toNat / 2 ^ scalarCount s b n))
  | .ssra p d a b n => some (p, d, BitVec.ofInt 32 ((s.readS a.toNat).toInt / 2 ^ scalarCount s b n))
  | .smin p d a b n => some (p, d,
      if atMost n (s.readS a.toNat) (s.readS b.toNat) then s.readS a.toNat else s.readS b.toNat)
  | .smax p d a b n => some (p, d,
      if atMost n (s.readS a.toNat) (s.readS b.toNat) then s.readS b.toNat else s.readS a.toNat)
  | .smov p d a => some (p, d, s.readS a.toNat)
  | .srdvFirst p d a => some (p, d, s.readV a.toNat (lowLane s.t.active))
  | .smovi p d imm => some (p, d, BitVec.ofInt 32 imm.toInt)
  | .slui p d imm => some (p, d, BitVec.ofNat 32 ((s.readS d.toNat).toNat * 2 ^ 15 + imm.toNat))
  | .srdid p d id => some (p, d, s.identifier id)
  | .swidth p d => some (p, d, BitVec.ofNat 32 (lanesOf s.t.active).length)
  | .swidthGang p d => some (p, d, BitVec.ofNat 32 s.g.width)
  | .sgangq p d => some (p, d, BitVec.ofNat 32
      (s.g.width + 2 ^ 8 * (s.g.strands.length + 1) + 2 ^ 16 * s.t.joins.length + 2 ^ 21 * s.g.firstPipe))
  | .getfmt p d => some (p, d, s.t.fmtr)
  | .getcvm p d => some (p, d, s.t.cvmr)
  | .xqry p d => some (p, d, s.xWord)
  | .deqd p d => some (p, d, BitVec.ofNat 32 (s.deque.filter fun k => k.core == s.g.core).length)
  | .featq p d n => some (p, d, s.feature n.toNat)
  | .vdstat p d => some (p, d, s.t.dsw)
  | _ => none

/-- The second operand of a vector word in a lane as R198 gives it: S[B] with N, else V[B]. -/
def vectorB (s : State) (b : BitVec 7) (n : Bool) (l : Nat) : Word := if n then s.readS b.toNat else s.readV b.toNat l

/-- The count of a funnel shift in a lane, modulo 64 (R201). -/
def funnelBy (s : State) (ck : BitVec 2) (c : BitVec 7) (imm : BitVec 6) (l : Nat) : Nat :=
  (if ck = 0 then (s.readV c.toNat l).toNat else if ck = 1 then (s.readS c.toNat).toNat else imm.toNat) % 64

/-- The vector instructions whose whole effect is one V register in the active lanes: T and gap, destination and the value
of each lane (R200-R203, R205-R208, R215). -/
def vectorRow (s : State) : Instr → Option (Pre × BitVec 7 × (Nat → Word))
  | .vadd p d a b n => some (p, d, fun l => BitVec.ofNat 32 ((s.readV a.toNat l).toNat + (vectorB s b n l).toNat))
  | .vsub p d a b n => some (p, d, fun l => BitVec.ofInt 32 ((s.readV a.toNat l).toNat - (vectorB s b n l).toNat))
  | .vmul p d a b n => some (p, d, fun l => BitVec.ofNat 32 ((s.readV a.toNat l).toNat * (vectorB s b n l).toNat))
  | .vmulh p d a b n => some (p, d, fun l => highProduct n (s.readV a.toNat l) (s.readV b.toNat l))
  | .vmad p d a b n => some (p, d, fun l => BitVec.ofNat 32
      ((s.readV a.toNat l).toNat * (vectorB s b n l).toNat + (s.readV d.toNat l).toNat))
  | .vand p d a b n => some (p, d, fun l => s.readV a.toNat l &&& vectorB s b n l)
  | .vor p d a b n => some (p, d, fun l => s.readV a.toNat l ||| vectorB s b n l)
  | .vxor p d a b n => some (p, d, fun l => s.readV a.toNat l ^^^ vectorB s b n l)
  | .vshl p d a b n => some (p, d, fun l =>
      BitVec.ofNat 32 ((s.readV a.toNat l).toNat * 2 ^ ((vectorB s b n l).toNat % 32)))
  | .vshr p d a b n => some (p, d, fun l =>
      BitVec.ofNat 32 ((s.readV a.toNat l).toNat / 2 ^ ((vectorB s b n l).toNat % 32)))
  | .vsra p d a b n => some (p, d, fun l =>
      BitVec.ofInt 32 ((s.readV a.toNat l).toInt / 2 ^ ((vectorB s b n l).toNat % 32)))
  | .vfshl p d a b ck c imm => some (p, d, fun l => BitVec.ofNat 32
      (((s.readV a.toNat l).toNat * 2 ^ 32 + (s.readV b.toNat l).toNat) * 2 ^ funnelBy s ck c imm l / 2 ^ 32))
  | .vfshr p d a b ck c imm => some (p, d, fun l => BitVec.ofNat 32
      (((s.readV a.toNat l).toNat * 2 ^ 32 + (s.readV b.toNat l).toNat) / 2 ^ funnelBy s ck c imm l))
  | .vmin p d a b n => some (p, d, fun l =>
      if atMost n (s.readV a.toNat l) (s.readV b.toNat l) then s.readV a.toNat l else s.readV b.toNat l)
  | .vmax p d a b n => some (p, d, fun l =>
      if atMost n (s.readV a.toNat l) (s.readV b.toNat l) then s.readV b.toNat l else s.readV a.toNat l)
  | .vabs p d a => some (p, d, fun l => BitVec.ofNat 32 (s.readV a.toNat l).toInt.natAbs)
  | .vclz p d a => some (p, d, fun l => wordClz (s.readV a.toNat l))
  | .vpop p d a => some (p, d, fun l => BitVec.ofNat 32 ((List.range 32).filter (s.readV a.toNat l).getLsbD).length)
  | .vbrev p d a => some (p, d, fun l => (s.readV a.toNat l).reverse)
  | .vmov p d a => some (p, d, fun l => s.readV a.toNat l)
  | .vbcast p d a => some (p, d, fun _ => s.readS a.toNat)
  | .vlane p d => some (p, d, fun l => BitVec.ofNat 32 l)
  | .vmovi p d imm => some (p, d, fun _ => imm)
  | .vfadd p d a b n => some (p, d, fun l => fadd32 (s.readV a.toNat l) (vectorB s b n l))
  | .vfsub p d a b n => some (p, d, fun l => fsub32 (s.readV a.toNat l) (vectorB s b n l))
  | .vfmul p d a b n => some (p, d, fun l => fmul32 (s.readV a.toNat l) (vectorB s b n l))
  | .vfma p d a b n => some (p, d, fun l => fma32 (s.readV a.toNat l) (vectorB s b n l) (s.readV d.toNat l))
  | .vfmin p d a b n => some (p, d, fun l => fminmax32 false (s.readV a.toNat l) (vectorB s b n l))
  | .vfmax p d a b n => some (p, d, fun l => fminmax32 true (s.readV a.toNat l) (vectorB s b n l))
  | .vfdiv p d a b n => some (p, d, fun l => fdiv32 (s.readV a.toNat l) (vectorB s b n l))
  | .vfsqrt p d a => some (p, d, fun l => fsqrt32 (s.readV a.toNat l))
  | .vrcp p d a => some (p, d, fun l => frcp32 (s.readV a.toNat l))
  | .vrsq p d a => some (p, d, fun l => frsq32 (s.readV a.toNat l))
  | .vlog2 p d a => some (p, d, fun l => flog232 (s.readV a.toNat l))
  | .vexp2 p d a b bk c ck => some (p, d, fun l =>
      exp2Val ((val32 (vectorB s c ck l)).mul ((val32 (s.readV a.toNat l)).add (val32 (vectorB s b bk l)).neg)))
  | .vsel p d a b bk gd => some (p, d, fun l =>
      if (if gd.getLsbD 3 then !((s.g.readP (gd.toNat % 8)).getLsbD l) else (s.g.readP (gd.toNat % 8)).getLsbD l)
      then s.readV a.toNat l else vectorB s b bk l)
  | .vsclap p d a b n => some (p, d, fun l =>
      round32 (scaleBy (val32 (s.readV a.toNat l)) ((vectorB s b n l).toNat % 256)))
  | _ => none

end Sys2Proof.Machine

/-! ## Scalar and vector results -/

open Sys2Proof Sys2Proof.Machine

/-- Each scalar instruction that only computes writes its row's value to its destination, and leaves every other register,
every flag, every special register and every byte of memory as they were (R129, R132-R134, R148, R152, R157, R159, R221, R272). -/
def Obligations.ScalarResults : Prop :=
  ∀ (i : Instr) (s : State) (p : Pre) (d : BitVec 7) (v : Word), scalarRow s i = some (p, d, v) → s.Issues i →
    ∃ t, exec i s = .next t ∧ s.WritesS i t p d v

/-- Each vector instruction that only computes writes its row's value in every active lane of its destination, and leaves
every other lane and register and every byte of memory as they were (R200-R203, R205-R208, R215). -/
def Obligations.VectorResults : Prop :=
  ∀ (i : Instr) (s : State) (p : Pre) (d : BitVec 7) (v : Nat → Word), vectorRow s i = some (p, d, v) → s.Issues i →
    ∃ t, exec i s = .next t ∧ s.WritesV i t p d v

/-! ## Conditions, pairs, reductions and shuffles -/

namespace Sys2Proof.Machine

/-- A relation of two words as R130 gives it: signed, or unsigned. -/
def intRelation (cc : Cc) (uns : Bool) (x y : Word) : Bool :=
  match cc with
  | .eq => decide (x = y)
  | .ne => decide (x ≠ y)
  | .lt => !(atMost uns y x)
  | .le => atMost uns x y
  | .gt => !(atMost uns x y)
  | .ge => atMost uns y x
  | .un => false
  | .ord => false

/-- The instructions whose whole effect is one Q register: the register, whether the form is `.whole`, and the value
(R130, R149). -/
def conditionRow (s : State) : Instr → Option (BitVec 2 × Bool × Bool)
  | .scmp _ cc q a b n => some (q, false, intRelation cc n (s.readS a.toNat) (s.readS b.toNat))
  | .voteAny _ w q a => some (q, w, (lanesOf s.t.active).any fun l => (s.g.readP a.toNat).getLsbD l)
  | .voteAll _ w q a => some (q, w, (lanesOf s.t.active).all fun l => (s.g.readP a.toNat).getLsbD l)
  | .voteEq _ w q a => some (q, w, (lanesOf s.t.active).all fun l =>
      s.readV a.toNat l == s.readV a.toNat (lowLane s.t.active))
  | _ => none

/-- The instructions whose whole effect is one predicate: the predicate and the value of each active lane (R204). -/
def predicateRow (s : State) : Instr → Option (BitVec 3 × (Nat → Bool))
  | .vcmp _ pd a b bk cc u => some (pd, fun l => intRelation cc u (s.readV a.toNat l) (vectorB s b bk l))
  | .vfcmp _ pd a b bk cc tot => some (pd, fun l =>
      fcmpHolds cc (if tot then some (fcmpTotal (s.readV a.toNat l) (vectorB s b bk l))
        else (val32 (s.readV a.toNat l)).cmp (val32 (vectorB s b bk l))))
  | _ => none

/-- The instructions whose whole effect is one S pair: the pair, whether the form is `.whole`, and the value (R148, R149,
R271). -/
def pairRow (s : State) : Instr → Option (BitVec 7 × Bool × Addr)
  | .smaskqAct _ d => some (d, false, s.t.active)
  | .smaskqLive _ d => some (d, false, BitVec.ofNat 64 (2 ^ s.g.width - 1) &&& ~~~s.g.exited)
  | .voteBal _ w d a => some (d, w, s.g.readP a.toNat &&& s.t.active)
  | .tsrd _ d => some (d, false, BitVec.ofNat 64 (s.guestTime s.g.vd))
  | .tickrd _ d => some (d, false, BitVec.ofNat 64 (s.tickOf s.g.vd))
  | _ => none

/-- The combination of words from left to right. -/
def runOf (op : RedOp) : List Word → Word
  | [] => 0
  | x :: r => r.foldl (redRun op) x

/-- What a scan gives the lane of a place: the combination of the values up to it, or with EX of those before it, the
identity where there is none (R211). -/
def scanAt (op : RedOp) (ex : Bool) (vals : List Word) (k : Nat) : Word :=
  if ex then (if k = 0 then redIdentity op else runOf op (vals.take k)) else runOf op (vals.take (k + 1))

/-- The source lane of a shuffle for lane `l` (R150, R151). -/
def shuffleFrom (s : State) (b : BitVec 7) (bk : Bool) (kind : ShflKind) (imm : Bool) (c : BitVec 6) (l : Nat) : Int :=
  let x := if imm then c.toNat else (vectorB s b bk l).toNat
  match kind with
  | .idx => x
  | .up => (l : Int) - x
  | .dn => (l : Int) + x
  | .xor => ((l ^^^ x : Nat) : Int)

/-- The reductions, scans and shuffles that write a V register: whether the form is `.whole`, T and gap, destination and the
value of each lane (R151, R211). -/
def crossLaneRow (s : State) : Instr → Option (Bool × Pre × BitVec 7 × (Nat → Word))
  | .vred p d a w false op => some (w, p, d, fun _ => treeReduce (redRun op) 6 (s.activeVals a))
  | .vscan p d a w ex op => some (w, p, d, fun l => scanAt op ex (s.activeVals a) ((lanesOf s.t.active).idxOf l))
  | .shfl p d a b bk kind w fk fr imm c => some (w, p, d, fun l =>
      let src := shuffleFrom s b bk kind imm c l
      if 0 ≤ src ∧ src.toNat ∈ lanesOf s.t.active then s.readV a.toNat src.toNat
      else if fk then s.readV fr.toNat l else 0)
  | _ => none

/-- The `.whole` forms that are checked when they execute: whether the form is `.whole` (R40, R149, R150, R210, R216,
R221). -/
def wholeForm : Instr → Bool
  | .voteAny _ w _ _ => w
  | .voteAll _ w _ _ => w
  | .voteEq _ w _ _ => w
  | .voteBal _ w _ _ => w
  | .shfl _ _ _ _ _ _ w _ _ _ _ => w
  | .vred _ _ _ w _ _ => w
  | .vscan _ _ _ w _ _ => w
  | .vcmprs _ _ _ _ _ w _ _ => w
  | .vexpnd _ _ _ _ _ w _ _ => w
  | .vdecode _ _ _ _ _ _ w => w
  | .bara _ _ _ w => w
  | _ => false

end Sys2Proof.Machine

/-- SCMP and the votes write their condition to Q and nothing else; a `.whole` vote does so on a gang that is one strand
with every live lane (R130, R149). -/
def Sys2Proof.Claims.ConditionResults : Prop :=
  ∀ (i : Instr) (s : State) (q : BitVec 2) (w b : Bool), conditionRow s i = some (q, w, b) → s.Issues i →
    (w = true → s.isWhole = true) → ∃ t, exec i s = .next t ∧ s.WritesQ i t q b

/-- VCMP and VFCMP write their relation to the active lanes of a predicate and nothing else (R204). -/
def Sys2Proof.Claims.PredicateResults : Prop :=
  ∀ (i : Instr) (s : State) (n : BitVec 3) (b : Nat → Bool), predicateRow s i = some (n, b) → s.Issues i →
    ∃ t, exec i s = .next t ∧ s.WritesP i t n b

/-- Each instruction that only reads masks or time into an S pair writes its row's value there and nothing else (R148, R149,
R271). -/
def Sys2Proof.Claims.PairResults : Prop :=
  ∀ (i : Instr) (s : State) (d : BitVec 7) (w : Bool) (v : Addr), pairRow s i = some (d, w, v) → s.Issues i →
    (w = true → s.isWhole = true) → ∃ t, exec i s = .next t ∧ s.WritesPair i t d v

/-- VRED, VSCAN and SHFL give each active lane its row's value, over the strand's own lanes; VRED to an S register writes
the tree's result there (R92, R150, R151, R210, R211). -/
def Sys2Proof.Claims.CrossLaneWrites : Prop :=
  (∀ (i : Instr) (s : State) (w : Bool) (p : Pre) (d : BitVec 7) (v : Nat → Word), crossLaneRow s i = some (w, p, d, v) →
    s.Issues i → (w = true → s.isWhole = true) → ∃ t, exec i s = .next t ∧ s.WritesV i t p d v) ∧
  ∀ (s : State) (p : Pre) (d a : BitVec 7) (w : Bool) (op : RedOp), s.Issues (.vred p d a w true op) →
    (w = true → s.isWhole = true) → ∃ t, exec (.vred p d a w true op) s = .next t ∧
      s.WritesS (.vred p d a w true op) t p d (treeReduce (redRun op) 6 (s.activeVals a))

/-- A `.whole` form on a gang that is not one strand with every live lane raises illegal-state (R40). -/
def Sys2Proof.Claims.WholeFormsNeedTheWholeGang : Prop :=
  ∀ (i : Instr) (s : State), wholeForm i = true → s.Issues i → s.isWhole = false →
    exec i s = .next (s.trapHere ⟨.illegalState, s.t.active, 0, s.t.wordAt 0⟩)

/-- SRDV reads the register of a lane of the gang, and raises illegal-operand for a lane at or above its width; SSEL copies
only where its guard holds, and a word of its major with SUB not 0 is no instruction (R110, R131, R132). -/
def Sys2Proof.Claims.SrdvAndSselChoose : Prop :=
  (∀ (s : State) (p : Pre) (d a : BitVec 7) (l : BitVec 6), s.Issues (.srdv p d a l) →
    (l.toNat < s.g.width → ∃ t, exec (.srdv p d a l) s = .next t ∧
      s.WritesS (.srdv p d a l) t p d (s.readV a.toNat l.toNat)) ∧
    (s.g.width ≤ l.toNat → exec (.srdv p d a l) s =
      .next (s.trapHere ⟨.illegalOperand, s.t.active, 0, s.t.wordAt 0⟩))) ∧
  (∀ (s : State) (p : Pre) (d a : BitVec 7) (gd : BitVec 4), s.Issues (.ssel p d a gd) →
    (s.scalarGuardHolds gd = true → ∃ t, exec (.ssel p d a gd) s = .next t ∧
      s.WritesS (.ssel p d a gd) t p d (s.readS a.toNat)) ∧
    (s.scalarGuardHolds gd = false → ∃ t, exec (.ssel p d a gd) s = .next t ∧ s.OnlyWentOn (.ssel p d a gd) t)) ∧
  ∀ w x i, fOP w = 0x0E → decode w x = .ok i →
    i = .ssel (preOf w) (fD w) (fA w) (w.extractLsb' 4 4) ∧ w.extractLsb' 0 4 = 0

/-- The packed 16-bit instructions compute each element exactly and round it once to the format in FMTR, f16 or bf16; any
other format raises illegal-operand (R90, R209). -/
def Sys2Proof.Claims.PackedResults : Prop :=
  ∀ (i : Instr) (s : State) (p : Pre) (d a b : BitVec 7) (n : Bool) (op : FVal → FVal → FVal → FVal),
    (i = .vhadd p d a b n ∧ op = fun x y _ => x.add y) ∨ (i = .vhmul p d a b n ∧ op = fun x y _ => x.mul y) ∨
      (i = .vhfma p d a b n ∧ op = fun x y z => (x.mul y).add z) →
    s.Issues i →
    (∀ f, (s.t.fmtr = 1 ∧ f = Fmt.ieee 5 10) ∨ (s.t.fmtr = 2 ∧ f = Fmt.ieee 8 7) →
      ∃ t, exec i s = .next t ∧ s.WritesV i t p d fun l =>
        let el := fun (w : Word) (k : Nat) => fmtValue f (bits w.toNat (16 * k) 16)
        let out := fun k => (convert (op (el (s.readV a.toNat l) k) (el (vectorB s b n l) k) (el (s.readV d.toNat l) k)) f
          .rne .ovi false 0).1
        BitVec.ofNat 32 (out 0 + 2 ^ 16 * out 1)) ∧
    (s.t.fmtr ≠ 1 → s.t.fmtr ≠ 2 → exec i s = .next (s.trapHere ⟨.illegalOperand, s.t.active, 0, s.t.wordAt 0⟩))

/-! ## Conversions, compress and expand, mode registers -/

namespace Sys2Proof.Machine

/-- An instruction has gone on and changed only V registers, predicates and the stochastic-rounding states of active lanes,
S registers of its strand, and nothing else. -/
def State.OnlyRegisters (i : Instr) (s t : State) : Prop :=
  s.Elsewhere t ∧ s.SameBytes t ∧
    t.g = { s.g with vregs := t.g.vregs, pregs := t.g.pregs, srstate := t.g.srstate } ∧ s.WentOn i t ∧
    Strand.Moved { s.t with sregs := t.t.sregs } t.t ∧ ∀ l, l ∉ lanesOf s.t.active → t.g.readSr l = s.g.readSr l

/-- Every V register and lane outside a list reads as before. -/
def State.KeepsV (s t : State) (but : List (Nat × Nat)) : Prop :=
  ∀ r l, l < 64 → (r, l) ∉ but → t.g.readV r l = s.g.readV r l

/-- One register in every active lane, as (register, lane) pairs. -/
def State.lanesIn (s : State) (r : Nat) : List (Nat × Nat) := (lanesOf s.t.active).map fun l => (r, l)

/-- The conversions of a lane, in element order, from its stochastic-rounding state (R83, R84). -/
def State.laneRun (s : State) (c : CvtMode) (f : Fmt) (vals : Nat → List FVal) (l : Nat) : List (Nat × Nat) × Word :=
  c.runs f (vals l) (s.g.readSr l)

/-- No lane's conversion has an event that traps (R85). -/
def State.noEvent (s : State) (c : CvtMode) (f : Fmt) (vals : Nat → List FVal) : Prop :=
  c.trp = false ∨ ∀ l ∈ lanesOf s.t.active, ∀ o ∈ (s.laneRun c f vals l).1, o.2 = 0

/-- The bits of an element that a conversion gave. -/
def bitsAt (r : List (Nat × Nat) × Word) (k : Nat) : Nat := (r.1.getD k (0, 0)).1

/-- The value words of VPACK's sources: FP32, or signed or unsigned words for an integer format (R214). -/
def packValues (s : State) (f : Fmt) (a : BitVec 7) (l : Nat) : List FVal :=
  (List.range (32 / f.width)).map fun j =>
    let w := s.readV (a.toNat + j) l
    match f with
    | .sint _ => FVal.ofInt w.toInt
    | .uint _ => FVal.ofInt w.toNat
    | _ => val32 w

/-- The ranks of lanes: how many lanes of a mask lie below a lane. -/
def rankIn (m : Mask) (l : Nat) : Nat := ((lanesOf m).filter fun k => decide (k < l)).length

/-- The lanes on which a compress or expand moves data, and what it gives each active lane (R216, R217). -/
def movedRow (s : State) : Instr → Option (BitVec 7 × BitVec 7 × Bool × Mask × (Nat → Word))
  | .vcmprs _ d a f fk w gd sc =>
    let m := s.laneGuard gd
    some (d, sc, w, m, fun l =>
      let k := rankIn s.t.active l
      if k < (lanesOf m).length then s.readV a.toNat ((lanesOf m).getD k 0)
      else if fk then s.readV f.toNat l else 0)
  | .vexpnd _ d a f fk w gd sc =>
    let m := s.laneGuard gd
    some (d, sc, w, m, fun l =>
      if m.getLsbD l then s.readV a.toNat ((lanesOf s.t.active).getD (rankIn m l) 0)
      else if fk then s.readV f.toNat l else 0)
  | _ => none

end Sys2Proof.Machine

/-- VCVT and VPACK convert each active lane's elements in order under the effective mode, keep the lanes' stochastic-rounding
states after the draws, and raise conversion-error with the lanes that had an event when TRP is set; then nothing is written
(R82-R85, R212, R214). -/
def Sys2Proof.Claims.ConversionResults : Prop :=
  (∀ (s : State) (p : Pre) (d a : BitVec 7) (sfmt dfmt : BitVec 8) (mode sel : BitVec 3) (sat : Bool) (f g : Fmt)
      (c : CvtMode), (Instr.vcvt p d a sfmt dfmt mode sat sel).WellFormed → s.Issues (.vcvt p d a sfmt dfmt mode sat sel) →
    fmtOf sfmt = some f → fmtOf dfmt = some g →
    cvtMode s.t.cvmr g mode sat = some c →
    let i := Instr.vcvt p d a sfmt dfmt mode sat sel
    let vals := fun l => [fmtValue f (bits (s.readV a.toNat l).toNat (f.width * sel.toNat) f.width)]
    let hit := (lanesOf s.t.active).filter fun l => (s.laneRun c g vals l).1.any fun o => o.2 != 0
    (s.noEvent c g vals → ∃ t, exec i s = .next t ∧ s.OnlyRegisters i t ∧ t.t.sregs = s.t.sregs ∧ t.g.pregs = s.g.pregs ∧
      (∀ l ∈ lanesOf s.t.active, t.readV d.toNat l = BitVec.ofNat 32 (bitsAt (s.laneRun c g vals l) 0) ∧
        t.g.readSr l = (s.laneRun c g vals l).2) ∧ s.KeepsV t (s.lanesIn d.toNat)) ∧
    (¬ s.noEvent c g vals → exec i s = .next (s.trapHere ⟨.conversionError, maskOf hit, 0, s.t.wordAt 0⟩))) ∧
  ∀ (s : State) (p : Pre) (d a : BitVec 7) (fmt : BitVec 8) (mode : BitVec 3) (sat : Bool) (f : Fmt) (c : CvtMode),
    (Instr.vpack p d a fmt mode sat).WellFormed → s.Issues (.vpack p d a fmt mode sat) → fmtOf fmt = some f → f.width ≠ 32 →
    cvtMode s.t.cvmr f mode sat = some c →
    let i := Instr.vpack p d a fmt mode sat
    let vals := packValues s f a
    let hit := (lanesOf s.t.active).filter fun l => (s.laneRun c f vals l).1.any fun o => o.2 != 0
    (s.noEvent c f vals → ∃ t, exec i s = .next t ∧ s.OnlyRegisters i t ∧ t.t.sregs = s.t.sregs ∧ t.g.pregs = s.g.pregs ∧
      (∀ l ∈ lanesOf s.t.active,
        t.readV d.toNat l = packWord f.width ((s.laneRun c f vals l).1.map fun o => o.1) ∧
        t.g.readSr l = (s.laneRun c f vals l).2) ∧ s.KeepsV t (s.lanesIn d.toNat)) ∧
    (¬ s.noEvent c f vals → exec i s = .next (s.trapHere ⟨.conversionError, maskOf hit, 0, s.t.wordAt 0⟩))

/-- VCVTEF writes the narrowed value to D, the residual to E and the lanes whose event is 1 to P; VUNPK writes each
element of a packed word to its own register, integers extended and others rounded to FP32 (R88, R213, R214). -/
def Sys2Proof.Claims.TandemAndUnpackResults : Prop :=
  (∀ (s : State) (p : Pre) (d a e : BitVec 7) (dfmt : BitVec 8) (mode pd : BitVec 3) (sat : Bool) (f : Fmt) (c : CvtMode),
    (Instr.vcvtef p d a e dfmt mode sat pd).WellFormed → s.Issues (.vcvtef p d a e dfmt mode sat pd) →
    fmtOf dfmt = some f → f.width < 32 → cvtMode s.t.cvmr f mode sat = some c →
    let i := Instr.vcvtef p d a e dfmt mode sat pd
    let vals := fun l => [val32 (s.readV a.toNat l)]
    s.noEvent c f vals → ∃ t, exec i s = .next t ∧ s.OnlyRegisters i t ∧ t.t.sregs = s.t.sregs ∧
      (∀ l ∈ lanesOf s.t.active, t.readV d.toNat l = BitVec.ofNat 32 (bitsAt (s.laneRun c f vals l) 0) ∧
        t.readV e.toNat l = tandemRest (s.readV a.toNat l) f (bitsAt (s.laneRun c f vals l) 0) ∧
        (t.g.readP pd.toNat).getLsbD l = (((s.laneRun c f vals l).1.getD 0 (0, 0)).2 == 1) ∧
        t.g.readSr l = (s.laneRun c f vals l).2) ∧
      s.KeepsV t (s.lanesIn d.toNat ++ s.lanesIn e.toNat) ∧ ∀ n, n ≠ pd.toNat → t.g.readP n = s.g.readP n) ∧
  ∀ (s : State) (p : Pre) (d a : BitVec 7) (fmt : BitVec 8) (f : Fmt), s.Issues (.vunpk p d a fmt) → fmtOf fmt = some f →
    f.width ≠ 32 →
    let i := Instr.vunpk p d a fmt
    ∃ t, exec i s = .next t ∧ s.OnlyRegisters i t ∧ t.t.sregs = s.t.sregs ∧ t.g.pregs = s.g.pregs ∧
      (∀ l ∈ lanesOf s.t.active, ∀ j, j < 32 / f.width →
        t.readV (d.toNat + j) l =
          (let b := bits (s.readV a.toNat l).toNat (f.width * j) f.width
          match f with
          | .sint k => BitVec.ofInt 32 (sextN b k)
          | .uint _ => BitVec.ofNat 32 b
          | _ => round32 (fmtValue f b))) ∧
      s.KeepsV t ((List.range (32 / f.width)).flatMap fun j => s.lanesIn (d.toNat + j))

/-- VCMPRS packs the guarded lanes' values towards the low lanes and VEXPND spreads them from there; lanes that receive none
take the fill, and S[SC] takes the number of guarded lanes (R216, R217). -/
def Sys2Proof.Claims.CompressAndExpandResults : Prop :=
  ∀ (i : Instr) (s : State) (d sc : BitVec 7) (w : Bool) (m : Mask) (v : Nat → Word),
    movedRow s i = some (d, sc, w, m, v) → i.WellFormed → s.Issues i → (w = true → s.isWhole = true) →
    ∃ t, exec i s = .next t ∧ s.OnlyRegisters i t ∧ t.g.pregs = s.g.pregs ∧ t.g.srstate = s.g.srstate ∧
      (∀ l ∈ lanesOf s.t.active, t.readV d.toNat l = v l) ∧ s.KeepsV t (s.lanesIn d.toNat) ∧
      t.readS sc.toNat = BitVec.ofNat 32 (lanesOf m).length ∧
      ∀ r, r ≠ sc.toNat → smGet 0 t.t.sregs r = smGet 0 s.t.sregs r

/-- SETFMT takes a format code and SETCVM a value whose rounding fields are in range, reserved bits reading as 0; a reserved
code or rounding field raises illegal-operand and changes nothing (R86, R152). VDSTAT.clr reads DSW and clears it (R221). -/
def Sys2Proof.Claims.ModeRegisterWrites : Prop :=
  (∀ (i : Instr) (s : State) (code : BitVec 8),
    (∃ p, i = .setfmtImm p code) ∨ (∃ p a, i = .setfmt p a ∧ code = (s.readS a.toNat).extractLsb' 0 8) → s.Issues i →
    ((fmtOf code).isSome → ∃ t, exec i s = .next t ∧ s.Elsewhere t ∧ s.SameBytes t ∧ t.g = s.g ∧ s.WentOn i t ∧
      Strand.Moved { s.t with fmtr := code.setWidth 32 } t.t) ∧
    (fmtOf code = none → exec i s = .next (s.trapHere ⟨.illegalOperand, s.t.active, 0, s.t.wordAt 0⟩))) ∧
  (∀ (s : State) (p : Pre) (a : BitVec 7), s.Issues (.setcvm p a) →
    let v := s.readS a.toNat
    let bad := 5 ≤ bits v.toNat 0 3 ∨ 5 ≤ bits v.toNat 8 3 ∨ 5 ≤ bits v.toNat 16 3 ∨ 5 ≤ bits v.toNat 24 3
    (¬ bad → ∃ t, exec (.setcvm p a) s = .next t ∧ s.Elsewhere t ∧ s.SameBytes t ∧ t.g = s.g ∧
      s.WentOn (.setcvm p a) t ∧ Strand.Moved { s.t with cvmr := v &&& 0x273F3F3F#32 } t.t) ∧
    (bad → exec (.setcvm p a) s = .next (s.trapHere ⟨.illegalOperand, s.t.active, 0, s.t.wordAt 0⟩))) ∧
  ∀ (s : State) (p : Pre) (d : BitVec 7), (Instr.vdstatClr p d).WellFormed → s.Issues (.vdstatClr p d) →
    ∃ t, exec (.vdstatClr p d) s = .next t ∧ s.Elsewhere t ∧ s.SameBytes t ∧ t.g = s.g ∧ s.WentOn (.vdstatClr p d) t ∧
      Strand.Moved { s.t with dsw := 0, sregs := t.t.sregs } t.t ∧ t.readS d.toNat = s.t.dsw ∧
      ∀ r, r ≠ d.toNat → smGet 0 t.t.sregs r = smGet 0 s.t.sregs r

/-- SEEDSR and SEEDSR.v set the stochastic-rounding state of each active lane from its seed, mixed with the lane number, and
leave every other lane's state and everything else as they were (R83, R152). -/
def Sys2Proof.Claims.SeedsSetLaneStates : Prop :=
  ∀ (i : Instr) (s : State) (f : Nat → Word),
    (∃ p a, i = .seedsr p a ∧ f = fun _ => s.readS a.toNat) ∨ (∃ p a, i = .seedsrV p a ∧ f = fun l => s.readV a.toNat l) →
    s.Issues i →
    ∃ t, exec i s = .next t ∧ s.OnlyRegisters i t ∧ t.t.sregs = s.t.sregs ∧ t.g.vregs = s.g.vregs ∧ t.g.pregs = s.g.pregs ∧
      ∀ l ∈ lanesOf s.t.active, t.g.readSr l = seedLane (f l) l

/-! ## Control flow -/

namespace Sys2Proof.Machine

/-- The address of a branch word's target, W + 4·OFF (R107). -/
def targetOf (s : State) (off : Int) : Addr := BitVec.ofInt 64 ((s.t.pc.toNat : Int) + 4 * off)

/-- The address of the next clause header (R138). -/
def afterClause (s : State) : Addr :=
  match s.t.clause with
  | some c => c.hdr + BitVec.ofNat 64 (4 * (c.cnt + 1))
  | none => s.t.pc + 4

/-- An instruction has sent the whole strand to an address, changing S registers at most besides. -/
def State.Transfers (s t : State) (a : Addr) : Prop :=
  s.Elsewhere t ∧ s.SameBytes t ∧ t.g = s.g ∧ t.WentTo a ∧ Strand.Moved { s.t with sregs := t.t.sregs } t.t

/-- The strand's next instruction is held, and nothing has happened yet (R303). -/
def State.HeldFor (s : State) (h : Hold) : State := { s with t := { s.t with wait := .hold h } }

/-- The strand has been put to wait at its word, and nothing else has changed (R147, R175, R179, R180). -/
def State.WaitsAt (s t : State) (w : Wait) : Prop :=
  s.Elsewhere t ∧ s.SameBytes t ∧ t.g = s.g ∧ t.t.wait = w ∧ t.t.pc = s.t.pc ∧ t.t.clause = s.t.clause ∧
    Strand.Moved s.t t.t

/-- The trap of an instruction at its word with no address (R252). -/
def State.trapOf (s : State) (c : Cause) : Trap := ⟨c, s.t.active, 0, s.t.wordAt 0⟩

end Sys2Proof.Machine

/-- BRA and BCALL go to their target when the guard holds and to the next clause otherwise, BCALL writing the return address to
S58:S59 when it goes; LOOPB counts its register down and goes back while it is not zero, a loop of 64 words or fewer then
standing in the loop buffers of its pipes, which its next pass runs from; its word has D 0 and a
negative offset (R107, R135, R138, R141, R142, R161). -/
def Sys2Proof.Claims.DirectTransfers : Prop :=
  (∀ (s : State) (p : Pre) (gd : BitVec 4) (off : BitVec 18), s.Issues (.bra p gd off) →
    ∃ t, exec (.bra p gd off) s = .next t ∧
      s.Transfers t (if s.scalarGuardHolds gd then targetOf s off.toInt else afterClause s) ∧ t.t.sregs = s.t.sregs) ∧
  (∀ (s : State) (p : Pre) (gd : BitVec 4) (off : BitVec 18), s.Issues (.bcall p gd off) →
    ∃ t, exec (.bcall p gd off) s = .next t ∧
      (s.scalarGuardHolds gd = true → s.Transfers t (targetOf s off.toInt) ∧ t.readPair 58 = afterClause s ∧
        ∀ r, r ≠ 58 → r ≠ 59 → smGet 0 t.t.sregs r = smGet 0 s.t.sregs r) ∧
      (s.scalarGuardHolds gd = false → s.Transfers t (afterClause s) ∧ t.t.sregs = s.t.sregs)) ∧
  (∀ (s : State) (p : Pre) (a : BitVec 7) (i8 : BitVec 8), s.Issues (.loopb p a i8) →
    let taken := decide (s.readS a.toNat ≠ 1)
    let loop := if taken then s.loopSpan (targetOf s i8.toInt) else none
    ∃ t, exec (.loopb p a i8) s = .next t ∧
      s.Transfers { t with loopBufs := s.loopBufs, t := { t.t with pass := s.t.pass } }
        (if taken then targetOf s i8.toInt else afterClause s) ∧
      t.t.pass = loop ∧ (loop = none → t.loopBufs = s.loopBufs) ∧
      (loop ≠ none → ∀ k, smGet none t.loopBufs k = if k ∈ s.pipeKeys then loop else smGet none s.loopBufs k) ∧
      t.readS a.toNat = s.readS a.toNat - 1 ∧ ∀ r, r ≠ a.toNat → smGet 0 t.t.sregs r = smGet 0 s.t.sregs r) ∧
  ∀ w x i, fOP w = 0x16 → decode w x = .ok i →
    i = .loopb (preOf w) (fA w) (fFN w) ∧ fD w = 0 ∧ -128 ≤ (fFN w).toInt ∧ (fFN w).toInt ≤ -1

/-- BRET and BIND go to the address in their S pair, BIND.call after writing the return address with the target read first;
an address that is not a multiple of 4 raises misaligned with TADDR the address (R140, R252). -/
def Sys2Proof.Claims.IndirectTransfers : Prop :=
  (∀ (i : Instr) (s : State) (a : BitVec 7), (∃ p, i = .bret p a ∨ i = .bind p a) → s.Issues i →
    ((s.readPair a.toNat).toNat % 4 = 0 →
      ∃ t, exec i s = .next t ∧ s.Transfers t (s.readPair a.toNat) ∧ t.t.sregs = s.t.sregs) ∧
    ((s.readPair a.toNat).toNat % 4 ≠ 0 →
      exec i s = .next (s.trapHere { s.trapOf .misaligned with addr := s.readPair a.toNat }))) ∧
  ∀ (s : State) (p : Pre) (d a : BitVec 7), s.Issues (.bindCall p d a) →
    ((s.readPair a.toNat).toNat % 4 = 0 →
      ∃ t, exec (.bindCall p d a) s = .next t ∧ s.Transfers t (s.readPair a.toNat) ∧ t.readPair d.toNat = afterClause s ∧
        ∀ r, r ≠ d.toNat → r ≠ d.toNat + 1 → smGet 0 t.t.sregs r = smGet 0 s.t.sregs r) ∧
    ((s.readPair a.toNat).toNat % 4 ≠ 0 →
      exec (.bindCall p d a) s = .next (s.trapHere { s.trapOf .misaligned with addr := s.readPair a.toNat }))

/-- BRL sends the strand to its target when every active lane is taken and on when none is; else it splits: the lanes not
taken go on in this strand's entry, and the taken lanes stand at the target in a strand of a free entry with the same
registers, both join stacks saving FMTR in the top entry (R34, R136). -/
def Sys2Proof.Claims.BrlSplitsTheStrand : Prop :=
  ∀ (s : State) (p : Pre) (gd : BitVec 4) (off : BitVec 18), s.Issues (.brl p gd off) →
    let taken := s.laneGuard gd
    let used := s.t.idx :: s.g.strands.map fun u => u.idx
    ∃ t, exec (.brl p gd off) s = .next t ∧
      (taken = s.t.active → s.Transfers t (targetOf s off.toInt) ∧ t.t.sregs = s.t.sregs) ∧
      (taken = 0 → taken ≠ s.t.active → s.Transfers t (afterClause s) ∧ t.t.sregs = s.t.sregs) ∧
      (taken ≠ 0 → taken ≠ s.t.active →
        s.Elsewhere { t with freeCount := s.freeCount } ∧ s.SameBytes t ∧ t.WentTo (afterClause s) ∧
        t.t.active = s.t.active &&& ~~~taken ∧ t.t.joins = splitJoins s.t.fmtr s.t.joins ∧
        Strand.Moved { s.t with active := t.t.active, joins := t.t.joins, pending := t.t.pending } t.t ∧
        t.g = { s.g with strands := t.g.strands } ∧
        ∃ u, t.g.strands = insertStrand u s.g.strands ∧ u.active = taken ∧ u.pc = targetOf s off.toInt ∧
          u.clause = none ∧ u.wait = .none ∧ u.joins = splitJoins s.t.fmtr s.t.joins ∧ u.sregs = s.t.sregs ∧
          u.qregs = s.t.qregs ∧ u.fmtr = s.t.fmtr ∧ u.cvmr = s.t.cvmr ∧
          ((∃ n, n < 64 ∧ n ∉ used) → u.idx ∉ used))

/-- JOINAT pushes an entry with the join address, the active lanes and no saved FMTR, and raises illegal-state on a stack
of sixteen; REGRP on a gang that is one strand clears the join stack (R33, R137, R143). -/
def Sys2Proof.Claims.JoinStackGrowsAndClears : Prop :=
  (∀ (s : State) (p : Pre) (off : BitVec 18), s.Issues (.joinat p off) →
    (s.t.joins.length < 16 → ∃ t, exec (.joinat p off) s = .next t ∧ s.Elsewhere t ∧ s.SameBytes t ∧ t.g = s.g ∧
      s.WentOn (.joinat p off) t ∧
      Strand.Moved { s.t with joins := ⟨targetOf s off.toInt, s.t.active, 0, false⟩ :: s.t.joins } t.t) ∧
    (16 ≤ s.t.joins.length → exec (.joinat p off) s = .next (s.trapHere (s.trapOf .illegalState)))) ∧
  ∀ (s : State) (p : Pre), s.Issues (.regrp p) → s.isWhole = true →
    ∃ t, exec (.regrp p) s = .next t ∧ s.Elsewhere t ∧ s.SameBytes t ∧ t.g = s.g ∧ s.WentOn (.regrp p) t ∧
      Strand.Moved { s.t with joins := [] } t.t

/-- SLEEP and SLEEP.rel put the strand to sleep until their tick of its device, and a time already reached lets it go on
(R147, R323). -/
def Sys2Proof.Claims.SleepWaitsForItsTick : Prop :=
  ∀ (i : Instr) (s : State) (tick : Nat),
    (∃ p a, i = .sleep p a ∧ tick = (s.readPair a.toNat).toNat) ∨
      (∃ p a, i = .sleepRel p a ∧ tick = s.tickOf s.g.vd + (s.readS a.toNat).toNat) →
    s.Issues i →
    (tick ≤ s.tickOf s.g.vd → ∃ t, exec i s = .next t ∧ s.OnlyWentOn i t) ∧
    (s.tickOf s.g.vd < tick → ∃ t, exec i s = .next t ∧ s.WaitsAt t (.sleep tick))

/-- EXIT takes the strand's lanes out of its gang; the other strands keep theirs, and a gang whose last lanes exit and that
has nothing outstanding ends (R12, R37, R145). -/
def Sys2Proof.Claims.ExitRemovesLanes : Prop :=
  ∀ (s : State) (p : Pre), s.Issues (.exit p) → (∀ h ∈ s.gangs, h.id ≠ s.g.id) →
    ∃ t, exec (.exit p) s = .next t ∧ t.focused = false ∧
      ((∃ v ∈ s.g.strands, v.active &&& ~~~s.t.active ≠ 0) →
        ∃ h ∈ t.gangs, h.id = s.g.id ∧ h.exited = s.g.exited ||| (s.t.active &&& s.g.lanes) ∧
          ∀ u ∈ h.strands, u.active &&& s.t.active = 0) ∧
      (s.g.strands = [] → s.outstanding s.g.id = false → ∀ h ∈ t.gangs, h.id ≠ s.g.id)

/-- YIELD, DCWB, DCINV and NOP go on to the next word, this cycle being their strand's last issue and, of YIELD, the one in
which it became eligible, and change nothing else that an instruction can read (R104, R146, R193, R273, R304; that the caches'
contents show nothing is the model's choice, log entry 5). -/
def Sys2Proof.Claims.InstructionsThatOnlyGoOn : Prop :=
  ∀ (i : Instr) (s : State),
    (∃ p, i = .yield p ∨ i = .nop p) ∨ (∃ p d a, i = .dcwb p d a ∨ i = .dcinv p d a) → s.Issues i →
    ∃ t, exec i s = .next t ∧ s.OnlyWentOn i t ∧
      (s.t.waited = false → t.t.prev = some s.cycle ∧ ((∃ p, i = .yield p) → t.t.since = s.cycle) ∧
        ((∀ p, i ≠ .yield p) → t.t.since = s.t.since))

/-! ## Extended register blocks, fork and join -/

namespace Sys2Proof.Machine

/-- The block that an acquire or release names: 0 V64-V127, 1-4 the accumulator tiles, 5 the bit tiles (R154, R156). -/
def acquireRow : Instr → Option Nat
  | .xacqV _ => some 0
  | .xacqAcc _ n => some (n.toNat + 1)
  | .xacqBt _ => some 5
  | _ => none

/-- The block that a release names. -/
def releaseRow : Instr → Option Nat
  | .xrelV _ => some 0
  | .xrelAcc _ n => some (n.toNat + 1)
  | .xrelBt _ => some 5
  | _ => none

/-- Only what a gang holds of the extended blocks, and their contents, has changed. -/
def State.OnlyBlocks (i : Instr) (s t : State) : Prop :=
  s.Elsewhere t ∧ s.SameBytes t ∧ s.WentOn i t ∧ Strand.Moved s.t t.t ∧
    t.g = { s.g with
      heldV := t.g.heldV, heldAcc := t.g.heldAcc, heldBt := t.g.heldBt, vregs := t.g.vregs, acc := t.g.acc, bt := t.g.bt } ∧
    ∀ r l, r < 64 → l < 64 → t.g.readV r l = s.g.readV r l

/-- Nothing that the focused strand has issued is outstanding. -/
def State.NothingOut (s : State) : Prop :=
  (∀ o ∈ s.ops, o.id ∉ s.t.issued) ∧ ∀ m ∈ s.mops, m.id ∉ s.t.issued

end Sys2Proof.Machine

/-- XACQ grants its block at once when it fits, every register of the block reading as zero; otherwise the request is
queued and the strand sleeps; a block that is held or requested, or more blocks than the launch declared, raise
illegal-state (R154). -/
def Sys2Proof.Claims.AcquiredBlocksReadZero : Prop :=
  ∀ (i : Instr) (s : State) (k : Nat), acquireRow i = some k → s.Issues i →
    let bad := s.g.holdsBlock k = true ∨ (∃ x ∈ s.g.xreqs, x.what = k) ∨ s.g.xmax ≤ s.g.nheld + s.g.xreqs.length
    (bad → exec i s = .next (s.trapHere (s.trapOf .illegalState))) ∧
    (¬ bad → s.blockFits s.whole = true → ∃ t, exec i s = .next t ∧ s.OnlyBlocks i t ∧ t.g.holdsBlock k = true ∧
      (∀ j, j < 6 → j ≠ k → t.g.holdsBlock j = s.g.holdsBlock j) ∧
      (k = 0 → (∀ r l, 64 ≤ r → r < 128 → l < 64 → t.g.readV r l = 0) ∧ t.g.acc = s.g.acc ∧ t.g.bt = s.g.bt) ∧
      (k = 5 → t.g.bt = [] ∧ t.g.vregs = s.g.vregs ∧ t.g.acc = s.g.acc) ∧
      (0 < k → k < 5 → t.g.vregs = s.g.vregs ∧ t.g.bt = s.g.bt ∧
        ∀ n r c, n < 4 → r < 64 → c < 64 →
          smGet 0 t.g.acc (accKey n r c) = if n + 1 = k then 0 else smGet 0 s.g.acc (accKey n r c))) ∧
    (¬ bad → s.blockFits s.whole = false → ∃ t, exec i s = .next t ∧ t.t.wait = .xacq ∧ t.t.pc = s.t.pc ∧
      t.g = { s.g with xreqs := s.g.xreqs ++ [⟨k, s.t.idx, s.nextId⟩] } ∧
      s.Elsewhere { t with nextId := s.nextId } ∧ Strand.Moved s.t t.t)

/-- XREL gives its block up once nothing outstanding uses it, is held back while something does, and raises illegal-state on a
block that is not held; what it frees goes to the requests that pend on its core (R154, R156, R303). -/
def Sys2Proof.Claims.ReleasedBlocksAreGone : Prop :=
  ∀ (i : Instr) (s : State) (k : Nat), releaseRow i = some k → s.Issues i →
    (s.g.holdsBlock k = false → exec i s = .next (s.trapHere (s.trapOf .illegalState))) ∧
    (s.g.holdsBlock k = true → s.blockBusy s.g.id k = false → s.requestsOn s.g.core = [] → ∃ t, exec i s = .next t ∧
      s.OnlyBlocks i t ∧ t.g.holdsBlock k = false ∧ ∀ j, j < 6 → j ≠ k → t.g.holdsBlock j = s.g.holdsBlock j) ∧
    (s.g.holdsBlock k = true → s.blockBusy s.g.id k = false →
      (∀ q ∈ s.requestsOn s.g.core, ¬ (q.1 = s.g.id ∧ q.2.strand = s.t.idx)) → ∃ t u, exec i s = .next t ∧ s.WentOn i t ∧
      u = ({ s.countIssue i with g := s.g.surrender k }).examine s.g.core ∧ t = { u with t := t.t }) ∧
    (s.g.holdsBlock k = true → s.blockBusy s.g.id k = true → exec i s = .next (s.HeldFor (.block k)))

/-- FORK pushes a record of the entry and six argument registers on its core's deque and clears Q; a full deque sets Q and
pushes nothing, a cancelled launch pushes nothing and clears Q; an entry that is not a multiple of 4 raises misaligned
(R43, R158). -/
def Sys2Proof.Claims.ForkPushesARecord : Prop :=
  ∀ (s : State) (p : Pre) (q : BitVec 2) (a e : BitVec 7) (loc ek : Bool) (off : BitVec 18),
    let i := Instr.fork p q a e loc ek off
    let entry := if ek then s.readPair e.toNat else targetOf s off.toInt
    s.Issues i →
    (entry.toNat % 4 ≠ 0 → exec i s = .next (s.trapHere { s.trapOf .misaligned with addr := entry })) ∧
    (entry.toNat % 4 = 0 → s.NothingOut →
      let full := decide (256 ≤ (s.deque.filter fun k => k.core == s.g.core).length)
      let cancelled := s.launchCancelled s.g.launch
      ∃ t, exec i s = .next t ∧ s.WentOn i t ∧ t.t.sregs = s.t.sregs ∧ t.g.vregs = s.g.vregs ∧
        t.readQ q.toNat = (full && !cancelled) ∧ (∀ n, n < 4 → n ≠ q.toNat → t.readQ n = s.readQ n) ∧
        t.deque = (if cancelled || full then s.deque else
          { core := s.g.core, isLocal := loc, entry := entry, args := (List.range 6).map fun k => s.readS (a.toNat + k),
            launch := s.g.launch, block := s.g.block,
            blockIndex := match s.blockOf s.g.block with | some b => b.index | none => 0,
            width := s.g.width, vd := s.g.vd, interval := s.g.interval } :: s.deque))

namespace Sys2Proof.Machine

/-- An access passes its checks: its bytes are reached, every budget that they charge admits them and no debug slot is enabled
(R164, R266, R331, R351). -/
def State.Passes (s : State) (a : Ask) (hits : List Hit) : Prop :=
  s.reach ⟨a.read, a.write, false⟩ a.bytes = ⟨hits, [], []⟩ ∧ a.pre = [] ∧ (a.part = true → s.partBad hits = []) ∧
    s.verdict s.g.vd (s.hitCharges a.read a.write hits) = .admitted ∧ s.g.dbgc.extractLsb' 0 8 = 0

/-- Bytes that the focused strand's lanes name are all reached, untiled and with no race attribute, every budget that they
charge admits them and no debug slot is enabled (R164, R266, R298, R351). -/
def State.Reaches (s : State) (read write : Bool) (bytes : List LaneByte) (hits : List Hit) : Prop :=
  s.reach ⟨read, write, false⟩ bytes = ⟨hits, [], []⟩ ∧
    s.verdict s.g.vd (s.hitCharges read write hits) = .admitted ∧
    s.g.dbgc.extractLsb' 0 8 = 0 ∧ ∀ h ∈ hits, h.rd = 0 ∧ h.tiled = false

/-- An address of `n` bytes is a multiple of `n` and lies in one sign half (R166). -/
def goodAddr (a n : Nat) : Prop := a % n = 0 ∧ (a < 2 ^ 56 ∨ 2 ^ 64 - 2 ^ 56 ≤ a)

/-- No sector is poisoned, and none holds an error that a read would find (R341). -/
def State.sound (s : State) : Prop := s.poison = [] ∧ s.softErrors = []

/-- The state but for the translations that an access has put into its device's buffers (R333). -/
def State.but (s t : State) : State := { t with cached := s.cached }

/-- The waiting of a JOIN on a counter of value `v` in some bytes: it goes on at 0, and else sleeps with the bytes as it saw
them (R159). -/
def State.JoinOn (i : Instr) (s : State) (refs : List ByteRef) (v : Nat) : Prop :=
  (v = 0 → ∃ t, exec i s = .next t ∧ s.Elsewhere (s.but t) ∧ s.WentOn i t ∧ Strand.Moved s.t t.t ∧
    t.g = { s.g with interval := t.g.interval }) ∧
  (v ≠ 0 → ∃ t, exec i s = .next t ∧ s.WaitsAt (s.but t) (.join (refs.map fun r => (r, s.byteOf s.g.block r)) s.cycle))

end Sys2Proof.Machine

/-- JOIN and JOIN.sp go on when their counter is 0 and sleep at their word while it is not; a counter that is not aligned,
or that lies outside the scratchpad allocation, traps, misaligned first (R46, R159, R164, R166). -/
def Sys2Proof.Claims.JoinWaitsForZero : Prop :=
  (∀ (s : State) (p : Pre) (scp : BitVec 3) (a : BitVec 7) (hits : List Hit),
    let i := Instr.join p scp a
    let va := (s.readPair a.toNat).toNat
    s.Issues i → scp.toNat ≤ 4 → s.NothingOut →
    (va % 4 ≠ 0 → exec i s = .next (s.trapHere { s.trapOf .misaligned with addr := BitVec.ofNat 64 va })) ∧
    (goodAddr va 4 → s.sound →
      (s.countIssue i).Reaches true false (laneBytes (lowLane s.t.active) va 4) hits →
      s.JoinOn i (hits.map fun h => h.ref) (leNat (hits.map fun h => s.byteUnder h.ref.key h.ref.addr)))) ∧
  ∀ (s : State) (p : Pre) (scp : BitVec 3) (a : BitVec 7) (b : Block),
    let i := Instr.joinSp p scp a
    let off := (s.readS a.toNat).toNat % 2 ^ 20
    s.Issues i → scp.toNat ≤ 4 → s.NothingOut → s.g.dbgc.extractLsb' 0 8 = 0 → s.blockOf s.g.block = some b →
    (off % 4 = 0 → off + 4 ≤ b.spadBytes → s.JoinOn i (spadRefs off 4) (leNat (smRead 0 b.scratch off 4))) ∧
    (off % 4 ≠ 0 → exec i s = .next (s.trapHere { s.trapOf .misaligned with addr := BitVec.ofNat 64 off })) ∧
    (off % 4 = 0 → b.spadBytes < off + 4 →
      exec i s = .next (s.trapHere { s.trapOf .scratchpadBounds with addr := BitVec.ofNat 64 (max off b.spadBytes) }))

/-! ## Lane loads, stores, atomics and fences -/

namespace Sys2Proof.Machine

/-- The operation that the focused strand's word leaves outstanding (R100, R163, R295). -/
def State.opHere (s : State) (k : OpKind) (fs : Bool) (acq : Option Nat) (rel : List Carry) : Op :=
  ⟨s.nextId, s.g.id, s.t.idx, s.t.issued, s.g.block, s.flagFor fs, acq, rel, s.t.pc, s.t.active, s.g.interval, k⟩

/-- An instruction has gone on and left one operation outstanding; no register, no byte and nothing else of the machine has
changed, a release raising the gang's interval number; translations at most have joined those held (R100, R163, R299, R333). -/
def State.LeavesOp (i : Instr) (s t : State) (o : Op) (raises : Bool) : Prop :=
  s.Elsewhere { s.but t with ops := s.ops, nextId := s.nextId } ∧ (∀ x ∈ s.cached, x ∈ t.cached) ∧ s.SameBytes t ∧ s.WentOn i t ∧ t.ops = s.ops ++ [o] ∧
    t.nextId = s.nextId + 1 ∧ s.nextId ∈ t.t.issued ∧
    t.g = (if raises then { s.g with interval := min 0xFFFE (s.g.interval + 1) } else s.g) ∧
    Strand.Moved { s.t with issued := t.t.issued, readBytes := t.t.readBytes, wroteBytes := t.t.wroteBytes } t.t

/-- Whether an order code makes an acquire, and whether it makes a release (R123). -/
def acquires (ord : BitVec 2) : Bool := ord == 1 || ord == 3
def releases (ord : BitVec 2) : Bool := ord == 2 || ord == 3

/-- What a store carries: the release fences before it, and its own release (R286). -/
def State.lends (s : State) (ord : BitVec 2) (scope : Nat) : List Carry :=
  if releases ord then addCarry ⟨false, s.g.interval, scope, s.g.id, s.g.block, dieOf s.g.core⟩ s.t.relFence else s.t.relFence

/-- Operations but for the interval numbers that an acquire before them may raise (R299). -/
def plainOps (ops : List Op) : List Op := ops.map fun o => { o with interval := 0, rel := [] }

/-- A scratchpad offset of `n` bytes is aligned and inside the allocation (R166, R252). -/
def State.goodOff (s : State) (o : Int) (n : Nat) : Prop := 0 ≤ o ∧ o % n = 0 ∧ o + n ≤ s.spadSize

/-- The scratchpad bytes of a lane at an offset. -/
def spadAt (o n : Nat) : List ByteRef := (List.range n).map fun k => ⟨true, o + k, 0⟩

/-- The memory bytes of a lane among those reached. -/
def bytesOfLane (hits : List Hit) (l : Nat) : List ByteRef := (hits.filter fun h => h.lane == l).map fun h => h.ref

/-- Byte `k` of a lane's data in its register group, the low register first (R3, R166). -/
def State.dataByte (s : State) (m : LaneMem) (l k : Nat) : Byte :=
  BitVec.ofNat 8 (s.groupNat m.d.toNat (szRegs m.sz.toNat) l / 2 ^ (8 * k))

/-- The lanes that a store's guard leaves, and of an unaligned store those with a byte enabled (R110, R167). -/
def storeRow (s : State) : Instr → Option (LaneMem × Int × Bool × (Nat → Nat → Bool))
  | .st _ m gd => some (m, m.disp.toInt, true, fun l _ => (s.laneGuard gd).getLsbD l)
  | .stu _ m gd mv => some (m, (m.disp.extractLsb' 0 11).toInt, false,
      fun l k => (s.laneGuard gd).getLsbD l && (s.readV mv.toNat l).getLsbD k)
  | _ => none

/-- The mask of lanes of a memory word that must be aligned. -/
def alignedRow (s : State) : Instr → Option (LaneMem × Mask)
  | .ld _ m _ => some (m, s.t.active)
  | .ldc _ m _ => some (m, s.t.active)
  | .st _ m gd => some (m, s.laneGuard gd)
  | _ => none

end Sys2Proof.Machine

/-- LD, LDC and LDU leave a load of their lanes' addresses outstanding, tagged with the flag of their header, and LDS one of
scratchpad offsets; each goes on at once (R95, R100, R163, R166, R168, R283). -/
def Sys2Proof.Claims.LoadsLeaveTheirOperation : Prop :=
  (∀ (i : Instr) (s : State) (m : LaneMem) (raw aligned : Bool) (hits : List Hit),
    ((∃ p, i = .ld p m raw ∨ i = .ldc p m raw) ∧ aligned = true) ∨ ((∃ p, i = .ldu p m raw) ∧ aligned = false) →
    let n := 2 ^ m.sz.toNat
    let lanes := lanesOf s.t.active
    let addr := s.laneAddr m m.disp.toInt
    s.Issues i → m.scp.toNat ≤ 4 →
    (∀ l ∈ lanes, (aligned = true → addr l % n = 0) ∧ goodAddr (addr l) 1) →
    (s.countIssue i).Reaches true false (lanes.flatMap fun l => laneBytes l (addr l) n) hits →
    ∃ t, exec i s = .next t ∧ s.LeavesOp i t
      (s.opHere (.load m.d.toNat m.sz.toNat (lanes.map fun l => (l, addr l, bytesOfLane hits l))) m.fs
        (if acquires m.ord then some m.scp.toNat else none) []) false) ∧
  ∀ (s : State) (p : Pre) (m : LaneMem),
    let i := Instr.lds p m
    let n := 2 ^ m.sz.toNat
    let lanes := lanesOf s.t.active
    let off := s.spadOffset m m.disp.toInt
    s.Issues i → m.scp.toNat ≤ 4 → s.g.dbgc.extractLsb' 0 8 = 0 → (∀ l ∈ lanes, s.goodOff (off l) n) →
    ∃ t, exec i s = .next t ∧ s.LeavesOp i t
      (s.opHere (.load m.d.toNat m.sz.toNat (lanes.map fun l => (l, (off l).toNat, spadAt (off l).toNat n))) m.fs
        (if acquires m.ord then some (min m.scp.toNat 1) else none) []) false

/-- ST, STU and STS leave a store of their enabled lanes' bytes outstanding, low byte first, and go on; a release carries
the gang's interval number, which rises (R110, R163, R166, R167, R286, R299). -/
def Obligations.StoresAreIssued : Prop :=
  (∀ (i : Instr) (s : State) (m : LaneMem) (disp : Int) (aligned : Bool) (on : Nat → Nat → Bool) (hits : List Hit),
    storeRow s i = some (m, disp, aligned, on) →
    let n := 2 ^ m.sz.toNat
    let lanes := (lanesOf s.t.active).filter fun l => (List.range n).any (on l)
    let addr := s.laneAddr m disp
    s.Issues i → m.scp.toNat ≤ 4 → lanes ≠ [] →
    (∀ l ∈ lanes, (aligned = true → addr l % n = 0) ∧ goodAddr (addr l) 1) →
    (s.countIssue i).Reaches false true
      (lanes.flatMap fun l => (laneBytes l (addr l) n).filter fun b => on l b.idx) hits →
    ∃ t, exec i s = .next t ∧ s.LeavesOp i t
      (s.opHere (.store (hits.map fun h => (h.ref, s.dataByte m h.lane h.idx))) m.fs none (s.lends m.ord m.scp.toNat))
      (releases m.ord)) ∧
  ∀ (s : State) (p : Pre) (m : LaneMem) (gd : BitVec 4),
    let i := Instr.sts p m gd
    let n := 2 ^ m.sz.toNat
    let lanes := lanesOf (s.laneGuard gd)
    let off := s.spadOffset m m.disp.toInt
    s.Issues i → m.scp.toNat ≤ 4 → s.g.dbgc.extractLsb' 0 8 = 0 → lanes ≠ [] → (∀ l ∈ lanes, s.goodOff (off l) n) →
    ∃ t, exec i s = .next t ∧ s.LeavesOp i t
      (s.opHere (.store (lanes.flatMap fun l =>
          (List.range n).map fun k => (⟨true, (off l).toNat + k, 0⟩, s.dataByte m l k))) m.fs none
        (s.lends m.ord (min m.scp.toNat 1)))
      (releases m.ord)

/-- ATOM leaves an atomic of its guarded lanes outstanding, on memory or on the scratchpad, and goes on (R163, R169, R286,
R299). -/
def Sys2Proof.Claims.AtomicsAreIssued : Prop :=
  ∀ (s : State) (p : Pre) (m : LaneMem) (gd : BitVec 4) (raw : Bool) (aop : AtomOp) (dv cv : BitVec 7) (hits : List Hit),
    let i := Instr.atom p m gd raw aop dv cv
    let n := 2 ^ m.sz.toNat
    let lanes := lanesOf (s.laneGuard gd)
    let addr := s.laneAddr m 0
    let off := s.spadOffset m 0
    let data := fun l => (s.groupNat dv.toNat (szRegs m.sz.toNat) l,
      if aop = .cas then s.groupNat cv.toNat (szRegs m.sz.toNat) l else 0)
    s.Issues i → m.scp.toNat ≤ 4 → lanes ≠ [] →
    (raw = false → (∀ l ∈ lanes, goodAddr (addr l) n) →
      (s.countIssue i).Reaches true true (lanes.flatMap fun l => laneBytes l (addr l) n) hits →
      ∃ t, exec i s = .next t ∧ s.LeavesOp i t
        (s.opHere (.atom aop m.d.toNat m.sz.toNat (lanes.map fun l => (l, addr l, bytesOfLane hits l, data l))) m.fs
          (if acquires m.ord then some m.scp.toNat else none) (s.lends m.ord m.scp.toNat)) (releases m.ord)) ∧
    (raw = true → s.g.dbgc.extractLsb' 0 8 = 0 → (∀ l ∈ lanes, s.goodOff (off l) n) →
      let sc := min m.scp.toNat 1
      ∃ t, exec i s = .next t ∧ s.LeavesOp i t
        (s.opHere (.atom aop m.d.toNat m.sz.toNat
            (lanes.map fun l => (l, (off l).toNat, spadAt (off l).toNat n, data l))) m.fs
          (if acquires m.ord then some sc else none) (s.lends m.ord sc)) (releases m.ord))

/-- LD, LDC and ST with a lane whose address is not a multiple of the access size trap misaligned, naming those lanes and the
lowest one's address, whatever other checks fail (R164, R166, R252). -/
def Sys2Proof.Claims.MisalignedLanesTrap : Prop :=
  ∀ (i : Instr) (s : State) (m : LaneMem) (mask bad : Mask), alignedRow s i = some (m, mask) → s.Issues i →
    m.scp.toNat ≤ 4 → bad ≠ 0 →
    (∀ l, l < 64 → bad.getLsbD l =
      (mask.getLsbD l && decide (s.laneAddr m m.disp.toInt l % 2 ^ m.sz.toNat ≠ 0))) →
    exec i s = .next (s.trapHere ⟨.misaligned, bad, BitVec.ofNat 64 (s.laneAddr m m.disp.toInt (lowLane bad)), s.t.wordAt 0⟩)

/-- FENCE performs every load and store that its strand has outstanding; an acquire takes up what earlier reads carried, and
a release lends its number to the stores after it; a scope of 5 to 7 raises illegal-operand (R123, R170, R285, R286, R299). -/
def Sys2Proof.Claims.FencesOrderTheirStrand : Prop :=
  ∀ (s : State) (p : Pre) (kind : BitVec 2) (scp : BitVec 3),
    let i := Instr.fence p kind scp
    s.Issues i →
    (5 ≤ scp.toNat → exec i s = .next (s.trapHere (s.trapOf .illegalOperand))) ∧
    (scp.toNat ≤ 4 →
      (∀ o ∈ s.ops, o.id ∈ s.t.issued → (∃ d sz l, o.kind = .load d sz l) ∨ ∃ l, o.kind = .store l) →
      (∀ m ∈ s.mops, m.id ∉ s.t.issued) →
      ∃ t, exec i s = .next t ∧ s.WentOn i t ∧
        plainOps t.ops = plainOps (s.ops.filter fun o => !(s.t.issued.contains o.id))) ∧
    (scp.toNat ≤ 4 → s.NothingOut →
      ∃ t, exec i s = .next t ∧ s.Elsewhere t ∧ s.SameBytes t ∧ s.WentOn i t ∧
        t.g = { s.g with interval := t.g.interval } ∧
        Strand.Moved { s.t with relFence := t.t.relFence } t.t ∧
        let taken := carriedBy scp.toNat s.g.id s.g.block (dieOf s.g.core) s.t.seen
        let j := match (if kind = 1 then none else taken) with
          | some n => min 0xFFFE (max s.g.interval n + 1)
          | none => s.g.interval
        (kind = 0 → t.t.relFence = s.t.relFence ∧ t.g.interval = j) ∧
        (kind ≠ 0 → t.t.relFence = addCarry ⟨true, j, scp.toNat, s.g.id, s.g.block, dieOf s.g.core⟩ s.t.relFence ∧
          t.g.interval = min 0xFFFE (j + 1)))

/-! ## Memory, and operations that complete -/

/-- A byte that is written reads back under the key that wrote it, but in a sector that stays poisoned; every other byte of its line reads under
that key as before, every byte of another line under every key as before, and a page that is to be cleared still reads as
zero where nothing has been written (R340, R341, R358). -/
def Obligations.MemoryReadsWhatWasWritten : Prop :=
  ∀ (s : State) (key c : Nat) (b : Byte),
    (s.isPoisoned c = false → (s.writeByte key c b).byteUnder key c = b) ∧
    (∀ a, a ≠ c → (s.writeByte key c b).byteUnder key a = s.byteUnder key a) ∧
    ∀ k a, a / 128 ≠ c / 128 → (s.writeByte key c b).byteUnder k a = s.byteUnder k a

namespace Sys2Proof.Machine

/-- The gang of an operation, if it is left, has a strand, so that the end of the operation does not end the gang (R12). -/
def State.Stands (s : State) (o : Op) : Prop := ∀ g ∈ s.gangs, g.id = o.gang → g.strands ≠ []

/-- An operation may be performed, and its number is its own. -/
def State.MayEnd (s : State) (o : Op) : Prop :=
  s.focused = false ∧ o ∈ s.ops ∧ (∀ p ∈ s.ops, p.id = o.id → p = o) ∧ s.mayEnd o = true ∧ s.Stands o

/-- Each gang but one is as it was. -/
def State.OtherGangs (s t : State) (gid : Nat) : Prop :=
  t.gangs.map (fun h => h.id) = s.gangs.map (fun h => h.id) ∧ ∀ h ∈ s.gangs, h.id ≠ gid → h ∈ t.gangs

/-- A strand of BARS whose held arrival was applied in a phase waits for the barrier to leave it, now or when a cancel has let
it execute BARS again (R302, R376). -/
def Strand.arrivedAt (name op : Nat) (ph : Bool) (t : Strand) : Strand :=
  { t with
    barPhase := match t.barPhase with
      | some (.held n k) => if k = op then some (.phase name ph) else some (.held n k)
      | x => x
    wait := if t.wait = .heldBar op then .bar name ph true else t.wait }

end Sys2Proof.Machine

/-- STORE_PERFORMED writes the store's bytes and ends it: memory reads as before but for the lines of those bytes under other
keys, and scratchpads but for the bytes named (R163, R166, R283, R340); an event whose operation may not be performed yet
does nothing. -/
def Obligations.StoresWriteTheirBytes : Prop :=
  (∀ (s : State) (o : Op) (bs : List (ByteRef × Byte)) (key : Nat), s.MayEnd o → o.kind = .store bs →
    (∀ x ∈ bs, x.1.spad = false ∧ x.1.key = key ∧ s.isPoisoned x.1.addr = false) → (bs.map fun x => x.1.addr).Nodup →
    ∃ t, exec (.storePerformed o.id) s = .next t ∧ t.ops = s.ops.filter (fun p => p.id != o.id) ∧ t.gangs = s.gangs ∧
      t.blocks = s.blocks ∧ (∀ x ∈ bs, t.byteUnder key x.1.addr = x.2) ∧
      (∀ a, (∀ x ∈ bs, x.1.addr ≠ a) → t.byteUnder key a = s.byteUnder key a) ∧
      ∀ k a, (∀ x ∈ bs, x.1.addr / 128 ≠ a / 128) → t.byteUnder k a = s.byteUnder k a) ∧
  (∀ (s : State) (o : Op) (bs : List (ByteRef × Byte)) (b : Block), s.MayEnd o → o.kind = .store bs →
    (∀ x ∈ bs, x.1.spad = true) → (bs.map fun x => x.1.addr).Nodup → s.blockOf o.block = some b →
    ∃ t c, exec (.storePerformed o.id) s = .next t ∧ t.ops = s.ops.filter (fun p => p.id != o.id) ∧ t.gangs = s.gangs ∧
      (∀ k a, t.byteUnder k a = s.byteUnder k a) ∧ t.blockOf o.block = some c ∧
      c = { b with scratch := c.scratch, carries := c.carries } ∧ (∀ x ∈ bs, smGet 0 c.scratch x.1.addr = x.2) ∧
      ∀ a, (∀ x ∈ bs, x.1.addr ≠ a) → smGet 0 c.scratch a = smGet 0 b.scratch a) ∧
  ∀ (s : State) (o : Op), s.focused = false → o ∈ s.ops → (∀ p ∈ s.ops, p.id = o.id → p = o) → s.mayEnd o = false →
    exec (.storePerformed o.id) s = .next s

/-- LOAD_COMPLETE writes the values of the lanes it names into their registers and ends the load with its last lanes; memory
and every other register are as before (R163, R166, R278). -/
def Obligations.LoadsWriteTheirRegisters : Prop :=
  ∀ (s : State) (o : Op) (d sz : Nat) (ls : List (Nat × Nat × List ByteRef)) (lanes : Mask) (g : Gang),
    let now := ls.filter fun x => lanes.getLsbD x.1
    let rest := ls.filter fun x => !(lanes.getLsbD x.1)
    s.MayEnd o → o.kind = .load d sz ls → s.sound → (ls.map fun x => x.1).Nodup → (∀ x ∈ ls, x.1 < 64) →
    s.gangOf o.gang = some g →
    ∃ t h, exec (.loadComplete o.id lanes) s = .next t ∧ t.gangOf o.gang = some h ∧ s.OtherGangs t o.gang ∧
      (∀ k c, t.byteUnder k c = s.byteUnder k c) ∧ t.blocks = s.blocks ∧
      (rest = [] → plainOps t.ops = plainOps (s.ops.filter fun p => p.id != o.id)) ∧
      (rest ≠ [] →
        plainOps t.ops = plainOps (replaceFirst (fun p => p.id == o.id) { o with kind := .load d sz rest } s.ops)) ∧
      (∀ x ∈ now, ∀ i, i < szRegs sz → h.readV (d + i) x.1 =
        BitVec.ofNat 32 (leNat (x.2.2.map fun r => s.byteOf o.block r) / 2 ^ (32 * i))) ∧
      ∀ r l, l < 64 → (r < d ∨ d + szRegs sz ≤ r ∨ ∀ x ∈ now, x.1 ≠ l) → h.readV r l = g.readV r l

/-- ATOMIC_COMPLETE of one lane writes the location's new value, puts the old one in the lane's destination and ends the
atomic (R163, R169). -/
def Sys2Proof.Claims.AtomicsReplaceTheirValue : Prop :=
  ∀ (s : State) (o : Op) (aop : AtomOp) (d sz l va v cmp : Nat) (refs : List ByteRef) (key : Nat) (g : Gang),
    s.MayEnd o → o.kind = .atom aop d sz [(l, va, refs, v, cmp)] → s.sound → l < 64 → refs.length = 2 ^ sz →
    (∀ r ∈ refs, r.spad = false ∧ r.key = key) → (refs.map fun r => r.addr).Nodup → s.gangOf o.gang = some g →
    let old := leNat (s.bytesAt refs)
    ∃ t h, exec (.atomicComplete o.id) s = .next t ∧ plainOps t.ops = plainOps (s.ops.filter fun p => p.id != o.id) ∧
      t.gangOf o.gang = some h ∧ s.OtherGangs t o.gang ∧
      (∀ i, i < szRegs sz → h.readV (d + i) l = BitVec.ofNat 32 (old / 2 ^ (32 * i))) ∧
      (∀ r k, k < 64 → (r < d ∨ d + szRegs sz ≤ r ∨ k ≠ l) → h.readV r k = g.readV r k) ∧
      t.bytesAt refs = natBytes (2 ^ sz) (atomNew aop (8 * 2 ^ sz) old v cmp) ∧
      (∀ a, (∀ r ∈ refs, r.addr ≠ a) → t.byteUnder key a = s.byteUnder key a) ∧
      ∀ k a, (∀ r ∈ refs, r.addr / 128 ≠ a / 128) → t.byteUnder k a = s.byteUnder k a

/-- TILE_STEP_COMPLETE writes the registers that a home-slice step has left to write, and HELD_RELEASE_APPLY applies a held
release to its barrier or stage, but not in a cycle in which its named barrier has taken an arrival that comes after it; both
end the operation (R163, R176, R302). -/
def Sys2Proof.Claims.StepsAndHeldReleasesEnd : Prop :=
  (∀ (s : State) (o : Op) (vs : List (Nat × Nat × Word)) (g : Gang), s.MayEnd o → o.kind = .tile vs [] [] →
    s.gangOf o.gang = some g →
    ∃ t h, exec (.tileStepComplete o.id) s = .next t ∧ t.ops = s.ops.filter (fun p => p.id != o.id) ∧
      t.gangOf o.gang = some h ∧ h.vregs = (g.putV vs).vregs ∧ s.OtherGangs t o.gang ∧
      (∀ k c, t.byteUnder k c = s.byteUnder k c) ∧ t.blocks = s.blocks) ∧
  ∀ (s : State) (o : Op) (k : HeldKind), s.MayEnd o → o.kind = .held k →
    (s.heldInTurn o k = false → exec (.heldReleaseApply o.id) s = .next s) ∧
    ∀ (u : State) (ph : Bool), s.heldInTurn o k = true → s.applyRelease o.block k o.interval = some (u, ph) →
      ∃ t, exec (.heldReleaseApply o.id) s = .next t ∧ t.ops = s.ops.filter (fun p => p.id != o.id) ∧
        { t with ops := s.ops, gangs := s.gangs, cycleMarks := s.cycleMarks } = u ∧
        ((∀ name cnt n, k ≠ .bar name cnt n true) → t.gangs = s.gangs) ∧
        ∀ name cnt n, k = .bar name cnt n true →
          t.gangs = s.gangs.map fun g =>
            if g.id = o.gang then { g with strands := g.strands.map (Strand.arrivedAt name o.id ph) } else g

/-! ## Barriers and chainrings -/

namespace Sys2Proof.Machine

/-- Nothing has changed but the block's own contents, the gang's interval number and what the strand's place, conditions and
age need. -/
def State.OnlyBlock (s t : State) : Prop :=
  s.Elsewhere { t with blocks := s.blocks } ∧ (∀ k c, t.byteUnder k c = s.byteUnder k c) ∧
    t.g = { s.g with interval := t.g.interval } ∧ Strand.Moved { s.t with qregs := t.t.qregs } t.t ∧
    ∀ n, n ≠ s.g.block → t.blockOf n = s.blockOf n

/-- The interval number after a release of the gang (R299). -/
def State.raised (s : State) : Nat := min 0xFFFE (s.g.interval + 1)

/-- Whether an arrival of the strand at a named barrier for `cnt` lanes raises illegal-state (R175). -/
def State.badArrival (s : State) (x : Bar) (cnt : Nat) : Prop :=
  (x.arrived ≠ 0 ∧ cnt ≠ x.expect) ∨ cnt < x.arrived + (lanesOf s.t.active).length

/-- A named barrier as an arrival of the strand leaves it; the last one completes the phase (R175). -/
def State.Arrived (s : State) (x y : Bar) (cnt : Nat) : Prop :=
  y.expect = cnt ∧
    if x.arrived + (lanesOf s.t.active).length = cnt then y.arrived = 0 ∧ y.ph = !x.ph
    else y.arrived = x.arrived + (lanesOf s.t.active).length ∧ y.ph = x.ph

/-- The block of a strand has changed in one named barrier only. -/
def Block.OneBar (b c : Block) (name : Nat) : Prop :=
  c = { b with bars := c.bars } ∧ ∀ m, m ≠ name → c.bar m = b.bar m

/-- Word `k` of the byte-counting barrier at an offset: EXP, ARR, the phase word, CODE with KIND (R177). -/
def bxWord (b : Block) (off k : Nat) : Nat := leNat (smRead 0 b.scratch (off + 4 * k) 4)

/-- The block has changed in one byte-counting barrier only, with the interval numbers kept for it. -/
def Block.OneBx (b c : Block) (off : Nat) : Prop :=
  c = { b with scratch := c.scratch, bxCarried := c.bxCarried } ∧
    ∀ a, a < off ∨ off + 32 ≤ a → smGet 0 c.scratch a = smGet 0 b.scratch a

/-- EXP and ARR of a barrier have become `e` and `a` with ERRP as given, and the check of R178 has followed: a phase that is
complete inverts PH, sets OVR and ERR, clears ERRP and takes the tick. -/
def bxChecked (b c : Block) (off e a tick : Nat) (errp : Bool) : Prop :=
  let w := bxWord b off 2
  let done := decide (e ≠ 0 ∧ e ≤ a)
  bxWord c off 0 = (if done then 0 else e) ∧ bxWord c off 1 = (if done then 0 else a) ∧
    bxWord c off 2 =
      (if done then (1 - w % 2) + (if errp = true ∨ e < a then 2 else 0) + (if e < a then 8 else 0)
      else w % 4 + (if errp then 4 else 0) + w / 8 % 2 * 8) ∧
    smRead 0 c.scratch (off + 24) 8 = (if done then natBytes 8 tick else smRead 0 b.scratch (off + 24) 8)

/-- The chainring that a stage instruction names, and its stage (R42). -/
def State.ringAt (s : State) (ring : BitVec 3) : Option Ring := (s.blockOf s.g.block).bind fun b => b.ring ring.toNat

end Sys2Proof.Machine

/-- BARA and BARS count the strand's active lanes into their barrier; an expected count of 0 or above 2,048 raises
illegal-operand, one that disagrees or is passed raises illegal-state; BARA goes on, BARS goes on past a phase that it
completes and else waits; BARW waits, and a strand that waits goes on once the phase has changed (R175, R176). -/
def Sys2Proof.Claims.NamedBarriersCountLanes : Prop :=
  (∀ (i : Instr) (s : State) (name : BitVec 4) (a : BitVec 7) (waits : Bool) (b : Block),
    (∃ p w, i = .bara p name a w ∧ (w = true → s.isWhole = true) ∧ waits = false) ∨
      (∃ p w, i = .bars p name a w ∧ (w = true → s.isWhole = true) ∧ waits = true ∧ s.t.wait = .none ∧ s.t.barPhase = none) →
    let cnt := (s.readS a.toNat).toNat
    let x := b.bar name.toNat
    s.Issues i → s.NothingOut → s.blockOf s.g.block = some b →
    (cnt = 0 ∨ 2048 < cnt → exec i s = .next (s.trapHere (s.trapOf .illegalOperand))) ∧
    (0 < cnt → cnt ≤ 2048 → s.badArrival x cnt → exec i s = .next (s.trapHere (s.trapOf .illegalState))) ∧
    (0 < cnt → cnt ≤ 2048 → ¬ s.badArrival x cnt →
      ∃ t c, exec i s = .next t ∧ s.OnlyBlock t ∧ t.blockOf s.g.block = some c ∧ b.OneBar c name.toNat ∧
        s.Arrived x (c.bar name.toNat) cnt ∧
        (waits = false → s.WentOn i t ∧ t.g.interval = s.raised) ∧
        (waits = true → (c.bar name.toNat).ph ≠ x.ph → s.WentOn i t) ∧
        (waits = true → (c.bar name.toNat).ph = x.ph →
          t.t.wait = .bar name.toNat x.ph true ∧ t.t.pc = s.t.pc ∧ t.t.clause = s.t.clause ∧ t.g.interval = s.raised))) ∧
  (∀ (s : State) (p : Pre) (name : BitVec 4) (w : Bool) (b : Block), let i := Instr.barw p name w
    s.Issues i → (w = true → s.isWhole = true) → s.t.wait = .none → s.blockOf s.g.block = some b →
    ∃ t, exec i s = .next t ∧ s.WaitsAt t (.bar name.toNat (b.bar name.toNat).ph false)) ∧
  ∀ (i : Instr) (s : State) (n : Nat) (ph arrived : Bool) (b : Block),
    (∃ p name a w, i = .bars p name a w ∧ arrived = true) ∨
      (∃ p name w, i = .barw p name w ∧ (w = true → s.isWhole = true) ∧ arrived = false) →
    s.Issues i → s.NothingOut → s.t.wait = .bar n ph arrived → (arrived = true → s.t.barPhase = some (.phase n ph)) →
    s.blockOf s.g.block = some b → (b.bar n).ph ≠ ph →
    ∃ t, exec i s = .next t ∧ s.OnlyBlock t ∧ t.blocks = s.blocks ∧ s.WentOn i t

/-- BXINIT clears a barrier and sets EXP, BXEXP adds to EXP, BXARR adds to ARR, saturating with ERRP; each is followed by the
check of R178, and BXWAIT takes ERR once PH has left its parity and waits before; a sum past 2^32 - 1 raises illegal-operand,
an offset that is not a multiple of 32 misaligned (R177-R179). -/
def Sys2Proof.Claims.ByteBarriersCountBytes : Prop :=
  ∀ (i : Instr) (s : State) (a d : BitVec 7) (b : Block),
    let off := (s.readS a.toNat).toNat % 2 ^ 20
    let n := (s.readS d.toNat).toNat
    let e := bxWord b off 0
    let r := bxWord b off 1
    let changes := fun (t : State) (c : Block) =>
      exec i s = .next t ∧ s.OnlyBlock t ∧ s.WentOn i t ∧ t.t.qregs = s.t.qregs ∧ t.blockOf s.g.block = some c ∧ b.OneBx c off
    s.Issues i → s.NothingOut → s.g.dbgc.extractLsb' 0 8 = 0 → s.blockOf s.g.block = some b →
    ((∃ p, i = .bxinit p d a ∨ i = .bxexp p d a ∨ i = .bxarr p d a ∨ ∃ par q, i = .bxwait p par q a) → off % 32 ≠ 0 →
      exec i s = .next (s.trapHere { s.trapOf .misaligned with addr := BitVec.ofNat 64 off })) ∧
    ((∃ p, i = .bxinit p d a ∨ i = .bxexp p d a ∨ i = .bxarr p d a ∨ ∃ par q, i = .bxwait p par q a) → off % 32 = 0 →
      b.spadBytes < off + 32 →
      exec i s = .next (s.trapHere { s.trapOf .scratchpadBounds with addr := BitVec.ofNat 64 (max off b.spadBytes) })) ∧
    (off % 32 = 0 → off + 32 ≤ b.spadBytes →
      ((∃ p, i = .bxinit p d a) → ∃ t c, changes t c ∧ t.g = s.g ∧ bxWord c off 0 = n ∧
        ∀ k, 4 ≤ k → k < 32 → smGet 0 c.scratch (off + k) = 0) ∧
      ((∃ p, i = .bxexp p d a) → e + n < 2 ^ 32 →
        ∃ t c, changes t c ∧ t.g = s.g ∧ bxChecked b c off (e + n) r (s.tickOf b.vd) (bxWord b off 2 / 4 % 2 == 1)) ∧
      ((∃ p, i = .bxexp p d a) → 2 ^ 32 ≤ e + n → exec i s = .next (s.trapHere (s.trapOf .illegalOperand))) ∧
      ((∃ p, i = .bxarr p d a) →
        ∃ t c, changes t c ∧ t.g.interval = s.raised ∧
          bxChecked b c off e (min (r + n) (2 ^ 32 - 1)) (s.tickOf b.vd) (bxWord b off 2 / 4 % 2 == 1 || decide (2 ^ 32 ≤ r + n))) ∧
      ∀ par q, (∃ p, i = .bxwait p par q a) →
        (bxWord b off 2 % 2 = (if par then 1 else 0) → ∃ t, exec i s = .next t ∧ s.WaitsAt t (.again s.cycle)) ∧
        (bxWord b off 2 % 2 ≠ (if par then 1 else 0) →
          ∃ t, exec i s = .next t ∧ s.OnlyBlock t ∧ t.blocks = s.blocks ∧ s.WentOn i t ∧
            t.readQ q.toNat = (bxWord b off 2 / 2 % 2 == 1) ∧ ∀ m, m < 4 → m ≠ q.toNat → t.readQ m = s.readQ m))

/-- CRFILL fills an empty stage and inverts its phase, CRFREE empties a full one, each raising illegal-state on the other;
CRWAIT goes on past a stage that is as it asks and waits at one that is not; CRTAKE answers the same question in its Q;
an absent ring or stage raises illegal-operand (R42, R180). -/
def Obligations.ChainringsPassStages : Prop :=
  ∀ (i : Instr) (s : State) (ring : BitVec 3) (a : BitVec 7) (b : Block) (p : Pre),
    let st := (s.readS a.toNat).toNat
    s.Issues i → s.NothingOut → s.blockOf s.g.block = some b →
    ((i = .crfill p ring a ∨ i = .crfree p ring a ∨ (∃ ph, i = .crwaitEmpty p ring ph a ∨ i = .crwaitFull p ring ph a) ∨
        ∃ q ph, i = .crtakeEmpty p ring q ph a ∨ i = .crtakeFull p ring q ph a) →
      (∀ r, s.ringAt ring = some r → r.stages ≤ st) → exec i s = .next (s.trapHere (s.trapOf .illegalOperand))) ∧
    ∀ r, s.ringAt ring = some r → st < r.stages →
      let full := smGet false r.full st
      let phase := smGet false r.phase st
      let turned := fun (f h : Bool) => ∃ t c u, exec i s = .next t ∧ s.OnlyBlock t ∧ s.WentOn i t ∧
        t.t.qregs = s.t.qregs ∧ t.g.interval = s.raised ∧ t.blockOf s.g.block = some c ∧
        c = { b with rings := c.rings } ∧ t.ringAt ring = some u ∧ u.stages = r.stages ∧
        smGet false u.full st = f ∧ smGet false u.phase st = h ∧
        ∀ k, k ≠ st → smGet false u.full k = smGet false r.full k ∧ smGet false u.phase k = smGet false r.phase k
      let goesOn := ∃ t, exec i s = .next t ∧ s.OnlyBlock t ∧ t.blocks = s.blocks ∧ s.WentOn i t
      let answers := fun (q : BitVec 2) (v : Bool) => ∃ t, exec i s = .next t ∧ s.OnlyBlock t ∧ t.blocks = s.blocks ∧
        s.WentOn i t ∧ t.readQ q.toNat = v ∧ ∀ m, m < 4 → m ≠ q.toNat → t.readQ m = s.readQ m
      let waits := ∃ t, exec i s = .next t ∧ s.WaitsAt t (.again s.cycle)
      (i = .crfill p ring a →
        (full = false → turned true (!phase)) ∧ (full = true → exec i s = .next (s.trapHere (s.trapOf .illegalState)))) ∧
      (i = .crfree p ring a →
        (full = true → turned false phase) ∧ (full = false → exec i s = .next (s.trapHere (s.trapOf .illegalState)))) ∧
      (∀ ph, i = .crwaitEmpty p ring ph a →
        (full = false ∧ phase = ph → goesOn) ∧ (¬ (full = false ∧ phase = ph) → waits)) ∧
      (∀ ph, i = .crwaitFull p ring ph a →
        (full = true ∧ phase = ph → goesOn) ∧ (¬ (full = true ∧ phase = ph) → waits)) ∧
      (∀ q ph, i = .crtakeEmpty p ring q ph a → answers q (decide (full = false ∧ phase = ph))) ∧
      ∀ q ph, i = .crtakeFull p ring q ph a → answers q (decide (full = true ∧ phase = ph))

/-! ## Engine commands, promises, caches and the mailbox -/

namespace Sys2Proof.Machine

/-- What the bytes of sources that an access has read hold. -/
def State.fetchedBytes (s : State) (xs : List Source) (hits : List Hit) : List (List Byte) :=
  s.sourceBytes xs (s.bytesAt (hits.map fun h => h.ref))

/-- An instruction has gone on and put one command into its core's copy-engine queue (R165, R183). -/
def State.SendsCopy (i : Instr) (s t : State) (off : Nat) (o : BitVec 7) (bytes : Nat) (kind : CopyKind) : Prop :=
  s.Elsewhere { s.but t with copies := s.copies, nextId := s.nextId } ∧ s.SameBytes t ∧ s.WentOn i t ∧ t.g = s.g ∧
    Strand.Moved { s.t with sregs := t.t.sregs } t.t ∧
    t.copies = s.copies ++
      [⟨s.nextId, s.g.core, s.g.vd, s.g.id, s.g.block, off,
        (List.range 4).map fun k => (s.readS (o.toNat + k)).toInt, s.g.interval, bytes, kind, 0, 0, [], [], none, [],
        false, false, false, []⟩]

/-- The commands that wait in the copy-engine queue of the strand's core (R165). -/
def State.copiesAhead (s : State) : Nat := (s.copies.filter fun c => c.core == s.g.core && !c.performed).length

/-- The registers of a copy: its two descriptors, its barrier, its origin and whether the descriptors lie in scratchpad. -/
def copyRow : Instr → Option (Bool × BitVec 7 × BitVec 7 × BitVec 7 × BitVec 7 × BitVec 7 × Bool)
  | .cpy _ a e b o ds => some (false, 0, a, e, b, o, ds)
  | .cpyp _ d a e b o ds => some (true, d, a, e, b, o, ds)
  | _ => none

/-- What a virtual device holds besides its counters and its mailbox words (R270). -/
def VDev.quiet (d : VDev) : VDev := { d with counters := [], outw := [], oseq := 0, intr := [] }

end Sys2Proof.Machine

/-- CPY and CPYP whose descriptors pass their checks queue one command that carries the descriptors' sides, the origin and
the barrier, and go on; CPYP also writes its promise, whose top four bits are the device's placement epoch; a full queue
holds the instruction back (R165, R181-R183, R185, R186, R303). -/
def Sys2Proof.Claims.CopiesAreQueued : Prop :=
  ∀ (i : Instr) (s : State) (pr : Bool) (d a e b o : BitVec 7) (ds : Bool) (h1 h2 h3 : List Hit),
    copyRow i = some (pr, d, a, e, b, o, ds) → s.Issues i →
    (64 ≤ s.copiesAhead → exec i s = .next (s.HeldFor .copyQueue)) ∧
    let u := s.countIssue i
    let off := (s.readS e.toNat).toNat % 2 ^ 20
    let x1 := [u.descSource a ds, u.descSource b ds]
    let u1 := u.paid (u.sourceAsk (u.imageBad off 32) x1) h1
    let b1 := u1.fetchedBytes x1 h1
    let src := sideOf (b1.getD 0 [])
    let dst := sideOf (b1.getD 1 [])
    let u2 := u1.paid (u1.basesAsk [src, dst]) h2
    let shaped := [src.shaped (u2.sideRange src), dst.shaped (u2.sideRange dst)]
    let x3 := shaped.flatMap fun z => indexSource z (src.boxOf z.idim)
    let u3 := u2.paid (u2.sourceAsk (shaped.flatMap u2.sideBad) x3) h3
    let sides := fillIndex shaped (u3.fetchedBytes x3 h3)
    let x := sides.getD 0 src
    let y := sides.getD 1 dst
    (s.copiesAhead < 64 → s.NothingOut → s.sound → u.Passes (u.sourceAsk (u.imageBad off 32) x1) h1 →
      u1.Passes (u1.basesAsk [src, dst]) h2 →
      copyFails (b1.getD 0 []) (b1.getD 1 []) (u2.sideRange src) (u2.sideRange dst) = none →
      u2.Passes (u2.sourceAsk (shaped.flatMap u2.sideBad) x3) h3 →
      ∃ t, exec i s = .next t ∧ s.SendsCopy i t off o (x.count * y.width / 8) (.cpy pr x y) ∧
        (pr = false → t.t.sregs = s.t.sregs) ∧
        (pr = true → (t.readPair d.toNat).toNat / 2 ^ 60 = (s.vdev s.g.vd).epoch % 16 ∧
          ∀ r, r ≠ d.toNat → r ≠ d.toNat + 1 → smGet 0 t.t.sregs r = smGet 0 s.t.sregs r))

/-- HEDIT, OLOAD and BANKCMD whose checks pass queue their commands and go on: an edit that arrives 32 bytes a tile, a slot
load that arrives 8,192 bytes, and one bank command for each channel with its block of eight arguments; a full queue holds
them back (R165, R188, R189, R232, R303). -/
def Sys2Proof.Claims.EditsLoadsAndBankCommandsAreQueued : Prop :=
  (∀ (s : State) (p : Pre) (a e b o : BitVec 7) (ds : Bool) (h1 h2 h3 : List Hit) (r : RangeEntry) (steps : List EditStep),
    let i := Instr.hedit p a e b o ds
    let u := s.countIssue i
    let off := (s.readS e.toNat).toNat % 2 ^ 20
    let x1 := [u.descSource a ds, u.descSource b ds]
    let u1 := u.paid (u.sourceAsk (u.imageBad off 32) x1) h1
    let b1 := u1.fetchedBytes x1 h1
    let src := sideOf (b1.getD 0 [])
    let u2 := u1.paid (u1.basesAsk [src]) h2
    let x3 := indexSource (src.shaped (some r)) (src.boxOf src.idim)
    let u3 := u2.paid (u2.sourceAsk (u2.sideBad (src.shaped (some r))) x3) h3
    s.Issues i → s.copiesAhead < 64 → s.NothingOut → s.sound → u.Passes (u.sourceAsk (u.imageBad off 32) x1) h1 →
    u1.Passes (u1.basesAsk [src]) h2 → heditFails (b1.getD 0 []) (u2.sideRange src) = none → u2.sideRange src = some r →
    editSteps (b1.getD 1 []) = some steps → wholeTiles src r (s.originOf o) = true → (∀ x ∈ steps, x.bad = false) →
    u2.Passes (u2.sourceAsk (u2.sideBad (src.shaped (some r))) x3) h3 →
    ∃ t, exec i s = .next t ∧ t.t.sregs = s.t.sregs ∧
      s.SendsCopy i t off o (32 * tileCount src r)
        (.hedit ((fillIndex [src.shaped (some r)] (u3.fetchedBytes x3 h3)).getD 0 src) steps)) ∧
  (∀ (s : State) (p : Pre) (k a e o : BitVec 7) (dfmt : BitVec 8) (ds tr scw : Bool) (h1 h2 h3 : List Hit) (n : Nat),
    let i := Instr.oload p k a e o dfmt ds tr scw
    let u := s.countIssue i
    let off := (s.readS e.toNat).toNat % 2 ^ 20
    let x1 := [u.descSource a ds]
    let u1 := u.paid (u.sourceAsk (u.imageBad off 32) x1) h1
    let b1 := u1.fetchedBytes x1 h1
    let src := sideOf (b1.getD 0 [])
    let u2 := u1.paid (u1.basesAsk [src]) h2
    let z := src.shaped (u2.sideRange src)
    let x3 := indexSource z (src.boxOf z.idim)
    let u3 := u2.paid (u2.sourceAsk (u2.sideBad z) x3) h3
    s.Issues i → s.copiesAhead < 64 → s.NothingOut → s.sound → u.Passes (u.sourceAsk (u.imageBad off 32) x1) h1 →
    u1.Passes (u1.basesAsk [src]) h2 → descFails false (b1.getD 0 []) (u2.sideRange src) = [] →
    s.g.boundTo k.toNat = some n → oloadBad src dfmt tr scw = false → u2.Passes (u2.sourceAsk (u2.sideBad z) x3) h3 →
    ∃ t, exec i s = .next t ∧ t.t.sregs = s.t.sregs ∧
      s.SendsCopy i t off o 8192
        (.oload ((fillIndex [z] (u3.fetchedBytes x3 h3)).getD 0 src) n dfmt tr scw (lowLane s.t.active))) ∧
  (∀ (i : Instr) (s : State),
    ((∃ p a e b o ds, i = .hedit p a e b o ds) ∨ ∃ p k a e o f ds tr scw, i = .oload p k a e o f ds tr scw) → s.Issues i →
    64 ≤ s.copiesAhead → exec i s = .next (s.HeldFor .copyQueue)) ∧
  ∀ (s : State) (p : Pre) (d a e b : BitVec 7) (h1 : List Hit),
    let i := Instr.bankcmd p d a e b
    let u := s.countIssue i
    let off := (s.readS e.toNat).toNat % 2 ^ 20
    let prog := s.readPair a.toNat
    s.Issues i →
    (channelSet (s.readS d.toNat) = none → exec i s = .next (s.trapHere (s.trapOf .illegalOperand))) ∧
    ∀ chs, channelSet (s.readS d.toNat) = some chs →
      ((∃ ch ∈ chs, 16 ≤ (s.banks.filter fun x => x.ch == ch).length) →
        ∃ ch ∈ chs, exec i s = .next (s.HeldFor (.bankQueue ch))) ∧
      let x1 : List Source := [⟨false, (s.readPair b.toNat).toNat, 64 * chs.length, 64⟩]
      let u1 := u.paid (u.sourceAsk (u.imageBad off 32) x1) h1
      let b1 := u1.fetchedBytes x1 h1
      ((∀ ch ∈ chs, (s.banks.filter fun x => x.ch == ch).length < 16) → s.NothingOut → s.sound → prog.toNat % 64 = 0 →
        (∃ q, s.part (s.vdev s.g.vd).part = some q ∧ ∀ ch ∈ chs, ch ∈ q.res.bankChannels) →
        u.Passes (u.sourceAsk (u.imageBad off 32) x1) h1 →
        ∃ t, exec i s = .next t ∧ s.Elsewhere { s.but t with banks := s.banks, nextId := s.nextId } ∧ s.SameBytes t ∧
          s.WentOn i t ∧ t.g = s.g ∧ Strand.Moved s.t t.t ∧
          ∃ l, t.banks = s.banks ++ l ∧ l.map (fun x => x.ch) = chs ∧
            ∀ j x, l[j]? = some x → x.id = s.nextId + j ∧ x.gang = s.g.id ∧ x.vd = s.g.vd ∧ x.block = s.g.block ∧
              x.barrier = off ∧ x.progAddr = prog ∧ x.started = false ∧ x.pos = 0 ∧
              x.args = (List.range 8).map fun k =>
                BitVec.ofNat 64 (leNat ((((b1.getD 0 []).drop (64 * j)).drop (8 * k)).take 8)))

/-- CWAIT goes on with Q3 clear once its barrier has left its parity, misses its promise when the promise is of another
placement epoch or its time has come (or lies more than 2^34 ticks ahead: the model's choice, log entry 92), and else waits;
CSTAT and CSTAT.idx read the barrier's status, and CSTAT.clr clears it as well (R177, R186, R187). -/
def Obligations.PromisesAndStatusAreRead : Prop :=
  (∀ (s : State) (p : Pre) (par : Bool) (d a : BitVec 7) (b : Block),
    let i := Instr.cwait p par d a
    let off := (s.readS a.toNat).toNat % 2 ^ 20
    let pr := (s.readPair d.toNat).toNat
    let missed := exec i s = .next (s.trapHere { s.trapOf .missedPromise with info := BitVec.ofNat 32 off })
    let first := s.t.waited = false
    let now := s.tickOf s.g.vd
    s.Issues i → s.NothingOut → s.g.dbgc.extractLsb' 0 8 = 0 → s.blockOf s.g.block = some b → off % 32 = 0 →
    off + 32 ≤ b.spadBytes →
    (first → pr / 2 ^ 60 ≠ (s.vdev s.g.vd).epoch % 16 → missed) ∧
    (¬ first ∨ pr / 2 ^ 60 = (s.vdev s.g.vd).epoch % 16 →
      (bxWord b off 2 % 2 ≠ (if par then 1 else 0) →
        ∃ t, exec i s = .next t ∧ s.OnlyBlock t ∧ t.blocks = s.blocks ∧ s.WentOn i t ∧ t.readQ 3 = false ∧
          ∀ m, m < 3 → t.readQ m = s.readQ m) ∧
      (bxWord b off 2 % 2 = (if par then 1 else 0) → pr % 2 ^ 60 ≤ now ∨ now + 2 ^ 34 < pr % 2 ^ 60 →
        missed) ∧
      (bxWord b off 2 % 2 = (if par then 1 else 0) → now < pr % 2 ^ 60 → pr % 2 ^ 60 ≤ now + 2 ^ 34 →
        ∃ t, exec i s = .next t ∧ s.WaitsAt t (.again s.cycle)))) ∧
  ∀ (i : Instr) (s : State) (p : Pre) (d a : BitVec 7) (b : Block),
    let off := (s.readS a.toNat).toNat % 2 ^ 20
    let index := smRead 0 b.scratch (off + 16) 8
    s.Issues i → s.NothingOut → s.g.dbgc.extractLsb' 0 8 = 0 → s.blockOf s.g.block = some b → off % 32 = 0 →
    off + 32 ≤ b.spadBytes → (i = .cstat p d a ∨ i = .cstatIdx p d a ∨ i = .cstatClr p d a) →
    ∃ t c, exec i s = .next t ∧ s.Elsewhere { t with blocks := s.blocks } ∧ (∀ k n, t.byteUnder k n = s.byteUnder k n) ∧
      t.g = s.g ∧ s.WentOn i t ∧ Strand.Moved { s.t with sregs := t.t.sregs, readBytes := t.t.readBytes } t.t ∧
      t.blockOf s.g.block = some c ∧ (∀ n, n ≠ s.g.block → t.blockOf n = s.blockOf n) ∧
      (i ≠ .cstatIdx p d a → p.t = false → t.readS d.toNat = BitVec.ofNat 32 (bxWord b off 3)) ∧
      (i = .cstatIdx p d a → t.readPair d.toNat = BitVec.ofNat 64 (leNat index)) ∧
      (∀ r, r ≠ d.toNat → (r = d.toNat + 1 → i ≠ .cstatIdx p d a) → smGet 0 t.t.sregs r = smGet 0 s.t.sregs r) ∧
      (i ≠ .cstatClr p d a → c = b) ∧
      (i = .cstatClr p d a → c = { b with scratch := c.scratch } ∧ bxWord c off 3 % 2 ^ 16 = 0 ∧
        smRead 0 c.scratch (off + 16) 8 = natBytes 8 0 ∧ bxWord c off 0 = bxWord b off 0 ∧
        bxWord c off 1 = bxWord b off 1 ∧ bxWord c off 2 = bxWord b off 2 % 16 ∧
        ∀ x, x < off ∨ off + 32 ≤ x → smGet 0 c.scratch x = smGet 0 b.scratch x)

/-- ICINV and ICINV.dev go on as releases and empty the loop buffers of the core, or of the device's cores, ISYNC goes on with
the later words of its clause fetched anew and out of its loop buffer; DMBW writes its
mailbox word, DMBW.post also counts OSEQ up and raises the device's debug interrupt, and DMBR reads a word or ISEQ (R142, R161,
R193, R269, R270). -/
def Obligations.CachesAndMailboxes : Prop :=
  (∀ (i : Instr) (s : State), (∃ p, i = .icinv p ∨ i = .icinvDev p) → s.Issues i → s.NothingOut →
    ∃ t, exec i s = .next t ∧ s.Elsewhere { t with loopBufs := s.loopBufs } ∧ s.SameBytes t ∧ s.WentOn i t ∧
      Strand.Moved s.t t.t ∧ t.g = { s.g with interval := s.raised } ∧
      ((∃ p, i = .icinv p) → t.loopBufs = s.loopBufs.filter fun e => !(e.1 / 8 == s.g.core)) ∧
      ((∃ p, i = .icinvDev p) → ∀ e ∈ t.loopBufs, e ∈ s.loopBufs ∧ e.1 / 8 ≠ s.g.core ∧
        (∀ q, s.part (s.vdev s.g.vd).part = some q → e.1 / 8 ∉ q.res.cores) ∧
        ∀ g ∈ s.gangs, g.vd = s.g.vd → e.1 / 8 ≠ g.core)) ∧
  (∀ (s : State) (p : Pre) (c : Clause) (ws : List Word), let i := Instr.isync p
    let past := s.t.wordIndex + 1
    s.Issues i → s.t.clause = some c →
    (s.countIssue i).fetchWords s.g.vd (s.t.pc + 4) (c.cnt - past) = .ok ws →
    ∃ t, exec i s = .next t ∧ s.Elsewhere t ∧ s.SameBytes t ∧ t.g = s.g ∧ Strand.Moved { s.t with pass := none } t.t ∧
      t.t.pc = s.t.pc + 4 ∧ t.t.wait = .none ∧
      t.t.clause = if s.t.pc + 4 = c.past then none else some { c with words := c.words.take past ++ ws }) ∧
  (∀ (i : Instr) (s : State) (n : BitVec 3) (a : BitVec 7) (post : Bool),
    ((∃ p, i = .dmbw p n a) ∧ post = false) ∨ ((∃ p, i = .dmbwPost p n a) ∧ post = true) → s.Issues i → s.NothingOut →
    ∃ t, exec i s = .next t ∧ s.Elsewhere { t with vdevs := s.vdevs } ∧ s.SameBytes t ∧ s.WentOn i t ∧
      Strand.Moved s.t t.t ∧ t.g = { s.g with interval := s.raised } ∧
      (∀ v, v ≠ s.g.vd → (t.vdev v).plain = (s.vdev v).plain) ∧
      let x := s.vdev s.g.vd
      let y := t.vdev s.g.vd
      y.quiet = x.quiet ∧ smGet 0 y.outw n.toNat = s.readS a.toNat ∧
        (∀ k, k ≠ n.toNat → smGet 0 y.outw k = smGet 0 x.outw k) ∧
        y.oseq = (if post then x.oseq + 1 else x.oseq) ∧
        ∀ k, smGet 0 y.intr k = if post = true ∧ k = x.dbgv.toNat then min 65535 (smGet 0 x.intr k + 1) else smGet 0 x.intr k) ∧
  ∀ (s : State) (p : Pre) (d n : BitVec 7), s.Issues (.dmbr p d n) → s.NothingOut →
    ∃ t, exec (.dmbr p d n) s = .next t ∧
      s.WritesS (.dmbr p d n) t p d (if n = 8 then (s.vdev s.g.vd).iseq else smGet 0 (s.vdev s.g.vd).inw n.toNat)

/-! ## Tile instructions -/

namespace Sys2Proof.Machine

/-- An address names a tile whose header and payload, with `scl` its scale plane, are reached, in a range with no race
attribute, within every budget and with no debug slot enabled; nothing is poisoned (R54, R59, R164, R171). -/
def State.TileReached (s : State) (va : Nat) (e : RangeEntry) (n : Nat) (read write scl : Bool) : Prop :=
  tileOf (s.lookAt va) va = some (e, n) ∧ e.rd = 0 ∧ s.sound ∧
    ∃ hits, s.Passes
      ⟨[], (s.tileSpan e n scl).map fun v => ⟨lowLane s.t.active, 0, v⟩, read, write, false, true, true, []⟩ hits

/-- A tile instruction has gone on and left one operation outstanding; of the gang its interval number and one lane's
rounding state may have changed, of the strand what it has read; memory reads as `m` does (R69, R100). -/
def State.TileStep (i : Instr) (s t m : State) (k : OpKind) (fs : Bool) : Prop :=
  s.WentOn i t ∧ (∀ key c, t.byteUnder key c = m.byteUnder key c) ∧ 
    t.blocks.map (fun b => b.scratch) = s.blocks.map (fun b => b.scratch) ∧
    t.g = { s.g with interval := t.g.interval, srstate := t.g.srstate } ∧ t.gangs = s.gangs ∧
    (∀ v, (t.vdev v).plain = (s.vdev v).plain) ∧
    Strand.Moved { s.t with
      issued := t.t.issued, readBytes := t.t.readBytes, wroteBytes := t.t.wroteBytes, seen := t.t.seen } t.t ∧
    ∃ o, t.ops = s.ops ++ [o] ∧ o.id = s.nextId ∧ o.gang = s.g.id ∧ o.flag = s.flagFor fs ∧ o.kind = k

/-- The trap of a header that fails its check names the tile (R57, R252). -/
def State.badHeader (s : State) (e : RangeEntry) (n : Nat) : Trap :=
  { s.trapOf .headerFormat with addr := BitVec.ofNat 64 (e.base + e.poff + e.ss * n) }

/-- The single-tile edits: the register that names the tile, the edit map, and the flag, order and scope fields (R62,
R174). -/
def editRow (s : State) : Instr → Option (BitVec 7 × Edit × Bool × BitVec 2 × BitVec 3)
  | .taff _ a x y fs ord scp => some (a, .affine (s.readS x.toNat) (s.readS y.toNat) 0xFF800000#32 0x7F800000#32, fs, ord, scp)
  | .tscale _ a x fs ord scp => some (a, .affine (s.readS x.toNat) 0 0xFF800000#32 0x7F800000#32, fs, ord, scp)
  | .toffs _ a x fs ord scp => some (a, .affine 0x3F800000#32 (s.readS x.toNat) 0xFF800000#32 0x7F800000#32, fs, ord, scp)
  | .tclamp _ a x y fs ord scp => some (a, .affine 0x3F800000#32 0 (s.readS x.toNat) (s.readS y.toNat), fs, ord, scp)
  | .tfill _ a x fs ord scp => some (a, .fill (s.readS x.toNat), fs, ord, scp)
  | .tperm _ a c fs ord scp => some (a, .perm c.toNat, fs, ord, scp)
  | _ => none

end Sys2Proof.Machine

/-- TLD reads a tile's view in a format and leaves its image to be written to the scratchpad, THQ leaves the eight words of
its header to be written to S registers; a header that fails its check raises header-format at the tile (R57, R60, R69,
R172, R173). -/
def Obligations.TilesAreRead : Prop :=
  (∀ (s : State) (p : Pre) (d a : BitVec 7) (fmt : BitVec 8) (mode : BitVec 3) (sat fs : Bool) (ord : BitVec 2) (scp : BitVec 3)
    (f : Fmt) (c : CvtMode) (e : RangeEntry) (n : Nat),
    let i := Instr.tld p d a fmt mode sat fs ord scp
    let va := (s.readPair a.toNat).toNat
    let off := (s.readS d.toNat).toNat % 2 ^ 20
    let size := 2 ^ (e.lrows + e.lcols) * f.width / 8
    let h := s.tileHeader e n
    s.Issues i → scp.toNat ≤ 4 → fmtOf fmt = some f → cvtMode s.t.cvmr f mode sat = some c → s.NothingOut →
    (s.countIssue i).TileReached va e n true false (hScl h) → off % 32 = 0 → off + size ≤ s.spadSize →
    (headerBad e h = true → exec i s = .next (s.trapHere (s.badHeader e n))) ∧
    let r := c.runs f (s.tileView e n h).flatten (s.g.readSr (lowLane s.t.active))
    (headerBad e h = false → (c.trp = false ∨ ∀ x ∈ r.1, x.2 = 0) →
      let bs := packElems f.width (r.1.map fun x => x.1)
      ∃ t, exec i s = .next t ∧ s.TileStep i t s (.tile [] [] ((spadAt off bs.length).zip bs)) fs ∧
        t.g.readSr (lowLane s.t.active) = r.2)) ∧
  ∀ (s : State) (p : Pre) (d a : BitVec 7) (fs : Bool) (ord : BitVec 2) (scp : BitVec 3) (e : RangeEntry) (n : Nat),
    let i := Instr.thq p d a fs ord scp
    let h := s.tileHeader e n
    s.Issues i → scp.toNat ≤ 4 → s.NothingOut → (s.countIssue i).TileReached (s.readPair a.toNat).toNat e n true false (hScl h) →
    (headerBad e h = true → exec i s = .next (s.trapHere (s.badHeader e n))) ∧
    (headerBad e h = false → ∃ t, exec i s = .next t ∧
      s.TileStep i t s (.tile [] ((List.range 8).map fun k => (d.toNat + k, BitVec.ofNat 32 (h / 2 ^ (32 * k)))) []) fs)

/-- TST writes a scratchpad image, with SCLW and its scale bytes, as a whole tile, TMAT materialises its tile and the single-tile edits compose their map
with the tile's; operands that an edit refuses raise illegal-operand, a header that fails its check header-format (R57,
R63, R65, R67, R68, R172-R174). -/
def Obligations.TilesAreRewritten : Prop :=
  (∀ (s : State) (p : Pre) (d a : BitVec 7) (fmt : BitVec 8) (sclw fs : Bool) (ord : BitVec 2) (scp : BitVec 3) (f : Fmt)
    (e : RangeEntry) (n : Nat),
    let i := Instr.tst p d a fmt sclw fs ord scp
    let off := (s.readS d.toNat).toNat % 2 ^ 20
    let size := 2 ^ (e.lrows + e.lcols) * f.width / 8
    let scales := if sclw then e.planeBytes else 0
    s.Issues i → scp.toNat ≤ 4 → fmtOf fmt = some f → s.NothingOut →
    (s.countIssue i).TileReached (s.readPair a.toNat).toNat e n sclw true sclw → off % 32 = 0 →
    off + size + scales ≤ s.spadSize →
    let bad := e.ew < f.width ∨ (sclw = true ∧ f.isFamily = false)
    let unsound := sclw = true ∧ headerBad e (s.tileHeader e n) = true
    (bad → exec i s = .next (s.trapHere (s.trapOf .illegalOperand))) ∧
    (¬ bad → unsound → exec i s = .next (s.trapHere (s.badHeader e n))) ∧
    (¬ bad → ¬ unsound → ∃ t, exec i s = .next t ∧
      s.TileStep i t
        (s.wholeTile e n fmt (s.spadRead off size) (if sclw then some (s.spadRead (off + size) scales) else none))
        (.tile [] [] []) fs)) ∧
  (∀ (s : State) (p : Pre) (a : BitVec 7) (fs : Bool) (ord : BitVec 2) (scp : BitVec 3) (e : RangeEntry) (n : Nat),
    let i := Instr.tmat p a fs ord scp
    let h := s.tileHeader e n
    s.Issues i → scp.toNat ≤ 4 → s.NothingOut → (s.countIssue i).TileReached (s.readPair a.toNat).toNat e n true true (hScl h) →
    (headerBad e h = true → exec i s = .next (s.trapHere (s.badHeader e n))) ∧
    (headerBad e h = false → ∃ t, exec i s = .next t ∧
      s.TileStep i t (s.materialise e n (BitVec.ofNat 8 h)) (.tile [] [] []) fs)) ∧
  ∀ (i : Instr) (s : State) (a : BitVec 7) (ed : Edit) (fs : Bool) (ord : BitVec 2) (scp : BitVec 3) (e : RangeEntry) (n : Nat),
    editRow s i = some (a, ed, fs, ord, scp) → s.Issues i →
    (ed.bad true = true → exec i s = .next (s.trapHere (s.trapOf .illegalOperand))) ∧
    (scp.toNat ≤ 4 → s.NothingOut →
      (s.countIssue i).TileReached (s.readPair a.toNat).toNat e n true true (hScl (s.tileHeader e n)) →
      ed.bad (e.lrows == e.lcols) = true → exec i s = .next (s.trapHere (s.trapOf .illegalOperand))) ∧
    (ed.bad (e.lrows == e.lcols) = false → scp.toNat ≤ 4 → s.NothingOut →
      (s.countIssue i).TileReached (s.readPair a.toNat).toNat e n true true (hScl (s.tileHeader e n)) →
      (headerBad e (s.tileHeader e n) = true → exec i s = .next (s.trapHere (s.badHeader e n))) ∧
      (headerBad e (s.tileHeader e n) = false →
        ∃ t, exec i s = .next t ∧ s.TileStep i t (s.editTile e n ed) (.tile [] [] []) fs))

/-! ## Slots and the matrix queue -/

namespace Sys2Proof.Machine

/-- The slots of a core that nothing holds (R228). -/
def State.slotFree (s : State) (n : Nat) : Prop := n < 32 ∧ ∀ x ∈ s.slots, ¬ (x.core = s.g.core ∧ x.num = n)

/-- The matrix operations without operand checks of their own: flag field and whether the form is `.whole` (R237,
R243-R245). -/
def matrixRow : Instr → Option (Bool × Bool)
  | .accz _ _ fs w => some (fs, w)
  | .accrd _ _ _ fs _ _ w => some (fs, w)
  | .accwr _ _ _ fs _ _ w => some (fs, w)
  | .btcnt _ _ _ fs w => some (fs, w)
  | .btcolc _ _ _ fs w => some (fs, w)
  | .btfirst _ _ _ fs w => some (fs, w)
  | .btrowRd _ _ _ fs w => some (fs, w)
  | .btrowWr _ _ _ fs w => some (fs, w)
  | .btand _ _ _ _ fs => some (fs, false)
  | .btor _ _ _ _ fs => some (fs, false)
  | .btxor _ _ _ _ fs => some (fs, false)
  | .btnot _ _ _ fs => some (fs, false)
  | .btt _ _ _ fs => some (fs, false)
  | .btcomp _ _ _ _ fs => some (fs, false)
  | .btclos _ _ _ _ fs => some (fs, false)
  | .bteye _ _ fs => some (fs, false)
  | _ => none

/-- An instruction has gone on and put itself into its device's matrix queue, with its V sources as they are now (R229). -/
def State.QueuesMatrix (i : Instr) (s t : State) (fs : Bool) (acq : Option Nat) (rel : List Carry) (addr : Addr)
    (refs : List ByteRef) (raises : Bool) : Prop :=
  s.Elsewhere { s.but t with mops := s.mops, nextId := s.nextId, slots := s.slots } ∧ s.SameBytes t ∧ s.WentOn i t ∧
    t.g = (if raises then { s.g with interval := s.raised } else s.g) ∧
    Strand.Moved { s.t with
      issued := t.t.issued, readBytes := t.t.readBytes, wroteBytes := t.t.wroteBytes, readUnits := t.t.readUnits } t.t ∧
    ∃ m, t.mops = s.mops ++ [m] ∧ m.id = s.nextId ∧ m.instr = i ∧ m.core = s.g.core ∧ m.vd = s.g.vd ∧ m.gang = s.g.id ∧
      m.mask = s.t.active ∧ m.cvmr = s.t.cvmr ∧ m.flag = s.flagFor fs ∧ m.before = s.t.issued ∧ m.started = false ∧
      m.word = s.t.pc ∧ m.acq = acq ∧ m.rel = rel ∧ m.ssrc = addr ∧ m.refs = refs ∧
      ∀ n k j l, Reg.v n k ∈ i.reads → j < k → l ∈ lanesOf s.t.active → l < 64 →
        smGet 0 m.vsrc (64 * (n + j) + l) = s.readV (n + j) l

/-- The number of operations in the matrix queue of the strand's device on its core. -/
def State.matrixAhead (s : State) : Nat := (s.mops.filter fun m => m.core == s.g.core && m.vd == s.g.vd).length

end Sys2Proof.Machine

/-- OCLAIM binds its handle to the lowest free slot, its data 0, scale bytes 127 and tag 0xFF, and sets its Q, or clears Q
when none is free; ORELEASE gives the slot up once nothing uses it and is held back before; a handle already bound, or bound to
nothing, raises; OQRY reads the slot's status (R227, R228, R303). -/
def Obligations.SlotsAreClaimedAndReleased : Prop :=
  (∀ (s : State) (p : Pre) (q : BitVec 2) (k : BitVec 7), let i := Instr.oclaim p q k
    s.Issues i →
    (s.g.boundTo k.toNat ≠ none → exec i s = .next (s.trapHere (s.trapOf .illegalState))) ∧
    (s.g.boundTo k.toNat = none → (∀ n, ¬ s.slotFree n) → ∃ t, exec i s = .next t ∧ s.WritesQ i t q false) ∧
    ∀ n, s.g.boundTo k.toNat = none → s.slotFree n → (∀ m, m < n → ¬ s.slotFree m) →
      ∃ t x, exec i s = .next t ∧ s.Elsewhere { t with slots := s.slots } ∧ s.SameBytes t ∧ s.WentOn i t ∧
        Strand.Moved { s.t with qregs := t.t.qregs } t.t ∧ t.g = { s.g with handles := t.g.handles } ∧
        t.g.boundTo k.toNat = some n ∧ (∀ j, j ≠ k.toNat → t.g.boundTo j = s.g.boundTo j) ∧ t.readQ q.toNat = true ∧
        (∀ m, m < 4 → m ≠ q.toNat → t.readQ m = s.readQ m) ∧ t.slots = s.slots ++ [x] ∧ x.core = s.g.core ∧ x.num = n ∧
        x.gang = s.g.id ∧ x.ftag = 0xFF ∧ x.sval = false ∧ (∀ c, smGet 0 x.data c = 0) ∧ ∀ c, smGet 127 x.scales c = 127) ∧
  (∀ (s : State) (p : Pre) (k : BitVec 7) (n : Nat), let i := Instr.orelease p k
    s.Issues i → s.g.boundTo k.toNat = some n →
    (s.slotBusy s.g.core n = true → exec i s = .next (s.HeldFor (.slot n))) ∧
    (s.slotBusy s.g.core n = false →
      ∃ t, exec i s = .next t ∧ s.Elsewhere { t with slots := s.slots } ∧ s.SameBytes t ∧ s.WentOn i t ∧
        Strand.Moved s.t t.t ∧ t.g = { s.g with handles := t.g.handles } ∧ t.g.boundTo k.toNat = none ∧
        (∀ j, j ≠ k.toNat → t.g.boundTo j = s.g.boundTo j) ∧
        t.slots = s.slots.filter fun x => !(x.core == s.g.core && x.num == n))) ∧
  ∀ (s : State) (p : Pre) (d k : BitVec 7), let i := Instr.oqry p d k
    s.Issues i →
    let free := 2 ^ 16 * ((List.range 32).filter fun n => !(s.slots.any fun x => x.core == s.g.core && x.num == n)).length
    ∃ t, exec i s = .next t ∧ s.WritesS i t p d
      (match s.g.boundTo k.toNat, s.slotAt s.g k.toNat with
      | some n, some x => BitVec.ofNat 32 (x.ftag.toNat + (if x.sval then 256 else 0) + 512 +
          (if s.slotBusy s.g.core n then 1024 else 0) + 2048 * n + free)
      | _, _ => BitVec.ofNat 32 (255 + free))

/-- Each matrix operation enters its device's matrix queue with its V sources, the lanes and the conversion modes as they
are, and the strand goes on; a full queue holds it back; an OFILL format, an OCMP format or MMA operands that the
rules exclude raise illegal-operand (R229, R231, R234-R237, R239, R243-R245). -/
def Obligations.MatrixOperationsAreQueued : Prop :=
  (∀ (i : Instr) (s : State) (fs w : Bool), matrixRow i = some (fs, w) → s.Issues i →
    (32 ≤ s.matrixAhead → exec i s = .next (s.HeldFor .matrixQueue)) ∧
    (s.matrixAhead < 32 → (w = true → s.isWhole = true) →
      ∃ t, exec i s = .next t ∧ t.slots = s.slots ∧ s.QueuesMatrix i t fs none [] 0 [] false)) ∧
  (∀ (s : State) (p : Pre) (k a : BitVec 7) (fmt : BitVec 8) (fs : Bool) (row : BitVec 6) (woff : BitVec 5) (nreg : BitVec 6)
    (sc w : Bool), let i := Instr.ofill p k a fmt fs row woff nreg sc w
    s.Issues i → s.matrixAhead < 32 → (w = true → s.isWhole = true) →
    (fmtOf fmt = none → exec i s = .next (s.trapHere (s.trapOf .illegalOperand))) ∧
    (fmtOf fmt ≠ none → ∃ t, exec i s = .next t ∧ s.QueuesMatrix i t fs none [] 0 [] false ∧
      t.slots.map (fun x => (x.core, x.num, x.gang, x.data, x.scales, x.ftag, x.sval)) =
        s.slots.map fun x => (x.core, x.num, x.gang, x.data, x.scales, x.ftag, x.sval))) ∧
  (∀ (i : Instr) (s : State) (a b : BitVec 7) (fs : Bool) (pi : BitVec 7) (w scaled : Bool),
    ((∃ p d arow, i = .mma p d a b fs pi arow w) ∧ scaled = false) ∨ ((∃ p d arow, i = .mmas p d a b fs pi arow w) ∧ scaled = true) →
    s.Issues i → s.matrixAhead < 32 → (w = true → s.isWhole = true) →
    (s.mmaBad a b pi scaled = true → exec i s = .next (s.trapHere (s.trapOf .illegalOperand))) ∧
    (s.mmaBad a b pi scaled = false →
      ∃ t, exec i s = .next t ∧ t.slots = s.slots ∧ s.QueuesMatrix i t fs none [] 0 [] false)) ∧
  ∀ (s : State) (p : Pre) (d a b : BitVec 7) (bk fs : Bool) (cc : Cc) (tie tot : Bool) (fmt : BitVec 8) (seg : BitVec 5) (w : Bool),
    let i := Instr.ocmp p d a b bk fs cc tie tot fmt seg w
    let int := fmt = 0x08 ∨ fmt = 0x0C
    let bad := (fmt ≠ 0 ∧ ¬ int) ∨ (int ∧ (tot = true ∨ cc = .un))
    s.Issues i → s.matrixAhead < 32 → (w = true → s.isWhole = true) →
    (bad → exec i s = .next (s.trapHere (s.trapOf .illegalOperand))) ∧
    (¬ bad → ∃ t, exec i s = .next t ∧ t.slots = s.slots ∧ s.QueuesMatrix i t fs none [] 0 [] false)

/-- BTLD, BTST and ACCST enter the matrix queue with the address and the bytes of their image or tile once those are
reached; a store carries its release, which raises the gang's interval number (R229, R230, R238, R246, R286, R299). -/
def Sys2Proof.Claims.MatrixMemoryOperationsAreQueued : Prop :=
  (∀ (i : Instr) (s : State) (a : BitVec 7) (fs sp load : Bool) (ord : BitVec 2) (scp : BitVec 3) (hits : List Hit),
    ((∃ p d, i = .btld p d a fs sp ord scp) ∧ load = true) ∨ ((∃ p d, i = .btst p d a fs sp ord scp) ∧ load = false) →
    let va := (s.readPair a.toNat).toNat
    let off := (s.readS a.toNat).toNat % 2 ^ 20
    let queued := fun (scope : Nat) (addr : Nat) (refs : List ByteRef) => ∃ t, exec i s = .next t ∧ t.slots = s.slots ∧
      s.QueuesMatrix i t fs (if load = true ∧ acquires ord = true then some scope else none)
        (if load then [] else s.lends ord scope) (BitVec.ofNat 64 addr) refs (!load && releases ord)
    s.Issues i → s.matrixAhead < 32 → scp.toNat ≤ 4 →
    (sp = false → goodAddr va 64 → (s.countIssue i).Reaches load (!load) (laneBytes (lowLane s.t.active) va 512) hits →
      queued scp.toNat va (hits.map fun h => h.ref)) ∧
    (sp = true → off % 64 = 0 → off + 512 ≤ s.spadSize → s.g.dbgc.extractLsb' 0 8 = 0 →
      queued (min scp.toNat 1) off (spadAt off 512))) ∧
  ∀ (s : State) (p : Pre) (d a : BitVec 7) (fmt : BitVec 8) (fs : Bool) (col : BitVec 6) (mode : BitVec 3) (sat scw : Bool)
    (row : BitVec 6) (ord : BitVec 2) (scp : BitVec 3) (e : RangeEntry) (n : Nat),
    let i := Instr.accst p d a fmt fs col mode sat scw row ord scp
    let va := (s.readPair a.toNat).toNat
    s.Issues i → s.matrixAhead < 32 → scp.toNat ≤ 4 → (s.countIssue i).TileReached va e n scw true scw →
    (s.accstBad fmt col row mode scw sat (some (e, n)) = true → exec i s = .next (s.trapHere (s.trapOf .illegalOperand))) ∧
    (s.accstBad fmt col row mode scw sat (some (e, n)) = false →
      ∃ t, exec i s = .next t ∧ t.slots = s.slots ∧
        s.QueuesMatrix i t fs none (s.lends ord scp.toNat) (BitVec.ofNat 64 va) (s.spanRefs e n scw) (releases ord))

/-! ## Traps -/

namespace Sys2Proof.Machine

/-- The causes whose default action is not to stop the gang (R252). -/
def Cause.goesOn (c : Cause) : Prop :=
  c = .missedPromise ∨ c = .breakpoint ∨ c = .watchpoint ∨ c = .singleStep ∨ c = .cancel

/-- No gang but the focused one has its number, and no sibling has the strand's table entry. -/
def State.Alone (s : State) : Prop :=
  s.focused = true ∧ (∀ h ∈ s.gangs, h.id ≠ s.g.id) ∧ ∀ u ∈ s.g.strands, u.idx ≠ s.t.idx

/-- The focused gang has been stopped: none of its lanes is left, and while it has something outstanding it holds the record
that its end appends to the trap log; with nothing outstanding it is gone (R251). -/
def State.Stopped (s t : State) (c : Cause) (dbl : Bool) (tr : Trap) : Prop :=
  t.focused = false ∧ (s.outstanding s.g.id = false → ∀ h ∈ t.gangs, h.id ≠ s.g.id) ∧
    (s.outstanding s.g.id = true → ∃ h ∈ t.gangs, h.id = s.g.id ∧ h.strands = [] ∧ h.killed = true ∧
      ∃ bs, h.stopRec = some bs ∧ bs.length = 32 ∧ leNat (bs.take 4) = c.code + (if dbl then 256 else 0) ∧
        leNat ((bs.drop 12).take 4) = tr.info.toNat ∧ leNat ((bs.drop 16).take 8) = s.t.pc.toNat ∧
        leNat ((bs.drop 24).take 8) = tr.addr.toNat)

/-- A handler register by number, a 32-bit one zero-extended (R248). -/
def handlerValue (s : State) (n : Nat) : Addr :=
  match n with
  | 0 => BitVec.ofNat 64 s.t.tcause.toNat
  | 1 => s.t.tepc
  | 2 => s.t.tmask
  | 3 => s.t.taddr
  | 4 => BitVec.ofNat 64 s.t.tinfo.toNat
  | 5 => s.t.tclh
  | 6 => s.t.trwpc
  | 7 => s.t.trcp
  | 8 => s.g.tvec
  | 9 => BitVec.ofNat 64 s.g.dbgc.toNat
  | n => smGet 0 s.g.dbga (n - 10)

/-- Registers whose handler width is 64 bits: all but TCAUSE, TINFO and DBGC (R248). -/
def wideHandler (n : Nat) : Bool := n != 0 && n != 4 && n != 9

end Sys2Proof.Machine

/-- An instruction that writes a handler's register outside the handler, or names an extended block that its gang does not
hold, raises illegal-state; one that names an unbound slot handle raises illegal-operand; one that reads an expired transient
raises illegal-state with the register's number, and the register reads as zero from then on (R105, R108, R109, R227,
R231). -/
def Sys2Proof.Claims.RegisterFieldsAreChecked : Prop :=
  ∀ (i : Instr) (s : State), i.stream = .strand → s.focused = true →
    let named := i.reads ++ i.writes
    let own := s.t.handler = false ∧ ∃ r ∈ i.writes, handlerReg r = true
    let lacks := ∃ r ∈ named, s.g.lacks r = true
    let unbound := ∃ r ∈ named, s.g.unbound r = true
    (own ∨ lacks → exec i s = .next (s.trapHere (s.trapOf .illegalState))) ∧
    (¬ own → ¬ lacks → unbound → exec i s = .next (s.trapHere (s.trapOf .illegalOperand))) ∧
    (¬ own → ¬ lacks → ¬ unbound → ∀ n, expiredRead s.t i = some n →
      exec i s = .next
        (({ s with t := { s.t with trans := s.t.trans.map fun (x : Trans) => if x.reg = n then { x with kind := .zero } else x } }).trapHere
          { s.trapOf .illegalState with info := BitVec.ofNat 32 (if n < 128 then n else n - 128) }))

/-- Taking a trap outside a handler loads the trap registers, keeps the clause for the return, expires the live transients and
enters the handler at its vector-table entry; every register, predicate, mode and the join stack stay as they were (R105,
R248-R250, R252). -/
def Sys2Proof.Claims.TrapsEnterTheirHandler : Prop :=
  ∀ (s : State) (tr : Trap) (bs : List Byte), s.focused = true → s.t.handler = false → s.g.tvec ≠ 0 →
    tr.cause ≠ .missedPromise →
    s.vaRead s.g.vd ((s.g.tvec.toNat + 8 * tr.cause.code) % 2 ^ 64) 8 = .ok bs →
    leNat bs ≠ 0 → leNat bs % 4 = 0 → leNat bs < 2 ^ 64 →
    let t := s.trapHere tr
    t.focused = true ∧ t.t.handler = true ∧ t.t.pc = BitVec.ofNat 64 (leNat bs) ∧ t.t.clause = none ∧ t.t.wait = .none ∧
      t.t.tcause = BitVec.ofNat 32 tr.cause.code ∧ t.t.tepc = s.t.pc ∧ t.t.tclh = s.t.header ∧ t.t.tmask = tr.mask ∧
      t.t.taddr = tr.addr ∧ t.t.tinfo = tr.info ∧ t.t.held = s.t.clause ∧ (∀ x ∈ t.t.trans, x.kind ≠ .live) ∧
      t.t.active = s.t.active ∧ t.t.joins = s.t.joins ∧ t.t.sregs = s.t.sregs ∧ t.t.qregs = s.t.qregs ∧
      t.t.fmtr = s.t.fmtr ∧ t.t.cvmr = s.t.cvmr ∧ t.t.dsw = s.t.dsw ∧ t.t.trwpc = s.t.trwpc ∧ t.t.trcp = s.t.trcp ∧
      t.g = { s.g with strands := t.g.strands } ∧
      t.g.strands.map (fun u => { u with haltedBy := none }) = s.g.strands.map (fun u => { u with haltedBy := none }) ∧
      t = { s with t := t.t, g := t.g }

/-- A trap inside a handler stops the gang as a double trap, and a cause with no handler stops it unless its default action
is to go on; a cancel inside a handler stays owed, and a missed promise sets Q3 and goes on (R251-R253). -/
def Sys2Proof.Claims.TrapsWithoutAHandler : Prop :=
  ∀ (s : State) (tr : Trap), s.Alone →
    (s.t.handler = true → tr.cause ≠ .cancel → tr.cause ≠ .missedPromise →
      s.Stopped (s.trapHere tr) tr.cause true tr) ∧
    (s.t.handler = false → s.g.tvec = 0 → ¬ tr.cause.goesOn → s.Stopped (s.trapHere tr) tr.cause false tr) ∧
    (s.t.handler = true → tr.cause = .cancel →
      let t := s.trapHere tr
      t.t.cancelOwed = true ∧ t.t.pc = s.t.pc ∧ t.t.handler = true ∧ t.g = s.g) ∧
    (tr.cause = .missedPromise → s.t.handler = true ∨ s.g.tvec = 0 →
      let t := s.trapHere tr
      t.focused = true ∧ t.readQ 3 = true ∧ t.t.pc = s.t.pc + 4 ∧ t.t.wait = .none ∧ t.t.handler = s.t.handler ∧
        t.t.sregs = s.t.sregs)

/-- TRAP raises software with its code, DBGBRK breakpoint with bit 31 and its code, an extension word emulation and a word
that is no instruction illegal-encoding, each precise at its word (R111, R112, R114, R252, R255, R269). -/
def Sys2Proof.Claims.WordsThatRaiseTheirTrap : Prop :=
  (∀ (s : State) (p : Pre) (code : BitVec 14), s.Issues (.trap p code) →
    exec (.trap p code) s = .next (s.trapHere { s.trapOf .software with info := BitVec.ofNat 32 code.toNat })) ∧
  (∀ (s : State) (p : Pre) (code : BitVec 14), s.Issues (.dbgbrk p code) →
    exec (.dbgbrk p code) s = .next
      (s.trapHere ⟨.breakpoint, s.t.active, s.t.pc, BitVec.ofNat 32 (2 ^ 31 + code.toNat)⟩)) ∧
  (∀ (s : State) (w : Word), s.focused = true →
    exec (.extensionOneWord w) s = .next (s.trapHere ⟨.emulation, s.t.active, 0, w⟩) ∧
    exec (.illegalEncoding w) s = .next (s.trapHere ⟨.illegalEncoding, s.t.active, 0, w⟩)) ∧
  ∀ (s : State) (w x : Word), s.focused = true →
    exec (.extensionLong w x) s = .next (s.trapHere ⟨.emulation, s.t.active, 0, w⟩)

/-- A strand at a clause boundary that owes nothing enters the clause of its header once the header and its words pass
their checks, its role admits the class, its WAIT is met, no breakpoint matches and a permit is free; it stands at the first
word. The words are those of memory or of the loop buffer that it runs from. Otherwise illegal-encoding or illegal-role is
raised at the header, a breakpoint stops the strand there, or the strand stays; an exhausted budget defers the fetch (R41,
R95-R97, R99, R101, R142, R265, R308, R351). -/
def Sys2Proof.Claims.HeadersBeginClauses : Prop :=
  ∀ (s : State) (w : Word) (ws : List Word), s.focused = true → s.boundary = none →
    let i := Instr.clauseHeader w
    let cnt := (w.extractLsb' 28 4).toNat
    (∀ tick, s.fetchHeld cnt = some tick →
      ∃ t, exec i s = .next t ∧ t.t = { s.t with wait := .hold (.budget tick) } ∧ t.g = s.g ∧ s.SameBytes t) ∧
    (s.fetchHeld cnt = none → hdrBad w = true →
      exec i s = .next (s.trapBoundary ⟨.illegalEncoding, s.t.active, 0, w⟩ false)) ∧
    (s.fetchHeld cnt = none → hdrBad w = false → s.codeAt (s.t.pc + 4) cnt = .ok ws →
      (wordsBad (eclOf w) ws = true → exec i s = .next (s.trapBoundary ⟨.illegalEncoding, s.t.active, 0, w⟩ false)) ∧
      (wordsBad (eclOf w) ws = false → s.t.handler = false → roleAdmits s.g.role (eclOf w) = false →
        exec i s = .next (s.trapBoundary ⟨.illegalRole, s.t.active, 0, w⟩ false)) ∧
      (wordsBad (eclOf w) ws = false → (s.t.handler = true ∨ roleAdmits s.g.role (eclOf w) = true) →
        (s.waitMet s.g.id w = false → exec i s = .next s) ∧
        (s.waitMet s.g.id w = true → (memClass w ws = true → s.permitFree = true) → s.t.entered = false →
          ∀ n, s.execSlot s.t.pc = some n →
            exec i s = .next (s.debugStop ⟨.breakpoint, s.t.active, s.t.pc, BitVec.ofNat 32 n⟩)) ∧
        (s.waitMet s.g.id w = true → (s.t.entered = true ∨ s.execSlot s.t.pc = none) →
          (memClass w ws = true → s.permitFree = true) → s.preempting s.g.block = false → s.sound →
          ∃ t, exec i s = .next t ∧ t.t.clause = some ⟨s.t.pc, w, ws⟩ ∧ t.t.pc = s.t.pc + 4 ∧
            t.t.active = s.t.active ∧ t.t.joins = s.t.joins ∧ t.t.sregs = s.t.sregs ∧ t.t.qregs = s.t.qregs ∧
            t.t.fmtr = s.t.fmtr ∧ t.t.cvmr = s.t.cvmr ∧ t.t.handler = s.t.handler ∧
            t.t.trwpc = (if w.getLsbD 4 && !s.t.handler && !s.t.entered then s.t.pc else s.t.trwpc) ∧
            t.g = { s.g with permit := t.g.permit, throttled := t.g.throttled } ∧ s.SameBytes t)))

/-- TRET outside a handler raises illegal-state; inside one it leaves the handler and goes on at TEPC, inside the held clause
when TEPC lies in it and else at a header there; TRET.ign ignores the next breakpoint or watchpoint, and TRET.kill removes
the lanes of TMASK (R248, R257, R268). -/
def Obligations.TrapsReturn : Prop :=
  ∀ (i : Instr) (s : State) (kill ign : Bool),
    ((∃ p, i = .tret p) ∧ kill = false ∧ ign = false) ∨ ((∃ p, i = .tretKill p) ∧ kill = true ∧ ign = false) ∨
      ((∃ p, i = .tretIgn p) ∧ kill = false ∧ ign = true) →
    let gone := if kill then s.t.tmask &&& s.t.active else 0
    let back := fun (t : State) => t.t.handler = false ∧ t.t.pc = s.t.tepc ∧ t.t.wait = .none ∧ t.t.held = none ∧
      t.t.ignNext = ign ∧ t.t.sregs = s.t.sregs ∧ t.t.qregs = s.t.qregs ∧ t.t.fmtr = s.t.fmtr ∧ t.t.cvmr = s.t.cvmr ∧
      (∀ c k, s.t.resumePlace = some (c, k) → t.t.clause = some c) ∧ (s.t.resumePlace = none → t.t.clause = none)
    s.Issues i →
    (s.t.handler = false → exec i s = .next (s.trapHere (s.trapOf .illegalState))) ∧
    (s.t.handler = true → (∀ c k, s.t.resumePlace = some (c, k) → extensionAt false c.words k = false) →
      (gone = 0 → ∃ t, exec i s = .next t ∧ t.focused = true ∧ back t ∧ t.t.active = s.t.active ∧ t.t.joins = s.t.joins ∧
        s.Elsewhere t ∧ s.SameBytes t ∧
        t.g = { s.g with strands := s.g.strands.map fun u => if u.haltedBy = some s.t.idx then { u with haltedBy := none } else u }) ∧
      (gone ≠ 0 → gone = s.t.active → s.Alone →
        ∃ t, exec i s = .next t ∧ t.focused = false ∧
          (∀ h ∈ t.gangs, h.id = s.g.id →
            h.exited = s.g.exited ||| (gone &&& s.g.lanes) ∧ ∀ u ∈ h.strands, u.idx ≠ s.t.idx ∧ u.active &&& gone = 0) ∧
          (s.g.strands = [] → s.outstanding s.g.id = false → ∀ h ∈ t.gangs, h.id ≠ s.g.id)) ∧
      (gone ≠ 0 → gone ≠ s.t.active → s.Alone →
        ∃ t, exec i s = .next t ∧ t.focused = true ∧ back t ∧ t.t.active = s.t.active &&& ~~~gone ∧ t.g.id = s.g.id ∧
          t.g.exited = s.g.exited ||| (gone &&& s.g.lanes) ∧ t.g.vregs = s.g.vregs ∧ t.g.pregs = s.g.pregs))

/-- TRD reads each handler register; TWR writes those that may be written, leaves the read-only ones as they are, and
raises illegal-state on TEPC, TMASK, TADDR and TINFO outside a handler; FLASH sets the recipe pointer, misaligned unless a
multiple of 64, and FLASH.none clears it, and no other word of their major is an instruction; that TEPC takes no low two bits
is the model's reading (R5, R248, R256, R260, R264; log entry 105). -/
def Sys2Proof.Claims.HandlerRegistersAreReadAndWritten : Prop :=
  (∀ (s : State) (p : Pre) (d r : BitVec 7), s.Issues (.trd p d r) →
    ∃ t, exec (.trd p d r) s = .next t ∧
      (wideHandler r.toNat = true → s.WritesPair (.trd p d r) t d (handlerValue s r.toNat)) ∧
      (wideHandler r.toNat = false → s.WritesS (.trd p d r) t p d (BitVec.ofNat 32 (handlerValue s r.toNat).toNat))) ∧
  (∀ (s : State) (p : Pre) (r a : BitVec 7), let i := Instr.twr p r a
    let v := if wideHandler r.toNat then s.readPair a.toNat else BitVec.ofNat 64 (s.readS a.toNat).toNat
    let w := BitVec.ofNat 32 v.toNat
    let n := r.toNat
    let inHandler := n = 1 ∨ n = 2 ∨ n = 3 ∨ n = 4
    let badDbgc := ∃ k, k < 4 ∧ w.getLsbD (8 + k) = true ∧ w.toNat / 4 ^ k % 4 = 1
    s.Issues i → n < 14 →
    (inHandler → s.t.handler = false → exec i s = .next (s.trapHere (s.trapOf .illegalState))) ∧
    ((n = 8 ∧ v.toNat % 512 ≠ 0) ∨ (n = 9 ∧ badDbgc) → exec i s = .next (s.trapHere (s.trapOf .illegalOperand))) ∧
    ((inHandler → s.t.handler = true) → ¬ (n = 8 ∧ v.toNat % 512 ≠ 0) → ¬ (n = 9 ∧ badDbgc) →
      ∃ t, exec i s = .next t ∧ s.Elsewhere t ∧ s.SameBytes t ∧ s.WentOn i t ∧
        Strand.Moved { s.t with
          tepc := t.t.tepc, tmask := t.t.tmask, taddr := t.t.taddr, tinfo := t.t.tinfo, trcp := t.t.trcp } t.t ∧
        t.g = { s.g with tvec := t.g.tvec, dbgc := t.g.dbgc, dbga := t.g.dbga } ∧
        ∀ k, k < 14 → handlerValue t k =
          if k = n ∧ n ≠ 0 ∧ n ≠ 5 ∧ n ≠ 6 then (if n = 9 then v &&& 0x3FFFFF else if n = 1 then v &&& ~~~3#64 else v) else handlerValue s k)) ∧
  (∀ (s : State) (p : Pre) (a : BitVec 7), let i := Instr.flash p a
    let v := s.readPair a.toNat
    s.Issues i →
    (v.toNat % 64 ≠ 0 → exec i s = .next (s.trapHere { s.trapOf .misaligned with addr := v })) ∧
    (v.toNat % 64 = 0 → ∃ t, exec i s = .next t ∧ s.Elsewhere t ∧ s.SameBytes t ∧ s.WentOn i t ∧ t.g = s.g ∧
      Strand.Moved { s.t with trcp := v } t.t)) ∧
  (∀ (s : State) (p : Pre), s.Issues (.flashNone p) →
    ∃ t, exec (.flashNone p) s = .next t ∧ s.Elsewhere t ∧ s.SameBytes t ∧ s.WentOn (.flashNone p) t ∧ t.g = s.g ∧
      Strand.Moved { s.t with trcp := 0 } t.t) ∧
  ∀ w x i, fOP w = 0x69 → decode w x = .ok i → fD w = 0 ∧
    ((fFN w = 0 ∧ (fA w).toNat % 2 = 0 ∧ i = .flash (preOf w) (fA w)) ∨ (fFN w = 1 ∧ fA w = 0 ∧ i = .flashNone (preOf w)))

/-- CNTRD writes a pair with the guest timestamp, a counter as the instruction's own issue has left it, or zero past the last;
counters 8 to 10, which only timing decides, are values that nothing fixes (R271, R354, R355; log entry 3). -/
def Sys2Proof.Claims.CountersAreRead : Prop :=
  ∀ (s : State) (p : Pre) (d n : BitVec 7), let i := Instr.cntrd p d n
    let x := s.vdev s.g.vd
    s.Issues i →
    (n.toNat < 8 ∨ 10 < n.toNat →
      ∃ t, exec i s = .next t ∧ s.WritesPair i t d
        (if n = 0 then BitVec.ofNat 64 (if x.paused then x.tssave.toNat else x.guestAt (s.tickOf s.g.vd))
        else if 16 ≤ n.toNat then 0
        else BitVec.ofNat 64 (smGet 0 ((s.countIssue i).vdev s.g.vd).counters n.toNat))) ∧
    (8 ≤ n.toNat → n.toNat ≤ 10 →
      ∃ t v, exec i s = .next t ∧ s.WritesPair i { t with freeCount := s.freeCount } d v)

/-! ## Decodes, and what matrix operations do when they end -/

namespace Sys2Proof.Machine

/-- The strand of a gang as it stands, focused. -/
def State.strandAt (s f : State) (gang idx : Nat) : Prop := s.focus gang idx = f ∧ f.focused = true

/-- A matrix operation that may end: the array has started it, its queue and its strand's order let it end, and the gang that
issued it has a strand left (R229, R230). -/
def State.MopReady (u : State) (m : MOp) (g : Gang) : Prop :=
  u.mops.find? (fun x => x.id == m.id) = some m ∧ u.mopReady m = true ∧ u.gangOf m.gang = some g ∧ g.strands ≠ []

/-- A matrix operation has ended: it has left its queue, its gang has become `h`, and nothing else has changed but counters
and budgets (R229, R350, R354). -/
def State.MopEnds (u t : State) (m : MOp) (h : Gang) : Prop :=
  t.mops = u.mops.filter (fun x => x.id != m.id) ∧ t.gangOf m.gang = some h ∧
    (∀ n, n ≠ m.gang → t.gangOf n = u.gangOf n) ∧
    t = { u with
      gangs := t.gangs, mops := t.mops, vdevs := t.vdevs, parts := t.parts, governorUsed := t.governorUsed } ∧
    (∀ n, (t.vdev n).plain = (u.vdev n).plain) ∧ t.parts.map Part.plain = u.parts.map Part.plain

/-- A bit of a bit tile (R241). -/
def Gang.bit (g : Gang) (n i j : Nat) : Bool := (g.btRow n i).getLsbD j

/-- The V results of a matrix operation: first register, how many, and the value of each in a lane (R237, R243). -/
def mopV (g : Gang) (m : MOp) : Instr → Option (Nat × Nat × (Nat → Nat → Word))
  | .accrd _ d a _ col nreg _ => some (d.toNat, nreg.toNat, fun j l => g.readAcc a.toNat l (col.toNat + j))
  | .btcnt _ d a _ _ =>
    some (d.toNat, 1, fun _ l => BitVec.ofNat 32 ((List.range 64).filter fun j => g.bit a.toNat l j).length)
  | .btcolc _ d a _ _ =>
    some (d.toNat, 1, fun _ l => BitVec.ofNat 32 ((lanesOf m.mask).filter fun i => g.bit a.toNat i l).length)
  | .btfirst _ d a _ _ =>
    some (d.toNat, 1, fun _ l => BitVec.ofNat 32 (((List.range 64).find? fun j => g.bit a.toNat l j).getD 64))
  | .btrowRd _ d a _ _ =>
    some (d.toNat, 2, fun j l => BitVec.ofNat 32 ((g.btRow a.toNat l).toNat / 2 ^ (32 * j)))
  | _ => none

/-- The slot of a handle that no OLOAD is writing (R233). -/
def State.stillSlot (u : State) (g : Gang) (k : Nat) : Option Slot :=
  (u.slotAt g k).filter fun x => x.incoming.isNone

/-- The accumulator results of a matrix operation: tile, columns from and below, and each element of an active lane's row
(R236, R237). -/
def mopAcc (u : State) (g : Gang) (m : MOp) : Instr → Option (Nat × Nat × Nat × (Nat → Nat → Word))
  | .accz _ d _ _ => some (d.toNat, 0, 64, fun _ _ => 0)
  | .accwr _ d a _ col nreg _ =>
    if col.toNat + nreg.toNat ≤ 64 then
      some (d.toNat, col.toNat, col.toNat + nreg.toNat, fun l j => m.readV (a.toNat + (j - col.toNat)) l)
    else none
  | .mma _ d a b _ pi arow _ =>
    match u.stillSlot g a.toNat, u.stillSlot g b.toNat with
    | some x, some y =>
      match fmtOf x.ftag, fmtOf y.ftag with
      | some fx, some fy =>
        if mmaWidth x.ftag = mmaWidth y.ftag ∧ mmaWidth x.ftag ≠ none then
          some (d.toNat, 0, 64, fun l j => mmaElement (g.readAcc d.toNat l j) (x.row fx false ((arow.toNat + l) % 64))
            (y.row fy false j) (32 / fx.width) pi.toNat)
        else none
      | _, _ => none
    | _, _ => none
  | .mmas _ d a b _ pi arow _ =>
    match u.stillSlot g a.toNat, u.stillSlot g b.toNat with
    | some x, some y =>
      match fmtOf x.ftag, fmtOf y.ftag with
      | some fx, some fy =>
        if mmaWidth x.ftag = mmaWidth y.ftag ∧ mmaWidth x.ftag ≠ none then
          some (d.toNat, 0, 64, fun l j => mmaElement (g.readAcc d.toNat l j) (x.row fx true ((arow.toNat + l) % 64))
            (y.row fy true j) (32 / fx.width) pi.toNat)
        else none
      | _, _ => none
    | _, _ => none
  | _ => none

/-- The bit-tile results of a matrix operation: tile, rows, and each bit of them (R240, R243, R244). -/
def mopBits (u : State) (g : Gang) (m : MOp) : Instr → Option (Nat × List Nat × (Nat → Nat → Bool))
  | .btand _ d a b _ => some (d.toNat, List.range 64, fun i j => g.bit a.toNat i j && g.bit b.toNat i j)
  | .btor _ d a b _ => some (d.toNat, List.range 64, fun i j => g.bit a.toNat i j || g.bit b.toNat i j)
  | .btxor _ d a b _ => some (d.toNat, List.range 64, fun i j => g.bit a.toNat i j != g.bit b.toNat i j)
  | .btnot _ d a _ => some (d.toNat, List.range 64, fun i j => !(g.bit a.toNat i j))
  | .btt _ d a _ => some (d.toNat, List.range 64, fun i j => g.bit a.toNat j i)
  | .btcomp _ d a b _ =>
    some (d.toNat, List.range 64, fun i j => (List.range 64).any fun k => g.bit a.toNat i k && g.bit b.toNat k j)
  | .bteye _ d _ => some (d.toNat, List.range 64, fun i j => i == j)
  | .btrowWr _ d a _ _ =>
    some (d.toNat, lanesOf m.mask, fun i j =>
      if j < 32 then (m.readV a.toNat i).getLsbD j else (m.readV (a.toNat + 1) i).getLsbD (j - 32))
  | .ocmp _ d a b false _ cc tie tot fmt _ _ =>
    some (d.toNat, lanesOf m.mask, fun i j =>
      m.mask.getLsbD j && ocmpBit cc tie tot fmt (m.readV a.toNat i) (m.readV b.toNat j) i j)
  | .ocmp _ d a b true _ cc tie tot fmt seg _ =>
    match u.stillSlot g b.toNat with
    | none => none
    | some x =>
      some (d.toNat, lanesOf m.mask, fun i j =>
        ocmpBit cc tie tot fmt (m.readV a.toNat i)
          (BitVec.ofNat 32 (leNat ((List.range 4).map fun k => smGet 0 x.data (256 * seg.toNat + 4 * j + k)))) i j)
  | _ => none

/-- One squaring of a relation joined with it (R245). -/
def closeStep (f : Nat → Nat → Bool) : Nat → Nat → Bool :=
  fun i j => f i j || (List.range 64).any fun k => f i k && f k j

/-- So many squarings. -/
def closeSteps (f : Nat → Nat → Bool) : Nat → Nat → Nat → Bool
  | 0 => f
  | n + 1 => closeStep (closeSteps f n)

end Sys2Proof.Machine

/-- VDECODE puts its strand into its decode, from the offset that S[A] holds then, and is held while a decoder of its pipes is
busy; when the decode ends, within 4,096 cycles since issue, or its cycle limit is met, the emitted values stand in the active
lanes of successive registers, DSW holds the code and the bytes consumed and S[C] the number of values, and the strand
goes on; with TE a code that is not 0 raises decode-length instead, and a byte outside the allocation scratchpad-bounds
(R221-R223, R303). -/
def Obligations.DecodesEnd : Prop :=
  (∀ (s : State) (p : Pre) (d a c : BitVec 7) (te : Bool) (nreg : BitVec 7) (w : Bool),
    let i := Instr.vdecode p d a c te nreg w
    let off := (s.readS a.toNat).toNat % 2 ^ 20
    s.Issues i → (w = true → s.isWhole = true) →
    (off % 4 ≠ 0 → exec i s = .next (s.trapHere { s.trapOf .misaligned with addr := BitVec.ofNat 64 off })) ∧
    (off % 4 = 0 → s.decoderBusy = true → exec i s = .next (s.HeldFor .decoder)) ∧
    (off % 4 = 0 → s.decoderBusy = false → ∃ t, exec i s = .next t ∧ s.WaitsAt t (.decode off s.cycle))) ∧
  ∀ (e : Instr) (s f : State) (gang idx off c0 : Nat) (stop : Option Nat) (p : Pre) (d a c : BitVec 7) (te : Bool) (nreg : BitVec 7)
    (w : Bool),
    (e = .decodeEnd gang idx ∧ stop = none ∧ f.cycle - c0 ≤ 4096) ∨
      (∃ k, e = .decodeCycleLimit gang idx k ∧ stop = some k ∧ 4096 ≤ f.cycle - c0) →
    s.strandAt f gang idx → f.t.wait = .decode off c0 → f.t.active ≠ 0 →
    f.instrHere = some (.vdecode p d a c te nreg w) → f.NothingOut →
    let ls := lanesOf f.t.active
    let chunk := f.spadRead off (f.spadSize - off)
    let dsw := fun (code cons : Nat) => BitVec.ofNat 32 (code + 2 ^ 16 * cons)
    (∀ n, decodeChunk (fun k => chunk.getD k 0) (f.spadSize - off) (ls.length * nreg.toNat) stop = .outside n →
      exec e s = .next
        (f.trapHere { f.trapOf .scratchpadBounds with addr := BitVec.ofNat 64 (max off (off + n)) }).unfocus) ∧
    ∀ code vals cons,
      decodeChunk (fun k => chunk.getD k 0) (f.spadSize - off) (ls.length * nreg.toNat) stop = .ended code vals cons →
      (te = true → code ≠ 0 → ∃ u : State, u = { f with t := { f.t with dsw := dsw code cons, readBytes := u.t.readBytes } } ∧
        exec e s = .next (u.trapHere { f.trapOf .decodeLength with info := dsw code cons }).unfocus) ∧
      (te = false ∨ code = 0 → ∃ t r, exec e s = .next t ∧ t.strandAt r gang idx ∧ r.t.wait = .none ∧
        r.t.pc = f.t.pc + 8 ∧ r.t.dsw = dsw code cons ∧ r.readS c.toNat = BitVec.ofNat 32 vals.length ∧
        (∀ n, n < vals.length → r.readV (d.toNat + n / ls.length) (ls.getD (n % ls.length) 0) = vals.getD n 0) ∧
        (∀ k l, l < 64 → (∀ n, n < vals.length → k ≠ d.toNat + n / ls.length ∨ l ≠ ls.getD (n % ls.length) 0) →
          r.g.readV k l = f.g.readV k l) ∧
        (∀ k, k ≠ c.toNat → smGet 0 r.t.sregs k = smGet 0 f.t.sregs k) ∧ r.g.pregs = f.g.pregs ∧ r.t.qregs = f.t.qregs ∧
        r.t.fmtr = f.t.fmtr ∧ r.t.cvmr = f.t.cvmr ∧ r.t.active = f.t.active ∧ f.SameBytes r)

/-- The array of a core starts the oldest waiting operation of the device it serves when it is free; a budget that is
exhausted, or that of the governor, defers it, counted once (R229, R309, R351, R354, R373). -/
def Sys2Proof.Claims.TheArrayStartsItsNextOperation : Prop :=
  ∀ (s : State) (core : Nat), let u := s.unfocus
    (u.nextMop core = none ∨ u.arrayBusy core = true → exec (.matrixOpStart core) s = .next u) ∧
    ∀ m, u.nextMop core = some m → u.arrayBusy core = false →
      ((u.heldBack m.vd (dieOf core) 1 = false ∨ u.preempting m.block = true) →
        exec (.matrixOpStart core) s =
          .next { u with mops := replaceFirst (fun x => x.id == m.id) { m with started := true } u.mops }) ∧
      (u.heldBack m.vd (dieOf core) 1 = true → u.preempting m.block = false → m.deferred = true →
        exec (.matrixOpStart core) s = .next u) ∧
      (u.heldBack m.vd (dieOf core) 1 = true → u.preempting m.block = false → m.deferred = false →
        exec (.matrixOpStart core) s =
          .next { u.count m.vd 13 1 with
            mops := replaceFirst (fun x => x.id == m.id) { m with deferred := true } u.mops })

/-- A matrix operation that ends writes its result from its sources: V registers in the active lanes, accumulator elements of
the active lanes' rows, or bits of a bit tile; every other register, element, tile and byte of memory stays as it was. What a
multiply reads of a slot that an OLOAD is writing is open (R94, R229, R233, R234, R236, R237, R240, R243-R245). -/
def Sys2Proof.Claims.MatrixResults : Prop :=
  ∀ (s : State) (m : MOp) (g : Gang), let u := s.unfocus
    u.MopReady m g →
    (∀ d k f, mopV g m m.instr = some (d, k, f) →
      ∃ t h, exec (.matrixOpComplete m.id) s = .next t ∧ u.MopEnds t m h ∧
        h = { g with vregs := h.vregs, strands := h.strands } ∧
        h.strands.map (fun t => { t with trans := [] }) = g.strands.map (fun t => { t with trans := [] }) ∧
        (∀ j l, j < k → l ∈ lanesOf m.mask → h.readV (d + j) l = f j l) ∧
        ∀ r l, l < 64 → r < d ∨ d + k ≤ r ∨ l ∉ lanesOf m.mask → h.readV r l = g.readV r l) ∧
    (∀ d lo hi f, mopAcc u g m m.instr = some (d, lo, hi, f) →
      ∃ t h, exec (.matrixOpComplete m.id) s = .next t ∧ u.MopEnds t m h ∧ h = { g with acc := h.acc } ∧
        (∀ i j, i ∈ lanesOf m.mask → lo ≤ j → j < hi → h.readAcc d i j = f i j) ∧
        ∀ n i j, i < 64 → j < 64 → n ≠ d ∨ i ∉ lanesOf m.mask ∨ j < lo ∨ hi ≤ j → h.readAcc n i j = g.readAcc n i j) ∧
    (∀ d rows f, mopBits u g m m.instr = some (d, rows, f) →
      ∃ t h, exec (.matrixOpComplete m.id) s = .next t ∧ u.MopEnds t m h ∧ h = { g with bt := h.bt } ∧
        (∀ i j, i ∈ rows → j < 64 → h.bit d i j = f i j) ∧
        ∀ n i, i < 64 → n ≠ d ∨ i ∉ rows → h.btRow n i = g.btRow n i) ∧
    (∀ d a b, (∃ p fs pi arow w, m.instr = .mma p d a b fs pi arow w ∨ m.instr = .mmas p d a b fs pi arow w) →
      u.slotAt g a.toNat ≠ none → u.slotAt g b.toNat ≠ none →
      ∃ t h, exec (.matrixOpComplete m.id) s = .next t ∧ u.MopEnds { t with freeCount := u.freeCount } m h ∧
        h = { g with acc := h.acc } ∧
        ∀ n i j, i < 64 → j < 64 → n ≠ d.toNat ∨ i ∉ lanesOf m.mask → h.readAcc n i j = g.readAcc n i j) ∧
    (∀ p d a x fs n, m.instr = .btclos p d a x fs → n ≤ 6 →
      (∀ k, k < n → ∃ i j, i < 64 ∧ j < 64 ∧ closeSteps (g.bit a.toNat) (k + 1) i j ≠ closeSteps (g.bit a.toNat) k i j) →
      (n < 6 → ∀ i j, i < 64 → j < 64 → closeSteps (g.bit a.toNat) (n + 1) i j = closeSteps (g.bit a.toNat) n i j) →
      ∃ t h, exec (.matrixOpComplete m.id) s = .next t ∧ u.MopEnds t m h ∧ h = { g with bt := h.bt, strands := h.strands } ∧
        (∀ i j, i < 64 → j < 64 → h.bit d.toNat i j = closeSteps (g.bit a.toNat) n i j) ∧
        (∀ k i, i < 64 → k ≠ d.toNat → h.btRow k i = g.btRow k i) ∧
        h.strands = g.strands.map fun t =>
          if u.issuerOf m.gang m.strand m.id = some t.idx then t.setS x.toNat (BitVec.ofNat 32 n) else t) ∧
    ∀ p k a fmt fs row woff nreg sc w x, m.instr = .ofill p k a fmt fs row woff nreg sc w → u.slotAt g k.toNat = some x →
      (sc = false → woff.toNat + nreg.toNat ≤ 32) → (sc = true → woff.toNat + nreg.toNat ≤ 2) →
      let size := if sc then 8 else 128
      ∃ t y, exec (.matrixOpComplete m.id) s = .next t ∧ u.MopEnds { t with slots := u.slots, freeCount := u.freeCount } m g ∧ t.slotAt g k.toNat = some y ∧
        (∀ c n, c ≠ g.core ∨ g.boundTo k.toNat ≠ some n → t.slotOf c n = u.slotOf c n) ∧
        (sc = false → y.ftag = fmt ∧ y.sval = x.sval ∧ y.scales = x.scales) ∧
        (sc = true → y.sval = true ∧ y.ftag = x.ftag ∧ y.data = x.data) ∧
        let at_ := fun (z : Slot) (c : Nat) => if sc then smGet 127 z.scales c else smGet 0 z.data c
        (∀ l j b, l ∈ lanesOf m.mask → j < nreg.toNat → b < 4 →
          at_ y (size * ((row.toNat + l) % 64) + 4 * (woff.toNat + j) + b) =
            (m.readV (a.toNat + j) l).extractLsb' (8 * b) 8) ∧
        ∀ c, (∀ l ∈ lanesOf m.mask, c / size ≠ (row.toNat + l) % 64) ∨ c % size < 4 * woff.toNat ∨
          4 * (woff.toNat + nreg.toNat) ≤ c % size → at_ y c = at_ x c

/-- BTLD of a scratchpad image leaves its 64 rows in its bit tile, BTST writes the rows of one as 512 bytes of the
scratchpad, and nothing else of either changes (R241, R246). -/
def Sys2Proof.Claims.BitTileImagesMove : Prop :=
  ∀ (s : State) (m : MOp) (g : Gang) (b : Block) (p : Pre) (d a : BitVec 7) (fs : Bool) (ord : BitVec 2) (scp : BitVec 3)
    (off : Nat), let u := s.unfocus
    u.MopReady m g → u.blockOf m.block = some b → m.refs = spadAt off 512 →
    (m.instr = .btld p d a fs true ord scp →
      ∃ t h, exec (.matrixOpComplete m.id) s = .next t ∧ t.gangOf m.gang = some h ∧ u.SameBytes t ∧
        (∀ i, i < 64 → h.btRow d.toNat i =
          BitVec.ofNat 64 (leNat ((List.range 8).map fun k => smGet 0 b.scratch (off + 8 * i + k)))) ∧
        (∀ n i, i < 64 → n ≠ d.toNat → h.btRow n i = g.btRow n i) ∧ h.vregs = g.vregs ∧ h.pregs = g.pregs ∧ h.acc = g.acc) ∧
    (m.instr = .btst p d a fs true ord scp →
      ∃ t h c, exec (.matrixOpComplete m.id) s = .next t ∧ t.gangOf m.gang = some h ∧ t.blockOf m.block = some c ∧
        (∀ k a, t.byteUnder k a = u.byteUnder k a) ∧
        (∀ i k, i < 64 → k < 8 → smGet 0 c.scratch (off + 8 * i + k) = (g.btRow d.toNat i).extractLsb' (8 * k) 8) ∧
        (∀ o, o < off ∨ off + 512 ≤ o → smGet 0 c.scratch o = smGet 0 b.scratch o) ∧
        h.bt = g.bt ∧ h.vregs = g.vregs ∧ h.pregs = g.pregs ∧ h.acc = g.acc)

/-! ## Bank engines -/

namespace Sys2Proof.Machine

/-- A bank word runs: its engine executes command `b`, no budget defers it and its step limit is not met (R191, R192,
R351). -/
def State.RunsBank (s u : State) (b : BankCmd) : Prop :=
  ∃ ch, s.curBank = some ch ∧ s.runningBank ch = some b ∧ b.steps < 2 ^ 26 ∧ u = { s.unfocus with curBank := none } ∧
    u.bankDeferred b = false

/-- A bank program's request for cells at some addresses is admitted: every budget that it, and the walks before it, charge
admits it (R350, R351). -/
def State.BankAdmits (u : State) (b : BankCmd) (vas : List Nat) (cells : State → List (Nat × Nat)) (write : Bool) : Prop :=
  let v := u.fillXl b.vd (b.ch / 128) vas
  v.verdict b.vd (chargesOf (b.ch / 128) (!write) write (cells v)) = .admitted

/-- The state once such a request has been charged. -/
def State.bankPaid (u : State) (b : BankCmd) (vas : List Nat) (cells : State → List (Nat × Nat)) (write : Bool) : State :=
  let v := u.fillXl b.vd (b.ch / 128) vas
  v.pay b.vd (chargesOf (b.ch / 128) (!write) write (cells v))

/-- The command of a bank engine has become `c`; nothing else has changed but counters, budgets, translations held and the
count of free values. -/
def State.BankGoes (u t : State) (c : BankCmd) : Prop :=
  t.banks = replaceFirst (fun x => x.ch == c.ch && x.id == c.id) c u.banks ∧
    t = { u with
      banks := t.banks, vdevs := t.vdevs, parts := t.parts, governorUsed := t.governorUsed, cached := t.cached,
      freeCount := t.freeCount } ∧
    (∀ x ∈ u.cached, x ∈ t.cached) ∧ (∀ n, (t.vdev n).plain = (u.vdev n).plain) ∧ t.parts.map Part.plain = u.parts.map Part.plain

/-- The program of a command has ended and the command has left its engine (R192). -/
def State.BankLeaves (u t : State) (b : BankCmd) : Prop :=
  t.banks = u.banks.filter fun x => !(x.ch == b.ch && x.id == b.id)

/-- A command past its word. -/
def BankCmd.next (b : BankCmd) : BankCmd := { b with pos := b.pos + 1, steps := b.steps + 1, deferred := false }

/-- A command that starts a transfer. -/
def BankCmd.sends (b : BankCmd) (x : Xfer) : BankCmd :=
  { b with transfers := b.transfers ++ [(b.nextTransfer, x)], nextTransfer := b.nextTransfer + 1 }

/-- The command after a bank word that makes no request: `none` for a word whose fields the rules exclude, and for the words
that have clauses of their own (R191). -/
def bankWord (b : BankCmd) : Instr → Option BankCmd
  | .bknop => some b.next
  | .bkcfg wf xf ws gw gs go =>
    if wfmtOk wf && xfmtOk xf then
      some { b with
        pos := b.pos + 1, steps := b.steps + 1, deferred := false, wfmt := wf, xfmt := xf, wscl := ws, wbase := b.args.getD gw.toNat 0,
        sbase := b.args.getD gs.toNat 0, wp := 0, sp := 0, op := (b.args.getD go.toNat 0).toNat }
    else none
  | .bkscl a f => some { b.next with acc := smSet 0 b.acc a.toNat (fmul32 (smGet 0 b.acc a.toNat) f) }
  | .bksum a c =>
    some { b.next with
      acc := smSet 0 (smSet 0 b.acc a.toNat (fadd32 (smGet 0 b.acc a.toNat) (smGet 0 b.acc c.toNat))) c.toNat 0 }
  | .bkloop c true v => some { b.next with lc := smSet 0 b.lc c.toNat v }
  | .bkloop c false v =>
    let n := smGet 0 b.lc c.toNat - 1
    let move := (v.extractLsb' 0 16).toInt
    if v.toNat < 2 ^ 16 ∧ move < 0 ∧ (n = 0 ∨ 0 ≤ (b.pos : Int) + move) then
      some { b with
        lc := smSet 0 b.lc c.toNat n, steps := b.steps + 1, deferred := false
        pos := if n = 0 then b.pos + 1 else ((b.pos : Int) + move).toNat }
    else none
  | .bkwait => if b.transfers = [] then some b.next else none
  | _ => none

/-- The bank words whose fields end the program (R191, R192). -/
def bankEnds (u : State) (b : BankCmd) : Instr → Prop
  | .bkcfg wf xf _ _ _ _ => wfmtOk wf = false ∨ xfmtOk xf = false
  | .bkldv gx len boff =>
    len.toNat % 64 ≠ 0 ∨ boff.toNat % 64 ≠ 0 ∨ 16384 < boff.toNat + len.toNat ∨
      u.bankHits b (b.args.getD gx.toNat 0).toNat len.toNat false = none
  | .bkst a n => n.toNat = 0 ∨ 8 < a.toNat + n.toNat ∨ u.bankHits b b.op (4 * n.toNat) true = none
  | .bkloop c false v =>
    let move := (v.extractLsb' 0 16).toInt
    2 ^ 16 ≤ v.toNat ∨ 0 ≤ move ∨ (smGet 0 b.lc c.toNat ≠ 1 ∧ (b.pos : Int) + move < 0)
  | .bkend => b.transfers = []
  | _ => False

end Sys2Proof.Machine

/-- Each bank word that goes on leaves its command with the registers, buffer transfers and position that the rules give and
nothing else changed; BKMAC adds its groups of products to its accumulator and moves WP; a word whose fields or bytes the
rules exclude, and BKEND, end the program; BKWAIT and BKEND wait for the transfers (R71, R191, R192, R196, R351). -/
def Sys2Proof.Claims.BankWordsRun : Prop :=
  ∀ (i : Instr) (s u : State) (b : BankCmd), s.RunsBank u b →
    (∀ c, bankWord b i = some c → ∃ t, exec i s = .next t ∧ u.BankGoes t c) ∧
    (bankEnds u b i → ∃ t, exec i s = .next t ∧ u.BankLeaves t b) ∧
    (i = .bkwait ∨ i = .bkend → b.transfers ≠ [] → exec i s = .next u) ∧
    (∀ gx len boff hits, i = .bkldv gx len boff →
      let va := (b.args.getD gx.toNat 0).toNat
      len.toNat % 64 = 0 → boff.toNat % 64 = 0 → boff.toNat + len.toNat ≤ 16384 →
      u.bankHits b va len.toNat false = some hits → u.BankAdmits b (hits.map fun h => h.va) (fun v => v.hitCells hits) false →
      ∃ t, exec i s = .next t ∧ u.BankGoes t (b.next.sends (.load va boff.toNat len.toNat))) ∧
    (∀ a n hits, i = .bkst a n →
      let k := n.toNat
      0 < k → a.toNat + k ≤ 8 → u.bankHits b b.op (4 * k) true = some hits →
      u.BankAdmits b (hits.map fun h => h.va) (fun v => v.hitCells hits) true →
      ∃ t, exec i s = .next t ∧ u.BankGoes t ({ b.next with
        op := b.op + 4 * k, acc := smSetAll 0 b.acc ((List.range k).map fun i => (a.toNat + i, 0)) }.sends
          (.store b.op ((List.range k).map fun i => smGet 0 b.acc (a.toNat + i))))) ∧
    ∀ a xoff n wf xf w sc, i = .bkmac a xoff n → fmtOf b.wfmt = some wf → fmtOf b.xfmt = some xf →
      (xoff.toNat + n.toNat) * xf.width / 8 ≤ 16384 → u.weights b wf n.toNat = some w →
      u.weightScales b n.toNat = some sc → w.code = 0 → sc.2.2 = 0 → u.sound → u.weightsBusy b n.toNat = false →
      let vas := [b.wbase.toNat] ++ if b.wscl then [b.sbase.toNat] else []
      let cells := fun (_ : State) => cellsOf (w.refs ++ sc.2.1)
      u.BankAdmits b vas cells false →
      let scaled := fun (k : Nat) (v : FVal) => scaleBy v (sc.1.getD ((b.wp + k) / 32 - b.wp / 32) 0).toNat
      let ws := if b.wscl then List.zipWith scaled (List.range n.toNat) w.vals else w.vals
      ∃ t, exec i s = .next t ∧
        u.BankGoes t { b.next with
          wp := b.wp + n.toNat, sp := (b.wp + n.toNat) / 32
          acc := smSet 0 b.acc a.toNat
            (macGroups (n.toNat + 1) ws ((u.bankPaid b vas cells false).activations b xf xoff.toNat n.toNat) (smGet 0 b.acc a.toNat)) }

/-- A bank engine takes the oldest command of the device it serves and reads its program, which must begin with BKCFG; a load
that completes leaves its bytes in the buffer, a store its accumulators in memory; a program that reaches its step limit
ends (R190-R192). -/
def Sys2Proof.Claims.BankEnginesTakeCommands : Prop :=
  (∀ (s : State) (ch : Nat) (b : BankCmd), let u := s.unfocus
    u.headBank ch = some b →
    (b.started = true → exec (.bankProgramStart ch) s = .next u) ∧
    (b.started = false → ∀ ws, u.loadProgram b 256 0 = .ok ws →
      ((ws.headD 0).toNat % 256 = 1 →
        exec (.bankProgramStart ch) s =
          .next { u with
            banks := replaceFirst (fun x => x.ch == b.ch && x.id == b.id) { b with started := true, prog := ws } u.banks }) ∧
      ((ws.headD 0).toNat % 256 ≠ 1 → ∃ t, exec (.bankProgramStart ch) s = .next t ∧ u.BankLeaves t b)) ∧
    (b.started = false → ∀ code, u.loadProgram b 256 0 = .error code →
      ∃ t, exec (.bankProgramStart ch) s = .next t ∧ u.BankLeaves t b)) ∧
  (∀ (s : State) (ch n : Nat) (b : BankCmd) (x : Xfer), let u := s.unfocus
    let rest := b.transfers.filter fun y => y.1 != n
    u.banks.find? (fun c => c.ch == ch && c.transfers.any fun y => y.1 == n) = some b →
    b.transfers.find? (fun y => y.1 == n) = some (n, x) → u.sound →
    (∀ va boff len hits, x = .load va boff len → u.bankHits { b with transfers := rest } va len false = some hits →
      ∃ t buf, exec (.bankTransferComplete ch n) s = .next t ∧ u.BankGoes t { b with transfers := rest, buffer := buf } ∧
        (∀ j h, j < len → hits[j]? = some h → smGet 0 buf (boff + j) = u.byteUnder h.ref.key h.ref.addr) ∧
        ∀ o, o < boff ∨ boff + len ≤ o → smGet 0 buf o = smGet 0 b.buffer o) ∧
    (∀ va vals hits key, x = .store va vals → hits.length = 4 * vals.length →
      u.bankHits { b with transfers := rest } va (4 * vals.length) true = some hits →
      (∀ h ∈ hits, h.ref.spad = false ∧ h.ref.key = key) → (hits.map fun h => h.ref.addr).Nodup →
      ∃ t, exec (.bankTransferComplete ch n) s = .next t ∧
        t.banks = replaceFirst (fun y => y.ch == b.ch && y.id == b.id) { b with transfers := rest } u.banks ∧
        t.bytesAt (hits.map fun h => h.ref) = vals.flatMap (fun v => natBytes 4 v.toNat) ∧
        (∀ a, (∀ h ∈ hits, h.ref.addr ≠ a) → t.byteUnder key a = u.byteUnder key a) ∧
        t.blocks.map (fun c => c.scratch) = u.blocks.map (fun c => c.scratch) ∧ t.gangs.map (fun g => g.vregs) = u.gangs.map fun g => g.vregs)) ∧
  ∀ (s : State) (ch : Nat) (b : BankCmd), let u := s.unfocus
    u.runningBank ch = some b →
    (b.steps < 2 ^ 26 → exec (.bankStepLimit ch) s = .next u) ∧
    (2 ^ 26 ≤ b.steps → ∃ t, exec (.bankStepLimit ch) s = .next t ∧ u.BankLeaves t b)

/-! ## Command streams -/

namespace Sys2Proof.Machine

/-- A stream command runs: the current job is `j`, its stream neither faulted nor ended (R19, R25). -/
def State.RunsJob (s u : State) (j : Job) : Prop :=
  u = s.unfocus ∧ (∃ vd slot, u.curJob = some (vd, slot) ∧ u.jobAt vd slot = some j) ∧ j.faulted = false ∧ j.ended = false

/-- The jobs with one of them put back. -/
def State.jobsWith (u : State) (j : Job) : List Job := replaceFirst (fun k => k.vd == j.vd && k.slot == j.slot) j u.jobs

/-- A job past its command, whose length is in 16-byte units (R19). -/
def Job.after (j : Job) (units : Nat) : Job := { j with pc := j.pc + BitVec.ofNat 64 (16 * units), wait := .none }

/-- Whether the masked word of memory at an address meets a condition; `none` where it cannot be read (R21). -/
def State.memMeets (u : State) (vd : Nat) (c : BitVec 3) (value : Word) (addr : Addr) (mask : Word) : Option Bool :=
  match u.vaRead vd addr.toNat 4 with
  | .error _ => none
  | .ok bs =>
    let w := BitVec.ofNat 32 (leNat bs) &&& mask
    some (match c.toNat with
      | 0 => decide (w = value)
      | 1 => decide (w ≠ value)
      | 2 => decide (value.toNat ≤ w.toNat)
      | 3 => decide (w.toNat < value.toNat)
      | 4 => decide (value.toInt ≤ w.toInt)
      | 5 => decide (w.toInt < value.toInt)
      | 6 => decide (w &&& value = value)
      | _ => decide (w &&& value ≠ 0))

/-- Whether the stream faults of no launch or graph of a job holds a FENCE (R20). -/
def State.streamQuiet (u : State) (j : Job) : Prop :=
  ∀ l ∈ u.levels, l.vd = j.vd → l.slot = j.slot → l.kind = .launch ∨ l.kind = .graph → 3 ≤ l.state

/-- The job after a command that acts on nothing else: NOP, EDGE, LOOP, WAITMEM, COND, WAITCTR and LINK (R19-R22,
R24); `none` where the command is a stream fault. -/
def streamWord (u : State) (j : Job) : Instr → Option Job
  | .finbyNop len arg => some { j with pc := j.pc + BitVec.ofNat 64 (4 * wordsOf (.finbyNop len arg)), wait := .none }
  | .edge src dst =>
    if j.inGraph then some { j.after 1 with edges := j.edges ++ [(src.toNat, dst.toNat, j.pc)] } else none
  | .loop count target =>
    if j.inGraph then none
    else
      match j.loops.find? fun l => l.1 == j.pc with
      | some (_, 0) => some { j.after 1 with loops := j.loops.filter fun l => l.1 != j.pc }
      | some (_, n + 1) =>
        some { j with pc := target, loops := j.loops.map fun l => if l.1 = j.pc then (l.1, n) else l }
      | none =>
        if 8 ≤ j.loops.length then none
        else if count.toNat ≤ 1 then some (j.after 1)
        else some { j with pc := target, loops := (j.pc, count.toNat - 2) :: j.loops }
  | .waitmem c value addr mask timeout =>
    if j.inGraph then none
    else
      match u.memMeets j.vd c value addr mask with
      | none => none
      | some true => some (j.after 2)
      | some false =>
        match j.wait with
        | .mem _ _ _ _ _ => some j
        | _ => some { j with
            wait := .mem c value addr mask (if timeout = 0 then none else some (u.tick + 1000 * timeout.toNat)) }
  | .cond c value addr mask els =>
    if j.inGraph then none
    else (u.memMeets j.vd c value addr mask).map fun b => if b then j.after 2 else { j with pc := els }
  | .waitctr record =>
    if j.inGraph then none
    else
      match u.vaRead j.vd record.toNat 4 with
      | .error _ => none
      | .ok bs => some (if 3 ≤ leNat bs % 16 then j.after 1 else { j with wait := .ctr record })
  | .link next => if j.inGraph then none else some { j with pc := next, seg := next, wait := .none }
  | _ => none

/-- The commands that fault their stream, with the code (R20-R25). -/
def streamBad (u : State) (j : Job) (i : Instr) : Option Nat :=
  let record := fun (r : Addr) =>
    if u.levels.any fun l => l.vd == j.vd && l.slot == j.slot && l.record == some r && decide (l.state < 3) then some 8
    else
      match u.vaRefs (u.vdev j.vd) r.toNat 32 ⟨true, true, false⟩ false with
      | .ok _ => none
      | .error _ => some 4
  match i with
  | .edge _ _ => if j.inGraph then none else some 6
  | .gbegin r => if j.inGraph then some 7 else record r
  | .pbegin r => if j.inGraph ∨ j.phase.isSome then some 7 else record r
  | .pend => if j.inGraph ∨ j.phase = none then some 7 else none
  | .gend => if j.graph = none then some 7 else none
  | .loop _ _ =>
    if j.inGraph ∨ ((j.loops.any fun l => l.1 == j.pc) = false ∧ 8 ≤ j.loops.length) then some 7 else none
  | .waitmem c v a m _ => if j.inGraph then some 7 else if u.memMeets j.vd c v a m = none then some 4 else none
  | .cond c v a m _ => if j.inGraph then some 7 else if u.memMeets j.vd c v a m = none then some 4 else none
  | .waitctr r =>
    if j.inGraph then some 7
    else
      match u.vaRead j.vd r.toNat 4 with
      | .ok _ => none
      | .error _ => some 4
  | .signal _ _ a v =>
    if j.inGraph then some 7
    else
      match u.vaWrite j.vd a.toNat (natBytes 8 v.toNat) with
      | .ok _ => none
      | .error _ => some 4
  | .finbyFence _ => if j.inGraph then some 7 else none
  | .cancel r =>
    if j.inGraph then some 7
    else if u.levels.any fun l => l.vd == j.vd && l.record == some r && decide (l.state < 3) then none
    else
      match u.vaRead j.vd r.toNat 4 with
      | .error _ => some 4
      | .ok bs =>
        if leNat bs % 16 ≠ 0 then none
        else
          match u.vaWrite j.vd r.toNat (natBytes 4 (leNat bs + 4)) with
          | .ok _ => none
          | .error _ => some 4
  | .link _ => if j.inGraph then some 7 else none
  | .endStream => if j.inGraph then some 7 else none
  | .launch n _ _ r _ _ _ =>
    match j.graph with
    | some g => if (u.launchesOf g).any fun l => l.num == n.toNat then some 6 else record r
    | none => record r
  | .launchi n _ _ r _ =>
    match j.graph with
    | some g => if (u.launchesOf g).any fun l => l.num == n.toNat then some 6 else record r
    | none => record r
  | _ => none

/-- A stream has faulted: the job interprets nothing further and its fault interrupt has been raised (R25, R365). -/
def State.StreamFaulted (u t : State) (j : Job) : Prop :=
  t.jobs = u.jobsWith { j with faulted := true, wait := .none } ∧
    let v := smGet 0 (u.vdev j.vd).fvec j.slot
    smGet 0 (t.vdev j.vd).intr v = min 65535 (smGet 0 (u.vdev j.vd).intr v + 1)

/-- A level as a command opens it: pending, nothing counted, open to more (R14, R16). -/
def newLevelOf (id : Nat) (kind : LevelKind) (j : Job) (parent : Nat) (record : Option Addr) : Level :=
  { id := id, kind := kind, vd := j.vd, slot := j.slot, parent := some parent, record := record, state := 1, opened := 0,
    done := 0, canc := 0, tstart := 0, tend := 0, closed := false, cancelled := false }

/-- No level is under cancellation. -/
def State.NoCancel (u : State) : Prop := ∀ l ∈ u.levels, l.cancelled = false ∧ l.id < u.nextId

end Sys2Proof.Machine

/-- NOP, EDGE, LOOP, WAITMEM, COND, WAITCTR and LINK move the stream as their rules say and change nothing else; a command
that its rules exclude faults the stream with its code, and the fault interrupt is raised (R19-R22, R24, R25, R365). -/
def Sys2Proof.Claims.StreamCommandsMoveOrFault : Prop :=
  ∀ (i : Instr) (s u : State) (j : Job), s.RunsJob u j →
    (∀ k, streamWord u j i = some k → exec i s = .next { u with jobs := u.jobsWith k }) ∧
    (∀ code, streamBad u j i = some code → ∃ t, exec i s = .next t ∧ u.StreamFaulted t j) ∧
    (j.inGraph = false → ∀ scope, i = .finbyFence scope →
      (u.streamQuiet j → exec i s = .next { u with jobs := u.jobsWith (j.after 1) }) ∧
      (¬ u.streamQuiet j → exec i s = .next { u with jobs := u.jobsWith { j with wait := .fence scope.toNat } }))

/-- GBEGIN, PBEGIN and the launches open their levels, pending and uncounted, under the open phase or graph; PEND, GEND and END
close theirs, PEND holding the stream until its phase is done; SIGNAL writes its value and raises its interrupt; CANCEL marks
the level of its record, and gives an idle record STATE 4 (R12, R13, R16, R17, R20, R22). -/
def Obligations.StreamsOpenAndCloseLevels : Prop :=
  ∀ (i : Instr) (s u : State) (j : Job), s.RunsJob u j → streamBad u j i = none →
    let jobsAre := fun (t : State) (k : Job) => exec i s = .next t ∧ t.jobs = u.jobsWith k ∧ t.gangs = u.gangs
    (∀ r, i = .pbegin r → u.NoCancel → ∃ t, jobsAre t { j.after 1 with phase := some u.nextId } ∧
      t.levels = u.levels ++ [newLevelOf u.nextId .phase j j.level (some r)]) ∧
    (∀ r p, i = .gbegin r → u.NoCancel → j.phase = some p →
      ∃ t, jobsAre t { j.after 1 with graph := some u.nextId, inGraph := true, edges := [] } ∧
        t.levels = u.levels ++ [newLevelOf u.nextId .graph j p (some r)]) ∧
    (∀ r, i = .gbegin r → u.NoCancel → j.phase = none →
      ∃ t, jobsAre t { j.after 1 with
            phase := some u.nextId, graph := some (u.nextId + 1), inGraph := true, edges := [] } ∧
        t.levels = u.levels ++ [newLevelOf u.nextId .phase j j.level none, newLevelOf (u.nextId + 1) .graph j u.nextId (some r)]) ∧
    (∀ num desc par r x y z g, i = .launch num desc par r x y z → u.NoCancel → j.graph = some g →
      ∃ t k, jobsAre t (j.after 3) ∧ t.levels = u.levels ++ [newLevelOf u.nextId .launch j g (some r)] ∧
        t.launches = u.launches ++ [k] ∧ k.level = u.nextId ∧ k.num = num.toNat ∧ k.desc = desc ∧ k.par = par ∧
        k.grid = [x.toNat, y.toNat, z.toNat] ∧ k.gridAddr = none ∧ k.cmd = j.pc ∧ k.issued = false) ∧
    (∀ num desc par r grid g, i = .launchi num desc par r grid → u.NoCancel → j.graph = some g →
      ∃ t k, jobsAre t (j.after 3) ∧ t.levels = u.levels ++ [newLevelOf u.nextId .launch j g (some r)] ∧
        t.launches = u.launches ++ [k] ∧ k.level = u.nextId ∧ k.num = num.toNat ∧ k.desc = desc ∧ k.par = par ∧
        k.gridAddr = some grid ∧ k.cmd = j.pc ∧ k.issued = false) ∧
    ((∃ num desc par r x y z, i = .launch num desc par r x y z) ∨ (∃ num desc par r grid, i = .launchi num desc par r grid) →
      u.NoCancel → j.graph = none → (∀ p, j.phase = some p → ∃ l, u.level p = some l ∧ l.record ≠ none) →
      ∃ t k, exec i s = .next t ∧ t.launches = u.launches ++ [k] ∧
        t.jobs = u.jobsWith { j.after 3 with
          graph := none, inGraph := false, edges := [], wait := if j.phase = none then .phase u.nextId else .none }) ∧
    (i = .pend → ∀ p, j.phase = some p → exec i s = .next { u with
      levels := u.levels.map fun l => if l.id = p then { l with closed := true } else l
      jobs := u.jobsWith { j.after 1 with phase := none, wait := .phase p } }) ∧
    (i = .gend → ∀ g gl, j.graph = some g → u.level g = some gl →
      (∀ e ∈ j.edges, (∃ l ∈ u.launchesOf g, l.num = e.1) ∧ ∃ l ∈ u.launchesOf g, l.num = e.2.1) →
      cyclic ((u.launchesOf g).map fun l => l.num) j.edges = false →
      ∃ t k, exec i s = .next t ∧ t.jobs = u.jobsWith k ∧ k.graph = none ∧ k.inGraph = false ∧ k.pc = j.pc + 16 ∧
        (∀ l, t.level g = some l → l.closed = true) ∧
        t.launches.map (fun l => { l with after := [] }) = u.launches.map (fun l => { l with after := [] }) ∧
        ∀ a ∈ t.launches, (∃ l ∈ u.launchesOf g, l.level = a.level) → ∀ b, b ∈ a.after ↔
          ∃ l ∈ u.launchesOf g, l.level = b ∧ ∃ e ∈ j.edges, e.1 = l.num ∧ e.2.1 = a.num) ∧
    (i = .endStream → ∃ t, jobsAre t { j with ended := true, phase := none, wait := .none } ∧
      (∀ l ∈ t.levels, l.id = j.level → l.closed = true) ∧ t.levels.map (fun l => l.id) = u.levels.map fun l => l.id) ∧
    (∀ intr vec a v refs key, i = .signal intr vec a v →
      u.vaRefs (u.vdev j.vd) a.toNat 8 ⟨false, true, false⟩ false = .ok refs → refs.length = 8 → u.sound →
      (∀ r ∈ refs, r.key = key) → (refs.map fun r => r.addr).Nodup →
      ∃ t, jobsAre t (j.after 2) ∧ t.bytesAt refs = natBytes 8 v.toNat ∧
        (∀ c, (∀ r ∈ refs, r.addr ≠ c) → t.byteUnder key c = u.byteUnder key c) ∧
        (intr = true → smGet 0 (t.vdev j.vd).intr vec.toNat = min 65535 (smGet 0 (u.vdev j.vd).intr vec.toNat + 1)) ∧
        (intr = false → t.vdevs = u.vdevs)) ∧
    ∀ r, i = .cancel r →
      ((∀ l ∈ u.levels, l.vd = j.vd → l.record = some r → 3 ≤ l.state) → ∀ bs, u.vaRead j.vd r.toNat 4 = .ok bs →
        (leNat bs % 16 ≠ 0 → exec i s = .next { u with jobs := u.jobsWith (j.after 1) }) ∧
        (leNat bs % 16 = 0 → ∃ t v, u.vaWrite j.vd r.toNat (natBytes 4 (leNat bs + 4)) = .ok v ∧
          exec i s = .next t ∧ t = { v with jobs := u.jobsWith (j.after 1) })) ∧
      ∀ l, u.levels.find? (fun l => l.vd == j.vd && l.record == some r && decide (l.state < 3)) = some l →
        u.level l.id = some l → l.state = 1 → (∀ m ∈ u.levels, m.parent ≠ some l.id) →
        ∃ t m, exec i s = .next t ∧ t.jobs = u.jobsWith (j.after 1) ∧ t.level l.id = some m ∧ m.cancelled = true ∧
          m.state = 4 ∧ m.tend = u.tickOf l.vd

/-- A WAITMEM reads its word again and the stream goes on when the condition holds; when its timeout has passed the stream
faults (R21, R25). -/
def Sys2Proof.Claims.WaitmemReadsAgain : Prop :=
  ∀ (s : State) (j : Job) (vd slot : Nat) (c : BitVec 3) (value : Word) (addr : Addr) (mask : Word) (deadline : Option Nat),
    let u := s.unfocus
    u.jobAt vd slot = some j → j.wait = .mem c value addr mask deadline →
    (u.memMeets vd c value addr mask = some true →
      exec (.waitmemReread vd slot) s = .next { u with jobs := u.jobsWith (j.after 2) }) ∧
    (u.memMeets vd c value addr mask = some false → exec (.waitmemReread vd slot) s = .next u) ∧
    (u.memMeets vd c value addr mask = none → ∃ t, exec (.waitmemReread vd slot) s = .next t ∧ u.StreamFaulted t j) ∧
    (∀ d, deadline = some d → d ≤ u.tick → (u.vdev j.vd).paused = false →
      ∃ t, exec (.waitmemTimeout vd slot) s = .next t ∧ u.StreamFaulted t j) ∧
    ((deadline = none ∨ ∃ d, deadline = some d ∧ u.tick < d) → exec (.waitmemTimeout vd slot) s = .next u)

/-! ## Levels, launches, blocks and tasks -/

/-- A launch whose turn it is issues: its descriptor and grid are read, its level runs from now, and every die of its
partition has its share of blocks; a descriptor or grid that fails its checks faults the stream (R14, R22, R23, R25, R26,
R30). -/
def Sys2Proof.Claims.LaunchesIssue : Prop :=
  ∀ (s : State) (l : Nat), let u := s.unfocus
    (u.issueTurn l = none → exec (.launchIssue l) s = .next u) ∧
    ∀ k m, u.issueTurn l = some (k, m) →
      (∀ code j, u.readLaunch m.vd k = .error code → u.jobAt m.vd m.slot = some j →
        ∃ t, exec (.launchIssue l) s = .next t ∧ u.StreamFaulted t j) ∧
      ∀ k1, u.readLaunch m.vd k = .ok k1 →
        ∃ t n, exec (.launchIssue l) s = .next t ∧
          t.launches = replaceFirst (fun x => x.level == l) { k1 with tag := u.freeTag m.vd } u.launches ∧
          t.level l = some n ∧ n.state = 2 ∧ n.tstart = u.tickOf m.vd ∧ t.gangs = u.gangs ∧ t.blocks = u.blocks ∧
          ∀ e ∈ t.shadow, e.2.lt ≠ u.freeTag m.vd

/-- A level that is ready becomes done, or cancelled when it or a child of it was cancelled, with its end time; a job that is
done gives up its slot with its levels; one that is not ready stays (R12, R14, R15, R17). -/
def Sys2Proof.Claims.LevelsEnd : Prop :=
  ∀ (s : State) (l : Nat) (m : Level), let u := s.unfocus
    u.level l = some m →
    (u.levelReady m = false → exec (.levelDone l) s = .next u) ∧
    (u.levelReady m = true → m.kind ≠ .job →
      ∃ t n, exec (.levelDone l) s = .next t ∧ t.level l = some n ∧ n.tend = u.tickOf m.vd ∧
        n.state = (if m.cancelled ∨ m.canc ≠ 0 then 4 else 3) ∧ t.jobs = u.jobs ∧ t.gangs = u.gangs) ∧
    (u.levelReady m = true → m.kind = .job →
      ∃ t, exec (.levelDone l) s = .next t ∧ t.jobs = u.jobs.filter (fun j => !(j.vd == m.vd && j.slot == m.slot)) ∧
        (∀ n ∈ t.levels, ¬ (n.vd = m.vd ∧ n.slot = m.slot)) ∧ t.gangs = u.gangs)

/-- A cancelled unit whose kill interval has passed loses its lanes without executing anything further, and is gone once it has
nothing outstanding; one that is not due stays (R12, R18). -/
def Sys2Proof.Claims.CancelledUnitsAreKilled : Prop :=
  ∀ (s : State) (gang : Nat) (g : Gang), let u := s.unfocus
    u.gangs.find? (fun h => h.id == gang) = some g →
    let slot := match u.level g.launch with
      | some l => l.slot
      | none => 0
    let due := g.cancelled = true ∧ g.strands ≠ [] ∧
      g.cancelTick + 1000 * max 1 (smGet 100 (u.vdev g.vd).killi slot) ≤ u.tick
    (¬ due → exec (.killIntervalExpiry gang) s = .next u) ∧
    (due → ∃ t, exec (.killIntervalExpiry gang) s = .next t ∧
      (u.outstanding gang = false → ∀ h ∈ t.gangs, h.id ≠ gang) ∧
      (u.outstanding gang = true → ∃ h, t.gangs.find? (fun x => x.id == gang) = some h ∧ h.strands = [] ∧ h.killed = true))

namespace Sys2Proof.Machine

/-- A gang at its start: one strand with every lane at the entry, its S registers, nothing else held (R29, R32, R45). -/
def Gang.Starts (g : Gang) (k : Launch) (width core block first role : Nat) (index : Option Nat) (entry : Addr)
    (sregs : Nat → Word) (interval : Nat) : Prop :=
  g.core = core ∧ g.block = block ∧ g.firstPipe = first ∧ g.role = role ∧ g.gangIndex = index ∧ g.width = width ∧
    g.launch = k.level ∧ g.exited = 0 ∧ g.vregs = [] ∧ g.pregs = [] ∧ g.heldV = false ∧ g.heldAcc = 0 ∧ g.heldBt = false ∧
    g.interval = interval ∧ g.xmax = k.xmax ∧ g.xres = k.xres ∧
    ∃ t, g.strands = [t] ∧ t.pc = entry ∧ t.clause = none ∧ t.active = BitVec.ofNat 64 (2 ^ k.width - 1) ∧ t.joins = [] ∧
      t.wait = .none ∧ t.handler = false ∧ t.fmtr = 1 ∧ t.cvmr = 0 ∧ t.qregs = 0 ∧ ∀ r, smGet 0 t.sregs r = sregs r

/-- The S registers of a gang of a block: the address of the parameter block (R29). -/
def paramS (par : Addr) (r : Nat) : Word :=
  if r = 0 then BitVec.ofNat 32 par.toNat else if r = 1 then BitVec.ofNat 32 (par.toNat / 2 ^ 32) else 0

/-- The S registers of a task gang: its arguments (R45). -/
def argS (args : List Word) (r : Nat) : Word := if r < 6 then args.getD r 0 else 0

end Sys2Proof.Machine

/-- The next block of a launch on a die is admitted with its scratchpad, rings and one strand in each gang, standing at the
entry with the parameter address in S0:S1; where nothing may be admitted nothing happens (R28-R30, R32, R42, R175). -/
def Sys2Proof.Claims.BlocksAreAdmitted : Prop :=
  ∀ (s : State) (l die : Nat), let u := s.unfocus
    (u.admittable l die = none → exec (.blockAdmit l die) s = .next u) ∧
    ∀ k vd i core fs, u.admittable l die = some (k, vd, i, core, fs) →
      ∃ t b gs, exec (.blockAdmit l die) s = .next t ∧ t.blocks = u.blocks ++ [b] ∧ b.launch = l ∧ b.index = i ∧ b.core = core ∧
        b.vd = vd ∧ b.spadBytes = k.spad ∧ b.isTask = false ∧ b.scratch = [] ∧ b.bars = [] ∧
        (∀ n, n < 8 → b.ring n = if k.rings.getD n 0 = 0 then none else some ⟨k.rings.getD n 0, [], [], []⟩) ∧
        t.launches = replaceFirst (fun x => x.level == l)
          { k with unplaced := smSet [] k.unplaced die (k.left die).tail } u.launches ∧
        t.gangs = u.gangs ++ gs ∧ gs.length = fs.length ∧ (∀ (n : Nat) (g : Gang), gs[n]? = some g → g.vd = vd ∧
          g.Starts k k.width core b.id (fs.getD n 0) (k.roles.toNat / 4 ^ n % 4) (some n) k.entry (paramS k.par) 1)

/-- A core takes the task at the head of its own deque, or, its deque empty, the tail record that may leave another core of
its die: the record goes, and a gang starts at its entry with its arguments in S0-S5, in the forking block where that is
resident and in a block of its own otherwise; an owner takes before a thief, and both before what has been pushed in the cycle
(R43-R45, R49, R50, R299). -/
def Sys2Proof.Claims.TasksAreTakenAndStolen : Prop :=
  ∀ (s : State) (core : Nat), let u := s.unfocus
    let started := fun (t : State) (k : Task) (l : Launch) (f : Nat) (block : Nat) => ∃ g, t.gangs = u.gangs ++ [g] ∧
      g.Starts l k.width core block f 0 none k.entry (argS k.args) (min 0xFFFE (k.interval + 1)) ∧ g.vd = k.vd
    (u.takeable core = none ∨ u.later (dequeMark core) [0] = true → exec (.taskTake core) s = .next u) ∧
    (∀ k l f, u.takeable core = some (k, l, f) → u.later (dequeMark core) [0] = false →
      (∀ b, u.joinedBlock core k = some b → ∃ t, exec (.taskTake core) s = .next t ∧
        t.deque = dropFirst (fun x => x.core == core) u.deque ∧ t.blocks = u.blocks ∧ started t k l f b.id) ∧
      (u.joinedBlock core k = none → ∃ t b, exec (.taskTake core) s = .next t ∧
        t.deque = dropFirst (fun x => x.core == core) u.deque ∧ t.blocks = u.blocks ++ [b] ∧ b.isTask = true ∧
        b.core = core ∧ b.spadBytes = 0 ∧ b.rings = [] ∧ b.index = k.blockIndex ∧ started t k l f b.id)) ∧
    (u.stealable core = none ∨ u.stealOutOfTurn core = true → exec (.taskSteal core) s = .next u) ∧
    ∀ k l f, u.stealable core = some (k, l, f) → u.stealOutOfTurn core = false → ∃ t b, exec (.taskSteal core) s = .next t ∧
      t.deque = (dropFirst (fun x => x.core == k.core) u.deque.reverse).reverse ∧ t.blocks = u.blocks ++ [b] ∧
      b.isTask = true ∧ b.core = core ∧ b.spadBytes = 0 ∧ started t k l f b.id

/-- A victim's distributor answers a steal message whose turn it is with its highest blocks, half of them and at most eight, and
gives them up; the thief's distributor takes what it was granted, and dies with none left may ask (R31, R51). -/
def Sys2Proof.Claims.DistributorsStealBlocks : Prop :=
  ∀ (s : State) (n : Nat) (x : Steal) (k : Launch), let u := s.unfocus
    u.launchOf x.launch = some k →
    (x.grant = none → u.steals.find? (fun y => y.id == n && y.grant.isNone) = some x →
      (u.stealNext x = false → exec (.stealMessage n) s = .next u) ∧
      (u.stealNext x = true →
      let mine := k.left x.victim
      let give := min 8 ((mine.length + 1) / 2)
      ∃ t, exec (.stealMessage n) s = .next t ∧
        t.launches = replaceFirst (fun y => y.level == x.launch)
          { k with unplaced := smSet [] k.unplaced x.victim (mine.take (mine.length - give)) } u.launches ∧
        { x with grant := some (mine.drop (mine.length - give)) } ∈ t.steals)) ∧
    (x.grant ≠ none → u.steals.find? (fun y => y.id == n && y.grant.isSome) = some x →
      ∃ t more, exec (.stealReply n) s = .next t ∧
        t = { u with launches := t.launches, steals := t.steals, nextId := t.nextId } ∧
        t.steals = u.steals.filter (fun y => y.id != n) ++ more ∧ (∀ y ∈ more, y.grant = none ∧ y.victim ≠ y.thief) ∧
        (x.grant = some [] → t.launches = u.launches) ∧
        ∀ b r, x.grant = some (b :: r) →
          t.launches = replaceFirst (fun y => y.level == x.launch)
            { k with unplaced := smSet [] k.unplaced x.thief (k.left x.thief ++ (b :: r)) } u.launches)

/-! ## Strands that wait -/

/-- A sleeping strand goes on past its word at its tick and not before; a gang whose strands are all parked takes
illegal-state on its lowest lane's strand; JOIN and CWAIT execute again when what they wait for may have come about (R144,
R147, R159, R187). -/
def Sys2Proof.Claims.WaitsEnd : Prop :=
  (∀ (s f : State) (gang idx k : Nat), s.strandAt f gang idx → f.t.wait = .sleep k →
    (f.tickOf f.g.vd < k → exec (.sleepWake gang idx) s = .next f.unfocus) ∧
    (k ≤ f.tickOf f.g.vd → ∃ t r, exec (.sleepWake gang idx) s = .next t ∧ t.strandAt r gang idx ∧ r.t.wait = .none ∧
      r.t.pc = f.t.pc + 4 ∧ r.t.sregs = f.t.sregs ∧ r.t.qregs = f.t.qregs ∧ r.t.joins = f.t.joins ∧
      r.t.active = f.t.active ∧ r.g = f.g ∧ f.SameBytes r)) ∧
  (∀ (s : State) (gang : Nat) (g : Gang), let u := s.unfocus
    u.gangs.find? (fun h => h.id == gang) = some g →
    (g.deadlocked = false → exec (.deadlockTrap gang) s = .next u) ∧
    ∀ t f, lowest g.strands = some t → g.deadlocked = true → u.strandAt f gang t.idx →
      exec (.deadlockTrap gang) s =
        .next (if t.wait = .regrp then f.trapHere ⟨.illegalState, f.t.active, 0, 1⟩
          else f.trapBoundary ⟨.illegalState, f.t.active, 0, 1⟩ false).unfocus) ∧
  (∀ (s f : State) (gang idx n : Nat) (seen : List (ByteRef × Byte)), s.strandAt f gang idx → f.t.wait = .join seen n →
    (f.joinDue = false → exec (.joinRecheck gang idx) s = .next f.unfocus) ∧
    ((n + 1024 ≤ f.cycle ∨ ∃ x ∈ seen, f.byteOf f.g.block x.1 ≠ x.2) →
      (∀ p scp a, f.instrHere = some (.join p scp a) →
        exec (.joinRecheck gang idx) s = exec (.join p scp a) f ∧ ∃ t, exec (.joinRecheck gang idx) s = .next t) ∧
      ∀ p scp a, f.instrHere = some (.joinSp p scp a) →
        exec (.joinRecheck gang idx) s = exec (.joinSp p scp a) f ∧ ∃ t, exec (.joinRecheck gang idx) s = .next t)) ∧
  ∀ (s f : State) (gang idx n : Nat), s.strandAt f gang idx → f.t.wait = .again n →
    ∀ p par d a, f.instrHere = some (.cwait p par d a) →
      exec (.cwaitDeadline gang idx) s = exec (.cwait p par d a) f ∧ ∃ t, exec (.cwaitDeadline gang idx) s = .next t

/-- XACQ_GRANT gives the only pending request of a core its block when it fits: every register of the block reads zero, the
request goes and its strand goes on past XACQ, no longer clean; one that does not fit waits (R154, R160). -/
def Sys2Proof.Claims.RequestsAreGranted : Prop :=
  ∀ (s f : State) (gang : Nat) (g : Gang) (x : XReq), let u := s.unfocus
    u.gangs.find? (fun h => h.id == gang) = some g → u.requestsOn g.core = [(gang, x)] → u.strandAt f gang x.strand →
    (u.blockFits g = false → exec (.xacqGrant gang) s = .next u) ∧
    (u.blockFits g = true → ∃ t r, exec (.xacqGrant gang) s = .next t ∧ t.strandAt r gang x.strand ∧ r.t.wait = .none ∧
      r.t.pc = f.t.pc + 4 ∧ r.t.clean = false ∧ r.t.sregs = f.t.sregs ∧ r.g.pregs = f.g.pregs ∧
      (∀ y ∈ r.g.xreqs, y.order ≠ x.order) ∧
      (x.what = 0 → r.g.heldV = true ∧ (∀ n l, 64 ≤ n → n < 128 → l < 64 → r.g.readV n l = 0) ∧
        ∀ n l, n < 64 → l < 64 → r.g.readV n l = f.g.readV n l) ∧
      (x.what = 5 → r.g.heldBt = true ∧ (∀ n i, r.g.btRow n i = 0) ∧ r.g.vregs = f.g.vregs) ∧
      (∀ n, n < 4 → x.what = n + 1 → r.g.heldAcc.getLsbD n = true ∧
        (∀ i j, i < 64 → j < 64 → r.g.readAcc n i j = 0) ∧
        (∀ m i j, m ≠ n → m < 4 → i < 64 → j < 64 → r.g.readAcc m i j = f.g.readAcc m i j) ∧ r.g.vregs = f.g.vregs))

/-! ## The copy engine -/

/-- The copy engine of a core goes on with the oldest command of the device it serves, by its kind, where it stopped; one that
waits on a page fault or, counted once, on a budget stays; the end of an OLOAD waits for the operations that still read its
slot (R183, R188, R233, R309, R320, R351, R354). -/
def Sys2Proof.Claims.CopyEnginesTakeCommands : Prop :=
  ∀ (s : State) (core : Nat) (c : CopyCmd), let u := s.unfocus
    let e : Instr := match c.kind with
      | .cpy _ _ _ => .copyExecute core
      | .hedit _ _ => .heditExecute core
      | .oload _ _ _ _ _ _ => .oloadExecute core
    u.headCopy core = some c →
    (c.waiting ≠ none → exec e s = .next u) ∧
    (c.waiting = none → c.pos < c.total → c.unitStart c.pos = true → c.due ≤ c.arrived → u.preempting c.block = false →
      (∃ k, u.verdict c.vd [⟨dieOf c.core, 3, 1, false⟩] = .defer k) →
      ∃ t outs, exec e s = .next t ∧
        t.copies = replaceFirst (fun x => x.id == c.id) { c with deferred := true, performed := false, outs := outs } u.copies ∧
        (c.outs ≠ [] ∨ (∀ a n f tr sc l, c.kind ≠ .oload a n f tr sc l) → outs = c.outs) ∧
        { t with copies := [], freeCount := 0 } =
          { (if c.deferred then u else u.count c.vd 13 1) with copies := [], freeCount := 0 }) ∧
    (c.waiting = none →
      (∀ p a b, c.kind = .cpy p a b → exec e s = .next (u.runCopy c a b)) ∧
      (∀ a st, c.kind = .hedit a st → exec e s = .next (u.runHedit c a st)) ∧
      ∀ a n f tr sc l, c.kind = .oload a n f tr sc l →
        exec e s = .next (u.runOload c a n f tr sc) ∧
        ∀ k fm, c.total ≤ c.pos → u.slotOf c.core n = some k → fmtOf f = some fm → k.incoming = none →
          (∀ m ∈ u.slotOps c.core n namesHandle, m.id < c.id → exec e s = .next u) ∧
          ((∀ m ∈ u.slotOps c.core n namesHandle, c.id ≤ m.id) → ∃ t k2, exec e s = .next t ∧ t.slotOf c.core n = some k2 ∧
            k2.incoming = some (slotImage fm f sc (slotRows fm sc c)) ∧ t.copies = u.copies))

namespace Sys2Proof.Machine

/-- The gang of a command, if it is left, has a strand, and its slots stay with it (R12, R228). -/
def State.GangStays (u : State) (gid : Nat) : Prop := ∀ g ∈ u.gangs, g.id = gid → g.strands ≠ []

end Sys2Proof.Machine

/-- A copy of one scratchpad element moves its bytes, raw between equal formats, to the destination's first element, and
nothing else of the scratchpad but the command's barrier changes; the command leaves its engine and memory is as before
(R182, R183). -/
def Sys2Proof.Claims.CopiesMoveTheirElement : Prop :=
  ∀ (s : State) (core : Nat) (c : CopyCmd) (p : Bool) (src dst : Side) (b : Block) (f : Fmt) (k from_ : Nat),
    let u := s.unfocus
    u.headCopy core = some c → c.kind = .cpy p src dst → c.waiting = none → c.failed = [] → c.pos = 0 → c.outs = [] →
    c.remote = [] → c.wrote = [] → u.verdict c.vd [⟨dieOf c.core, 3, 1, false⟩] = .admitted → u.blockOf c.block = some b → u.GangStays c.gang →
    src.spad = true → dst.spad = true → src.tiled = false → dst.tiled = false → src.idx = false → dst.idx = false →
    src.fmt = dst.fmt → fmtOf src.fmt = some f → f.width = 8 * k → 0 < k → src.count = 1 →
    rmodeOf (BitVec.ofNat 3 dst.rnd) ≠ none → c.origin.length = 4 → src.inBounds c.origin = true →
    dst.inBounds [0, 0, 0, 0] = true → src.bitPos c.origin = 8 * (from_ : Int) →
    (dst.base + k ≤ c.barrier ∨ c.barrier + 32 ≤ dst.base) →
    ∃ t d, exec (.copyExecute core) s = .next t ∧ t.copies = u.copies.filter (fun x => x.id != c.id) ∧
      t.blockOf c.block = some d ∧
      (∀ i, i < k → smGet 0 d.scratch (dst.base + i) = smGet 0 b.scratch (from_ + i)) ∧
      (∀ o, (o < dst.base ∨ dst.base + k ≤ o) → (o < c.barrier ∨ c.barrier + 32 ≤ o) →
        smGet 0 d.scratch o = smGet 0 b.scratch o) ∧
      (∀ key a, t.byteUnder key a = u.byteUnder key a) ∧ t.gangs = u.gangs

/-- An element from another package and a host store write their bytes under the keys of the lines they reach, an element of
4 bits a half of its byte, and a host store only within its device's share or host memory; a host load answers with the bytes
there, with all ones outside; the report of a command's element counts it as arrived, and the last ends the command (R362,
R369; that such accesses act under the key of the line is the model's choice, log entry 111). -/
def Obligations.OutsideAccessesReachMemory : Prop :=
  (∀ (e : Instr) (s : State) (refs : List ByteRef) (data : List Byte), let u := s.unfocus
    let keyed := fun (a : Nat) => (⟨false, canonOf a, (smGet noKey u.lineKey (canonOf a / 128)).key⟩ : ByteRef)
    (∃ link dpa sent half, e = .remoteElement link dpa ⟨sent, half⟩ ∧
        refs = (List.range sent.length).map (fun i => keyed (dpa + i)) ∧
        data = (refs.zip sent).map fun p => halfByte (u.byteUnder p.1.key p.1.addr) p.2 half) ∨
      (∃ vd mem off size v, e = .hostStore vd ⟨mem, off⟩ size v ∧ data = natBytes size v.toNat ∧
        refs = (List.range size).map (fun i => keyed (off + i)) ∧ u.hostRefs vd ⟨mem, off⟩ size = some refs) →
    (refs.map fun r => r.addr).Nodup → u.sound →
    ∃ t, exec e s = .next t ∧ t.bytesAt refs = data ∧ t.gangs = u.gangs ∧
      t.blocks.map (fun b => b.scratch) = u.blocks.map (fun b => b.scratch) ∧
      ∀ k a, (∀ r ∈ refs, r.addr / 128 ≠ a / 128) → t.byteUnder k a = u.byteUnder k a) ∧
  (∀ (s : State) (vd off size : Nat) (mem : Bool) (v : Addr), let u := s.unfocus
    let own := fun a => if mem then 2 ^ 48 ≤ a ∧ a < 2 ^ 52 ∧ u.fabricAt a = none
      else a < 2 ^ 39 ∧ u.inShare (u.vdev vd).part a = true
    ((∃ i, i < size ∧ ¬ own (off + i)) ↔ u.hostRefs vd ⟨mem, off⟩ size = none) ∧
    (u.hostRefs vd ⟨mem, off⟩ size = none →
      exec (.hostStore vd ⟨mem, off⟩ size v) s = .next { u with outbox := u.outbox ++ [.unsupported vd] } ∧
      exec (.hostLoad vd ⟨mem, off⟩ size) s = .next { u with
        outbox := u.outbox ++ [.read vd (BitVec.ofNat 64 (2 ^ (8 * size) - 1)), .unsupported vd] })) ∧
  (∀ (s : State) (vd off size : Nat) (mem : Bool) (refs : List ByteRef), let u := s.unfocus
    u.hostRefs vd ⟨mem, off⟩ size = some refs → u.sound →
    exec (.hostLoad vd ⟨mem, off⟩ size) s = .next { u with
      outbox := u.outbox ++ [.read vd (BitVec.ofNat 64 (leNat (u.bytesAt refs)))] }) ∧
  ∀ (s : State) (cmd elem : Nat) (c : CopyCmd), let u := s.unfocus
    u.copies.find? (fun x => x.id == cmd) = some c →
    let d := { c with remote := c.remote.filter fun x => x.1 != elem }
    ((∀ x ∈ c.remote, x.1 ≠ elem) → exec (.remoteElementPerformed cmd elem) s = .next u) ∧
    ((∃ x ∈ c.remote, x.1 = elem) → ∃ t, exec (.remoteElementPerformed cmd elem) s = .next t ∧
      (d.over = true → t.copies = u.copies.filter fun x => x.id != c.id) ∧
      (d.over = false → t.copies = replaceFirst (fun x => x.id == c.id)
        { d with arrived := d.arrived + (d.due - d.arrived), performed := decide (d.total ≤ d.pos) && d.outs.isEmpty }
        u.copies))

/-! ## Throttle, scheduling units, page faults and TLB invalidation -/

/-- A congestion signal lowers a core's level, acted on at most once in 1,000 ticks; 10,000 ticks after its last step the
level rises again, and it stays between 1 and 8 (R307). -/
def Sys2Proof.Claims.ThrottleLevelsStep : Prop :=
  ∀ (s : State) (core : Nat), let u := s.unfocus
    let h := smGet freshThrottle u.throttles core
    let set := fun (x : Throttle) => { u with throttles := smSet freshThrottle u.throttles core x }
    ((∃ k, h.lastSignal = some k ∧ u.tick < k + 1000) → exec (.congestionSignal core) s = .next u) ∧
    ((∀ k, h.lastSignal = some k → k + 1000 ≤ u.tick) →
      exec (.congestionSignal core) s = .next (set ⟨max 1 (h.k - 1), some u.tick, u.tick⟩)) ∧
    (h.k < 8 ∧ h.lastStep + 10000 ≤ u.tick →
      exec (.throttleRecovery core) s = .next (set ⟨h.k + 1, h.lastSignal, u.tick⟩)) ∧
    (¬ (h.k < 8 ∧ h.lastStep + 10000 ≤ u.tick) → exec (.throttleRecovery core) s = .next u)

/-- At the end of a slice a unit passes, for at least 2 µs, to the next device that has work for it, one of weight 0 only
where no other has; a bank engine inside a program with transfers outstanding keeps its device (R309, R310). -/
def Sys2Proof.Claims.UnitsPassOn : Prop :=
  ∀ (s : State) (q : GrantUnit) (n : Nat), let u := s.unfocus
    let others := u.grants.filter fun g => !(g.unit == q && g.num == n)
    let weighted := (u.workers q n).filter fun v => decide ((u.vdev v).weight q ≠ 0)
    (u.sliceOver q n = false → exec (.grantSliceExpiry q n) s = .next u) ∧
    (u.sliceOver q n = true → ∃ v,
      exec (.grantSliceExpiry q n) s = .next { u with grants := others ++ [⟨q, n, v, u.tick + u.sliceOf q n v⟩] } ∧
      v ∈ u.workers q n ∧ 2000 ≤ u.sliceOf q n v ∧ (weighted ≠ [] → v ∈ weighted) ∧
      ∀ w ∈ u.claimants q n, ∀ cur, u.grantedTo q n = some cur → cur < w → cur < v ∧ v ≤ w) ∧
    (u.workers q n = [] → u.sliceOver q n = false) ∧
    (u.bankHeld q n = true → u.grantedTo q n ≠ none → u.sliceOver q n = false) ∧
    (u.grantedTo q n = none → u.workers q n ≠ [] → u.sliceOver q n = true) ∧
    ∀ g, u.grants.find? (fun g => g.unit == q && g.num == n) = some g → u.bankHeld q n = false →
      (g.ends ≤ u.tick → (∃ w ∈ u.claimants q n, w ≠ g.vd) → u.sliceOver q n = true) ∧
      (u.tick < g.ends → g.vd ∈ u.claimants q n → u.sliceOver q n = false)

/-- An answer to a page-fault record ends it: a strand that stalls on it goes on at its word, or takes translation-fault with
the values it stalled with when the answer is fail; an answer that names no record is ignored, and a record that times
out is answered fail (R319, R335, R346). -/
def Sys2Proof.Claims.PageFaultsAreAnswered : Prop :=
  (∀ (s : State) (vd : Nat) (v : Addr), let u := s.unfocus
    let rec_ := v.toNat % 2 ^ 32
    ((∀ r ∈ u.pfrecs, ¬ (r.vd = vd ∧ r.id = rec_)) → exec (.pfans vd v) s = .next u) ∧
    ∀ g x mask addr info, (∃ r ∈ u.pfrecs, r.vd = vd ∧ r.id = rec_) → u.gangs = [g] → g.vd = vd → g.strands = [x] →
      x.wait = .fault rec_ mask addr info →
      let f := ({ u with pfrecs := u.pfrecs.filter fun r => !(r.vd == vd && r.id == rec_) }).focus g.id x.idx
      let woken := { f with t := { f.t with wait := .none, since := u.cycle + 1, opens := u.cycle + 1 } }
      let tr : Trap := ⟨.translationFault, mask, addr, info⟩
      let w := if v.getLsbD 32 then
          (if x.clause.isSome then woken.trapHere tr else woken.trapBoundary tr false) else woken
      ∃ t, exec (.pfans vd v) s = .next t ∧ { t with copies := [] } = { w.unfocus with copies := [] } ∧
        t.copies = u.copies.map fun c =>
          match c.waiting with
          | some (r, e) =>
            if c.vd = vd ∧ r = rec_ then
              { c with waiting := none, failed := if v.getLsbD 32 then e :: c.failed else c.failed } else c
          | none => c) ∧
  ∀ (s : State) (vd rec_ : Nat) (r : PfRec), let u := s.unfocus
    u.pfrecs.find? (fun x => x.vd == vd && x.id == rec_) = some r → rec_ < 2 ^ 32 →
    (u.tick < r.tick + 1000 * (u.vdev vd).pfto → exec (.faultTimeout vd rec_) s = .next u) ∧
    (r.tick + 1000 * (u.vdev vd).pfto ≤ u.tick →
      exec (.faultTimeout vd rec_) s = exec (.pfans vd (BitVec.ofNat 64 (2 ^ 32 + rec_))) s ∧
        ∃ t, exec (.faultTimeout vd rec_) s = .next t)

/-- TLBI makes BUSY read 1, and it reads 0 again, with the device's cached translations gone, once every access translated
before it has been performed (R334). -/
def Sys2Proof.Claims.TlbInvalidationsFinish : Prop :=
  ∀ (s : State) (vd : Nat), let u := s.unfocus
    let sets := fun (t : State) (b : Option Nat) => t.vdev vd = { u.vdev vd with busy := b } ∧ ∀ w, w ≠ vd → t.vdev w = u.vdev w
    (vd < 256 → ∃ t, exec (.tlbi vd) s = .next t ∧ sets t (some u.nextId) ∧ t = { u with vdevs := t.vdevs }) ∧
    (∀ n, (u.vdev vd).busy = some n → u.flushed vd n = true → ∃ t, exec (.tlbInvalidationDone vd) s = .next t ∧
      sets t none ∧ t = { u with vdevs := t.vdevs, cached := t.cached } ∧ ∀ c, c ∈ t.cached ↔ c ∈ u.cached ∧ c.vd ≠ vd) ∧
    (((u.vdev vd).busy = none ∨ ∃ n, (u.vdev vd).busy = some n ∧ u.flushed vd n = false) →
      exec (.tlbInvalidationDone vd) s = .next u)

/-! ## Pre-emption -/

namespace Sys2Proof.Machine

/-- A strand whose storage and registers are as they were; its wait, place and timing may differ. -/
def Strand.SameRegs (x y : Strand) : Prop :=
  y.idx = x.idx ∧ y.active = x.active ∧ y.sregs = x.sregs ∧ y.qregs = x.qregs ∧ y.fmtr = x.fmtr ∧ y.cvmr = x.cvmr ∧
    y.joins = x.joins ∧ y.handler = x.handler ∧ y.clean = x.clean

end Sys2Proof.Machine

/-- A pre-emption request marks a resident block once, counted; its clean strands that are not eligible or stand at a boundary
stop, but for those parked, decoding or held at a release, and every other strand runs on; its die's arithmetic clock is at
least 1.2 GHz; a block that is saved or already being pre-empted is left as it is (R312, R313, R316, R354). -/
def Sys2Proof.Claims.PreemptionIsRequested : Prop :=
  ∀ (s : State) (block : Nat), let u := s.unfocus
    ((∀ b, u.blockOf block = some b → b.saved = true ∨ b.preemptFrom ≠ none) → exec (.preemptionRequest block) s = .next u) ∧
    ∀ b, u.blockOf block = some b → b.saved = false → b.preemptFrom = none →
      ∃ t, exec (.preemptionRequest block) s = .next t ∧ t.blockOf block = some { b with preemptFrom := some u.cycle } ∧
        smGet 0 (t.vdev b.vd).counters 15 = (smGet 0 (u.vdev b.vd).counters 15 + 1) % 2 ^ 64 ∧
        12 ≤ (t.die (dieOf b.core)).clock ∧ (∀ d, d ≠ dieOf b.core → t.die d = u.die d) ∧
        (12 ≤ (u.die (dieOf b.core)).clock → t.dies = u.dies) ∧
        t.gangs.map (fun g => g.id) = u.gangs.map (fun g => g.id) ∧
        ∀ (n : Nat) (g h : Gang), u.gangs[n]? = some g → t.gangs[n]? = some h →
          (g.block ≠ block → h = g) ∧
          (g.block = block → h = { g with strands := h.strands, xreqs := h.xreqs } ∧
            ∀ (i : Nat) (x y : Strand), g.strands[i]? = some x → h.strands[i]? = some y → x.SameRegs y ∧
              ((x.clean = false ∨ (x.wait = .none ∧ x.haltedBy = none ∧ x.clause ≠ none)) → y = x) ∧
              (x.clean = true → (x.wait = .none ∧ x.clause = none) ∨ (∃ h, x.wait = .hold h) ∨ (∃ k, x.wait = .again k) ∨
                (∃ b k, x.wait = .join b k) ∨ (∃ n p a, x.wait = .bar n p a) ∨ (∃ r m a i, x.wait = .fault r m a i) ∨
                x.wait = .xacq ∨ (∃ k, x.wait = .sleep k) → y.wait = .stopped) ∧
              (x.wait = .parked ∨ x.wait = .regrp ∨ (∃ o k, x.wait = .decode o k) ∨ (∃ o, x.wait = .heldBar o) → y = x))

/-- When the run-on of a block has ended and nothing that its gangs issued is outstanding, the block is saved: its gangs leave
their core, a strand that was not clean with its registers whole; before that nothing happens (R313, R314). -/
def Sys2Proof.Claims.BlocksAreSaved : Prop :=
  ∀ (s : State) (block t0 : Nat) (b : Block), let u := s.unfocus
    u.blockOf block = some b → b.preemptFrom = some t0 →
    (u.runonOver b t0 = false → exec (.preemptRunonEnd block) s = .next u) ∧
    ∀ g, u.runonOver b t0 = true → u.gangs = [g] → g.block = block → u.issuedLeft g = false →
      (∀ x ∈ g.strands, x.clean = false ∧ ∀ o, x.wait ≠ .heldBar o) →
      ∃ t h, exec (.preemptRunonEnd block) s = .next t ∧
        t.blockOf block = some { b with saved := true, preemptFrom := none } ∧ t.gangs = [h] ∧ h.saved = true ∧ h.id = g.id ∧
        h.vregs = g.vregs ∧ h.pregs = g.pregs ∧ h.acc = g.acc ∧ h.bt = g.bt ∧ h.handles = g.handles ∧ h.exited = g.exited ∧
        ∀ (i : Nat) (x y : Strand), g.strands[i]? = some x → h.strands[i]? = some y → x.SameRegs y ∧ y.pending = x.pending

/-- A saved block resumes on a core of its partition on which all of it fits: its gangs stand on that core, eligible where
they had stopped, their registers as saved, and no word of theirs is kept from an earlier fetch; where it does not fit nothing
happens (R228, R315, R317). -/
def Sys2Proof.Claims.BlocksResume : Prop :=
  ∀ (s : State) (block core : Nat) (b : Block), let u := s.unfocus
    u.blockOf block = some b →
    (u.resumeAt b core = none → exec (.blockResume block core) s = .next u) ∧
    ∀ fs g, u.resumeAt b core = some fs → u.gangs = [g] → g.block = block → b.id = block → g.handles = [] →
      ∃ t h, exec (.blockResume block core) s = .next t ∧ t.blockOf block = some { b with core := core, saved := false } ∧
        t.gangs = [h] ∧ h.core = core ∧ h.saved = false ∧ h.firstPipe = fs.headD 0 ∧ h.vregs = g.vregs ∧ h.pregs = g.pregs ∧
        h.acc = g.acc ∧ h.bt = g.bt ∧
        ∀ (i : Nat) (x y : Strand), g.strands[i]? = some x → h.strands[i]? = some y → x.SameRegs y ∧ y.pc = x.pc ∧
          (x.wait = .stopped → y.wait = .none) ∧ (x.wait ≠ .stopped → y.wait = x.wait) ∧
          (∀ c, y.clause = some c → c.words = []) ∧ ∀ c, y.held = some c → c.words = []

/-! ## The host's side of a device -/

namespace Sys2Proof.Machine

/-- Only a virtual device has changed. -/
def State.OnlyVdev (u t : State) (vd : Nat) (d : VDev) : Prop :=
  t.vdev vd = d ∧ (∀ w, w ≠ vd → t.vdev w = u.vdev w) ∧ t = { u with vdevs := t.vdevs }

end Sys2Proof.Machine

/-- A write to a register of the control page or partition window changes its writable fields alone: read-only fields,
reserved bits and offsets that hold no register ignore it (R5, R335, R353, R363). -/
def Obligations.RegisterWritesChangeTheirFields : Prop :=
  ∀ (s : State) (vd off : Nat) (v : Addr), let u := s.unfocus
    let d := u.vdev vd
    let f := fun (lo n : Nat) => v.toNat / 2 ^ lo % 2 ^ n
    let gives := fun (o : Nat) (e : VDev) => vd < 256 → ∃ t, exec (.registerWrite vd 0 o v) s = .next t ∧ u.OnlyVdev t vd e
    gives 0x010 { d with tvecd := v } ∧
    gives 0x018 { d with dbgv := BitVec.ofNat 8 (f 0 8), pfv := BitVec.ofNat 8 (f 8 8), tlv := BitVec.ofNat 8 (f 16 8) } ∧
    gives 0x020 { d with tlogb := v } ∧ gives 0x028 { d with tlogt := f 16 7 } ∧
    gives 0x030 { d with rlogb := v } ∧ gives 0x038 { d with rlogt := f 16 7 } ∧
    gives 0x040 { d with weights := BitVec.ofNat 32 (f 0 32) } ∧
    gives 0x200 { d with tkey := f 0 11, troot := BitVec.ofNat 64 (4096 * f 12 52) } ∧
    gives 0x208 { d with rtab := v } ∧ gives 0x210 { d with rcnt := f 0 9, rpf := f 9 1 == 1 } ∧
    gives 0x220 { d with pfqb := v } ∧ gives 0x22C { d with pfqt := f 0 7 } ∧ gives 0x238 { d with pfto := f 0 32 } ∧
    (∀ n, n < 4 → gives (0x100 + 32 * n + 8) { d with killi := smSet 100 d.killi n (f 0 32) } ∧
      gives (0x100 + 32 * n + 12) { d with fvec := smSet 0 d.fvec n (f 0 8) } ∧
      gives (0x100 + 32 * n + 16) { d with fword := smSet 0 d.fword n v }) ∧
    (∀ n, n < 8 → gives (0x524 + 4 * n) { d with inw := smSet 0 d.inw n (BitVec.ofNat 32 (f 0 32)) }) ∧
    gives 0x544 { d with iseq := BitVec.ofNat 32 (f 0 32) } ∧
    gives 0x000 d ∧ gives 0x004 d ∧ gives 0x02C d ∧ gives 0x03C d ∧ gives 0x048 d ∧ gives 0x228 d ∧ gives 0x520 d ∧
    (256 ≤ vd → ∀ w, exec (.registerWrite vd w off v) s = .next u) ∧
    (vd < 256 → u.windowActs vd (off / 4096) = true → off % 4096 = 0x204 →
      exec (.registerWrite vd 1 off v) s = .next { u with
        parts := u.parts.map fun p => if p.num = off / 4096 then { p with blogt := f 0 6 } else p }) ∧
    (u.windowActs vd (off / 4096) = false ∨ off % 4096 ≠ 0x204 → exec (.registerWrite vd 1 off v) s = .next u)

/-- A read of TLOGO, RLOGO or BLOGO answers with the count of dropped records and clears it, BLOGO only for a function that
may act through the page; STRM starts a job with its level in a free slot below 4 of a device that is not in reset;
a running device's pending interrupts reach the host once each and are cleared (R19, R353, R356, R363, R364). -/
def Sys2Proof.Claims.HostEventsAct : Prop :=
  (∀ (s : State) (vd page : Nat), let u := s.unfocus
    let told := fun (v : Nat) => u.outbox ++ [.read vd (BitVec.ofNat 64 v)]
    (vd < 256 → ∃ t, exec (.tlogo vd) s = .next t ∧ t.outbox = told (u.vdev vd).tlogo ∧
      u.OnlyVdev { t with outbox := u.outbox } vd { u.vdev vd with tlogo := 0 }) ∧
    (vd < 256 → ∃ t, exec (.rlogo vd) s = .next t ∧ t.outbox = told (u.vdev vd).rlogo ∧
      u.OnlyVdev { t with outbox := u.outbox } vd { u.vdev vd with rlogo := 0 }) ∧
    ∀ p, u.part page = some p →
      (u.windowActs vd page = true → exec (.blogo vd page) s = .next { u with
        outbox := told p.blogo, parts := u.parts.map fun q => if q.num = page then { q with blogo := 0 } else q }) ∧
      (u.windowActs vd page = false → p.num ≠ (u.vdev vd).part → p.parent ≠ some (u.vdev vd).part →
        exec (.blogo vd page) s = .next { u with outbox := told 0 }) ∧
      (u.windowActs vd page = false → p.parent = some (u.vdev vd).part →
        exec (.blogo vd page) s = .next { u with outbox := told p.blogo })) ∧
  (∀ (s : State) (vd slot : Nat) (addr : Addr), let u := s.unfocus
    (256 ≤ vd ∨ 4 ≤ slot ∨ u.jobAt vd slot ≠ none ∨ (u.vdev vd).resetting = true → exec (.strm vd slot addr) s = .next u) ∧
    (vd < 256 → slot < 4 → u.jobAt vd slot = none → (u.vdev vd).resetting = false →
      ∃ j l, exec (.strm vd slot addr) s = .next { u with
          nextId := u.nextId + 1, levels := u.levels ++ [l], jobs := u.jobs ++ [j] } ∧
        j.vd = vd ∧ j.slot = slot ∧ j.pc = addr ∧ j.seg = addr ∧ j.level = u.nextId ∧ j.loops = [] ∧ j.phase = none ∧
        j.graph = none ∧ j.wait = .none ∧ j.ended = false ∧ j.faulted = false ∧ l.id = u.nextId ∧ l.kind = .job ∧
        l.state = 1 ∧ l.parent = none ∧ l.record = none)) ∧
  ∀ (s : State) (vd : Nat), let u := s.unfocus
    let d := u.vdev vd
    let off := u.blocks.any (fun b => b.vd == vd) ∧ ∀ b ∈ u.blocks, b.vd = vd → b.saved = true ∨ b.preemptFrom ≠ none
    (d.paused = true ∨ d.resetting = true ∨ off → exec (.interruptDelivery vd) s = .next u) ∧
    (vd < 256 → d.paused = false → d.resetting = false → ¬ off → ∃ t, exec (.interruptDelivery vd) s = .next t ∧
      t.outbox = u.outbox ++ d.intr.map (fun p => .interrupt vd p.1) ∧
      u.OnlyVdev { t with outbox := u.outbox } vd { d with intr := [] })

/-- A function reset of a quiet device puts its control page at its After reset values, revokes its keys, drops its work and
marks the pages of its share that hold data for clearing; those read as zero until they are written, and a page that is
cleared is stored as zero and released (R357, R358, R363). -/
def Sys2Proof.Claims.ResetsClearTheirDevice : Prop :=
  (∀ (s : State) (vd : Nat), let u := s.unfocus
    let d := u.vdev vd
    vd < 256 → d.resetting = true → u.quiet vd = true →
    ∃ t, exec (.rst vd) s = .next t ∧ t.vdev vd = { VDev.init with
        id := vd, part := d.part, mgr := d.mgr, epoch := d.epoch, toff := d.toff, tickOff := d.tickOff, pfNext := d.pfNext } ∧
      t.genOf d.tkey = u.genOf d.tkey + 1 ∧ (∀ k ∈ u.deviceKeys vd, t.genOf k = u.genOf k + 1) ∧
      (∀ k, k ∉ u.deviceKeys vd → t.genOf k = u.genOf k) ∧ (∀ c ∈ t.cached, c.vd ≠ vd) ∧
      (∀ j ∈ t.jobs, j.vd ≠ vd) ∧ (∀ l ∈ t.levels, l.vd ≠ vd) ∧
      (∀ b ∈ t.blocks, b.vd ≠ vd) ∧ (∀ r ∈ t.pfrecs, r.vd ≠ vd) ∧ t.gangs = u.gangs ∧
      ∀ k a, a / 4096 ∈ u.dirtyPages vd → t.byteUnder k a = 0) ∧
  (∀ (s : State) (vd : Nat), let u := s.unfocus
    vd < 256 → (u.vdev vd).resetting = false → u.gangs.Pairwise (fun g h => g.id ≠ h.id) →
    ∃ t, exec (.rst vd) s = .next t ∧ ((t.vdev vd).rdone = true ∨ (t.vdev vd).resetting = true) ∧
      (∀ h ∈ t.gangs, h.vd = vd → h.strands = []) ∧ (∀ h ∈ u.gangs, h.vd ≠ vd → h.xreqs = [] → h ∈ t.gangs) ∧
      ∀ j ∈ t.jobs, j.vd = vd → j.faulted = true) ∧
  ∀ (s : State) (page : Nat), let u := s.unfocus
    ((∀ p ∈ u.pendingClear, p.1 ≠ page) → exec (.pageClear page) s = .next u) ∧
    ∀ marked, u.pendingClear.find? (fun p => p.1 == page) = some (page, marked) → smWf 0 u.softErrors = true →
      ∃ t, exec (.pageClear page) s = .next t ∧ (∀ p ∈ t.pendingClear, p.1 ≠ page) ∧ t.gangs = u.gangs ∧ t.blocks = u.blocks ∧
        (∀ k a, a / 4096 ≠ page → t.byteUnder k a = u.byteUnder k a) ∧
        (∀ k a, a / 4096 = page → a % 4096 / 32 ∈ marked → t.byteUnder k a = u.byteUnder k a) ∧
        ∀ k a, a / 4096 = page → (∀ i, i < 4 → a % 4096 / 128 * 4 + i ∉ marked) → t.byteUnder k a = 0

/-! ## Bring-up, power, partitions and the management interface -/

/-- At power good the first valid firmware slot runs, device memory is zero, the bad-page list is in force and one partition
holds everything; without a valid image nothing comes up, and a package that runs stays (R343, R370, R372). -/
def Sys2Proof.Claims.BringUp : Prop :=
  ∀ (s : State), let u := s.unfocus
    (u.powered = true ∨ (u.fwA.valid = false ∧ u.fwB.valid = false) → exec .powerGood s = .next u) ∧
    (u.powered = false → u.fwA.valid = true ∨ u.fwB.valid = true →
      ∃ t, exec .powerGood s = .next t ∧ t.powered = true ∧ t.fwActive = (if u.fwA.valid then 0 else 1) ∧
        t.badPages = u.badList ∧ t.dies = [] ∧ t.poison.filter (fun c => isDevice (32 * c)) = [] ∧
        t.softErrors.filter (fun e => isDevice (32 * e.1)) = [] ∧
        t.mem.filter (fun c => isDevice c.1) = [] ∧
        t.mem.filter (fun c => !(isDevice c.1)) = u.mem.filter (fun c => !(isDevice c.1)) ∧
        t.gangs = u.gangs ∧ t.parts.map (fun p => (p.num, p.parent, p.budgets, p.firmware)) = [(0, none, [], t.fwActive)] ∧
        ∀ p ∈ t.parts, p.res.cores = List.range 256 ∧ p.res.bankChannels = List.range 512 ∧ p.res.keys = List.range 2048)

/-- A die changes its power state as told, D2 and D3 only while no block is resident on it and no partition lists it, and its
memory is zero when it leaves D3 (R372, R373). -/
def Sys2Proof.Claims.DiesChangePower : Prop :=
  ∀ (s : State) (d st : Nat), let u := s.unfocus
    (4 ≤ d ∨ 4 ≤ st ∨ (2 ≤ st ∧ u.dieFree d = false) → exec (.diePowerState d st) s = .next u) ∧
    (d < 4 → st < 4 → (2 ≤ st → u.dieFree d = true) →
      ∃ t, exec (.diePowerState d st) s = .next t ∧ (t.die d).power = st ∧ (t.die d).clock = (u.die d).clock ∧
        (∀ e, e ≠ d → t.die e = u.die e) ∧ t.gangs = u.gangs ∧
        (¬ ((u.die d).power = 3 ∧ st ≠ 3) → t.mem = u.mem) ∧
        ((u.die d).power = 3 → st ≠ 3 → t.mem = u.mem.filter fun c => !(isDevice c.1 && pcOf c.1 / 128 == d)))

/-- At each multiple of 100,000 ticks every budget keeps only what each die used over its share; every 10 microseconds the governor
budgets are counted anew and the governor steps by the estimated draw, whatever it is, within its limits: a clock by 100 MHz, or every governor budget by an
eighth (R351, R373; that the estimate is a free value is the model's choice, log entry 3). -/
def Sys2Proof.Claims.PeriodsPass : Prop :=
  (∀ (s : State), let u := s.unfocus
    (u.tick / 100000 * 100000 ≤ u.budgetAt → exec .budgetPeriod s = .next u) ∧
    (u.budgetAt < u.tick / 100000 * 100000 → ∃ t, exec .budgetPeriod s = .next t ∧
      t.budgetAt = u.tick / 100000 * 100000 ∧ t = { u with budgetAt := t.budgetAt, parts := t.parts } ∧
      ∀ (n : Nat) (p q : Part), u.parts[n]? = some p → t.parts[n]? = some q → q = { p with budgets := q.budgets } ∧
        ∀ k b, (k, b) ∈ p.budgets → (k, { b with
          used := (b.used.map fun x => (x.1, x.2 - b.limit / max 1 (u.partDies p).length)).filter fun x => x.2 != 0 })
            ∈ q.budgets)) ∧
  ∀ (s : State), let u := s.unfocus
    (u.tick / 10000 * 10000 ≤ u.governorAt → exec .governorPeriod s = .next u) ∧
    (u.governorAt < u.tick / 10000 * 10000 → ∃ t, exec .governorPeriod s = .next t ∧
      t.governorAt = u.tick / 10000 * 10000 ∧
      t = { u with governorAt := t.governorAt, governorLow := t.governorLow, governorUsed := [], dies := t.dies, freeCount := t.freeCount } ∧
      ∀ d, (t.die d).power = (u.die d).power ∧ (t.die d).clock ≤ (u.die d).clock + 1 ∧
        (u.die d).clock ≤ (t.die d).clock + 1 ∧ (t.die d).eighths ≤ (u.die d).eighths + 1 ∧
        (u.die d).eighths ≤ (t.die d).eighths + 1 ∧
        (u.clockFloor d ≤ (u.die d).clock → u.clockFloor d ≤ (t.die d).clock) ∧ (1 ≤ (u.die d).eighths → 1 ≤ (t.die d).eighths) ∧
        ((u.die d).clock ≤ 24 → (t.die d).clock ≤ 24) ∧ ((u.die d).eighths ≤ 8 → (t.die d).eighths ≤ 8))

/-- Repairs change only what they count: a spare lane, with an error logged for one of a stack, a replay, a link that is down
once, whose elements in flight are waited for no longer; a patrol scrub finds every error that device memory holds and leaves
every listed byte, gang and block; a page is listed once, and past 4,096 pages the request is refused (R341-R343, R345, R366,
R368; where a failed lane shows is the model's choice, log entry 108). -/
def Sys2Proof.Claims.RepairsAreCounted : Prop :=
  ∀ (s : State) (n : Nat), let u := s.unfocus
    let up := fun (m : SMap Nat) => smSet 0 m n (smGet 0 m n + 1)
    (exec (.laneRemap .link n) s = .next { u with linkSpares := up u.linkSpares } ∧
      ∀ sec, ∃ t, exec (.laneRemap (.stack sec) n) s = .next t ∧
        t = { u with dqSpares := up u.dqSpares, faultQ := t.faultQ, faultOver := t.faultOver } ∧
        (∀ k, k ≠ n → smGet [] t.faultQ k = smGet [] u.faultQ k) ∧
        ((∀ e ∈ smGet [] u.faultQ n, e.addr ≠ sec / 32 * 32) →
          ((smGet [] u.faultQ n).length < 256 →
            smGet [] t.faultQ n = smGet [] u.faultQ n ++ [⟨sec / 32 * 32, 4, 1, u.tick % 2 ^ 32⟩]) ∧
          (256 ≤ (smGet [] u.faultQ n).length → smGet 0 t.faultOver n = smGet 0 u.faultOver n + 1))) ∧
    exec (.flitReplay n) s = .next { u with replays := up u.replays } ∧
    (n ∈ u.cxlDown → exec (.cxlLinkDown n) s = .next u) ∧
    (n ∉ u.cxlDown → exec (.cxlLinkDown n) s = .next { u with cxlDown := u.cxlDown ++ [n] }) ∧
    (n ∈ u.linksDown → exec (.linkDown n) s = .next u) ∧
    (n ∉ u.linksDown → (∀ c ∈ u.copies, ∀ x ∈ c.remote, x.2 ≠ n) →
      exec (.linkDown n) s = .next { u with linksDown := u.linksDown ++ [n] }) ∧
    (n ∉ u.linksDown → u.copies.Pairwise (fun c d => c.id ≠ d.id) → ∃ t, exec (.linkDown n) s = .next t ∧
      t.linksDown = u.linksDown ++ [n] ∧ ∀ c ∈ t.copies, ∀ x ∈ c.remote, x.2 ≠ n) ∧
    (n ∈ u.badList → exec (.badPageRequest n) s = .next u) ∧
    (n ∉ u.badList → 4096 ≤ u.badList.length →
      exec (.badPageRequest n) s = .next { u with outbox := u.outbox ++ [.refusal n] }) ∧
    (n ∉ u.badList → u.badList.length < 4096 → exec (.badPageRequest n) s = .next { u with badList := u.badList ++ [n] }) ∧
    ∃ t, exec .patrolScrub s = .next t ∧ t.strikes = u.strikes.tail ∧ t.mem = u.mem ∧ t.lineKey = u.lineKey ∧ t.gangs = u.gangs ∧
      t.blocks = u.blocks ∧ (∀ x ∈ u.poison, x ∈ t.poison) ∧
      (∀ x, (x, 2) ∈ u.softErrors → smGet 0 u.softErrors x = 2 → isDevice (32 * x) = true → x ∈ t.poison) ∧
      (u.strikes.head?.getD [] = [] → ∀ x, isDevice (32 * x) = true → smGet 0 t.softErrors x = 0)

/-- A partition is created when its number is free, one who may asks for it, the platform manager or for a child a manager of
the parent, and its plan keeps R347, its resources taken from its parent and its devices assigned to it; a plan that does not
is refused. A change of plan is applied once no block of the partition is on a
core; and a manager of a parent, or for a top-level partition the platform manager, writes a budget's control word (R347,
R348, R350, R353, R360, R363, R366, R375). -/
def Obligations.PartitionsArePlanned : Prop :=
  (∀ (s : State) (n : Nat) (by_ parent : Option Nat) (res : Resources) (devices managers : List Nat), let u := s.unfocus
    let may := (by_ = none ∧ parent = none) ∨ ∃ v m, by_ = some v ∧ parent = some m ∧ (u.vdev v).mgr = true ∧
      (u.vdev v).part = m ∧ ∀ d ∈ devices, (u.vdev d).part = m
    (32 ≤ n ∨ u.part n ≠ none ∨ ¬ may ∨ u.planFits n parent res = false →
      exec (.partitionCreate n ⟨by_, parent⟩ res devices managers) s = .next { u with outbox := u.outbox ++ [.refusal n] }) ∧
    (u.planFits n parent res = true → res.extents.length ≤ 64 ∧
      (∀ q ∈ u.parts, q.num ≠ n → q.parent = parent → ∀ c ∈ q.res.cores, c ∉ res.cores) ∧
      (parent = none → ∀ c ∈ res.cores, c < 256) ∧
      ∀ m, parent = some m → ∃ q, u.part m = some q ∧ q.parent = none ∧ (∀ c ∈ res.cores, c ∈ q.res.cores) ∧
        (∀ c ∈ res.bankChannels, c ∈ q.res.bankChannels) ∧ (∀ c ∈ res.keys, c ∈ q.res.keys) ∧
        ∀ c ∈ res.links, c ∈ q.res.links) ∧
    (n < 32 → u.part n = none → may → u.planFits n parent res = true →
      ∃ t p, exec (.partitionCreate n ⟨by_, parent⟩ res devices managers) s = .next t ∧ t.part n = some p ∧ p.res = res ∧
        p.parent = parent ∧ p.budgets = [] ∧ p.firmware = u.fwActive ∧ t.gangs = u.gangs ∧ t.mem = u.mem ∧
        (∀ v ∈ devices, v < 256 → (t.vdev v).part = n ∧ ((t.vdev v).mgr = true ↔ by_ = none ∧ v ∈ managers)) ∧
        (∀ v, v ∉ devices ∨ 256 ≤ v → t.vdev v = u.vdev v) ∧
        ∀ m q r, parent = some m → u.part m = some q → t.part m = some r → r.res.extents = q.res.extents ∧
          ∀ c, c ∈ r.res.cores ↔ c ∈ q.res.cores ∧ c ∉ res.cores)) ∧
  (∀ (s : State) (n : Nat) (res : Resources) (failed : List Nat) (p : Part), let u := s.unfocus
    let back := match p.parent with
      | some m => u.modPart m fun q => { q with res := resPlus q.res p.res }
      | none => u
    let own := (back.childParts n).foldl (fun r q => resLess r q.res) res
    let spares := back.spareFor (failed.filter res.cores.contains)
    u.part n = some p →
    (u.onCores (u.devicesOf n) = [] → back.planFits n p.parent res = false ∨ spares = none →
      exec (.rePlan n ⟨res, failed⟩) s = .next { u with outbox := u.outbox ++ [.refusal n] }) ∧
    (∀ m, spares = some m → u.onCores (u.devicesOf n) = [] → back.planFits n p.parent res = true →
      ∃ t, exec (.rePlan n ⟨res, failed⟩) s = .next t ∧ t.part n = some { p with res := own } ∧ t.coreSpares = m ∧
        (∀ m, m ≠ n → p.parent ≠ some m → t.part m = u.part m) ∧ t.gangs = u.gangs ∧ t.mem = u.mem ∧
        ∀ c ∈ t.cxlDown, c ∈ u.cxlDown) ∧
    (u.onCores (u.devicesOf n) ≠ [] → ∃ t, exec (.rePlan n ⟨res, failed⟩) s = .next t ∧ t.parts = u.parts ∧
      ∀ m b, t.blockOf m = some b → b.vd ∈ u.devicesOf n → b.saved = true ∨ b.preemptFrom ≠ none)) ∧
  ∀ (s : State) (by_ : Option Nat) (n k : Nat) (v : Addr) (p : Part), let u := s.unfocus
    let may := match by_ with
      | some d => (u.vdev d).mgr = true ∧ p.parent = some (u.vdev d).part
      | none => p.parent = none
    u.part n = some p →
    (¬ may ∨ 8 < k → exec (.budgetControlWrite by_ n k v) s = .next u) ∧
    (may → k ≤ 8 → ∃ t q, exec (.budgetControlWrite by_ n k v) s = .next t ∧ t.part n = some q ∧
      q = { p with budgets := q.budgets } ∧
      q.budget k = { p.budget k with limit := v.toNat % 2 ^ 40, refuse := v.getLsbD 40, en := v.getLsbD 41 } ∧
      (∀ j, j ≠ k → q.budget j = p.budget j) ∧ t = { u with parts := t.parts })

/-- A migration advances the device's placement epoch, modulo 16, once its blocks are off the cores, its guest time going on from
what it was, and until then pauses it and pre-empts them; a live update or a fallback moves a partition to its other slot in the same way; an image that does not
verify is refused (R186, R323, R355, R370, R374). -/
def Obligations.DevicesMoveAndUpdate : Prop :=
  (∀ (s : State) (vd : Nat), let u := s.unfocus
    (256 ≤ vd → exec (.migration vd) s = .next u) ∧
    (vd < 256 → u.onCores [vd] = [] → ∃ t, exec (.migration vd) s = .next t ∧ t.guestTime vd = u.guestTime vd % 2 ^ 64 ∧ (t.vdev vd).epoch = ((u.vdev vd).epoch + 1) % 16 ∧
      (t.vdev vd).paused = false ∧ t.gangs = u.gangs ∧ t.blocks = u.blocks ∧ t.mem = u.mem) ∧
    (vd < 256 → u.onCores [vd] ≠ [] → ∃ t, exec (.migration vd) s = .next t ∧ (t.vdev vd).paused = true ∧
      (t.vdev vd).epoch = (u.vdev vd).epoch ∧
      ∀ m b, t.blockOf m = some b → b.vd = vd → b.saved = true ∨ b.preemptFrom ≠ none)) ∧
  ∀ (s : State) (n : Nat) (p : Part), let u := s.unfocus
    let slot := 1 - u.fwActive
    let runs := fun (t : State) (f : Nat) (at_ : Option Nat) =>
      t.part n = some { p with firmware := f, switchedAt := at_ } ∧ t.gangs = u.gangs ∧ t.mem = u.mem
    u.part n = some p →
    ((if slot = 0 then u.fwA else u.fwB).valid = false ∨ p.firmware = slot →
      exec (.liveUpdate n) s = .next { u with outbox := u.outbox ++ [.refusal slot] }) ∧
    ((if slot = 0 then u.fwA else u.fwB).valid = true → p.firmware ≠ slot → u.onCores (u.devicesOf n) = [] →
      ∃ t, exec (.liveUpdate n) s = .next t ∧ runs t slot (some u.tick)) ∧
    (∀ k, p.switchedAt = some k → u.tick < k + 10 ^ 10 → u.onCores (u.devicesOf n) = [] →
      ∃ t, exec (.updateFallback n) s = .next t ∧ runs t (1 - p.firmware) none) ∧
    ((∀ k, p.switchedAt = some k → k + 10 ^ 10 ≤ u.tick) → exec (.updateFallback n) s = .next u)

/-- Loading a key slot puts the key given into it, so that lines written under the old one no longer read as written; a fault queue
is answered whole; telemetry and the measurements requests are answered and change nothing else; fabric windows lie in the
host-memory region, at most sixteen (R340, R342, R369, R371, R375; the bytes of those answers are free values, log entry
3). -/
def Sys2Proof.Claims.ManagementAnswers : Prop :=
  ∀ (s : State), let u := s.unfocus
    let said := fun (o : Output) => { u with outbox := u.outbox ++ [o] }
    (∀ n key, n < 2048 → ∃ t, exec (.keySlotLoad ⟨n, key⟩) s = .next t ∧ t = { u with keyGen := t.keyGen, keyMat := t.keyMat } ∧
      t.genOf n = u.genOf n + 1 ∧ t.material ⟨n, t.genOf n⟩ = key.toNat ∧ (∀ m, m ≠ n → t.genOf m = u.genOf m) ∧
      ∀ m g, m < 2048 → ¬ (m = n ∧ g = u.genOf n + 1) → t.material ⟨m, g⟩ = u.material ⟨m, g⟩) ∧
    (∀ n key, 2048 ≤ n → exec (.keySlotLoad ⟨n, key⟩) s = .next u) ∧
    (∀ n, exec (.faultQueueRead n) s = .next (said (.faultQueue n (smGet [] u.faultQ n) (smGet 0 u.faultOver n)))) ∧
    (∀ (i : Instr) (n : Nat),
      (i = .telemetryRead ∧ n = 0) ∨ (∃ v, (i = .getVersion v ∧ n = 1) ∨ (i = .getCapabilities v ∧ n = 2) ∨
        (i = .negotiateAlgorithms v ∧ n = 3) ∨ (i = .getDigests v ∧ n = 4) ∨ (i = .getCertificate v ∧ n = 5) ∨
        (i = .challenge v ∧ n = 6) ∨ (i = .getMeasurements v ∧ n = 7)) →
      ∃ t bs, exec i s = .next t ∧ { t with freeCount := u.freeCount } = said (.answer n bs)) ∧
    ∀ n base size links remote,
      (16 ≤ n ∨ base < 2 ^ 48 ∨ 2 ^ 52 < base + size →
        exec (.fabricWindow n base size links remote) s = .next (said (.refusal n))) ∧
      (n < 16 → 2 ^ 48 ≤ base → base + size ≤ 2 ^ 52 →
        exec (.fabricWindow n base size links remote) s = .next { u with
          fabric := (u.fabric.filter fun f => f.num != n) ++ [⟨n, base, size, links, remote⟩] })

/-! ## Decoding, steps and reset -/

/-- The spec's own words decode to the instructions they stand for, among them the NOP that does nothing; a zeroed word, an
unassigned major and an extension major are told apart (R95, R106, R112, R123, R191). -/
def Obligations.SpecWordsDecode : Prop :=
  decode 0x0201030B 0 = .ok (.sadd ⟨false, 0⟩ 2 3 5 true) ∧
    decode 0x9442050C 0 = .ok (.vfadd ⟨false, 1⟩ 4 5 6 false) ∧
    decode 0x99040104 0 = .ok (.vfmul ⟨true, 0⟩ 8 1 2 false) ∧
    decode 0x2003FFFB 0 = .ok (.smovi ⟨false, 0⟩ 7 0x7FFB) ∧
    decode 0x2423FFFD 0 = .ok (.bra ⟨false, 0⟩ 8 0x3FFFD) ∧
    decode 0x48048407 0x19000020 = .ok (.st ⟨false, 0⟩ ⟨9, 4, 3, true, false, 1, 0, 0, 0x20⟩ 9) ∧
    decode 0x4E028203 0x22980300 = .ok (.atom ⟨false, 0⟩ ⟨5, 2, 1, true, false, 2, 2, 3, 0⟩ 2 false .add 6 0) ∧
    decode 0x58050400 0x0B980000 = .ok (.taff ⟨false, 0⟩ 4 10 11 false 2 3) ∧
    decode 0x600F1435 0x16510000 = .ok (.cpyp ⟨false, 0⟩ 30 20 26 22 40 true) ∧
    decode 0xBA0A060E 0x01000000 = .ok (.vdecode ⟨false, 0⟩ 20 6 7 false 1 false) ∧
    decode 0xC6000206 0x08000000 = .ok (.mma ⟨false, 0⟩ 0 2 3 false 8 0 false) ∧
    decode 0xCC018104 0x08000000 = .ok (.btand ⟨false, 0⟩ 3 1 2 false) ∧
    decode 0xD01E0104 0 = .ok (.trd ⟨false, 0⟩ 60 1) ∧
    decode 0xD8000000 0 = .ok (.nop ⟨false, 0⟩) ∧
    decode 0 0 = .error .illegalMajor ∧ decode 0x3E000000 0 = .error .illegalMajor ∧
    decode 0xE0000000 0 = .ok (.extensionOneWord 0xE0000000) ∧
    decodeBank 0x0000000000001006 = some (.bkst 0 1) ∧ hdrBad 0x10001FE0 = false ∧ hdrBad 0 = true

/-- Decoding what is encoded gives it back, with every operand at every value its encoding admits: a well-formed word of a
strand, a word of a bank program, a command of a stream. And what decodes is well-formed and encodes to the words it was
read from, so no reserved bit is dropped and no two instructions share a word; an unassigned major is refused (R111,
R112). -/
def Obligations.EncodingsRoundTrip : Prop :=
  (∀ i : Instr, i.stream = .strand → i.WellFormed → ∀ tail,
    decodeBytes ((encode i).flatMap bytesOfWord ++ tail) = .ok (i, tail)) ∧
  (∀ i : Instr, i.stream = .bank → ∃ lo hi : Word, encode i = [lo, hi] ∧ decodeBank (hi ++ lo) = some i) ∧
  (∀ i : Instr, i.stream = .job → commandOk i = true → decodeFinby (encode i) = .ok i) ∧
  (∀ w x i, decode w x = .ok i →
    i.WellFormed ∧ i.stream = .strand ∧ encode i = if isLongMajor (fOP w).toNat then [w, x] else [w]) ∧
  (∀ w i, decodeBank w = some i → i.stream = .bank ∧ encode i = words64 w) ∧
  ∀ w x, majorClass (fOP w).toNat = none → (fOP w).toNat < 0x70 → decode w x = .error .illegalMajor

/-- A turn that a step takes: the next one of the agenda, or, when the agenda is empty and the package is up or cannot come
up, the next one that the policy planned for the cycle; and the state without it. -/
def Sys2Proof.Machine.State.Takes (s u : State) (x : Turn) (d : Due) : Prop :=
  (∃ r, s.agenda = x :: r ∧ u = { s with agenda := r }) ∨
    (∃ r, s.agenda = [] ∧ (s.powered = true ∨ s.fwA.valid = false ∧ s.fwB.valid = false) ∧ s.dueNow = d :: r ∧
      u = { s with dueNow := r })

/-- A step runs the decoded instruction: where a strand that may move, and owes nothing first, stands at a word of its clause
whose turn in the cycle it is, the step is exec of what the word decodes to, or of the word that is none; at a clause boundary
it is exec of the header that memory, or its loop buffer, holds there, or of what the boundary takes first. A bank engine's
word, a job's command and an event named by the agenda run in the same way (R19, R96, R111, R191). -/
def Obligations.StepRunsTheDecodedInstruction : Prop :=
  (∀ (s u : State) (gang idx : Nat), let f := u.focus gang idx
    s.Takes u (.strand gang idx) (.strand gang idx) ∨
      (s.Takes u (.strand gang idx) (.word gang idx) ∧ f.t.clause ≠ none) →
    f.focused = true → f.turnOpen = true → f.t.owed = none → f.t.cancelOwed = false ∨ f.cancelHere = false →
    (∀ c, f.t.clause = some c → c.words ≠ [] →
      f.t.waited = true ∨ (f.flagsAgain = false ∧ (f.t.wait ≠ .none ∨ f.execSlot f.t.pc = none) ∧
        ∀ i, f.t.instruction = i → f.inTurn i = true) →
      (∀ i, decode (f.t.wordAt 0) (f.t.wordAt 1) = .ok i → step s = exec i f) ∧
      ∀ e, decode (f.t.wordAt 0) (f.t.wordAt 1) = .error e → step s = exec (.illegalEncoding (f.t.wordAt 0)) f) ∧
    (f.t.clause = none → f.boundary ≠ none → step s = exec (.clauseHeader 0) f) ∧
    (f.t.clause = none → f.boundary = none → ∀ w, f.codeAt f.t.pc 1 = .ok [w] →
      step s = exec (.clauseHeader w) f)) ∧
  (∀ (s v : State) (ch : Nat), let u := v.unfocus
    s.Takes v (.bank ch) (.bank ch) → ∀ b w i, u.runningBank ch = some b → b.prog[b.pos]? = some w →
      decodeBank w = some i → step s = exec i { u with curBank := some ch }) ∧
  (∀ (s v : State) (vd slot : Nat), let u := v.unfocus
    s.Takes v (.job vd slot) (.job vd slot) → ∀ j ws i, u.jobAt vd slot = some j → u.jobOpen j = true →
      ¬ (j.pc = j.seg ∧ j.pc.toNat % 64 ≠ 0) → u.commandWords j = .ok ws → decodeFinby ws = .ok i →
      let k := match j.wait with
        | .phase _ => { j with wait := .none }
        | _ => j
      step s = exec i { (u.setJob k) with curJob := some (vd, slot) }) ∧
  ∀ (s : State) (i : Instr) (r : List Turn),
    s.agenda = .event i :: r → encode i = [] → step s = exec i { s with agenda := r }.unfocus

/-- The machine never stops: every step of every state answers a next state, for a word either executes or takes its trap, and
a command either acts or records its fault (R25, R111, R252). -/
def Obligations.StepsNeverStop : Prop := ∀ s : State, s.Safe

/-- Every step keeps memory in its canonical form: addresses rise and no byte that reads as an unlisted one is listed
(R327; the form is the model's, of which the spec says nothing). -/
def Obligations.MemoryKeepsItsForm : Prop :=
  ∀ s t : State, Memory.wf s.mem = true → step s = .next t → Memory.wf t.mem = true

/-- After package reset the machine is not up, no work exists, no fault is logged, and every control-page field of every
device, every budget, every throttle level and every error and repair record is at its After reset value (R5, R270, R307, R335, R350, R354,
R363, R372). Memory lists nothing, which is its canonical form; what a byte then reads as where the spec states no value
is the model's choice, log entry 11. -/
def Obligations.ResetState : Prop :=
  let s := State.reset
  Memory.wf s.mem = true ∧ (∀ k c, isDevice c = true → s.byteUnder k c = 0) ∧ s.powered = false ∧ s.gangs = [] ∧
    s.blocks = [] ∧ s.jobs = [] ∧ s.levels = [] ∧ s.ops = [] ∧ s.mops = [] ∧ s.copies = [] ∧ s.banks = [] ∧
    s.poison = [] ∧ s.softErrors = [] ∧ s.strikes = [] ∧ s.coreSpares = [] ∧ s.cached = [] ∧ s.badList = [] ∧ s.faultQ = [] ∧ s.dqSpares = [] ∧ s.linkSpares = [] ∧ s.replays = [] ∧ s.linksDown = [] ∧
    s.cxlDown = [] ∧ (∀ c, (smGet freshThrottle s.throttles c).k = 8) ∧
    (∀ n, let d := s.vdev n
      d.id = n ∧ d.rdone = true ∧ d.mgr = false ∧ d.tvecd = 0 ∧ d.dbgv = 0 ∧ d.pfv = 0 ∧ d.tlv = 0 ∧ d.tlogb = 0 ∧
        d.tlogh = 0 ∧ d.tlogt = 0 ∧ d.tlogo = 0 ∧ d.rlogb = 0 ∧ d.rlogh = 0 ∧ d.rlogt = 0 ∧ d.rlogo = 0 ∧
        d.weights = 0x80808080 ∧ d.tssave = 0 ∧ d.tkey = 0 ∧ d.troot = 0 ∧ d.rtab = 0 ∧ d.rcnt = 0 ∧ d.rpf = false ∧
        d.busy = none ∧ d.pfqb = 0 ∧ d.pfqh = 0 ∧ d.pfqt = 0 ∧ d.pfto = 10000 ∧ d.oseq = 0 ∧ d.iseq = 0 ∧
        ∀ k, smGet 100 d.killi k = 100 ∧ smGet 0 d.fvec k = 0 ∧ smGet 0 d.fword k = 0 ∧ smGet 0 d.counters k = 0 ∧
          smGet 0 d.outw k = 0 ∧ smGet 0 d.inw k = 0) ∧
    ∀ k, (newPart 0 none allResources 0).budget k = ⟨2 ^ 40 - 1, false, false, []⟩

/-! ## Stream commands and rechecks that complete -/

/-- Stream commands with no level of their own complete as their rows say: the stream goes on past NOP, EDGE, a LOOP that is
used up, a WAITMEM, COND or WAITCTR whose condition holds and a FENCE with nothing left to wait for, goes to the target of a
LOOP, LINK or COND, and otherwise waits. WAITMEM_REREAD lets it go on when the condition has come to hold, and
WAITMEM_TIMEOUT faults it when its time has passed. JOIN_RECHECK lets a strand whose counter has come to read 0 go on, and
CWAIT_DEADLINE one whose barrier has left its parity; FAULT_TIMEOUT ends its record (R19-R22, R24, R25, R159, R187, R319). -/
def Obligations.CommandsAndRechecksComplete : Prop :=
  (∀ (s u : State) (j : Job), s.RunsJob u j →
    let goesTo := fun (i : Instr) (k : Job) => exec i s = .next { u with jobs := u.jobsWith k }
    let out := j.inGraph = false
    (∀ len arg, goesTo (.finbyNop len arg)
      { j with pc := j.pc + BitVec.ofNat 64 (4 * wordsOf (.finbyNop len arg)), wait := .none }) ∧
    (∀ src dst, j.inGraph = true →
      goesTo (.edge src dst) { j.after 1 with edges := j.edges ++ [(src.toNat, dst.toNat, j.pc)] }) ∧
    (∀ count target, out →
      (∀ n, j.loops.find? (fun l => l.1 == j.pc) = some (j.pc, n + 1) →
        goesTo (.loop count target) { j with
          pc := target, loops := j.loops.map fun l => if l.1 = j.pc then (l.1, n) else l }) ∧
      (j.loops.find? (fun l => l.1 == j.pc) = some (j.pc, 0) →
        goesTo (.loop count target) { j.after 1 with loops := j.loops.filter fun l => l.1 != j.pc }) ∧
      ((∀ l ∈ j.loops, l.1 ≠ j.pc) → j.loops.length < 8 →
        (count.toNat ≤ 1 → goesTo (.loop count target) (j.after 1)) ∧
        (2 ≤ count.toNat →
          goesTo (.loop count target) { j with pc := target, loops := (j.pc, count.toNat - 2) :: j.loops }))) ∧
    (∀ c value addr mask timeout, out →
      (u.memMeets j.vd c value addr mask = some true → goesTo (.waitmem c value addr mask timeout) (j.after 2)) ∧
      (u.memMeets j.vd c value addr mask = some false → j.wait = .none →
        goesTo (.waitmem c value addr mask timeout) { j with
          wait := .mem c value addr mask (if timeout = 0 then none else some (u.tick + 1000 * timeout.toNat)) })) ∧
    (∀ c value addr mask els, out →
      (u.memMeets j.vd c value addr mask = some true → goesTo (.cond c value addr mask els) (j.after 2)) ∧
      (u.memMeets j.vd c value addr mask = some false → goesTo (.cond c value addr mask els) { j with pc := els })) ∧
    (∀ record bs, out → u.vaRead j.vd record.toNat 4 = .ok bs →
      (3 ≤ leNat bs % 16 → goesTo (.waitctr record) (j.after 1)) ∧
      (leNat bs % 16 < 3 → goesTo (.waitctr record) { j with wait := .ctr record })) ∧
    (∀ scope, out →
      (u.streamQuiet j → goesTo (.finbyFence scope) (j.after 1)) ∧
      (¬ u.streamQuiet j → goesTo (.finbyFence scope) { j with wait := .fence scope.toNat })) ∧
    ∀ next, out → goesTo (.link next) { j with pc := next, seg := next, wait := .none }) ∧
  (∀ (s : State) (j : Job) (vd slot : Nat) (c : BitVec 3) (value : Word) (addr : Addr) (mask : Word) (deadline : Option Nat),
    let u := s.unfocus
    u.jobAt vd slot = some j → j.wait = .mem c value addr mask deadline →
    (u.memMeets vd c value addr mask = some true →
      exec (.waitmemReread vd slot) s = .next { u with jobs := u.jobsWith (j.after 2) }) ∧
    (u.memMeets vd c value addr mask = some false → exec (.waitmemReread vd slot) s = .next u) ∧
    (∀ d, deadline = some d → d ≤ u.tick → (u.vdev j.vd).paused = false →
      ∃ t, exec (.waitmemTimeout vd slot) s = .next t ∧ u.StreamFaulted t j)) ∧
  (∀ (s f : State) (gang idx n : Nat) (seen : List (ByteRef × Byte)) (p : Pre) (scp : BitVec 3) (a : BitVec 7) (b : Block),
    let i := Instr.joinSp p scp a
    let off := (f.readS a.toNat).toNat % 2 ^ 20
    s.strandAt f gang idx → f.t.wait = .join seen n → n + 1024 ≤ f.cycle → f.instrHere = some i →
    f.Issues i → scp.toNat ≤ 4 → f.NothingOut → f.g.dbgc.extractLsb' 0 8 = 0 → f.blockOf f.g.block = some b →
    off % 4 = 0 → off + 4 ≤ b.spadBytes → leNat (smRead 0 b.scratch off 4) = 0 →
    ∃ t, exec (.joinRecheck gang idx) s = .next t ∧ f.WentOn i t) ∧
  (∀ (s f : State) (gang idx n : Nat) (p : Pre) (par : Bool) (d a : BitVec 7) (b : Block),
    let i := Instr.cwait p par d a
    let off := (f.readS a.toNat).toNat % 2 ^ 20
    s.strandAt f gang idx → f.t.wait = .again n → f.instrHere = some i → f.Issues i → f.NothingOut →
    f.g.dbgc.extractLsb' 0 8 = 0 → f.blockOf f.g.block = some b → off % 32 = 0 → off + 32 ≤ b.spadBytes →
    bxWord b off 2 % 2 ≠ (if par then 1 else 0) →
    ∃ t, exec (.cwaitDeadline gang idx) s = .next t ∧ f.WentOn i t ∧ t.readQ 3 = false) ∧
  ∀ (s : State) (vd rec_ : Nat) (r : PfRec), let u := s.unfocus
    u.pfrecs.find? (fun x => x.vd == vd && x.id == rec_) = some r → rec_ < 2 ^ 32 →
    r.tick + 1000 * (u.vdev vd).pfto ≤ u.tick →
    ∃ t, exec (.faultTimeout vd rec_) s = .next t ∧ ∀ x ∈ t.pfrecs, ¬ (x.vd = vd ∧ x.id = rec_)

/-! ## Statements of several parts -/

/-- Conditions, predicates and S pairs: each instruction writes its row's value and nothing else. -/
def Obligations.ConditionPredicateAndPairResults : Prop :=
  Sys2Proof.Claims.ConditionResults ∧ Sys2Proof.Claims.PredicateResults ∧ Sys2Proof.Claims.PairResults

/-- Reductions, scans, shuffles, SRDV and SSEL write their values; a .whole form needs the whole gang. -/
def Obligations.CrossLaneResults : Prop :=
  Sys2Proof.Claims.CrossLaneWrites ∧ Sys2Proof.Claims.WholeFormsNeedTheWholeGang ∧ Sys2Proof.Claims.SrdvAndSselChoose

/-- Packed 16-bit arithmetic, VCVT and VPACK: values, rounding states and conversion-error. -/
def Obligations.PackedAndConversionResults : Prop :=
  Sys2Proof.Claims.PackedResults ∧ Sys2Proof.Claims.ConversionResults

/-- VCVTEF, VUNPK, VCMPRS and VEXPND write their values and nothing else. -/
def Obligations.TandemUnpackAndCompressResults : Prop :=
  Sys2Proof.Claims.TandemAndUnpackResults ∧ Sys2Proof.Claims.CompressAndExpandResults

/-- SETFMT, SETCVM, VDSTAT.clr and the seeds write their registers and nothing else. -/
def Obligations.ModeRegistersAndSeeds : Prop :=
  Sys2Proof.Claims.ModeRegisterWrites ∧ Sys2Proof.Claims.SeedsSetLaneStates

/-- BRA, BCALL, LOOPB, BRET and BIND send the strand where their rules say. -/
def Obligations.BranchesGoWhereTheirGuardSays : Prop :=
  Sys2Proof.Claims.DirectTransfers ∧ Sys2Proof.Claims.IndirectTransfers

/-- BRL splits its strand by lane; EXIT takes its strand's lanes out of the gang. -/
def Obligations.StrandsSplitAndExit : Prop :=
  Sys2Proof.Claims.BrlSplitsTheStrand ∧ Sys2Proof.Claims.ExitRemovesLanes

/-- JOINAT, REGRP, SLEEP, YIELD, NOP, DCWB and DCINV. -/
def Obligations.JoinStackSleepAndGoingOn : Prop :=
  Sys2Proof.Claims.JoinStackGrowsAndClears ∧ Sys2Proof.Claims.SleepWaitsForItsTick ∧ Sys2Proof.Claims.InstructionsThatOnlyGoOn

/-- XACQ grants its block with every register zero, queues or traps; XREL gives it up. -/
def Obligations.ExtendedBlocksAreHeldAndGiven : Prop :=
  Sys2Proof.Claims.AcquiredBlocksReadZero ∧ Sys2Proof.Claims.ReleasedBlocksAreGone

/-- FORK pushes a task record on its core's deque; JOIN waits for its counter to read zero. -/
def Obligations.ForkAndJoin : Prop :=
  Sys2Proof.Claims.ForkPushesARecord ∧ Sys2Proof.Claims.JoinWaitsForZero

/-- LD, LDC, LDU and LDS leave a load outstanding and go on; misaligned lanes trap. -/
def Obligations.LoadsAreIssued : Prop :=
  Sys2Proof.Claims.LoadsLeaveTheirOperation ∧ Sys2Proof.Claims.MisalignedLanesTrap

/-- ATOM leaves an atomic outstanding; FENCE performs what its strand has outstanding. -/
def Obligations.AtomicsAndFencesAreIssued : Prop :=
  Sys2Proof.Claims.AtomicsAreIssued ∧ Sys2Proof.Claims.FencesOrderTheirStrand

/-- Atomics, tile steps and held releases end with their effect. -/
def Obligations.AtomicsAndStepsEnd : Prop :=
  Sys2Proof.Claims.AtomicsReplaceTheirValue ∧ Sys2Proof.Claims.StepsAndHeldReleasesEnd

/-- Named barriers count lanes and byte barriers count bytes. -/
def Obligations.BarriersCount : Prop :=
  Sys2Proof.Claims.NamedBarriersCountLanes ∧ Sys2Proof.Claims.ByteBarriersCountBytes

/-- CPY, CPYP, HEDIT, OLOAD and BANKCMD queue their commands and go on. -/
def Obligations.EngineCommandsAreQueued : Prop :=
  Sys2Proof.Claims.CopiesAreQueued ∧ Sys2Proof.Claims.EditsLoadsAndBankCommandsAreQueued

/-- BTLD, BTST and ACCST are queued with their bytes; a bit-tile image moves whole. -/
def Obligations.BitTileAndAccumulatorMemory : Prop :=
  Sys2Proof.Claims.MatrixMemoryOperationsAreQueued ∧ Sys2Proof.Claims.BitTileImagesMove

/-- The array starts its next operation; each operation that ends writes its result and nothing else. -/
def Obligations.MatrixOperationsWriteTheirResults : Prop :=
  Sys2Proof.Claims.TheArrayStartsItsNextOperation ∧ Sys2Proof.Claims.MatrixResults

/-- Headers begin their clauses or trap; words and register fields raise their traps. -/
def Obligations.HeadersAndWordsAreChecked : Prop :=
  Sys2Proof.Claims.HeadersBeginClauses ∧ Sys2Proof.Claims.WordsThatRaiseTheirTrap ∧ Sys2Proof.Claims.RegisterFieldsAreChecked

/-- A trap enters its handler with its registers loaded, or takes its default action. -/
def Obligations.TrapsAreTaken : Prop :=
  Sys2Proof.Claims.TrapsEnterTheirHandler ∧ Sys2Proof.Claims.TrapsWithoutAHandler

/-- TRD, TWR, FLASH and CNTRD read and write their registers and nothing else. -/
def Obligations.SpecialRegistersAreReadAndWritten : Prop :=
  Sys2Proof.Claims.HandlerRegistersAreReadAndWritten ∧ Sys2Proof.Claims.CountersAreRead

/-- Bank words run, programs start, transfers move their bytes and programs end. -/
def Obligations.BankProgramsRun : Prop :=
  Sys2Proof.Claims.BankWordsRun ∧ Sys2Proof.Claims.BankEnginesTakeCommands

/-- Stream commands move their stream or fault it with their code. -/
def Obligations.StreamsMoveOrFault : Prop :=
  Sys2Proof.Claims.StreamCommandsMoveOrFault ∧ Sys2Proof.Claims.WaitmemReadsAgain

/-- A launch issues when its turn comes, and its blocks are admitted with their gangs at the entry. -/
def Obligations.LaunchesAndBlocksStart : Prop :=
  Sys2Proof.Claims.LaunchesIssue ∧ Sys2Proof.Claims.BlocksAreAdmitted

/-- A level that is ready ends; a cancelled unit is killed when its interval has passed. -/
def Obligations.LevelsEndAndCancelledUnitsDie : Prop :=
  Sys2Proof.Claims.LevelsEnd ∧ Sys2Proof.Claims.CancelledUnitsAreKilled

/-- Tasks are taken and stolen; distributors steal blocks. -/
def Obligations.TasksAndBlocksAreStolen : Prop :=
  Sys2Proof.Claims.TasksAreTakenAndStolen ∧ Sys2Proof.Claims.DistributorsStealBlocks

/-- A copy engine performs its oldest command; a copy moves its element and nothing else. -/
def Obligations.CopyEnginesPerformCommands : Prop :=
  Sys2Proof.Claims.CopyEnginesTakeCommands ∧ Sys2Proof.Claims.CopiesMoveTheirElement

/-- Page-fault answers wake or fail what stalls on them; TLB invalidations finish. -/
def Obligations.FaultAndTlbRequestsAreAnswered : Prop :=
  Sys2Proof.Claims.PageFaultsAreAnswered ∧ Sys2Proof.Claims.TlbInvalidationsFinish

/-- Sleeps end, deadlocks trap, waits are tried again and block requests are granted. -/
def Obligations.WaitingStrandsWake : Prop :=
  Sys2Proof.Claims.WaitsEnd ∧ Sys2Proof.Claims.RequestsAreGranted

/-- Throttle levels, scheduling units, budgets and the governor step at their times. -/
def Obligations.PeriodsAndSlicesPass : Prop :=
  Sys2Proof.Claims.ThrottleLevelsStep ∧ Sys2Proof.Claims.UnitsPassOn ∧ Sys2Proof.Claims.PeriodsPass

/-- A pre-empted block is marked, saved when nothing is outstanding, and resumes where it fits. -/
def Obligations.BlocksArePreemptedAndResume : Prop :=
  Sys2Proof.Claims.PreemptionIsRequested ∧ Sys2Proof.Claims.BlocksAreSaved ∧ Sys2Proof.Claims.BlocksResume

/-- Host reads that clear, job starts, interrupts, and device resets. -/
def Obligations.HostEventsActAndResetsClear : Prop :=
  Sys2Proof.Claims.HostEventsAct ∧ Sys2Proof.Claims.ResetsClearTheirDevice

/-- Bring-up and the power states of dies. -/
def Obligations.PackageComesUp : Prop :=
  Sys2Proof.Claims.BringUp ∧ Sys2Proof.Claims.DiesChangePower

/-- Repairs change only what they count; management requests are answered. -/
def Obligations.RepairsAndManagementAnswer : Prop :=
  Sys2Proof.Claims.RepairsAreCounted ∧ Sys2Proof.Claims.ManagementAnswers
end

