-- ==== Sys2Proof/Laws/Access.lean ====
section
/-! SUPPORT. What an access does when its checks pass, for the statements about loads, stores and engine commands. -/

namespace Sys2Proof.Machine

/-- An access whose bytes are all reached, that no budget refuses or defers and no watch slot sees, goes on with them
(R164, R266, R351). -/
theorem State.access_ok {s : State} {a : Ask} {hits : List Hit}
    (hr : s.reach ⟨a.read, a.write, false⟩ a.bytes = ⟨hits, [], []⟩) (hp : a.pre = [])
    (hm : a.part = false ∨ s.partBad hits = []) (hb : s.verdict s.g.vd (s.hitCharges a.read a.write hits) = .admitted)
    (hw : s.g.dbgc.extractLsb' 0 8 = 0) (k : State → List Hit → Except Trap (State × Next)) :
    s.access a k = k (s.paid a hits) hits := by
  have ht : s.accessTrap a ⟨hits, [], []⟩ = none := by
    have : (if a.part then s.partBad hits else []) = [] := by rcases hm with h | h <;> simp [h]
    simp [State.accessTrap, hp, this, goneBads, pickTrap]
  have hn : s.accessMiss a ⟨hits, [], []⟩ = none := rfl
  unfold State.access
  simp only [hr, ht, hb, hn]
  simp [State.admitted, State.watch, hw, State.paid]

/-- Sources that pass their checks are read, their bytes in memory charged (R164, R181). -/
theorem State.readSources_ok {s : State} {pre : List Bad} {xs : List Source} {hits : List Hit}
    (hr : s.reach ⟨true, false, false⟩ (s.sourceLanes xs) = ⟨hits, [], []⟩) (hp : pre ++ xs.flatMap s.sourceBad = [])
    (hb : s.verdict s.g.vd (s.hitCharges true false hits) = .admitted) (hw : s.g.dbgc.extractLsb' 0 8 = 0)
    (hq : ∀ h ∈ hits, ((s.paid (s.sourceAsk pre xs) hits).readErrors (hits.map fun h => h.ref)).isPoisoned h.ref.addr = false)
    (k : State → List (List Byte) → Except Trap (State × Next)) :
    s.readSources pre xs k =
      let u := (s.paid (s.sourceAsk pre xs) hits).readErrors (hits.map fun h => h.ref)
      k u (u.sourceBytes xs (u.bytesAt (hits.map fun h => h.ref))) := by
  have ha := State.access_ok (a := s.sourceAsk pre xs) hr hp (.inl rfl) hb hw
  unfold State.readSources
  rw [ha]
  dsimp only
  rw [List.find?_eq_none.mpr fun h hh => by rw [hq h hh]; simp]

end Sys2Proof.Machine
end

