-- ==== Sys2Proof/Laws/Slices.lean ====
section
/-! SUPPORT. Slices of concatenations, and the fields of the instruction bodies (R106) read back from their words. -/

namespace Sys2Proof.Laws

/-- A slice above the low part of a concatenation is a slice of the high part. -/
theorem hi_slice {a m : Nat} (x : BitVec a) (y : BitVec m) (s n : Nat) (h : m ≤ s) :
    (x ++ y).extractLsb' s n = x.extractLsb' (s - m) n := by
  ext i hi
  simp [BitVec.getLsbD_append, Nat.not_lt.mpr (Nat.le_add_right_of_le h)]
  congr 1; omega

/-- A slice within the low part. -/
theorem lo_slice {a m : Nat} (x : BitVec a) (y : BitVec m) (s n : Nat) (h : s + n ≤ m) :
    (x ++ y).extractLsb' s n = y.extractLsb' s n := by
  ext i hi
  simp [BitVec.getLsbD_append]
  omega

/-- The whole of a vector. -/
theorem full_slice {a : Nat} (x : BitVec a) : x.extractLsb' 0 a = x := by
  ext i hi; simp

/-- A bit of the high part. -/
theorem hi_bit {a m : Nat} (x : BitVec a) (y : BitVec m) (s : Nat) (h : m ≤ s) :
    (x ++ y).getLsbD s = x.getLsbD (s - m) := by
  simp [BitVec.getLsbD_append, Nat.not_lt.mpr h]

/-- A bit of the low part. -/
theorem lo_bit {a m : Nat} (x : BitVec a) (y : BitVec m) (s : Nat) (h : s < m) :
    (x ++ y).getLsbD s = y.getLsbD s := by
  simp [BitVec.getLsbD_append, h]

/-- The bit of a Boolean. -/
theorem bool_bit (b : Bool) : (BitVec.ofBool b).getLsbD 0 = b := by cases b <;> rfl

/-- The major of a RRR word (R106). -/
theorem op_rrr (op : BitVec 7) (p : Pre) (d a b : BitVec 7) (n : Bool) : fOP (rrr op p d a b n) = op := by
  simp (disch := decide) only [fOP, rrr, hi_slice, full_slice, Nat.reduceSub]

/-- The major of a RRF word (R106). -/
theorem op_rrf (op : BitVec 7) (p : Pre) (d a : BitVec 7) (fn : BitVec 8) : fOP (rrf op p d a fn) = op := by
  simp (disch := decide) only [fOP, rrf, hi_slice, full_slice, Nat.reduceSub]

/-- The major of a RG word (R106). -/
theorem op_rg (op : BitVec 7) (p : Pre) (d a : BitVec 7) (gd : BitVec 4) : fOP (rg op p d a gd) = op := by
  simp (disch := decide) only [fOP, rg, hi_slice, full_slice, Nat.reduceSub]

/-- The major of a I15 word (R106). -/
theorem op_i15 (op : BitVec 7) (p : Pre) (d : BitVec 7) (imm : BitVec 15) : fOP (i15 op p d imm) = op := by
  simp (disch := decide) only [fOP, i15, hi_slice, full_slice, Nat.reduceSub]

/-- The major of a BR word (R106). -/
theorem op_br (op : BitVec 7) (p : Pre) (gd : BitVec 4) (off : BitVec 18) : fOP (br op p gd off) = op := by
  simp (disch := decide) only [fOP, br, hi_slice, full_slice, Nat.reduceSub]

/-- The prefix of a RRR word (R106). -/
theorem pre_rrr (op : BitVec 7) (p : Pre) (d a b : BitVec 7) (n : Bool) : preOf (rrr op p d a b n) = p := by
  simp (disch := decide) only [preOf, rrr, hi_slice, lo_slice, full_slice, hi_bit, lo_bit, bool_bit, Nat.reduceSub]

/-- The prefix of a RRF word (R106). -/
theorem pre_rrf (op : BitVec 7) (p : Pre) (d a : BitVec 7) (fn : BitVec 8) : preOf (rrf op p d a fn) = p := by
  simp (disch := decide) only [preOf, rrf, hi_slice, lo_slice, full_slice, hi_bit, lo_bit, bool_bit, Nat.reduceSub]

/-- The prefix of a RG word (R106). -/
theorem pre_rg (op : BitVec 7) (p : Pre) (d a : BitVec 7) (gd : BitVec 4) : preOf (rg op p d a gd) = p := by
  simp (disch := decide) only [preOf, rg, hi_slice, lo_slice, full_slice, hi_bit, lo_bit, bool_bit, Nat.reduceSub]

/-- The prefix of a I15 word (R106). -/
theorem pre_i15 (op : BitVec 7) (p : Pre) (d : BitVec 7) (imm : BitVec 15) : preOf (i15 op p d imm) = p := by
  simp (disch := decide) only [preOf, i15, hi_slice, lo_slice, full_slice, hi_bit, lo_bit, bool_bit, Nat.reduceSub]

/-- The prefix of a BR word (R106). -/
theorem pre_br (op : BitVec 7) (p : Pre) (gd : BitVec 4) (off : BitVec 18) : preOf (br op p gd off) = p := by
  simp (disch := decide) only [preOf, br, hi_slice, lo_slice, full_slice, hi_bit, lo_bit, bool_bit, Nat.reduceSub]

/-- D of a RRR word (R106). -/
theorem d_rrr (op : BitVec 7) (p : Pre) (d a b : BitVec 7) (n : Bool) : fD (rrr op p d a b n) = d := by
  simp (disch := decide) only [fD, rrr, hi_slice, lo_slice, full_slice, Nat.reduceSub]

/-- D of a RRF word (R106). -/
theorem d_rrf (op : BitVec 7) (p : Pre) (d a : BitVec 7) (fn : BitVec 8) : fD (rrf op p d a fn) = d := by
  simp (disch := decide) only [fD, rrf, hi_slice, lo_slice, full_slice, Nat.reduceSub]

/-- D of a RG word (R106). -/
theorem d_rg (op : BitVec 7) (p : Pre) (d a : BitVec 7) (gd : BitVec 4) : fD (rg op p d a gd) = d := by
  simp (disch := decide) only [fD, rg, hi_slice, lo_slice, full_slice, Nat.reduceSub]

/-- D of a I15 word (R106). -/
theorem d_i15 (op : BitVec 7) (p : Pre) (d : BitVec 7) (imm : BitVec 15) : fD (i15 op p d imm) = d := by
  simp (disch := decide) only [fD, i15, hi_slice, lo_slice, full_slice, Nat.reduceSub]

/-- A of a RRR word (R106). -/
theorem a_rrr (op : BitVec 7) (p : Pre) (d a b : BitVec 7) (n : Bool) : fA (rrr op p d a b n) = a := by
  simp (disch := decide) only [fA, rrr, hi_slice, lo_slice, full_slice, Nat.reduceSub]

/-- A of a RRF word (R106). -/
theorem a_rrf (op : BitVec 7) (p : Pre) (d a : BitVec 7) (fn : BitVec 8) : fA (rrf op p d a fn) = a := by
  simp (disch := decide) only [fA, rrf, hi_slice, lo_slice, full_slice, Nat.reduceSub]

/-- A of a RG word (R106). -/
theorem a_rg (op : BitVec 7) (p : Pre) (d a : BitVec 7) (gd : BitVec 4) : fA (rg op p d a gd) = a := by
  simp (disch := decide) only [fA, rg, hi_slice, lo_slice, full_slice, Nat.reduceSub]

/-- B of a RRR word (R106). -/
theorem b_rrr (op : BitVec 7) (p : Pre) (d a b : BitVec 7) (n : Bool) : fB (rrr op p d a b n) = b := by
  simp (disch := decide) only [fB, rrr, hi_slice, lo_slice, full_slice, Nat.reduceSub]

/-- N of a RRR word (R106). -/
theorem n_rrr (op : BitVec 7) (p : Pre) (d a b : BitVec 7) (n : Bool) : fN (rrr op p d a b n) = n := by
  simp (disch := decide) only [fN, rrr, lo_bit, bool_bit]

/-- FN of a RRF word (R106). -/
theorem fn_rrf (op : BitVec 7) (p : Pre) (d a : BitVec 7) (fn : BitVec 8) : fFN (rrf op p d a fn) = fn := by
  simp (disch := decide) only [fFN, rrf, lo_slice, full_slice]

/-- A bit of a slice that is known. -/
theorem slice_bit {w k m : Nat} {x : BitVec w} {y : BitVec m} {s : Nat} (h : x.extractLsb' s m = y) (hk : k < m) :
    x.getLsbD (s + k) = y.getLsbD k := by
  rw [← h]; simp [hk]

/-- A part of D of a RRR word (R106). -/
theorem slice_rrr (op : BitVec 7) (p : Pre) (d a b : BitVec 7) (n : Bool) (s k : Nat) (h : 15 ≤ s ∧ s + k ≤ 22) :
    (rrr op p d a b n).extractLsb' s k = d.extractLsb' (s - 15) k := by
  ext i hi
  have := slice_bit (k := s - 15 + i) (d_rrr op p d a b n) (by omega)
  rw [show 15 + (s - 15 + i) = s + i by omega] at this
  simpa using this

/-- A part of D of a RRF word (R106). -/
theorem slice_rrf (op : BitVec 7) (p : Pre) (d a : BitVec 7) (fn : BitVec 8) (s k : Nat) (h : 15 ≤ s ∧ s + k ≤ 22) :
    (rrf op p d a fn).extractLsb' s k = d.extractLsb' (s - 15) k := by
  ext i hi
  have := slice_bit (k := s - 15 + i) (d_rrf op p d a fn) (by omega)
  rw [show 15 + (s - 15 + i) = s + i by omega] at this
  simpa using this

/-- A part of FN of a RRF word (R106). -/
theorem low_rrf (op : BitVec 7) (p : Pre) (d a : BitVec 7) (fn : BitVec 8) (s k : Nat) (h : s + k ≤ 8) :
    (rrf op p d a fn).extractLsb' s k = fn.extractLsb' s k := by
  ext i hi
  have := slice_bit (k := s + i) (fn_rrf op p d a fn) (by omega)
  rw [Nat.zero_add] at this
  simpa using this

/-- A bit of FN of a RRF word (R106). -/
theorem lowbit_rrf (op : BitVec 7) (p : Pre) (d a : BitVec 7) (fn : BitVec 8) (s : Nat) (h : s < 8) :
    (rrf op p d a fn).getLsbD s = fn.getLsbD s := by
  have := slice_bit (k := s) (fn_rrf op p d a fn) h
  rwa [Nat.zero_add] at this

/-- A bit of D of a RRF word (R106). -/
theorem hibit_rrf (op : BitVec 7) (p : Pre) (d a : BitVec 7) (fn : BitVec 8) (s : Nat) (h : 15 ≤ s ∧ s < 22) :
    (rrf op p d a fn).getLsbD s = d.getLsbD (s - 15) := by
  have := slice_bit (k := s - 15) (d_rrf op p d a fn) (by omega)
  rwa [show 15 + (s - 15) = s by omega] at this

/-- D and A together of a RRF word (R106). -/
theorem da_rrf (op : BitVec 7) (p : Pre) (c : BitVec 14) (fn : BitVec 8) :
    (rrf op p (c.extractLsb' 7 7) (c.extractLsb' 0 7) fn).extractLsb' 8 14 = c := by
  apply BitVec.eq_of_getLsbD_eq
  intro i hi
  rcases Nat.lt_or_ge i 7 with h | h
  · have := slice_bit (k := i) (a_rrf op p (c.extractLsb' 7 7) (c.extractLsb' 0 7) fn) h
    simpa [h, hi] using this
  · have := slice_bit (k := i - 7) (d_rrf op p (c.extractLsb' 7 7) (c.extractLsb' 0 7) fn) (by omega)
    rw [show 15 + (i - 7) = 8 + i by omega] at this
    simpa [hi, show i - 7 < 7 by omega, show 7 + (i - 7) = i by omega] using this

/-- The code that lies across D and A of a RRF word (R106). -/
theorem code_rrf (op : BitVec 7) (p : Pre) (c fn : BitVec 8) :
    (rrf op p (c.extractLsb' 1 7) (c.extractLsb' 0 1 ++ 0#6) fn).extractLsb' 14 8 = c := by
  apply BitVec.eq_of_getLsbD_eq
  intro i hi
  rcases Nat.lt_or_ge i 1 with h | h
  · have := slice_bit (k := 6 + i) (a_rrf op p (c.extractLsb' 1 7) (c.extractLsb' 0 1 ++ 0#6) fn) (by omega)
    rw [show 8 + (6 + i) = 14 + i by omega] at this
    obtain rfl : i = 0 := by omega
    rw [hi_bit _ _ _ (by omega : 6 ≤ 6 + 0)] at this
    simpa using this
  · have := slice_bit (k := i - 1) (d_rrf op p (c.extractLsb' 1 7) (c.extractLsb' 0 1 ++ 0#6) fn) (by omega)
    rw [show 15 + (i - 1) = 14 + i by omega] at this
    simpa [hi, show i - 1 < 7 by omega, show 1 + (i - 1) = i by omega] using this

/-- The guard of a RG word (R106). -/
theorem gd_rg (op : BitVec 7) (p : Pre) (d a : BitVec 7) (gd : BitVec 4) : (rg op p d a gd).extractLsb' 4 4 = gd := by
  simp (disch := decide) only [rg, hi_slice, lo_slice, full_slice, Nat.reduceSub]

/-- The immediate of a I15 word (R106). -/
theorem imm_i15 (op : BitVec 7) (p : Pre) (d : BitVec 7) (imm : BitVec 15) : (i15 op p d imm).extractLsb' 0 15 = imm := by
  simp (disch := decide) only [i15, lo_slice, full_slice]

/-- The offset of a BR word (R106). -/
theorem off_br (op : BitVec 7) (p : Pre) (gd : BitVec 4) (off : BitVec 18) : (br op p gd off).extractLsb' 0 18 = off := by
  simp (disch := decide) only [br, lo_slice, full_slice]

/-- The guard of a BR word (R106). -/
theorem gd_br (op : BitVec 7) (p : Pre) (gd : BitVec 4) (off : BitVec 18) : (br op p gd off).extractLsb' 18 4 = gd := by
  simp (disch := decide) only [br, hi_slice, lo_slice, full_slice, Nat.reduceSub]

/-- A concatenation as a natural. -/
theorem append_nat {a m : Nat} (x : BitVec a) (y : BitVec m) : (x ++ y).toNat = x.toNat * 2 ^ m + y.toNat := by
  rw [BitVec.toNat_append, Nat.shiftLeft_eq, Nat.mul_comm, Nat.two_pow_add_eq_or_of_lt y.isLt]

/-- A condition code read back. -/
theorem ccOf_code (c : Cc) : ccOf c.code = c := by cases c <;> rfl

/-- A shuffle kind read back. -/
theorem shflKindOf_code (c : ShflKind) : shflKindOf c.code = c := by cases c <;> rfl

/-- An atomic operation read back. -/
theorem atomOpOf_code (c : AtomOp) : atomOpOf c.code = some c := by cases c <;> rfl

/-- A reduction operation read back. -/
theorem redOpOf_code (c : RedOp) : redOpOf c.code = some c := by cases c <;> rfl

end Sys2Proof.Laws
end

