-- ==== Sys2Proof/Laws/Fields.lean ====
section
/-! SUPPORT. The fields of every instruction word, written by the encoder and read back by the decoder: one lemma for
each arm of the decoder (arm_<major>) and one for each instruction (fields_<constructor>). -/

namespace Sys2Proof.Laws

set_option linter.unusedSimpArgs false

theorem arm_0x01 {w x : Word} (h : fOP w = 0x01) : decodeFields w x = (
    some (.sadd (preOf w) (fD w) (fA w) (fB w) (fN w))) := by
  unfold decodeFields; rw [h]; first | done | rfl

theorem arm_0x02 {w x : Word} (h : fOP w = 0x02) : decodeFields w x = (
    some (.ssub (preOf w) (fD w) (fA w) (fB w) (fN w))) := by
  unfold decodeFields; rw [h]; first | done | rfl

theorem arm_0x03 {w x : Word} (h : fOP w = 0x03) : decodeFields w x = (
    some (.smul (preOf w) (fD w) (fA w) (fB w) (fN w))) := by
  unfold decodeFields; rw [h]; first | done | rfl

theorem arm_0x04 {w x : Word} (h : fOP w = 0x04) : decodeFields w x = (
    some (.smulh (preOf w) (fD w) (fA w) (fB w) (fN w))) := by
  unfold decodeFields; rw [h]; first | done | rfl

theorem arm_0x05 {w x : Word} (h : fOP w = 0x05) : decodeFields w x = (
    some (.sand (preOf w) (fD w) (fA w) (fB w) (fN w))) := by
  unfold decodeFields; rw [h]; first | done | rfl

theorem arm_0x06 {w x : Word} (h : fOP w = 0x06) : decodeFields w x = (
    some (.sor (preOf w) (fD w) (fA w) (fB w) (fN w))) := by
  unfold decodeFields; rw [h]; first | done | rfl

theorem arm_0x07 {w x : Word} (h : fOP w = 0x07) : decodeFields w x = (
    some (.sxor (preOf w) (fD w) (fA w) (fB w) (fN w))) := by
  unfold decodeFields; rw [h]; first | done | rfl

theorem arm_0x08 {w x : Word} (h : fOP w = 0x08) : decodeFields w x = (
    some (.sshl (preOf w) (fD w) (fA w) (fB w) (fN w))) := by
  unfold decodeFields; rw [h]; first | done | rfl

theorem arm_0x09 {w x : Word} (h : fOP w = 0x09) : decodeFields w x = (
    some (.sshr (preOf w) (fD w) (fA w) (fB w) (fN w))) := by
  unfold decodeFields; rw [h]; first | done | rfl

theorem arm_0x0A {w x : Word} (h : fOP w = 0x0A) : decodeFields w x = (
    some (.ssra (preOf w) (fD w) (fA w) (fB w) (fN w))) := by
  unfold decodeFields; rw [h]; first | done | rfl

theorem arm_0x0B {w x : Word} (h : fOP w = 0x0B) : decodeFields w x = (
    some (.smin (preOf w) (fD w) (fA w) (fB w) (fN w))) := by
  unfold decodeFields; rw [h]; first | done | rfl

theorem arm_0x0C {w x : Word} (h : fOP w = 0x0C) : decodeFields w x = (
    some (.smax (preOf w) (fD w) (fA w) (fB w) (fN w))) := by
  unfold decodeFields; rw [h]; first | done | rfl

theorem arm_0x0D {w x : Word} (h : fOP w = 0x0D) : decodeFields w x = (
    some (.scmp (preOf w) (ccOf (w.extractLsb' 19 3)) (w.extractLsb' 15 2) (fA w) (fB w) (fN w))) := by
  unfold decodeFields; rw [h]; first | done | rfl

theorem arm_0x0E {w x : Word} (h : fOP w = 0x0E) : decodeFields w x = (
    some (.ssel (preOf w) (fD w) (fA w) (w.extractLsb' 4 4))) := by
  unfold decodeFields; rw [h]; first | done | rfl

theorem arm_0x0F {w x : Word} (h : fOP w = 0x0F) : decodeFields w x = (
    if ((fFN w).toNat) = 0x00 then some (.smov (preOf w) (fD w) (fA w))
    else if ((fFN w).toNat) = 0x01 then some (.srdvFirst (preOf w) (fD w) (fA w))
    else if ((fFN w).toNat) / 64 = 1 then some (.srdv (preOf w) (fD w) (fA w) (w.extractLsb' 0 6))
    else if ((fFN w).toNat) / 8 = 0x10 then some (.srdid (preOf w) (fD w) (w.extractLsb' 0 3))
    else none) := by
  unfold decodeFields; rw [h]; first | done | rfl

theorem arm_0x10 {w x : Word} (h : fOP w = 0x10) : decodeFields w x = (
    some (.smovi (preOf w) (fD w) (w.extractLsb' 0 15))) := by
  unfold decodeFields; rw [h]; first | done | rfl

theorem arm_0x11 {w x : Word} (h : fOP w = 0x11) : decodeFields w x = (
    some (.slui (preOf w) (fD w) (w.extractLsb' 0 15))) := by
  unfold decodeFields; rw [h]; first | done | rfl

theorem arm_0x12 {w x : Word} (h : fOP w = 0x12) : decodeFields w x = (
    some (.bra (preOf w) (w.extractLsb' 18 4) (w.extractLsb' 0 18))) := by
  unfold decodeFields; rw [h]; first | done | rfl

theorem arm_0x13 {w x : Word} (h : fOP w = 0x13) : decodeFields w x = (
    some (.brl (preOf w) (w.extractLsb' 18 4) (w.extractLsb' 0 18))) := by
  unfold decodeFields; rw [h]; first | done | rfl

theorem arm_0x14 {w x : Word} (h : fOP w = 0x14) : decodeFields w x = (
    some (.joinat (preOf w) (w.extractLsb' 0 18))) := by
  unfold decodeFields; rw [h]; first | done | rfl

theorem arm_0x15 {w x : Word} (h : fOP w = 0x15) : decodeFields w x = (
    some (.bcall (preOf w) (w.extractLsb' 18 4) (w.extractLsb' 0 18))) := by
  unfold decodeFields; rw [h]; first | done | rfl

theorem arm_0x16 {w x : Word} (h : fOP w = 0x16) : decodeFields w x = (
    some (.loopb (preOf w) (fA w) (fFN w))) := by
  unfold decodeFields; rw [h]; first | done | rfl

theorem arm_0x17 {w x : Word} (h : fOP w = 0x17) : decodeFields w x = (
    match ((fFN w).toNat) with
    | 0 => some (.bret (preOf w) (fA w))
    | 1 => some (.bind (preOf w) (fA w))
    | 2 => some (.bindCall (preOf w) (fD w) (fA w))
    | 3 => some (.regrp (preOf w))
    | 4 => some (.exit (preOf w))
    | 5 => some (.yield (preOf w))
    | 6 => some (.sleep (preOf w) (fA w))
    | 7 => some (.sleepRel (preOf w) (fA w))
    | _ => none) := by
  unfold decodeFields; rw [h]; first | done | rfl

theorem arm_0x18 {w x : Word} (h : fOP w = 0x18) : decodeFields w x = (
    match ((fFN w).toNat) with
    | 0 => some (.swidth (preOf w) (fD w))
    | 1 => some (.swidthGang (preOf w) (fD w))
    | 2 => some (.smaskqAct (preOf w) (fD w))
    | 3 => some (.smaskqLive (preOf w) (fD w))
    | 4 => some (.sgangq (preOf w) (fD w))
    | _ => none) := by
  unfold decodeFields; rw [h]; first | done | rfl

theorem arm_0x19 {w x : Word} (h : fOP w = 0x19) : decodeFields w x = (
    match ((fFN w).toNat) % 128 with
    | 0 => some (.voteAny (preOf w) (w.getLsbD 7) (w.extractLsb' 15 2) (fA w))
    | 1 => some (.voteAll (preOf w) (w.getLsbD 7) (w.extractLsb' 15 2) (fA w))
    | 2 => some (.voteEq (preOf w) (w.getLsbD 7) (w.extractLsb' 15 2) (fA w))
    | 3 => some (.voteBal (preOf w) (w.getLsbD 7) (fD w) (fA w))
    | _ => none) := by
  unfold decodeFields; rw [h]; first | done | rfl

theorem arm_0x1A {w x : Word} (h : fOP w = 0x1A) : decodeFields w x = (
    some (.shfl (preOf w) (fD w) (fA w) (fB w) (fN w) (shflKindOf (x.extractLsb' 27 2)) (x.getLsbD 26) (x.getLsbD 25)
    (x.extractLsb' 18 7) (x.getLsbD 6) (x.extractLsb' 0 6))) := by
  unfold decodeFields; rw [h]; first | done | rfl

theorem arm_0x1B {w x : Word} (h : fOP w = 0x1B) : decodeFields w x = (
    match ((fFN w).toNat) with
    | 0 => some (.setfmt (preOf w) (fA w))
    | 1 => some (.setfmtImm (preOf w) (w.extractLsb' 14 8))
    | 2 => some (.getfmt (preOf w) (fD w))
    | 3 => some (.setcvm (preOf w) (fA w))
    | 4 => some (.getcvm (preOf w) (fD w))
    | 5 => some (.seedsr (preOf w) (fA w))
    | 6 => some (.seedsrV (preOf w) (fA w))
    | _ => none) := by
  unfold decodeFields; rw [h]; first | done | rfl

theorem arm_0x1C {w x : Word} (h : fOP w = 0x1C) : decodeFields w x = (
    match ((fFN w).toNat) with
    | 0 => some (.xacqV (preOf w))
    | 1 => some (.xacqAcc (preOf w) (w.extractLsb' 15 2))
    | 2 => some (.xacqBt (preOf w))
    | 4 => some (.xrelV (preOf w))
    | 5 => some (.xrelAcc (preOf w) (w.extractLsb' 15 2))
    | 6 => some (.xrelBt (preOf w))
    | 8 => some (.xqry (preOf w) (fD w))
    | _ => none) := by
  unfold decodeFields; rw [h]; first | done | rfl

theorem arm_0x1D {w x : Word} (h : fOP w = 0x1D) : decodeFields w x = (
    some (.fork (preOf w) (w.extractLsb' 15 2) (fA w) (fB w) (x.getLsbD 31) (x.getLsbD 30) (x.extractLsb' 0 18))) := by
  unfold decodeFields; rw [h]; first | done | rfl

theorem arm_0x1E {w x : Word} (h : fOP w = 0x1E) : decodeFields w x = (
    match ((fFN w).toNat) with
    | 0 => some (.join (preOf w) (w.extractLsb' 15 3) (fA w))
    | 1 => some (.joinSp (preOf w) (w.extractLsb' 15 3) (fA w))
    | 2 => some (.deqd (preOf w) (fD w))
    | _ => none) := by
  unfold decodeFields; rw [h]; first | done | rfl

theorem arm_0x20 {w x : Word} (h : fOP w = 0x20) : decodeFields w x = (
    some (.ld (preOf w) (laneOf w x) (x.getLsbD 18))) := by
  unfold decodeFields; rw [h]; first | done | rfl

theorem arm_0x21 {w x : Word} (h : fOP w = 0x21) : decodeFields w x = (
    some (.ldu (preOf w) (laneOf w x) (x.getLsbD 18))) := by
  unfold decodeFields; rw [h]; first | done | rfl

theorem arm_0x22 {w x : Word} (h : fOP w = 0x22) : decodeFields w x = (
    some (.lds (preOf w) (laneOf w x))) := by
  unfold decodeFields; rw [h]; first | done | rfl

theorem arm_0x23 {w x : Word} (h : fOP w = 0x23) : decodeFields w x = (
    some (.ldc (preOf w) (laneOf w x) (x.getLsbD 18))) := by
  unfold decodeFields; rw [h]; first | done | rfl

theorem arm_0x24 {w x : Word} (h : fOP w = 0x24) : decodeFields w x = (
    some (.st (preOf w) (laneOf w x) (x.extractLsb' 24 4))) := by
  unfold decodeFields; rw [h]; first | done | rfl

theorem arm_0x25 {w x : Word} (h : fOP w = 0x25) : decodeFields w x = (
    some (.stu (preOf w) { (laneOf w x) with disp := 0#3 ++ x.extractLsb' 0 11 } (x.extractLsb' 24 4) (x.extractLsb' 11 7))) := by
  unfold decodeFields; rw [h]; first | done | rfl

theorem arm_0x26 {w x : Word} (h : fOP w = 0x26) : decodeFields w x = (
    some (.sts (preOf w) (laneOf w x) (x.extractLsb' 24 4))) := by
  unfold decodeFields; rw [h]; first | done | rfl

theorem arm_0x27 {w x : Word} (h : fOP w = 0x27) : decodeFields w x = (
    (atomOpOf (x.extractLsb' 14 4)).map fun op =>
      .atom (preOf w) { (laneOf w x) with disp := 0 } (x.extractLsb' 24 4) (x.getLsbD 18) op (x.extractLsb' 7 7) (x.extractLsb' 0 7)) := by
  unfold decodeFields; rw [h]; first | done | rfl

theorem arm_0x28 {w x : Word} (h : fOP w = 0x28) : decodeFields w x = (
    some (.fence (preOf w) (w.extractLsb' 0 2) (w.extractLsb' 15 3))) := by
  unfold decodeFields; rw [h]; first | done | rfl

theorem arm_0x29 {w x : Word} (h : fOP w = 0x29) : decodeFields w x = (
    some (.tld (preOf w) (fD w) (fA w) (fFN w) (x.extractLsb' 28 3) (x.getLsbD 27) (x.getLsbD 31) (x.extractLsb' 22 2) (x.extractLsb' 19 3))) := by
  unfold decodeFields; rw [h]; first | done | rfl

theorem arm_0x2A {w x : Word} (h : fOP w = 0x2A) : decodeFields w x = (
    some (.tst (preOf w) (fD w) (fA w) (fFN w) (x.getLsbD 30) (x.getLsbD 31) (x.extractLsb' 22 2) (x.extractLsb' 19 3))) := by
  unfold decodeFields; rw [h]; first | done | rfl

theorem arm_0x2B {w x : Word} (h : fOP w = 0x2B) : decodeFields w x = (
    match ((fFN w).toNat) with
    | 0 => some (.thq (preOf w) (fD w) (fA w) (x.getLsbD 31) (x.extractLsb' 22 2) (x.extractLsb' 19 3))
    | 1 => some (.tmat (preOf w) (fA w) (x.getLsbD 31) (x.extractLsb' 22 2) (x.extractLsb' 19 3))
    | _ => none) := by
  unfold decodeFields; rw [h]; first | done | rfl

theorem arm_0x2C {w x : Word} (h : fOP w = 0x2C) : decodeFields w x = (
    match ((fFN w).toNat) with
    | 0 => some (.taff (preOf w) (fA w) (fD w) (x.extractLsb' 24 7) (x.getLsbD 31) (x.extractLsb' 22 2) (x.extractLsb' 19 3))
    | 1 => some (.tscale (preOf w) (fA w) (fD w) (x.getLsbD 31) (x.extractLsb' 22 2) (x.extractLsb' 19 3))
    | 2 => some (.toffs (preOf w) (fA w) (fD w) (x.getLsbD 31) (x.extractLsb' 22 2) (x.extractLsb' 19 3))
    | 3 => some (.tclamp (preOf w) (fA w) (fD w) (x.extractLsb' 24 7) (x.getLsbD 31) (x.extractLsb' 22 2) (x.extractLsb' 19 3))
    | 4 => some (.tfill (preOf w) (fA w) (fD w) (x.getLsbD 31) (x.extractLsb' 22 2) (x.extractLsb' 19 3))
    | 5 => some (.tperm (preOf w) (fA w) (x.extractLsb' 16 3) (x.getLsbD 31) (x.extractLsb' 22 2) (x.extractLsb' 19 3))
    | _ => none) := by
  unfold decodeFields; rw [h]; first | done | rfl

theorem arm_0x2D {w x : Word} (h : fOP w = 0x2D) : decodeFields w x = (
    match ((fFN w).toNat) % 128 with
    | 0 => some (.bara (preOf w) (w.extractLsb' 15 4) (fA w) (w.getLsbD 7))
    | 1 => some (.bars (preOf w) (w.extractLsb' 15 4) (fA w) (w.getLsbD 7))
    | 2 => some (.barw (preOf w) (w.extractLsb' 15 4) (w.getLsbD 7))
    | _ => none) := by
  unfold decodeFields; rw [h]; first | done | rfl

theorem arm_0x2E {w x : Word} (h : fOP w = 0x2E) : decodeFields w x = (
    match ((fFN w).toNat) with
    | 0 => some (.bxinit (preOf w) (fD w) (fA w))
    | 1 => some (.bxexp (preOf w) (fD w) (fA w))
    | 2 => some (.bxarr (preOf w) (fD w) (fA w))
    | 3 => some (.bxwait (preOf w) (w.getLsbD 17) (w.extractLsb' 15 2) (fA w))
    | _ => none) := by
  unfold decodeFields; rw [h]; first | done | rfl

theorem arm_0x2F {w x : Word} (h : fOP w = 0x2F) : decodeFields w x = (
    match ((fFN w).toNat) with
    | 0 => some (.crwaitEmpty (preOf w) (w.extractLsb' 19 3) (w.getLsbD 15) (fA w))
    | 1 => some (.crwaitFull (preOf w) (w.extractLsb' 19 3) (w.getLsbD 15) (fA w))
    | 2 => some (.crfill (preOf w) (w.extractLsb' 19 3) (fA w))
    | 3 => some (.crfree (preOf w) (w.extractLsb' 19 3) (fA w))
    | 4 => some (.crtakeEmpty (preOf w) (w.extractLsb' 19 3) (w.extractLsb' 16 2) (w.getLsbD 15) (fA w))
    | 5 => some (.crtakeFull (preOf w) (w.extractLsb' 19 3) (w.extractLsb' 16 2) (w.getLsbD 15) (fA w))
    | _ => none) := by
  unfold decodeFields; rw [h]; first | done | rfl

theorem arm_0x30 {w x : Word} (h : fOP w = 0x30) : decodeFields w x = (
    if (fN w) then some (.cpyp (preOf w) (fD w) (fA w) (fB w) (x.extractLsb' 24 7) (x.extractLsb' 17 7) (x.getLsbD 16))
    else some (.cpy (preOf w) (fA w) (fB w) (x.extractLsb' 24 7) (x.extractLsb' 17 7) (x.getLsbD 16))) := by
  unfold decodeFields; rw [h]; first | done | rfl

theorem arm_0x31 {w x : Word} (h : fOP w = 0x31) : decodeFields w x = (
    match ((fFN w).toNat) with
    | 0 => some (.cwait (preOf w) false (fD w) (fA w))
    | 1 => some (.cwait (preOf w) true (fD w) (fA w))
    | 2 => some (.cstat (preOf w) (fD w) (fA w))
    | 3 => some (.cstatIdx (preOf w) (fD w) (fA w))
    | 4 => some (.cstatClr (preOf w) (fD w) (fA w))
    | _ => none) := by
  unfold decodeFields; rw [h]; first | done | rfl

theorem arm_0x32 {w x : Word} (h : fOP w = 0x32) : decodeFields w x = (
    some (.hedit (preOf w) (fA w) (fB w) (x.extractLsb' 24 7) (x.extractLsb' 17 7) (x.getLsbD 16))) := by
  unfold decodeFields; rw [h]; first | done | rfl

theorem arm_0x33 {w x : Word} (h : fOP w = 0x33) : decodeFields w x = (
    some (.bankcmd (preOf w) (fD w) (fA w) (fB w) (x.extractLsb' 24 7))) := by
  unfold decodeFields; rw [h]; first | done | rfl

theorem arm_0x34 {w x : Word} (h : fOP w = 0x34) : decodeFields w x = (
    match ((fFN w).toNat) with
    | 0 => some (.icinv (preOf w))
    | 1 => some (.icinvDev (preOf w))
    | 2 => some (.isync (preOf w))
    | 3 => some (.dcwb (preOf w) (fD w) (fA w))
    | 4 => some (.dcinv (preOf w) (fD w) (fA w))
    | _ => none) := by
  unfold decodeFields; rw [h]; first | done | rfl

theorem arm_0x38 {w x : Word} (h : fOP w = 0x38) : decodeFields w x = (
    some (.vadd (preOf w) (fD w) (fA w) (fB w) (fN w))) := by
  unfold decodeFields; rw [h]; first | done | rfl

theorem arm_0x39 {w x : Word} (h : fOP w = 0x39) : decodeFields w x = (
    some (.vsub (preOf w) (fD w) (fA w) (fB w) (fN w))) := by
  unfold decodeFields; rw [h]; first | done | rfl

theorem arm_0x3A {w x : Word} (h : fOP w = 0x3A) : decodeFields w x = (
    some (.vmul (preOf w) (fD w) (fA w) (fB w) (fN w))) := by
  unfold decodeFields; rw [h]; first | done | rfl

theorem arm_0x3B {w x : Word} (h : fOP w = 0x3B) : decodeFields w x = (
    some (.vmulh (preOf w) (fD w) (fA w) (fB w) (fN w))) := by
  unfold decodeFields; rw [h]; first | done | rfl

theorem arm_0x3C {w x : Word} (h : fOP w = 0x3C) : decodeFields w x = (
    some (.vmad (preOf w) (fD w) (fA w) (fB w) (fN w))) := by
  unfold decodeFields; rw [h]; first | done | rfl

theorem arm_0x3D {w x : Word} (h : fOP w = 0x3D) : decodeFields w x = (
    some (.vand (preOf w) (fD w) (fA w) (fB w) (fN w))) := by
  unfold decodeFields; rw [h]; first | done | rfl

theorem arm_0x3E {w x : Word} (h : fOP w = 0x3E) : decodeFields w x = (
    some (.vor (preOf w) (fD w) (fA w) (fB w) (fN w))) := by
  unfold decodeFields; rw [h]; first | done | rfl

theorem arm_0x3F {w x : Word} (h : fOP w = 0x3F) : decodeFields w x = (
    some (.vxor (preOf w) (fD w) (fA w) (fB w) (fN w))) := by
  unfold decodeFields; rw [h]; first | done | rfl

theorem arm_0x40 {w x : Word} (h : fOP w = 0x40) : decodeFields w x = (
    some (.vshl (preOf w) (fD w) (fA w) (fB w) (fN w))) := by
  unfold decodeFields; rw [h]; first | done | rfl

theorem arm_0x41 {w x : Word} (h : fOP w = 0x41) : decodeFields w x = (
    some (.vshr (preOf w) (fD w) (fA w) (fB w) (fN w))) := by
  unfold decodeFields; rw [h]; first | done | rfl

theorem arm_0x42 {w x : Word} (h : fOP w = 0x42) : decodeFields w x = (
    some (.vsra (preOf w) (fD w) (fA w) (fB w) (fN w))) := by
  unfold decodeFields; rw [h]; first | done | rfl

theorem arm_0x43 {w x : Word} (h : fOP w = 0x43) : decodeFields w x = (
    if x.getLsbD 30 then some (.vfshr (preOf w) (fD w) (fA w) (fB w) (x.extractLsb' 28 2) (x.extractLsb' 21 7) (x.extractLsb' 0 6))
    else some (.vfshl (preOf w) (fD w) (fA w) (fB w) (x.extractLsb' 28 2) (x.extractLsb' 21 7) (x.extractLsb' 0 6))) := by
  unfold decodeFields; rw [h]; first | done | rfl

theorem arm_0x44 {w x : Word} (h : fOP w = 0x44) : decodeFields w x = (
    some (.vmin (preOf w) (fD w) (fA w) (fB w) (fN w))) := by
  unfold decodeFields; rw [h]; first | done | rfl

theorem arm_0x45 {w x : Word} (h : fOP w = 0x45) : decodeFields w x = (
    some (.vmax (preOf w) (fD w) (fA w) (fB w) (fN w))) := by
  unfold decodeFields; rw [h]; first | done | rfl

theorem arm_0x46 {w x : Word} (h : fOP w = 0x46) : decodeFields w x = (
    match ((fFN w).toNat) with
    | 0 => some (.vabs (preOf w) (fD w) (fA w))
    | 1 => some (.vclz (preOf w) (fD w) (fA w))
    | 2 => some (.vpop (preOf w) (fD w) (fA w))
    | 3 => some (.vbrev (preOf w) (fD w) (fA w))
    | 4 => some (.vmov (preOf w) (fD w) (fA w))
    | 5 => some (.vbcast (preOf w) (fD w) (fA w))
    | 6 => some (.vlane (preOf w) (fD w))
    | _ => none) := by
  unfold decodeFields; rw [h]; first | done | rfl

theorem arm_0x47 {w x : Word} (h : fOP w = 0x47) : decodeFields w x = (
    some (.vcmp (preOf w) (w.extractLsb' 15 3) (fA w) (fB w) (fN w) (ccOf (x.extractLsb' 28 3)) (x.getLsbD 27))) := by
  unfold decodeFields; rw [h]; first | done | rfl

theorem arm_0x48 {w x : Word} (h : fOP w = 0x48) : decodeFields w x = (
    some (.vsel (preOf w) (fD w) (fA w) (fB w) (fN w) (x.extractLsb' 24 4))) := by
  unfold decodeFields; rw [h]; first | done | rfl

theorem arm_0x49 {w x : Word} (h : fOP w = 0x49) : decodeFields w x = (
    some (.vmovi (preOf w) (fD w) x)) := by
  unfold decodeFields; rw [h]; first | done | rfl

theorem arm_0x4A {w x : Word} (h : fOP w = 0x4A) : decodeFields w x = (
    some (.vfadd (preOf w) (fD w) (fA w) (fB w) (fN w))) := by
  unfold decodeFields; rw [h]; first | done | rfl

theorem arm_0x4B {w x : Word} (h : fOP w = 0x4B) : decodeFields w x = (
    some (.vfsub (preOf w) (fD w) (fA w) (fB w) (fN w))) := by
  unfold decodeFields; rw [h]; first | done | rfl

theorem arm_0x4C {w x : Word} (h : fOP w = 0x4C) : decodeFields w x = (
    some (.vfmul (preOf w) (fD w) (fA w) (fB w) (fN w))) := by
  unfold decodeFields; rw [h]; first | done | rfl

theorem arm_0x4D {w x : Word} (h : fOP w = 0x4D) : decodeFields w x = (
    some (.vfma (preOf w) (fD w) (fA w) (fB w) (fN w))) := by
  unfold decodeFields; rw [h]; first | done | rfl

theorem arm_0x4E {w x : Word} (h : fOP w = 0x4E) : decodeFields w x = (
    some (.vfmin (preOf w) (fD w) (fA w) (fB w) (fN w))) := by
  unfold decodeFields; rw [h]; first | done | rfl

theorem arm_0x4F {w x : Word} (h : fOP w = 0x4F) : decodeFields w x = (
    some (.vfmax (preOf w) (fD w) (fA w) (fB w) (fN w))) := by
  unfold decodeFields; rw [h]; first | done | rfl

theorem arm_0x50 {w x : Word} (h : fOP w = 0x50) : decodeFields w x = (
    some (.vfcmp (preOf w) (w.extractLsb' 15 3) (fA w) (fB w) (fN w) (ccOf (x.extractLsb' 28 3)) (x.getLsbD 27))) := by
  unfold decodeFields; rw [h]; first | done | rfl

theorem arm_0x51 {w x : Word} (h : fOP w = 0x51) : decodeFields w x = (
    some (.vfdiv (preOf w) (fD w) (fA w) (fB w) (fN w))) := by
  unfold decodeFields; rw [h]; first | done | rfl

theorem arm_0x52 {w x : Word} (h : fOP w = 0x52) : decodeFields w x = (
    match ((fFN w).toNat) with
    | 0 => some (.vfsqrt (preOf w) (fD w) (fA w))
    | 1 => some (.vrcp (preOf w) (fD w) (fA w))
    | 2 => some (.vrsq (preOf w) (fD w) (fA w))
    | 3 => some (.vlog2 (preOf w) (fD w) (fA w))
    | _ => none) := by
  unfold decodeFields; rw [h]; first | done | rfl

theorem arm_0x53 {w x : Word} (h : fOP w = 0x53) : decodeFields w x = (
    some (.vexp2 (preOf w) (fD w) (fA w) (fB w) (fN w) (x.extractLsb' 24 7) (x.getLsbD 23))) := by
  unfold decodeFields; rw [h]; first | done | rfl

theorem arm_0x54 {w x : Word} (h : fOP w = 0x54) : decodeFields w x = (
    some (.vhadd (preOf w) (fD w) (fA w) (fB w) (fN w))) := by
  unfold decodeFields; rw [h]; first | done | rfl

theorem arm_0x55 {w x : Word} (h : fOP w = 0x55) : decodeFields w x = (
    some (.vhmul (preOf w) (fD w) (fA w) (fB w) (fN w))) := by
  unfold decodeFields; rw [h]; first | done | rfl

theorem arm_0x56 {w x : Word} (h : fOP w = 0x56) : decodeFields w x = (
    some (.vhfma (preOf w) (fD w) (fA w) (fB w) (fN w))) := by
  unfold decodeFields; rw [h]; first | done | rfl

theorem arm_0x57 {w x : Word} (h : fOP w = 0x57) : decodeFields w x = (
    (redOpOf (w.extractLsb' 0 4)).map fun op =>
    if w.getLsbD 5 then .vscan (preOf w) (fD w) (fA w) (w.getLsbD 7) (w.getLsbD 4) op
    else .vred (preOf w) (fD w) (fA w) (w.getLsbD 7) (w.getLsbD 6) op) := by
  unfold decodeFields; rw [h]; first | done | rfl

theorem arm_0x58 {w x : Word} (h : fOP w = 0x58) : decodeFields w x = (
    some (.vcvt (preOf w) (fD w) (fA w) (fFN w) (x.extractLsb' 23 8) (x.extractLsb' 20 3) (x.getLsbD 19) (x.extractLsb' 16 3))) := by
  unfold decodeFields; rw [h]; first | done | rfl

theorem arm_0x59 {w x : Word} (h : fOP w = 0x59) : decodeFields w x = (
    some (.vcvtef (preOf w) (fD w) (fA w) (fB w) (x.extractLsb' 23 8) (x.extractLsb' 20 3) (x.getLsbD 19) (x.extractLsb' 16 3))) := by
  unfold decodeFields; rw [h]; first | done | rfl

theorem arm_0x5A {w x : Word} (h : fOP w = 0x5A) : decodeFields w x = (
    if x.getLsbD 30 then some (.vunpk (preOf w) (fD w) (fA w) (fFN w))
    else some (.vpack (preOf w) (fD w) (fA w) (fFN w) (x.extractLsb' 27 3) (x.getLsbD 26))) := by
  unfold decodeFields; rw [h]; first | done | rfl

theorem arm_0x5B {w x : Word} (h : fOP w = 0x5B) : decodeFields w x = (
    some (.vsclap (preOf w) (fD w) (fA w) (fB w) (fN w))) := by
  unfold decodeFields; rw [h]; first | done | rfl

theorem arm_0x5C {w x : Word} (h : fOP w = 0x5C) : decodeFields w x = (
    if x.getLsbD 30 then some (.vexpnd (preOf w) (fD w) (fA w) (fB w) (fN w) (x.getLsbD 29) (x.extractLsb' 24 4) (x.extractLsb' 17 7))
    else some (.vcmprs (preOf w) (fD w) (fA w) (fB w) (fN w) (x.getLsbD 29) (x.extractLsb' 24 4) (x.extractLsb' 17 7))) := by
  unfold decodeFields; rw [h]; first | done | rfl

theorem arm_0x5D {w x : Word} (h : fOP w = 0x5D) : decodeFields w x = (
    match (x.extractLsb' 21 2).toNat with
    | 0 => some (.vdecode (preOf w) (fD w) (fA w) (fB w) (fN w) (x.extractLsb' 24 7) (x.getLsbD 23))
    | 1 => some (.vdstat (preOf w) (fD w))
    | 2 => some (.vdstatClr (preOf w) (fD w))
    | _ => none) := by
  unfold decodeFields; rw [h]; first | done | rfl

theorem arm_0x60 {w x : Word} (h : fOP w = 0x60) : decodeFields w x = (
    match ((fFN w).toNat) with
    | 0 => some (.oclaim (preOf w) (w.extractLsb' 15 2) (fA w))
    | 1 => some (.orelease (preOf w) (fA w))
    | 2 => some (.oqry (preOf w) (fD w) (fA w))
    | _ => none) := by
  unfold decodeFields; rw [h]; first | done | rfl

theorem arm_0x61 {w x : Word} (h : fOP w = 0x61) : decodeFields w x = (
    some (.oload (preOf w) (fD w) (fA w) (fB w) (x.extractLsb' 24 7) (x.extractLsb' 16 8) (x.getLsbD 15) (x.getLsbD 14) (x.getLsbD 13))) := by
  unfold decodeFields; rw [h]; first | done | rfl

theorem arm_0x62 {w x : Word} (h : fOP w = 0x62) : decodeFields w x = (
    some (.ofill (preOf w) (fD w) (fA w) (fFN w) (x.getLsbD 31) (x.extractLsb' 25 6) (x.extractLsb' 20 5) (x.extractLsb' 14 6)
    (x.getLsbD 13) (x.getLsbD 12))) := by
  unfold decodeFields; rw [h]; first | done | rfl

theorem arm_0x63 {w x : Word} (h : fOP w = 0x63) : decodeFields w x = (
    if (fN w) then some (.mmas (preOf w) (fD w) (fA w) (fB w) (x.getLsbD 31) (x.extractLsb' 24 7) (x.extractLsb' 18 6) (x.getLsbD 17))
    else some (.mma (preOf w) (fD w) (fA w) (fB w) (x.getLsbD 31) (x.extractLsb' 24 7) (x.extractLsb' 18 6) (x.getLsbD 17))) := by
  unfold decodeFields; rw [h]; first | done | rfl

theorem arm_0x64 {w x : Word} (h : fOP w = 0x64) : decodeFields w x = (
    match (x.extractLsb' 29 2).toNat with
    | 0 => some (.accz (preOf w) (fD w) (x.getLsbD 31) (x.getLsbD 15))
    | 1 => some (.accrd (preOf w) (fD w) (fA w) (x.getLsbD 31) (x.extractLsb' 23 6) (x.extractLsb' 16 7) (x.getLsbD 15))
    | 2 => some (.accwr (preOf w) (fD w) (fA w) (x.getLsbD 31) (x.extractLsb' 23 6) (x.extractLsb' 16 7) (x.getLsbD 15))
    | _ => some (.accst (preOf w) (fD w) (fA w) (fFN w) (x.getLsbD 31) (x.extractLsb' 23 6) (x.extractLsb' 20 3) (x.getLsbD 19) (x.getLsbD 18)
    (x.extractLsb' 12 6) (x.extractLsb' 10 2) (x.extractLsb' 7 3))) := by
  unfold decodeFields; rw [h]; first | done | rfl

theorem arm_0x65 {w x : Word} (h : fOP w = 0x65) : decodeFields w x = (
    some (.ocmp (preOf w) (fD w) (fA w) (fB w) (fN w) (x.getLsbD 31) (ccOf (x.extractLsb' 28 3)) (x.getLsbD 27) (x.getLsbD 26) (x.extractLsb' 18 8)
    (x.extractLsb' 13 5) (x.getLsbD 12))) := by
  unfold decodeFields; rw [h]; first | done | rfl

theorem arm_0x66 {w x : Word} (h : fOP w = 0x66) : decodeFields w x = (
    match (x.extractLsb' 26 5).toNat with
    | 0 => some (.btcnt (preOf w) (fD w) (fA w) (x.getLsbD 31) (x.getLsbD 12))
    | 1 => some (.btcolc (preOf w) (fD w) (fA w) (x.getLsbD 31) (x.getLsbD 12))
    | 2 => some (.btand (preOf w) (fD w) (fA w) (fB w) (x.getLsbD 31))
    | 3 => some (.btor (preOf w) (fD w) (fA w) (fB w) (x.getLsbD 31))
    | 4 => some (.btxor (preOf w) (fD w) (fA w) (fB w) (x.getLsbD 31))
    | 5 => some (.btnot (preOf w) (fD w) (fA w) (x.getLsbD 31))
    | 6 => some (.btt (preOf w) (fD w) (fA w) (x.getLsbD 31))
    | 7 => some (.btcomp (preOf w) (fD w) (fA w) (fB w) (x.getLsbD 31))
    | 8 => some (.btclos (preOf w) (fD w) (fA w) (x.extractLsb' 18 7) (x.getLsbD 31))
    | 9 => some (.bteye (preOf w) (fD w) (x.getLsbD 31))
    | 10 => some (.btfirst (preOf w) (fD w) (fA w) (x.getLsbD 31) (x.getLsbD 12))
    | 11 => some (.btrowRd (preOf w) (fD w) (fA w) (x.getLsbD 31) (x.getLsbD 12))
    | 12 => some (.btrowWr (preOf w) (fD w) (fA w) (x.getLsbD 31) (x.getLsbD 12))
    | 13 => some (.btld (preOf w) (fD w) (fA w) (x.getLsbD 31) (x.getLsbD 25) (x.extractLsb' 16 2) (x.extractLsb' 13 3))
    | 14 => some (.btst (preOf w) (fD w) (fA w) (x.getLsbD 31) (x.getLsbD 25) (x.extractLsb' 16 2) (x.extractLsb' 13 3))
    | _ => none) := by
  unfold decodeFields; rw [h]; first | done | rfl

theorem arm_0x68 {w x : Word} (h : fOP w = 0x68) : decodeFields w x = (
    match ((fFN w).toNat) with
    | 0 => some (.trap (preOf w) (w.extractLsb' 8 14))
    | 1 => some (.tret (preOf w))
    | 2 => some (.tretKill (preOf w))
    | 3 => some (.tretIgn (preOf w))
    | 4 => some (.trd (preOf w) (fD w) (fA w))
    | 5 => some (.twr (preOf w) (fD w) (fA w))
    | _ => none) := by
  unfold decodeFields; rw [h]; first | done | rfl

theorem arm_0x69 {w x : Word} (h : fOP w = 0x69) : decodeFields w x = (
    match ((fFN w).toNat) with
    | 0 => some (.flash (preOf w) (fA w))
    | 1 => some (.flashNone (preOf w))
    | _ => none) := by
  unfold decodeFields; rw [h]; first | done | rfl

theorem arm_0x6A {w x : Word} (h : fOP w = 0x6A) : decodeFields w x = (
    match ((fFN w).toNat) with
    | 0 => some (.dbgbrk (preOf w) (w.extractLsb' 8 14))
    | 1 => some (.dmbw (preOf w) (w.extractLsb' 15 3) (fA w))
    | 2 => some (.dmbwPost (preOf w) (w.extractLsb' 15 3) (fA w))
    | 3 => some (.dmbr (preOf w) (fD w) (fA w))
    | _ => none) := by
  unfold decodeFields; rw [h]; first | done | rfl

theorem arm_0x6B {w x : Word} (h : fOP w = 0x6B) : decodeFields w x = (
    match ((fFN w).toNat) with
    | 0 => some (.cntrd (preOf w) (fD w) (fA w))
    | 1 => some (.tsrd (preOf w) (fD w))
    | 2 => some (.tickrd (preOf w) (fD w))
    | 3 => some (.featq (preOf w) (fD w) (fA w))
    | _ => none) := by
  unfold decodeFields; rw [h]; first | done | rfl

theorem arm_0x6C {w x : Word} (h : fOP w = 0x6C) : decodeFields w x = (
    if ((fFN w).toNat) = 0 then some (.nop (preOf w)) else none) := by
  unfold decodeFields; rw [h]; first | done | rfl

theorem fields_sadd (p : Pre) (d a b : BitVec 7) (n : Bool) (x : Word) :
    decodeFields (rrr 0x01 p d a b n)
      (x) = some (.sadd p d a b n) := by
  rw [arm_0x01 (op_rrr ..)]
  simp (disch := decide) only [laneOf, pre_rrr, pre_rrf, pre_rg, pre_i15, pre_br, d_rrr, d_rrf, d_rg, d_i15, a_rrr, a_rrf, a_rg, b_rrr, n_rrr, fn_rrf, slice_rrr, slice_rrf, low_rrf, lowbit_rrf, hibit_rrf, ccOf_code, shflKindOf_code, atomOpOf_code, redOpOf_code, gd_rg, imm_i15, off_br, gd_br, da_rrf, code_rrf, hi_slice, lo_slice, full_slice, hi_bit, lo_bit, bool_bit, Nat.reduceSub, BitVec.ofNat_eq_ofNat, BitVec.reduceToNat, ↓reduceIte, Option.map_some, reduceCtorEq]

theorem fields_ssub (p : Pre) (d a b : BitVec 7) (n : Bool) (x : Word) :
    decodeFields (rrr 0x02 p d a b n)
      (x) = some (.ssub p d a b n) := by
  rw [arm_0x02 (op_rrr ..)]
  simp (disch := decide) only [laneOf, pre_rrr, pre_rrf, pre_rg, pre_i15, pre_br, d_rrr, d_rrf, d_rg, d_i15, a_rrr, a_rrf, a_rg, b_rrr, n_rrr, fn_rrf, slice_rrr, slice_rrf, low_rrf, lowbit_rrf, hibit_rrf, ccOf_code, shflKindOf_code, atomOpOf_code, redOpOf_code, gd_rg, imm_i15, off_br, gd_br, da_rrf, code_rrf, hi_slice, lo_slice, full_slice, hi_bit, lo_bit, bool_bit, Nat.reduceSub, BitVec.ofNat_eq_ofNat, BitVec.reduceToNat, ↓reduceIte, Option.map_some, reduceCtorEq]

theorem fields_smul (p : Pre) (d a b : BitVec 7) (n : Bool) (x : Word) :
    decodeFields (rrr 0x03 p d a b n)
      (x) = some (.smul p d a b n) := by
  rw [arm_0x03 (op_rrr ..)]
  simp (disch := decide) only [laneOf, pre_rrr, pre_rrf, pre_rg, pre_i15, pre_br, d_rrr, d_rrf, d_rg, d_i15, a_rrr, a_rrf, a_rg, b_rrr, n_rrr, fn_rrf, slice_rrr, slice_rrf, low_rrf, lowbit_rrf, hibit_rrf, ccOf_code, shflKindOf_code, atomOpOf_code, redOpOf_code, gd_rg, imm_i15, off_br, gd_br, da_rrf, code_rrf, hi_slice, lo_slice, full_slice, hi_bit, lo_bit, bool_bit, Nat.reduceSub, BitVec.ofNat_eq_ofNat, BitVec.reduceToNat, ↓reduceIte, Option.map_some, reduceCtorEq]

theorem fields_smulh (p : Pre) (d a b : BitVec 7) (n : Bool) (x : Word) :
    decodeFields (rrr 0x04 p d a b n)
      (x) = some (.smulh p d a b n) := by
  rw [arm_0x04 (op_rrr ..)]
  simp (disch := decide) only [laneOf, pre_rrr, pre_rrf, pre_rg, pre_i15, pre_br, d_rrr, d_rrf, d_rg, d_i15, a_rrr, a_rrf, a_rg, b_rrr, n_rrr, fn_rrf, slice_rrr, slice_rrf, low_rrf, lowbit_rrf, hibit_rrf, ccOf_code, shflKindOf_code, atomOpOf_code, redOpOf_code, gd_rg, imm_i15, off_br, gd_br, da_rrf, code_rrf, hi_slice, lo_slice, full_slice, hi_bit, lo_bit, bool_bit, Nat.reduceSub, BitVec.ofNat_eq_ofNat, BitVec.reduceToNat, ↓reduceIte, Option.map_some, reduceCtorEq]

theorem fields_sand (p : Pre) (d a b : BitVec 7) (n : Bool) (x : Word) :
    decodeFields (rrr 0x05 p d a b n)
      (x) = some (.sand p d a b n) := by
  rw [arm_0x05 (op_rrr ..)]
  simp (disch := decide) only [laneOf, pre_rrr, pre_rrf, pre_rg, pre_i15, pre_br, d_rrr, d_rrf, d_rg, d_i15, a_rrr, a_rrf, a_rg, b_rrr, n_rrr, fn_rrf, slice_rrr, slice_rrf, low_rrf, lowbit_rrf, hibit_rrf, ccOf_code, shflKindOf_code, atomOpOf_code, redOpOf_code, gd_rg, imm_i15, off_br, gd_br, da_rrf, code_rrf, hi_slice, lo_slice, full_slice, hi_bit, lo_bit, bool_bit, Nat.reduceSub, BitVec.ofNat_eq_ofNat, BitVec.reduceToNat, ↓reduceIte, Option.map_some, reduceCtorEq]

theorem fields_sor (p : Pre) (d a b : BitVec 7) (n : Bool) (x : Word) :
    decodeFields (rrr 0x06 p d a b n)
      (x) = some (.sor p d a b n) := by
  rw [arm_0x06 (op_rrr ..)]
  simp (disch := decide) only [laneOf, pre_rrr, pre_rrf, pre_rg, pre_i15, pre_br, d_rrr, d_rrf, d_rg, d_i15, a_rrr, a_rrf, a_rg, b_rrr, n_rrr, fn_rrf, slice_rrr, slice_rrf, low_rrf, lowbit_rrf, hibit_rrf, ccOf_code, shflKindOf_code, atomOpOf_code, redOpOf_code, gd_rg, imm_i15, off_br, gd_br, da_rrf, code_rrf, hi_slice, lo_slice, full_slice, hi_bit, lo_bit, bool_bit, Nat.reduceSub, BitVec.ofNat_eq_ofNat, BitVec.reduceToNat, ↓reduceIte, Option.map_some, reduceCtorEq]

theorem fields_sxor (p : Pre) (d a b : BitVec 7) (n : Bool) (x : Word) :
    decodeFields (rrr 0x07 p d a b n)
      (x) = some (.sxor p d a b n) := by
  rw [arm_0x07 (op_rrr ..)]
  simp (disch := decide) only [laneOf, pre_rrr, pre_rrf, pre_rg, pre_i15, pre_br, d_rrr, d_rrf, d_rg, d_i15, a_rrr, a_rrf, a_rg, b_rrr, n_rrr, fn_rrf, slice_rrr, slice_rrf, low_rrf, lowbit_rrf, hibit_rrf, ccOf_code, shflKindOf_code, atomOpOf_code, redOpOf_code, gd_rg, imm_i15, off_br, gd_br, da_rrf, code_rrf, hi_slice, lo_slice, full_slice, hi_bit, lo_bit, bool_bit, Nat.reduceSub, BitVec.ofNat_eq_ofNat, BitVec.reduceToNat, ↓reduceIte, Option.map_some, reduceCtorEq]

theorem fields_sshl (p : Pre) (d a b : BitVec 7) (n : Bool) (x : Word) :
    decodeFields (rrr 0x08 p d a b n)
      (x) = some (.sshl p d a b n) := by
  rw [arm_0x08 (op_rrr ..)]
  simp (disch := decide) only [laneOf, pre_rrr, pre_rrf, pre_rg, pre_i15, pre_br, d_rrr, d_rrf, d_rg, d_i15, a_rrr, a_rrf, a_rg, b_rrr, n_rrr, fn_rrf, slice_rrr, slice_rrf, low_rrf, lowbit_rrf, hibit_rrf, ccOf_code, shflKindOf_code, atomOpOf_code, redOpOf_code, gd_rg, imm_i15, off_br, gd_br, da_rrf, code_rrf, hi_slice, lo_slice, full_slice, hi_bit, lo_bit, bool_bit, Nat.reduceSub, BitVec.ofNat_eq_ofNat, BitVec.reduceToNat, ↓reduceIte, Option.map_some, reduceCtorEq]

theorem fields_sshr (p : Pre) (d a b : BitVec 7) (n : Bool) (x : Word) :
    decodeFields (rrr 0x09 p d a b n)
      (x) = some (.sshr p d a b n) := by
  rw [arm_0x09 (op_rrr ..)]
  simp (disch := decide) only [laneOf, pre_rrr, pre_rrf, pre_rg, pre_i15, pre_br, d_rrr, d_rrf, d_rg, d_i15, a_rrr, a_rrf, a_rg, b_rrr, n_rrr, fn_rrf, slice_rrr, slice_rrf, low_rrf, lowbit_rrf, hibit_rrf, ccOf_code, shflKindOf_code, atomOpOf_code, redOpOf_code, gd_rg, imm_i15, off_br, gd_br, da_rrf, code_rrf, hi_slice, lo_slice, full_slice, hi_bit, lo_bit, bool_bit, Nat.reduceSub, BitVec.ofNat_eq_ofNat, BitVec.reduceToNat, ↓reduceIte, Option.map_some, reduceCtorEq]

theorem fields_ssra (p : Pre) (d a b : BitVec 7) (n : Bool) (x : Word) :
    decodeFields (rrr 0x0A p d a b n)
      (x) = some (.ssra p d a b n) := by
  rw [arm_0x0A (op_rrr ..)]
  simp (disch := decide) only [laneOf, pre_rrr, pre_rrf, pre_rg, pre_i15, pre_br, d_rrr, d_rrf, d_rg, d_i15, a_rrr, a_rrf, a_rg, b_rrr, n_rrr, fn_rrf, slice_rrr, slice_rrf, low_rrf, lowbit_rrf, hibit_rrf, ccOf_code, shflKindOf_code, atomOpOf_code, redOpOf_code, gd_rg, imm_i15, off_br, gd_br, da_rrf, code_rrf, hi_slice, lo_slice, full_slice, hi_bit, lo_bit, bool_bit, Nat.reduceSub, BitVec.ofNat_eq_ofNat, BitVec.reduceToNat, ↓reduceIte, Option.map_some, reduceCtorEq]

theorem fields_smin (p : Pre) (d a b : BitVec 7) (n : Bool) (x : Word) :
    decodeFields (rrr 0x0B p d a b n)
      (x) = some (.smin p d a b n) := by
  rw [arm_0x0B (op_rrr ..)]
  simp (disch := decide) only [laneOf, pre_rrr, pre_rrf, pre_rg, pre_i15, pre_br, d_rrr, d_rrf, d_rg, d_i15, a_rrr, a_rrf, a_rg, b_rrr, n_rrr, fn_rrf, slice_rrr, slice_rrf, low_rrf, lowbit_rrf, hibit_rrf, ccOf_code, shflKindOf_code, atomOpOf_code, redOpOf_code, gd_rg, imm_i15, off_br, gd_br, da_rrf, code_rrf, hi_slice, lo_slice, full_slice, hi_bit, lo_bit, bool_bit, Nat.reduceSub, BitVec.ofNat_eq_ofNat, BitVec.reduceToNat, ↓reduceIte, Option.map_some, reduceCtorEq]

theorem fields_smax (p : Pre) (d a b : BitVec 7) (n : Bool) (x : Word) :
    decodeFields (rrr 0x0C p d a b n)
      (x) = some (.smax p d a b n) := by
  rw [arm_0x0C (op_rrr ..)]
  simp (disch := decide) only [laneOf, pre_rrr, pre_rrf, pre_rg, pre_i15, pre_br, d_rrr, d_rrf, d_rg, d_i15, a_rrr, a_rrf, a_rg, b_rrr, n_rrr, fn_rrf, slice_rrr, slice_rrf, low_rrf, lowbit_rrf, hibit_rrf, ccOf_code, shflKindOf_code, atomOpOf_code, redOpOf_code, gd_rg, imm_i15, off_br, gd_br, da_rrf, code_rrf, hi_slice, lo_slice, full_slice, hi_bit, lo_bit, bool_bit, Nat.reduceSub, BitVec.ofNat_eq_ofNat, BitVec.reduceToNat, ↓reduceIte, Option.map_some, reduceCtorEq]

theorem fields_scmp (p : Pre) (cc : Cc) (q : BitVec 2) (a b : BitVec 7) (n : Bool) (x : Word) :
    decodeFields (rrr 0x0D p (cc.code ++ 0#2 ++ q) a b n)
      (x) = some (.scmp p cc q a b n) := by
  rw [arm_0x0D (op_rrr ..)]
  simp (disch := decide) only [laneOf, pre_rrr, pre_rrf, pre_rg, pre_i15, pre_br, d_rrr, d_rrf, d_rg, d_i15, a_rrr, a_rrf, a_rg, b_rrr, n_rrr, fn_rrf, slice_rrr, slice_rrf, low_rrf, lowbit_rrf, hibit_rrf, ccOf_code, shflKindOf_code, atomOpOf_code, redOpOf_code, gd_rg, imm_i15, off_br, gd_br, da_rrf, code_rrf, hi_slice, lo_slice, full_slice, hi_bit, lo_bit, bool_bit, Nat.reduceSub, BitVec.ofNat_eq_ofNat, BitVec.reduceToNat, ↓reduceIte, Option.map_some, reduceCtorEq]

theorem fields_ssel (p : Pre) (d a : BitVec 7) (gd : BitVec 4) (x : Word) :
    decodeFields (rg 0x0E p d a gd)
      (x) = some (.ssel p d a gd) := by
  rw [arm_0x0E (op_rg ..)]
  simp (disch := decide) only [laneOf, pre_rrr, pre_rrf, pre_rg, pre_i15, pre_br, d_rrr, d_rrf, d_rg, d_i15, a_rrr, a_rrf, a_rg, b_rrr, n_rrr, fn_rrf, slice_rrr, slice_rrf, low_rrf, lowbit_rrf, hibit_rrf, ccOf_code, shflKindOf_code, atomOpOf_code, redOpOf_code, gd_rg, imm_i15, off_br, gd_br, da_rrf, code_rrf, hi_slice, lo_slice, full_slice, hi_bit, lo_bit, bool_bit, Nat.reduceSub, BitVec.ofNat_eq_ofNat, BitVec.reduceToNat, ↓reduceIte, Option.map_some, reduceCtorEq]

theorem fields_smov (p : Pre) (d a : BitVec 7) (x : Word) :
    decodeFields (rrf 0x0F p d a 0x00)
      (x) = some (.smov p d a) := by
  rw [arm_0x0F (op_rrf ..)]
  simp (disch := decide) only [laneOf, pre_rrr, pre_rrf, pre_rg, pre_i15, pre_br, d_rrr, d_rrf, d_rg, d_i15, a_rrr, a_rrf, a_rg, b_rrr, n_rrr, fn_rrf, slice_rrr, slice_rrf, low_rrf, lowbit_rrf, hibit_rrf, ccOf_code, shflKindOf_code, atomOpOf_code, redOpOf_code, gd_rg, imm_i15, off_br, gd_br, da_rrf, code_rrf, hi_slice, lo_slice, full_slice, hi_bit, lo_bit, bool_bit, Nat.reduceSub, BitVec.ofNat_eq_ofNat, BitVec.reduceToNat, ↓reduceIte, Option.map_some, reduceCtorEq]

theorem fields_srdvFirst (p : Pre) (d a : BitVec 7) (x : Word) :
    decodeFields (rrf 0x0F p d a 0x01)
      (x) = some (.srdvFirst p d a) := by
  rw [arm_0x0F (op_rrf ..)]
  simp (disch := decide) only [laneOf, pre_rrr, pre_rrf, pre_rg, pre_i15, pre_br, d_rrr, d_rrf, d_rg, d_i15, a_rrr, a_rrf, a_rg, b_rrr, n_rrr, fn_rrf, slice_rrr, slice_rrf, low_rrf, lowbit_rrf, hibit_rrf, ccOf_code, shflKindOf_code, atomOpOf_code, redOpOf_code, gd_rg, imm_i15, off_br, gd_br, da_rrf, code_rrf, hi_slice, lo_slice, full_slice, hi_bit, lo_bit, bool_bit, Nat.reduceSub, BitVec.ofNat_eq_ofNat, BitVec.reduceToNat, ↓reduceIte, Option.map_some, reduceCtorEq]

theorem fields_srdv (p : Pre) (d a : BitVec 7) (l : BitVec 6) (x : Word) :
    decodeFields (rrf 0x0F p d a (0x1#2 ++ l))
      (x) = some (.srdv p d a l) := by
  rw [arm_0x0F (op_rrf ..)]
  simp (disch := decide) only [laneOf, pre_rrr, pre_rrf, pre_rg, pre_i15, pre_br, d_rrr, d_rrf, d_rg, d_i15, a_rrr, a_rrf, a_rg, b_rrr, n_rrr, fn_rrf, slice_rrr, slice_rrf, low_rrf, lowbit_rrf, hibit_rrf, ccOf_code, shflKindOf_code, atomOpOf_code, redOpOf_code, gd_rg, imm_i15, off_br, gd_br, da_rrf, code_rrf, hi_slice, lo_slice, full_slice, hi_bit, lo_bit, bool_bit, Nat.reduceSub, BitVec.ofNat_eq_ofNat, BitVec.reduceToNat, ↓reduceIte, Option.map_some, reduceCtorEq]
  have h : (1#2 ++ l).toNat = 64 + l.toNat := by rw [append_nat]; rfl
  have := l.isLt
  rw [if_neg (by omega), if_neg (by omega), if_pos (by omega)]

theorem fields_srdid (p : Pre) (d : BitVec 7) (id : BitVec 3) (x : Word) :
    decodeFields (rrf 0x0F p d 0 (0x10#5 ++ id))
      (x) = some (.srdid p d id) := by
  rw [arm_0x0F (op_rrf ..)]
  simp (disch := decide) only [laneOf, pre_rrr, pre_rrf, pre_rg, pre_i15, pre_br, d_rrr, d_rrf, d_rg, d_i15, a_rrr, a_rrf, a_rg, b_rrr, n_rrr, fn_rrf, slice_rrr, slice_rrf, low_rrf, lowbit_rrf, hibit_rrf, ccOf_code, shflKindOf_code, atomOpOf_code, redOpOf_code, gd_rg, imm_i15, off_br, gd_br, da_rrf, code_rrf, hi_slice, lo_slice, full_slice, hi_bit, lo_bit, bool_bit, Nat.reduceSub, BitVec.ofNat_eq_ofNat, BitVec.reduceToNat, ↓reduceIte, Option.map_some, reduceCtorEq]
  have h : (16#5 ++ id).toNat = 128 + id.toNat := by rw [append_nat]; rfl
  have := id.isLt
  rw [if_neg (by omega), if_neg (by omega), if_neg (by omega), if_pos (by omega)]

theorem fields_smovi (p : Pre) (d : BitVec 7) (imm : BitVec 15) (x : Word) :
    decodeFields (i15 0x10 p d imm)
      (x) = some (.smovi p d imm) := by
  rw [arm_0x10 (op_i15 ..)]
  simp (disch := decide) only [laneOf, pre_rrr, pre_rrf, pre_rg, pre_i15, pre_br, d_rrr, d_rrf, d_rg, d_i15, a_rrr, a_rrf, a_rg, b_rrr, n_rrr, fn_rrf, slice_rrr, slice_rrf, low_rrf, lowbit_rrf, hibit_rrf, ccOf_code, shflKindOf_code, atomOpOf_code, redOpOf_code, gd_rg, imm_i15, off_br, gd_br, da_rrf, code_rrf, hi_slice, lo_slice, full_slice, hi_bit, lo_bit, bool_bit, Nat.reduceSub, BitVec.ofNat_eq_ofNat, BitVec.reduceToNat, ↓reduceIte, Option.map_some, reduceCtorEq]

theorem fields_slui (p : Pre) (d : BitVec 7) (imm : BitVec 15) (x : Word) :
    decodeFields (i15 0x11 p d imm)
      (x) = some (.slui p d imm) := by
  rw [arm_0x11 (op_i15 ..)]
  simp (disch := decide) only [laneOf, pre_rrr, pre_rrf, pre_rg, pre_i15, pre_br, d_rrr, d_rrf, d_rg, d_i15, a_rrr, a_rrf, a_rg, b_rrr, n_rrr, fn_rrf, slice_rrr, slice_rrf, low_rrf, lowbit_rrf, hibit_rrf, ccOf_code, shflKindOf_code, atomOpOf_code, redOpOf_code, gd_rg, imm_i15, off_br, gd_br, da_rrf, code_rrf, hi_slice, lo_slice, full_slice, hi_bit, lo_bit, bool_bit, Nat.reduceSub, BitVec.ofNat_eq_ofNat, BitVec.reduceToNat, ↓reduceIte, Option.map_some, reduceCtorEq]

theorem fields_bra (p : Pre) (gd : BitVec 4) (off : BitVec 18) (x : Word) :
    decodeFields (br 0x12 p gd off)
      (x) = some (.bra p gd off) := by
  rw [arm_0x12 (op_br ..)]
  simp (disch := decide) only [laneOf, pre_rrr, pre_rrf, pre_rg, pre_i15, pre_br, d_rrr, d_rrf, d_rg, d_i15, a_rrr, a_rrf, a_rg, b_rrr, n_rrr, fn_rrf, slice_rrr, slice_rrf, low_rrf, lowbit_rrf, hibit_rrf, ccOf_code, shflKindOf_code, atomOpOf_code, redOpOf_code, gd_rg, imm_i15, off_br, gd_br, da_rrf, code_rrf, hi_slice, lo_slice, full_slice, hi_bit, lo_bit, bool_bit, Nat.reduceSub, BitVec.ofNat_eq_ofNat, BitVec.reduceToNat, ↓reduceIte, Option.map_some, reduceCtorEq]

theorem fields_brl (p : Pre) (gd : BitVec 4) (off : BitVec 18) (x : Word) :
    decodeFields (br 0x13 p gd off)
      (x) = some (.brl p gd off) := by
  rw [arm_0x13 (op_br ..)]
  simp (disch := decide) only [laneOf, pre_rrr, pre_rrf, pre_rg, pre_i15, pre_br, d_rrr, d_rrf, d_rg, d_i15, a_rrr, a_rrf, a_rg, b_rrr, n_rrr, fn_rrf, slice_rrr, slice_rrf, low_rrf, lowbit_rrf, hibit_rrf, ccOf_code, shflKindOf_code, atomOpOf_code, redOpOf_code, gd_rg, imm_i15, off_br, gd_br, da_rrf, code_rrf, hi_slice, lo_slice, full_slice, hi_bit, lo_bit, bool_bit, Nat.reduceSub, BitVec.ofNat_eq_ofNat, BitVec.reduceToNat, ↓reduceIte, Option.map_some, reduceCtorEq]

theorem fields_joinat (p : Pre) (off : BitVec 18) (x : Word) :
    decodeFields (br 0x14 p 0 off)
      (x) = some (.joinat p off) := by
  rw [arm_0x14 (op_br ..)]
  simp (disch := decide) only [laneOf, pre_rrr, pre_rrf, pre_rg, pre_i15, pre_br, d_rrr, d_rrf, d_rg, d_i15, a_rrr, a_rrf, a_rg, b_rrr, n_rrr, fn_rrf, slice_rrr, slice_rrf, low_rrf, lowbit_rrf, hibit_rrf, ccOf_code, shflKindOf_code, atomOpOf_code, redOpOf_code, gd_rg, imm_i15, off_br, gd_br, da_rrf, code_rrf, hi_slice, lo_slice, full_slice, hi_bit, lo_bit, bool_bit, Nat.reduceSub, BitVec.ofNat_eq_ofNat, BitVec.reduceToNat, ↓reduceIte, Option.map_some, reduceCtorEq]

theorem fields_bcall (p : Pre) (gd : BitVec 4) (off : BitVec 18) (x : Word) :
    decodeFields (br 0x15 p gd off)
      (x) = some (.bcall p gd off) := by
  rw [arm_0x15 (op_br ..)]
  simp (disch := decide) only [laneOf, pre_rrr, pre_rrf, pre_rg, pre_i15, pre_br, d_rrr, d_rrf, d_rg, d_i15, a_rrr, a_rrf, a_rg, b_rrr, n_rrr, fn_rrf, slice_rrr, slice_rrf, low_rrf, lowbit_rrf, hibit_rrf, ccOf_code, shflKindOf_code, atomOpOf_code, redOpOf_code, gd_rg, imm_i15, off_br, gd_br, da_rrf, code_rrf, hi_slice, lo_slice, full_slice, hi_bit, lo_bit, bool_bit, Nat.reduceSub, BitVec.ofNat_eq_ofNat, BitVec.reduceToNat, ↓reduceIte, Option.map_some, reduceCtorEq]

theorem fields_loopb (p : Pre) (a : BitVec 7) (i8 : BitVec 8) (x : Word) :
    decodeFields (rrf 0x16 p 0 a i8)
      (x) = some (.loopb p a i8) := by
  rw [arm_0x16 (op_rrf ..)]
  simp (disch := decide) only [laneOf, pre_rrr, pre_rrf, pre_rg, pre_i15, pre_br, d_rrr, d_rrf, d_rg, d_i15, a_rrr, a_rrf, a_rg, b_rrr, n_rrr, fn_rrf, slice_rrr, slice_rrf, low_rrf, lowbit_rrf, hibit_rrf, ccOf_code, shflKindOf_code, atomOpOf_code, redOpOf_code, gd_rg, imm_i15, off_br, gd_br, da_rrf, code_rrf, hi_slice, lo_slice, full_slice, hi_bit, lo_bit, bool_bit, Nat.reduceSub, BitVec.ofNat_eq_ofNat, BitVec.reduceToNat, ↓reduceIte, Option.map_some, reduceCtorEq]

theorem fields_bret (p : Pre) (a : BitVec 7) (x : Word) :
    decodeFields (rrf 0x17 p 0 a 0x00)
      (x) = some (.bret p a) := by
  rw [arm_0x17 (op_rrf ..)]
  simp (disch := decide) only [laneOf, pre_rrr, pre_rrf, pre_rg, pre_i15, pre_br, d_rrr, d_rrf, d_rg, d_i15, a_rrr, a_rrf, a_rg, b_rrr, n_rrr, fn_rrf, slice_rrr, slice_rrf, low_rrf, lowbit_rrf, hibit_rrf, ccOf_code, shflKindOf_code, atomOpOf_code, redOpOf_code, gd_rg, imm_i15, off_br, gd_br, da_rrf, code_rrf, hi_slice, lo_slice, full_slice, hi_bit, lo_bit, bool_bit, Nat.reduceSub, BitVec.ofNat_eq_ofNat, BitVec.reduceToNat, ↓reduceIte, Option.map_some, reduceCtorEq]

theorem fields_bind (p : Pre) (a : BitVec 7) (x : Word) :
    decodeFields (rrf 0x17 p 0 a 0x01)
      (x) = some (.bind p a) := by
  rw [arm_0x17 (op_rrf ..)]
  simp (disch := decide) only [laneOf, pre_rrr, pre_rrf, pre_rg, pre_i15, pre_br, d_rrr, d_rrf, d_rg, d_i15, a_rrr, a_rrf, a_rg, b_rrr, n_rrr, fn_rrf, slice_rrr, slice_rrf, low_rrf, lowbit_rrf, hibit_rrf, ccOf_code, shflKindOf_code, atomOpOf_code, redOpOf_code, gd_rg, imm_i15, off_br, gd_br, da_rrf, code_rrf, hi_slice, lo_slice, full_slice, hi_bit, lo_bit, bool_bit, Nat.reduceSub, BitVec.ofNat_eq_ofNat, BitVec.reduceToNat, ↓reduceIte, Option.map_some, reduceCtorEq]

theorem fields_bindCall (p : Pre) (d a : BitVec 7) (x : Word) :
    decodeFields (rrf 0x17 p d a 0x02)
      (x) = some (.bindCall p d a) := by
  rw [arm_0x17 (op_rrf ..)]
  simp (disch := decide) only [laneOf, pre_rrr, pre_rrf, pre_rg, pre_i15, pre_br, d_rrr, d_rrf, d_rg, d_i15, a_rrr, a_rrf, a_rg, b_rrr, n_rrr, fn_rrf, slice_rrr, slice_rrf, low_rrf, lowbit_rrf, hibit_rrf, ccOf_code, shflKindOf_code, atomOpOf_code, redOpOf_code, gd_rg, imm_i15, off_br, gd_br, da_rrf, code_rrf, hi_slice, lo_slice, full_slice, hi_bit, lo_bit, bool_bit, Nat.reduceSub, BitVec.ofNat_eq_ofNat, BitVec.reduceToNat, ↓reduceIte, Option.map_some, reduceCtorEq]

theorem fields_regrp (p : Pre) (x : Word) :
    decodeFields (rrf 0x17 p 0 0 0x03)
      (x) = some (.regrp p) := by
  rw [arm_0x17 (op_rrf ..)]
  simp (disch := decide) only [laneOf, pre_rrr, pre_rrf, pre_rg, pre_i15, pre_br, d_rrr, d_rrf, d_rg, d_i15, a_rrr, a_rrf, a_rg, b_rrr, n_rrr, fn_rrf, slice_rrr, slice_rrf, low_rrf, lowbit_rrf, hibit_rrf, ccOf_code, shflKindOf_code, atomOpOf_code, redOpOf_code, gd_rg, imm_i15, off_br, gd_br, da_rrf, code_rrf, hi_slice, lo_slice, full_slice, hi_bit, lo_bit, bool_bit, Nat.reduceSub, BitVec.ofNat_eq_ofNat, BitVec.reduceToNat, ↓reduceIte, Option.map_some, reduceCtorEq]

theorem fields_exit (p : Pre) (x : Word) :
    decodeFields (rrf 0x17 p 0 0 0x04)
      (x) = some (.exit p) := by
  rw [arm_0x17 (op_rrf ..)]
  simp (disch := decide) only [laneOf, pre_rrr, pre_rrf, pre_rg, pre_i15, pre_br, d_rrr, d_rrf, d_rg, d_i15, a_rrr, a_rrf, a_rg, b_rrr, n_rrr, fn_rrf, slice_rrr, slice_rrf, low_rrf, lowbit_rrf, hibit_rrf, ccOf_code, shflKindOf_code, atomOpOf_code, redOpOf_code, gd_rg, imm_i15, off_br, gd_br, da_rrf, code_rrf, hi_slice, lo_slice, full_slice, hi_bit, lo_bit, bool_bit, Nat.reduceSub, BitVec.ofNat_eq_ofNat, BitVec.reduceToNat, ↓reduceIte, Option.map_some, reduceCtorEq]

theorem fields_yield (p : Pre) (x : Word) :
    decodeFields (rrf 0x17 p 0 0 0x05)
      (x) = some (.yield p) := by
  rw [arm_0x17 (op_rrf ..)]
  simp (disch := decide) only [laneOf, pre_rrr, pre_rrf, pre_rg, pre_i15, pre_br, d_rrr, d_rrf, d_rg, d_i15, a_rrr, a_rrf, a_rg, b_rrr, n_rrr, fn_rrf, slice_rrr, slice_rrf, low_rrf, lowbit_rrf, hibit_rrf, ccOf_code, shflKindOf_code, atomOpOf_code, redOpOf_code, gd_rg, imm_i15, off_br, gd_br, da_rrf, code_rrf, hi_slice, lo_slice, full_slice, hi_bit, lo_bit, bool_bit, Nat.reduceSub, BitVec.ofNat_eq_ofNat, BitVec.reduceToNat, ↓reduceIte, Option.map_some, reduceCtorEq]

theorem fields_sleep (p : Pre) (a : BitVec 7) (x : Word) :
    decodeFields (rrf 0x17 p 0 a 0x06)
      (x) = some (.sleep p a) := by
  rw [arm_0x17 (op_rrf ..)]
  simp (disch := decide) only [laneOf, pre_rrr, pre_rrf, pre_rg, pre_i15, pre_br, d_rrr, d_rrf, d_rg, d_i15, a_rrr, a_rrf, a_rg, b_rrr, n_rrr, fn_rrf, slice_rrr, slice_rrf, low_rrf, lowbit_rrf, hibit_rrf, ccOf_code, shflKindOf_code, atomOpOf_code, redOpOf_code, gd_rg, imm_i15, off_br, gd_br, da_rrf, code_rrf, hi_slice, lo_slice, full_slice, hi_bit, lo_bit, bool_bit, Nat.reduceSub, BitVec.ofNat_eq_ofNat, BitVec.reduceToNat, ↓reduceIte, Option.map_some, reduceCtorEq]

theorem fields_sleepRel (p : Pre) (a : BitVec 7) (x : Word) :
    decodeFields (rrf 0x17 p 0 a 0x07)
      (x) = some (.sleepRel p a) := by
  rw [arm_0x17 (op_rrf ..)]
  simp (disch := decide) only [laneOf, pre_rrr, pre_rrf, pre_rg, pre_i15, pre_br, d_rrr, d_rrf, d_rg, d_i15, a_rrr, a_rrf, a_rg, b_rrr, n_rrr, fn_rrf, slice_rrr, slice_rrf, low_rrf, lowbit_rrf, hibit_rrf, ccOf_code, shflKindOf_code, atomOpOf_code, redOpOf_code, gd_rg, imm_i15, off_br, gd_br, da_rrf, code_rrf, hi_slice, lo_slice, full_slice, hi_bit, lo_bit, bool_bit, Nat.reduceSub, BitVec.ofNat_eq_ofNat, BitVec.reduceToNat, ↓reduceIte, Option.map_some, reduceCtorEq]

theorem fields_swidth (p : Pre) (d : BitVec 7) (x : Word) :
    decodeFields (rrf 0x18 p d 0 0x00)
      (x) = some (.swidth p d) := by
  rw [arm_0x18 (op_rrf ..)]
  simp (disch := decide) only [laneOf, pre_rrr, pre_rrf, pre_rg, pre_i15, pre_br, d_rrr, d_rrf, d_rg, d_i15, a_rrr, a_rrf, a_rg, b_rrr, n_rrr, fn_rrf, slice_rrr, slice_rrf, low_rrf, lowbit_rrf, hibit_rrf, ccOf_code, shflKindOf_code, atomOpOf_code, redOpOf_code, gd_rg, imm_i15, off_br, gd_br, da_rrf, code_rrf, hi_slice, lo_slice, full_slice, hi_bit, lo_bit, bool_bit, Nat.reduceSub, BitVec.ofNat_eq_ofNat, BitVec.reduceToNat, ↓reduceIte, Option.map_some, reduceCtorEq]

theorem fields_swidthGang (p : Pre) (d : BitVec 7) (x : Word) :
    decodeFields (rrf 0x18 p d 0 0x01)
      (x) = some (.swidthGang p d) := by
  rw [arm_0x18 (op_rrf ..)]
  simp (disch := decide) only [laneOf, pre_rrr, pre_rrf, pre_rg, pre_i15, pre_br, d_rrr, d_rrf, d_rg, d_i15, a_rrr, a_rrf, a_rg, b_rrr, n_rrr, fn_rrf, slice_rrr, slice_rrf, low_rrf, lowbit_rrf, hibit_rrf, ccOf_code, shflKindOf_code, atomOpOf_code, redOpOf_code, gd_rg, imm_i15, off_br, gd_br, da_rrf, code_rrf, hi_slice, lo_slice, full_slice, hi_bit, lo_bit, bool_bit, Nat.reduceSub, BitVec.ofNat_eq_ofNat, BitVec.reduceToNat, ↓reduceIte, Option.map_some, reduceCtorEq]

theorem fields_smaskqAct (p : Pre) (d : BitVec 7) (x : Word) :
    decodeFields (rrf 0x18 p d 0 0x02)
      (x) = some (.smaskqAct p d) := by
  rw [arm_0x18 (op_rrf ..)]
  simp (disch := decide) only [laneOf, pre_rrr, pre_rrf, pre_rg, pre_i15, pre_br, d_rrr, d_rrf, d_rg, d_i15, a_rrr, a_rrf, a_rg, b_rrr, n_rrr, fn_rrf, slice_rrr, slice_rrf, low_rrf, lowbit_rrf, hibit_rrf, ccOf_code, shflKindOf_code, atomOpOf_code, redOpOf_code, gd_rg, imm_i15, off_br, gd_br, da_rrf, code_rrf, hi_slice, lo_slice, full_slice, hi_bit, lo_bit, bool_bit, Nat.reduceSub, BitVec.ofNat_eq_ofNat, BitVec.reduceToNat, ↓reduceIte, Option.map_some, reduceCtorEq]

theorem fields_smaskqLive (p : Pre) (d : BitVec 7) (x : Word) :
    decodeFields (rrf 0x18 p d 0 0x03)
      (x) = some (.smaskqLive p d) := by
  rw [arm_0x18 (op_rrf ..)]
  simp (disch := decide) only [laneOf, pre_rrr, pre_rrf, pre_rg, pre_i15, pre_br, d_rrr, d_rrf, d_rg, d_i15, a_rrr, a_rrf, a_rg, b_rrr, n_rrr, fn_rrf, slice_rrr, slice_rrf, low_rrf, lowbit_rrf, hibit_rrf, ccOf_code, shflKindOf_code, atomOpOf_code, redOpOf_code, gd_rg, imm_i15, off_br, gd_br, da_rrf, code_rrf, hi_slice, lo_slice, full_slice, hi_bit, lo_bit, bool_bit, Nat.reduceSub, BitVec.ofNat_eq_ofNat, BitVec.reduceToNat, ↓reduceIte, Option.map_some, reduceCtorEq]

theorem fields_sgangq (p : Pre) (d : BitVec 7) (x : Word) :
    decodeFields (rrf 0x18 p d 0 0x04)
      (x) = some (.sgangq p d) := by
  rw [arm_0x18 (op_rrf ..)]
  simp (disch := decide) only [laneOf, pre_rrr, pre_rrf, pre_rg, pre_i15, pre_br, d_rrr, d_rrf, d_rg, d_i15, a_rrr, a_rrf, a_rg, b_rrr, n_rrr, fn_rrf, slice_rrr, slice_rrf, low_rrf, lowbit_rrf, hibit_rrf, ccOf_code, shflKindOf_code, atomOpOf_code, redOpOf_code, gd_rg, imm_i15, off_br, gd_br, da_rrf, code_rrf, hi_slice, lo_slice, full_slice, hi_bit, lo_bit, bool_bit, Nat.reduceSub, BitVec.ofNat_eq_ofNat, BitVec.reduceToNat, ↓reduceIte, Option.map_some, reduceCtorEq]

theorem fields_voteAny (p : Pre) (w : Bool) (q : BitVec 2) (a : BitVec 7) (x : Word) :
    decodeFields (rrf 0x19 p (0#5 ++ q) a (BitVec.ofBool w ++ 0#7))
      (x) = some (.voteAny p w q a) := by
  rw [arm_0x19 (op_rrf ..)]
  simp (disch := decide) only [laneOf, pre_rrr, pre_rrf, pre_rg, pre_i15, pre_br, d_rrr, d_rrf, d_rg, d_i15, a_rrr, a_rrf, a_rg, b_rrr, n_rrr, fn_rrf, slice_rrr, slice_rrf, low_rrf, lowbit_rrf, hibit_rrf, ccOf_code, shflKindOf_code, atomOpOf_code, redOpOf_code, gd_rg, imm_i15, off_br, gd_br, da_rrf, code_rrf, hi_slice, lo_slice, full_slice, hi_bit, lo_bit, bool_bit, Nat.reduceSub, BitVec.ofNat_eq_ofNat, BitVec.reduceToNat, ↓reduceIte, Option.map_some, reduceCtorEq]
  cases w <;> rfl

theorem fields_voteAll (p : Pre) (w : Bool) (q : BitVec 2) (a : BitVec 7) (x : Word) :
    decodeFields (rrf 0x19 p (0#5 ++ q) a (BitVec.ofBool w ++ 1#7))
      (x) = some (.voteAll p w q a) := by
  rw [arm_0x19 (op_rrf ..)]
  simp (disch := decide) only [laneOf, pre_rrr, pre_rrf, pre_rg, pre_i15, pre_br, d_rrr, d_rrf, d_rg, d_i15, a_rrr, a_rrf, a_rg, b_rrr, n_rrr, fn_rrf, slice_rrr, slice_rrf, low_rrf, lowbit_rrf, hibit_rrf, ccOf_code, shflKindOf_code, atomOpOf_code, redOpOf_code, gd_rg, imm_i15, off_br, gd_br, da_rrf, code_rrf, hi_slice, lo_slice, full_slice, hi_bit, lo_bit, bool_bit, Nat.reduceSub, BitVec.ofNat_eq_ofNat, BitVec.reduceToNat, ↓reduceIte, Option.map_some, reduceCtorEq]
  cases w <;> rfl

theorem fields_voteEq (p : Pre) (w : Bool) (q : BitVec 2) (a : BitVec 7) (x : Word) :
    decodeFields (rrf 0x19 p (0#5 ++ q) a (BitVec.ofBool w ++ 2#7))
      (x) = some (.voteEq p w q a) := by
  rw [arm_0x19 (op_rrf ..)]
  simp (disch := decide) only [laneOf, pre_rrr, pre_rrf, pre_rg, pre_i15, pre_br, d_rrr, d_rrf, d_rg, d_i15, a_rrr, a_rrf, a_rg, b_rrr, n_rrr, fn_rrf, slice_rrr, slice_rrf, low_rrf, lowbit_rrf, hibit_rrf, ccOf_code, shflKindOf_code, atomOpOf_code, redOpOf_code, gd_rg, imm_i15, off_br, gd_br, da_rrf, code_rrf, hi_slice, lo_slice, full_slice, hi_bit, lo_bit, bool_bit, Nat.reduceSub, BitVec.ofNat_eq_ofNat, BitVec.reduceToNat, ↓reduceIte, Option.map_some, reduceCtorEq]
  cases w <;> rfl

theorem fields_voteBal (p : Pre) (w : Bool) (d a : BitVec 7) (x : Word) :
    decodeFields (rrf 0x19 p d a (BitVec.ofBool w ++ 3#7))
      (x) = some (.voteBal p w d a) := by
  rw [arm_0x19 (op_rrf ..)]
  simp (disch := decide) only [laneOf, pre_rrr, pre_rrf, pre_rg, pre_i15, pre_br, d_rrr, d_rrf, d_rg, d_i15, a_rrr, a_rrf, a_rg, b_rrr, n_rrr, fn_rrf, slice_rrr, slice_rrf, low_rrf, lowbit_rrf, hibit_rrf, ccOf_code, shflKindOf_code, atomOpOf_code, redOpOf_code, gd_rg, imm_i15, off_br, gd_br, da_rrf, code_rrf, hi_slice, lo_slice, full_slice, hi_bit, lo_bit, bool_bit, Nat.reduceSub, BitVec.ofNat_eq_ofNat, BitVec.reduceToNat, ↓reduceIte, Option.map_some, reduceCtorEq]
  cases w <;> rfl

theorem fields_shfl (p : Pre) (d a b : BitVec 7) (bk : Bool) (kind : ShflKind) (w fk : Bool) (fr : BitVec 7) (imm : Bool) (c : BitVec 6) :
    decodeFields (rrr 0x1A p d a b bk)
      (0#3 ++ kind.code ++ BitVec.ofBool w ++ BitVec.ofBool fk ++ fr ++ 0#11 ++ BitVec.ofBool imm ++ c) = some (.shfl p d a b bk kind w fk fr imm c) := by
  rw [arm_0x1A (op_rrr ..)]
  simp (disch := decide) only [laneOf, pre_rrr, pre_rrf, pre_rg, pre_i15, pre_br, d_rrr, d_rrf, d_rg, d_i15, a_rrr, a_rrf, a_rg, b_rrr, n_rrr, fn_rrf, slice_rrr, slice_rrf, low_rrf, lowbit_rrf, hibit_rrf, ccOf_code, shflKindOf_code, atomOpOf_code, redOpOf_code, gd_rg, imm_i15, off_br, gd_br, da_rrf, code_rrf, hi_slice, lo_slice, full_slice, hi_bit, lo_bit, bool_bit, Nat.reduceSub, BitVec.ofNat_eq_ofNat, BitVec.reduceToNat, ↓reduceIte, Option.map_some, reduceCtorEq]

theorem fields_setfmt (p : Pre) (a : BitVec 7) (x : Word) :
    decodeFields (rrf 0x1B p 0 a 0x00)
      (x) = some (.setfmt p a) := by
  rw [arm_0x1B (op_rrf ..)]
  simp (disch := decide) only [laneOf, pre_rrr, pre_rrf, pre_rg, pre_i15, pre_br, d_rrr, d_rrf, d_rg, d_i15, a_rrr, a_rrf, a_rg, b_rrr, n_rrr, fn_rrf, slice_rrr, slice_rrf, low_rrf, lowbit_rrf, hibit_rrf, ccOf_code, shflKindOf_code, atomOpOf_code, redOpOf_code, gd_rg, imm_i15, off_br, gd_br, da_rrf, code_rrf, hi_slice, lo_slice, full_slice, hi_bit, lo_bit, bool_bit, Nat.reduceSub, BitVec.ofNat_eq_ofNat, BitVec.reduceToNat, ↓reduceIte, Option.map_some, reduceCtorEq]

theorem fields_setfmtImm (p : Pre) (code : BitVec 8) (x : Word) :
    decodeFields (rrf 0x1B p (code.extractLsb' 1 7) (code.extractLsb' 0 1 ++ 0#6) 0x01)
      (x) = some (.setfmtImm p code) := by
  rw [arm_0x1B (op_rrf ..)]
  simp (disch := decide) only [laneOf, pre_rrr, pre_rrf, pre_rg, pre_i15, pre_br, d_rrr, d_rrf, d_rg, d_i15, a_rrr, a_rrf, a_rg, b_rrr, n_rrr, fn_rrf, slice_rrr, slice_rrf, low_rrf, lowbit_rrf, hibit_rrf, ccOf_code, shflKindOf_code, atomOpOf_code, redOpOf_code, gd_rg, imm_i15, off_br, gd_br, da_rrf, code_rrf, hi_slice, lo_slice, full_slice, hi_bit, lo_bit, bool_bit, Nat.reduceSub, BitVec.ofNat_eq_ofNat, BitVec.reduceToNat, ↓reduceIte, Option.map_some, reduceCtorEq]

theorem fields_getfmt (p : Pre) (d : BitVec 7) (x : Word) :
    decodeFields (rrf 0x1B p d 0 0x02)
      (x) = some (.getfmt p d) := by
  rw [arm_0x1B (op_rrf ..)]
  simp (disch := decide) only [laneOf, pre_rrr, pre_rrf, pre_rg, pre_i15, pre_br, d_rrr, d_rrf, d_rg, d_i15, a_rrr, a_rrf, a_rg, b_rrr, n_rrr, fn_rrf, slice_rrr, slice_rrf, low_rrf, lowbit_rrf, hibit_rrf, ccOf_code, shflKindOf_code, atomOpOf_code, redOpOf_code, gd_rg, imm_i15, off_br, gd_br, da_rrf, code_rrf, hi_slice, lo_slice, full_slice, hi_bit, lo_bit, bool_bit, Nat.reduceSub, BitVec.ofNat_eq_ofNat, BitVec.reduceToNat, ↓reduceIte, Option.map_some, reduceCtorEq]

theorem fields_setcvm (p : Pre) (a : BitVec 7) (x : Word) :
    decodeFields (rrf 0x1B p 0 a 0x03)
      (x) = some (.setcvm p a) := by
  rw [arm_0x1B (op_rrf ..)]
  simp (disch := decide) only [laneOf, pre_rrr, pre_rrf, pre_rg, pre_i15, pre_br, d_rrr, d_rrf, d_rg, d_i15, a_rrr, a_rrf, a_rg, b_rrr, n_rrr, fn_rrf, slice_rrr, slice_rrf, low_rrf, lowbit_rrf, hibit_rrf, ccOf_code, shflKindOf_code, atomOpOf_code, redOpOf_code, gd_rg, imm_i15, off_br, gd_br, da_rrf, code_rrf, hi_slice, lo_slice, full_slice, hi_bit, lo_bit, bool_bit, Nat.reduceSub, BitVec.ofNat_eq_ofNat, BitVec.reduceToNat, ↓reduceIte, Option.map_some, reduceCtorEq]

theorem fields_getcvm (p : Pre) (d : BitVec 7) (x : Word) :
    decodeFields (rrf 0x1B p d 0 0x04)
      (x) = some (.getcvm p d) := by
  rw [arm_0x1B (op_rrf ..)]
  simp (disch := decide) only [laneOf, pre_rrr, pre_rrf, pre_rg, pre_i15, pre_br, d_rrr, d_rrf, d_rg, d_i15, a_rrr, a_rrf, a_rg, b_rrr, n_rrr, fn_rrf, slice_rrr, slice_rrf, low_rrf, lowbit_rrf, hibit_rrf, ccOf_code, shflKindOf_code, atomOpOf_code, redOpOf_code, gd_rg, imm_i15, off_br, gd_br, da_rrf, code_rrf, hi_slice, lo_slice, full_slice, hi_bit, lo_bit, bool_bit, Nat.reduceSub, BitVec.ofNat_eq_ofNat, BitVec.reduceToNat, ↓reduceIte, Option.map_some, reduceCtorEq]

theorem fields_seedsr (p : Pre) (a : BitVec 7) (x : Word) :
    decodeFields (rrf 0x1B p 0 a 0x05)
      (x) = some (.seedsr p a) := by
  rw [arm_0x1B (op_rrf ..)]
  simp (disch := decide) only [laneOf, pre_rrr, pre_rrf, pre_rg, pre_i15, pre_br, d_rrr, d_rrf, d_rg, d_i15, a_rrr, a_rrf, a_rg, b_rrr, n_rrr, fn_rrf, slice_rrr, slice_rrf, low_rrf, lowbit_rrf, hibit_rrf, ccOf_code, shflKindOf_code, atomOpOf_code, redOpOf_code, gd_rg, imm_i15, off_br, gd_br, da_rrf, code_rrf, hi_slice, lo_slice, full_slice, hi_bit, lo_bit, bool_bit, Nat.reduceSub, BitVec.ofNat_eq_ofNat, BitVec.reduceToNat, ↓reduceIte, Option.map_some, reduceCtorEq]

theorem fields_seedsrV (p : Pre) (a : BitVec 7) (x : Word) :
    decodeFields (rrf 0x1B p 0 a 0x06)
      (x) = some (.seedsrV p a) := by
  rw [arm_0x1B (op_rrf ..)]
  simp (disch := decide) only [laneOf, pre_rrr, pre_rrf, pre_rg, pre_i15, pre_br, d_rrr, d_rrf, d_rg, d_i15, a_rrr, a_rrf, a_rg, b_rrr, n_rrr, fn_rrf, slice_rrr, slice_rrf, low_rrf, lowbit_rrf, hibit_rrf, ccOf_code, shflKindOf_code, atomOpOf_code, redOpOf_code, gd_rg, imm_i15, off_br, gd_br, da_rrf, code_rrf, hi_slice, lo_slice, full_slice, hi_bit, lo_bit, bool_bit, Nat.reduceSub, BitVec.ofNat_eq_ofNat, BitVec.reduceToNat, ↓reduceIte, Option.map_some, reduceCtorEq]

theorem fields_xacqV (p : Pre) (x : Word) :
    decodeFields (rrf 0x1C p 0 0 0x00)
      (x) = some (.xacqV p) := by
  rw [arm_0x1C (op_rrf ..)]
  simp (disch := decide) only [laneOf, pre_rrr, pre_rrf, pre_rg, pre_i15, pre_br, d_rrr, d_rrf, d_rg, d_i15, a_rrr, a_rrf, a_rg, b_rrr, n_rrr, fn_rrf, slice_rrr, slice_rrf, low_rrf, lowbit_rrf, hibit_rrf, ccOf_code, shflKindOf_code, atomOpOf_code, redOpOf_code, gd_rg, imm_i15, off_br, gd_br, da_rrf, code_rrf, hi_slice, lo_slice, full_slice, hi_bit, lo_bit, bool_bit, Nat.reduceSub, BitVec.ofNat_eq_ofNat, BitVec.reduceToNat, ↓reduceIte, Option.map_some, reduceCtorEq]

theorem fields_xacqAcc (p : Pre) (n : BitVec 2) (x : Word) :
    decodeFields (rrf 0x1C p (0#5 ++ n) 0 0x01)
      (x) = some (.xacqAcc p n) := by
  rw [arm_0x1C (op_rrf ..)]
  simp (disch := decide) only [laneOf, pre_rrr, pre_rrf, pre_rg, pre_i15, pre_br, d_rrr, d_rrf, d_rg, d_i15, a_rrr, a_rrf, a_rg, b_rrr, n_rrr, fn_rrf, slice_rrr, slice_rrf, low_rrf, lowbit_rrf, hibit_rrf, ccOf_code, shflKindOf_code, atomOpOf_code, redOpOf_code, gd_rg, imm_i15, off_br, gd_br, da_rrf, code_rrf, hi_slice, lo_slice, full_slice, hi_bit, lo_bit, bool_bit, Nat.reduceSub, BitVec.ofNat_eq_ofNat, BitVec.reduceToNat, ↓reduceIte, Option.map_some, reduceCtorEq]

theorem fields_xacqBt (p : Pre) (x : Word) :
    decodeFields (rrf 0x1C p 0 0 0x02)
      (x) = some (.xacqBt p) := by
  rw [arm_0x1C (op_rrf ..)]
  simp (disch := decide) only [laneOf, pre_rrr, pre_rrf, pre_rg, pre_i15, pre_br, d_rrr, d_rrf, d_rg, d_i15, a_rrr, a_rrf, a_rg, b_rrr, n_rrr, fn_rrf, slice_rrr, slice_rrf, low_rrf, lowbit_rrf, hibit_rrf, ccOf_code, shflKindOf_code, atomOpOf_code, redOpOf_code, gd_rg, imm_i15, off_br, gd_br, da_rrf, code_rrf, hi_slice, lo_slice, full_slice, hi_bit, lo_bit, bool_bit, Nat.reduceSub, BitVec.ofNat_eq_ofNat, BitVec.reduceToNat, ↓reduceIte, Option.map_some, reduceCtorEq]

theorem fields_xrelV (p : Pre) (x : Word) :
    decodeFields (rrf 0x1C p 0 0 0x04)
      (x) = some (.xrelV p) := by
  rw [arm_0x1C (op_rrf ..)]
  simp (disch := decide) only [laneOf, pre_rrr, pre_rrf, pre_rg, pre_i15, pre_br, d_rrr, d_rrf, d_rg, d_i15, a_rrr, a_rrf, a_rg, b_rrr, n_rrr, fn_rrf, slice_rrr, slice_rrf, low_rrf, lowbit_rrf, hibit_rrf, ccOf_code, shflKindOf_code, atomOpOf_code, redOpOf_code, gd_rg, imm_i15, off_br, gd_br, da_rrf, code_rrf, hi_slice, lo_slice, full_slice, hi_bit, lo_bit, bool_bit, Nat.reduceSub, BitVec.ofNat_eq_ofNat, BitVec.reduceToNat, ↓reduceIte, Option.map_some, reduceCtorEq]

theorem fields_xrelAcc (p : Pre) (n : BitVec 2) (x : Word) :
    decodeFields (rrf 0x1C p (0#5 ++ n) 0 0x05)
      (x) = some (.xrelAcc p n) := by
  rw [arm_0x1C (op_rrf ..)]
  simp (disch := decide) only [laneOf, pre_rrr, pre_rrf, pre_rg, pre_i15, pre_br, d_rrr, d_rrf, d_rg, d_i15, a_rrr, a_rrf, a_rg, b_rrr, n_rrr, fn_rrf, slice_rrr, slice_rrf, low_rrf, lowbit_rrf, hibit_rrf, ccOf_code, shflKindOf_code, atomOpOf_code, redOpOf_code, gd_rg, imm_i15, off_br, gd_br, da_rrf, code_rrf, hi_slice, lo_slice, full_slice, hi_bit, lo_bit, bool_bit, Nat.reduceSub, BitVec.ofNat_eq_ofNat, BitVec.reduceToNat, ↓reduceIte, Option.map_some, reduceCtorEq]

theorem fields_xrelBt (p : Pre) (x : Word) :
    decodeFields (rrf 0x1C p 0 0 0x06)
      (x) = some (.xrelBt p) := by
  rw [arm_0x1C (op_rrf ..)]
  simp (disch := decide) only [laneOf, pre_rrr, pre_rrf, pre_rg, pre_i15, pre_br, d_rrr, d_rrf, d_rg, d_i15, a_rrr, a_rrf, a_rg, b_rrr, n_rrr, fn_rrf, slice_rrr, slice_rrf, low_rrf, lowbit_rrf, hibit_rrf, ccOf_code, shflKindOf_code, atomOpOf_code, redOpOf_code, gd_rg, imm_i15, off_br, gd_br, da_rrf, code_rrf, hi_slice, lo_slice, full_slice, hi_bit, lo_bit, bool_bit, Nat.reduceSub, BitVec.ofNat_eq_ofNat, BitVec.reduceToNat, ↓reduceIte, Option.map_some, reduceCtorEq]

theorem fields_xqry (p : Pre) (d : BitVec 7) (x : Word) :
    decodeFields (rrf 0x1C p d 0 0x08)
      (x) = some (.xqry p d) := by
  rw [arm_0x1C (op_rrf ..)]
  simp (disch := decide) only [laneOf, pre_rrr, pre_rrf, pre_rg, pre_i15, pre_br, d_rrr, d_rrf, d_rg, d_i15, a_rrr, a_rrf, a_rg, b_rrr, n_rrr, fn_rrf, slice_rrr, slice_rrf, low_rrf, lowbit_rrf, hibit_rrf, ccOf_code, shflKindOf_code, atomOpOf_code, redOpOf_code, gd_rg, imm_i15, off_br, gd_br, da_rrf, code_rrf, hi_slice, lo_slice, full_slice, hi_bit, lo_bit, bool_bit, Nat.reduceSub, BitVec.ofNat_eq_ofNat, BitVec.reduceToNat, ↓reduceIte, Option.map_some, reduceCtorEq]

theorem fields_fork (p : Pre) (q : BitVec 2) (a e : BitVec 7) (loc ek : Bool) (off : BitVec 18) :
    decodeFields (rrr 0x1D p (0#5 ++ q) a e false)
      (BitVec.ofBool loc ++ BitVec.ofBool ek ++ 0#12 ++ off) = some (.fork p q a e loc ek off) := by
  rw [arm_0x1D (op_rrr ..)]
  simp (disch := decide) only [laneOf, pre_rrr, pre_rrf, pre_rg, pre_i15, pre_br, d_rrr, d_rrf, d_rg, d_i15, a_rrr, a_rrf, a_rg, b_rrr, n_rrr, fn_rrf, slice_rrr, slice_rrf, low_rrf, lowbit_rrf, hibit_rrf, ccOf_code, shflKindOf_code, atomOpOf_code, redOpOf_code, gd_rg, imm_i15, off_br, gd_br, da_rrf, code_rrf, hi_slice, lo_slice, full_slice, hi_bit, lo_bit, bool_bit, Nat.reduceSub, BitVec.ofNat_eq_ofNat, BitVec.reduceToNat, ↓reduceIte, Option.map_some, reduceCtorEq]

theorem fields_join (p : Pre) (scp : BitVec 3) (a : BitVec 7) (x : Word) :
    decodeFields (rrf 0x1E p (0#4 ++ scp) a 0x00)
      (x) = some (.join p scp a) := by
  rw [arm_0x1E (op_rrf ..)]
  simp (disch := decide) only [laneOf, pre_rrr, pre_rrf, pre_rg, pre_i15, pre_br, d_rrr, d_rrf, d_rg, d_i15, a_rrr, a_rrf, a_rg, b_rrr, n_rrr, fn_rrf, slice_rrr, slice_rrf, low_rrf, lowbit_rrf, hibit_rrf, ccOf_code, shflKindOf_code, atomOpOf_code, redOpOf_code, gd_rg, imm_i15, off_br, gd_br, da_rrf, code_rrf, hi_slice, lo_slice, full_slice, hi_bit, lo_bit, bool_bit, Nat.reduceSub, BitVec.ofNat_eq_ofNat, BitVec.reduceToNat, ↓reduceIte, Option.map_some, reduceCtorEq]

theorem fields_joinSp (p : Pre) (scp : BitVec 3) (a : BitVec 7) (x : Word) :
    decodeFields (rrf 0x1E p (0#4 ++ scp) a 0x01)
      (x) = some (.joinSp p scp a) := by
  rw [arm_0x1E (op_rrf ..)]
  simp (disch := decide) only [laneOf, pre_rrr, pre_rrf, pre_rg, pre_i15, pre_br, d_rrr, d_rrf, d_rg, d_i15, a_rrr, a_rrf, a_rg, b_rrr, n_rrr, fn_rrf, slice_rrr, slice_rrf, low_rrf, lowbit_rrf, hibit_rrf, ccOf_code, shflKindOf_code, atomOpOf_code, redOpOf_code, gd_rg, imm_i15, off_br, gd_br, da_rrf, code_rrf, hi_slice, lo_slice, full_slice, hi_bit, lo_bit, bool_bit, Nat.reduceSub, BitVec.ofNat_eq_ofNat, BitVec.reduceToNat, ↓reduceIte, Option.map_some, reduceCtorEq]

theorem fields_deqd (p : Pre) (d : BitVec 7) (x : Word) :
    decodeFields (rrf 0x1E p d 0 0x02)
      (x) = some (.deqd p d) := by
  rw [arm_0x1E (op_rrf ..)]
  simp (disch := decide) only [laneOf, pre_rrr, pre_rrf, pre_rg, pre_i15, pre_br, d_rrr, d_rrf, d_rg, d_i15, a_rrr, a_rrf, a_rg, b_rrr, n_rrr, fn_rrf, slice_rrr, slice_rrf, low_rrf, lowbit_rrf, hibit_rrf, ccOf_code, shflKindOf_code, atomOpOf_code, redOpOf_code, gd_rg, imm_i15, off_br, gd_br, da_rrf, code_rrf, hi_slice, lo_slice, full_slice, hi_bit, lo_bit, bool_bit, Nat.reduceSub, BitVec.ofNat_eq_ofNat, BitVec.reduceToNat, ↓reduceIte, Option.map_some, reduceCtorEq]

theorem fields_ld (p : Pre) (m : LaneMem) (raw : Bool) :
    decodeFields (rrr 0x20 p m.d m.a m.x m.xv)
      (BitVec.ofBool m.fs ++ m.sz ++ 0#4 ++ m.ord ++ m.scp ++ BitVec.ofBool raw ++ 0#4 ++ m.disp) = some (.ld p m raw) := by
  rw [arm_0x20 (op_rrr ..)]
  simp (disch := decide) only [laneOf, pre_rrr, pre_rrf, pre_rg, pre_i15, pre_br, d_rrr, d_rrf, d_rg, d_i15, a_rrr, a_rrf, a_rg, b_rrr, n_rrr, fn_rrf, slice_rrr, slice_rrf, low_rrf, lowbit_rrf, hibit_rrf, ccOf_code, shflKindOf_code, atomOpOf_code, redOpOf_code, gd_rg, imm_i15, off_br, gd_br, da_rrf, code_rrf, hi_slice, lo_slice, full_slice, hi_bit, lo_bit, bool_bit, Nat.reduceSub, BitVec.ofNat_eq_ofNat, BitVec.reduceToNat, ↓reduceIte, Option.map_some, reduceCtorEq]

theorem fields_ldu (p : Pre) (m : LaneMem) (raw : Bool) :
    decodeFields (rrr 0x21 p m.d m.a m.x m.xv)
      (BitVec.ofBool m.fs ++ m.sz ++ 0#4 ++ m.ord ++ m.scp ++ BitVec.ofBool raw ++ 0#4 ++ m.disp) = some (.ldu p m raw) := by
  rw [arm_0x21 (op_rrr ..)]
  simp (disch := decide) only [laneOf, pre_rrr, pre_rrf, pre_rg, pre_i15, pre_br, d_rrr, d_rrf, d_rg, d_i15, a_rrr, a_rrf, a_rg, b_rrr, n_rrr, fn_rrf, slice_rrr, slice_rrf, low_rrf, lowbit_rrf, hibit_rrf, ccOf_code, shflKindOf_code, atomOpOf_code, redOpOf_code, gd_rg, imm_i15, off_br, gd_br, da_rrf, code_rrf, hi_slice, lo_slice, full_slice, hi_bit, lo_bit, bool_bit, Nat.reduceSub, BitVec.ofNat_eq_ofNat, BitVec.reduceToNat, ↓reduceIte, Option.map_some, reduceCtorEq]

theorem fields_lds (p : Pre) (m : LaneMem) :
    decodeFields (rrr 0x22 p m.d m.a m.x m.xv)
      (BitVec.ofBool m.fs ++ m.sz ++ 0#4 ++ m.ord ++ m.scp ++ 0#1 ++ 0#4 ++ m.disp) = some (.lds p m) := by
  rw [arm_0x22 (op_rrr ..)]
  simp (disch := decide) only [laneOf, pre_rrr, pre_rrf, pre_rg, pre_i15, pre_br, d_rrr, d_rrf, d_rg, d_i15, a_rrr, a_rrf, a_rg, b_rrr, n_rrr, fn_rrf, slice_rrr, slice_rrf, low_rrf, lowbit_rrf, hibit_rrf, ccOf_code, shflKindOf_code, atomOpOf_code, redOpOf_code, gd_rg, imm_i15, off_br, gd_br, da_rrf, code_rrf, hi_slice, lo_slice, full_slice, hi_bit, lo_bit, bool_bit, Nat.reduceSub, BitVec.ofNat_eq_ofNat, BitVec.reduceToNat, ↓reduceIte, Option.map_some, reduceCtorEq]

theorem fields_ldc (p : Pre) (m : LaneMem) (raw : Bool) :
    decodeFields (rrr 0x23 p m.d m.a m.x m.xv)
      (BitVec.ofBool m.fs ++ m.sz ++ 0#4 ++ m.ord ++ m.scp ++ BitVec.ofBool raw ++ 0#4 ++ m.disp) = some (.ldc p m raw) := by
  rw [arm_0x23 (op_rrr ..)]
  simp (disch := decide) only [laneOf, pre_rrr, pre_rrf, pre_rg, pre_i15, pre_br, d_rrr, d_rrf, d_rg, d_i15, a_rrr, a_rrf, a_rg, b_rrr, n_rrr, fn_rrf, slice_rrr, slice_rrf, low_rrf, lowbit_rrf, hibit_rrf, ccOf_code, shflKindOf_code, atomOpOf_code, redOpOf_code, gd_rg, imm_i15, off_br, gd_br, da_rrf, code_rrf, hi_slice, lo_slice, full_slice, hi_bit, lo_bit, bool_bit, Nat.reduceSub, BitVec.ofNat_eq_ofNat, BitVec.reduceToNat, ↓reduceIte, Option.map_some, reduceCtorEq]

theorem fields_st (p : Pre) (m : LaneMem) (gd : BitVec 4) :
    decodeFields (rrr 0x24 p m.d m.a m.x m.xv)
      (BitVec.ofBool m.fs ++ m.sz ++ gd ++ m.ord ++ m.scp ++ 0#1 ++ 0#4 ++ m.disp) = some (.st p m gd) := by
  rw [arm_0x24 (op_rrr ..)]
  simp (disch := decide) only [laneOf, pre_rrr, pre_rrf, pre_rg, pre_i15, pre_br, d_rrr, d_rrf, d_rg, d_i15, a_rrr, a_rrf, a_rg, b_rrr, n_rrr, fn_rrf, slice_rrr, slice_rrf, low_rrf, lowbit_rrf, hibit_rrf, ccOf_code, shflKindOf_code, atomOpOf_code, redOpOf_code, gd_rg, imm_i15, off_br, gd_br, da_rrf, code_rrf, hi_slice, lo_slice, full_slice, hi_bit, lo_bit, bool_bit, Nat.reduceSub, BitVec.ofNat_eq_ofNat, BitVec.reduceToNat, ↓reduceIte, Option.map_some, reduceCtorEq]

theorem fields_stu (p : Pre) (m : LaneMem) (gd : BitVec 4) (mv : BitVec 7) (h : m.disp.toNat < 2048) :
    decodeFields (rrr 0x25 p m.d m.a m.x m.xv)
      (BitVec.ofBool m.fs ++ m.sz ++ gd ++ m.ord ++ m.scp ++ 0#1 ++ mv ++ m.disp.extractLsb' 0 11) = some (.stu p m gd mv) := by
  rw [arm_0x25 (op_rrr ..)]
  simp (disch := decide) only [laneOf, pre_rrr, pre_rrf, pre_rg, pre_i15, pre_br, d_rrr, d_rrf, d_rg, d_i15, a_rrr, a_rrf, a_rg, b_rrr, n_rrr, fn_rrf, slice_rrr, slice_rrf, low_rrf, lowbit_rrf, hibit_rrf, ccOf_code, shflKindOf_code, atomOpOf_code, redOpOf_code, gd_rg, imm_i15, off_br, gd_br, da_rrf, code_rrf, hi_slice, lo_slice, full_slice, hi_bit, lo_bit, bool_bit, Nat.reduceSub, BitVec.ofNat_eq_ofNat, BitVec.reduceToNat, ↓reduceIte, Option.map_some, reduceCtorEq]
  congr 2
  cases m
  congr 1
  apply BitVec.eq_of_toNat_eq
  rw [append_nat]
  simpa using h

theorem fields_sts (p : Pre) (m : LaneMem) (gd : BitVec 4) :
    decodeFields (rrr 0x26 p m.d m.a m.x m.xv)
      (BitVec.ofBool m.fs ++ m.sz ++ gd ++ m.ord ++ m.scp ++ 0#1 ++ 0#4 ++ m.disp) = some (.sts p m gd) := by
  rw [arm_0x26 (op_rrr ..)]
  simp (disch := decide) only [laneOf, pre_rrr, pre_rrf, pre_rg, pre_i15, pre_br, d_rrr, d_rrf, d_rg, d_i15, a_rrr, a_rrf, a_rg, b_rrr, n_rrr, fn_rrf, slice_rrr, slice_rrf, low_rrf, lowbit_rrf, hibit_rrf, ccOf_code, shflKindOf_code, atomOpOf_code, redOpOf_code, gd_rg, imm_i15, off_br, gd_br, da_rrf, code_rrf, hi_slice, lo_slice, full_slice, hi_bit, lo_bit, bool_bit, Nat.reduceSub, BitVec.ofNat_eq_ofNat, BitVec.reduceToNat, ↓reduceIte, Option.map_some, reduceCtorEq]

theorem fields_atom (p : Pre) (m : LaneMem) (gd : BitVec 4) (raw : Bool) (aop : AtomOp) (dv cv : BitVec 7) (h : m.disp = 0) :
    decodeFields (rrr 0x27 p m.d m.a m.x m.xv)
      (BitVec.ofBool m.fs ++ m.sz ++ gd ++ m.ord ++ m.scp ++ BitVec.ofBool raw ++ aop.code ++ dv ++ cv) = some (.atom p m gd raw aop dv cv) := by
  rw [arm_0x27 (op_rrr ..)]
  simp (disch := decide) only [laneOf, pre_rrr, pre_rrf, pre_rg, pre_i15, pre_br, d_rrr, d_rrf, d_rg, d_i15, a_rrr, a_rrf, a_rg, b_rrr, n_rrr, fn_rrf, slice_rrr, slice_rrf, low_rrf, lowbit_rrf, hibit_rrf, ccOf_code, shflKindOf_code, atomOpOf_code, redOpOf_code, gd_rg, imm_i15, off_br, gd_br, da_rrf, code_rrf, hi_slice, lo_slice, full_slice, hi_bit, lo_bit, bool_bit, Nat.reduceSub, BitVec.ofNat_eq_ofNat, BitVec.reduceToNat, ↓reduceIte, Option.map_some, reduceCtorEq]
  cases m; subst h; rfl

theorem fields_fence (p : Pre) (kind : BitVec 2) (scp : BitVec 3) (x : Word) :
    decodeFields (rrf 0x28 p (0#4 ++ scp) 0 (0#6 ++ kind))
      (x) = some (.fence p kind scp) := by
  rw [arm_0x28 (op_rrf ..)]
  simp (disch := decide) only [laneOf, pre_rrr, pre_rrf, pre_rg, pre_i15, pre_br, d_rrr, d_rrf, d_rg, d_i15, a_rrr, a_rrf, a_rg, b_rrr, n_rrr, fn_rrf, slice_rrr, slice_rrf, low_rrf, lowbit_rrf, hibit_rrf, ccOf_code, shflKindOf_code, atomOpOf_code, redOpOf_code, gd_rg, imm_i15, off_br, gd_br, da_rrf, code_rrf, hi_slice, lo_slice, full_slice, hi_bit, lo_bit, bool_bit, Nat.reduceSub, BitVec.ofNat_eq_ofNat, BitVec.reduceToNat, ↓reduceIte, Option.map_some, reduceCtorEq]

theorem fields_tld (p : Pre) (d a : BitVec 7) (fmt : BitVec 8) (mode : BitVec 3) (sat : Bool) (fs : Bool) (ord : BitVec 2) (scp : BitVec 3) :
    decodeFields (rrf 0x29 p d a fmt)
      (BitVec.ofBool fs ++ mode ++ BitVec.ofBool sat ++ 0#3 ++ ord ++ scp ++ 0#19) = some (.tld p d a fmt mode sat fs ord scp) := by
  rw [arm_0x29 (op_rrf ..)]
  simp (disch := decide) only [laneOf, pre_rrr, pre_rrf, pre_rg, pre_i15, pre_br, d_rrr, d_rrf, d_rg, d_i15, a_rrr, a_rrf, a_rg, b_rrr, n_rrr, fn_rrf, slice_rrr, slice_rrf, low_rrf, lowbit_rrf, hibit_rrf, ccOf_code, shflKindOf_code, atomOpOf_code, redOpOf_code, gd_rg, imm_i15, off_br, gd_br, da_rrf, code_rrf, hi_slice, lo_slice, full_slice, hi_bit, lo_bit, bool_bit, Nat.reduceSub, BitVec.ofNat_eq_ofNat, BitVec.reduceToNat, ↓reduceIte, Option.map_some, reduceCtorEq]

theorem fields_tst (p : Pre) (d a : BitVec 7) (fmt : BitVec 8) (sclw : Bool) (fs : Bool) (ord : BitVec 2) (scp : BitVec 3) :
    decodeFields (rrf 0x2A p d a fmt)
      (BitVec.ofBool fs ++ BitVec.ofBool sclw ++ 0#6 ++ ord ++ scp ++ 0#19) = some (.tst p d a fmt sclw fs ord scp) := by
  rw [arm_0x2A (op_rrf ..)]
  simp (disch := decide) only [laneOf, pre_rrr, pre_rrf, pre_rg, pre_i15, pre_br, d_rrr, d_rrf, d_rg, d_i15, a_rrr, a_rrf, a_rg, b_rrr, n_rrr, fn_rrf, slice_rrr, slice_rrf, low_rrf, lowbit_rrf, hibit_rrf, ccOf_code, shflKindOf_code, atomOpOf_code, redOpOf_code, gd_rg, imm_i15, off_br, gd_br, da_rrf, code_rrf, hi_slice, lo_slice, full_slice, hi_bit, lo_bit, bool_bit, Nat.reduceSub, BitVec.ofNat_eq_ofNat, BitVec.reduceToNat, ↓reduceIte, Option.map_some, reduceCtorEq]

theorem fields_thq (p : Pre) (d a : BitVec 7) (fs : Bool) (ord : BitVec 2) (scp : BitVec 3) :
    decodeFields (rrf 0x2B p d a 0x00)
      (BitVec.ofBool fs ++ 0#7 ++ ord ++ scp ++ 0#19) = some (.thq p d a fs ord scp) := by
  rw [arm_0x2B (op_rrf ..)]
  simp (disch := decide) only [laneOf, pre_rrr, pre_rrf, pre_rg, pre_i15, pre_br, d_rrr, d_rrf, d_rg, d_i15, a_rrr, a_rrf, a_rg, b_rrr, n_rrr, fn_rrf, slice_rrr, slice_rrf, low_rrf, lowbit_rrf, hibit_rrf, ccOf_code, shflKindOf_code, atomOpOf_code, redOpOf_code, gd_rg, imm_i15, off_br, gd_br, da_rrf, code_rrf, hi_slice, lo_slice, full_slice, hi_bit, lo_bit, bool_bit, Nat.reduceSub, BitVec.ofNat_eq_ofNat, BitVec.reduceToNat, ↓reduceIte, Option.map_some, reduceCtorEq]

theorem fields_tmat (p : Pre) (a : BitVec 7) (fs : Bool) (ord : BitVec 2) (scp : BitVec 3) :
    decodeFields (rrf 0x2B p 0 a 0x01)
      (BitVec.ofBool fs ++ 0#7 ++ ord ++ scp ++ 0#19) = some (.tmat p a fs ord scp) := by
  rw [arm_0x2B (op_rrf ..)]
  simp (disch := decide) only [laneOf, pre_rrr, pre_rrf, pre_rg, pre_i15, pre_br, d_rrr, d_rrf, d_rg, d_i15, a_rrr, a_rrf, a_rg, b_rrr, n_rrr, fn_rrf, slice_rrr, slice_rrf, low_rrf, lowbit_rrf, hibit_rrf, ccOf_code, shflKindOf_code, atomOpOf_code, redOpOf_code, gd_rg, imm_i15, off_br, gd_br, da_rrf, code_rrf, hi_slice, lo_slice, full_slice, hi_bit, lo_bit, bool_bit, Nat.reduceSub, BitVec.ofNat_eq_ofNat, BitVec.reduceToNat, ↓reduceIte, Option.map_some, reduceCtorEq]

theorem fields_taff (p : Pre) (a x y : BitVec 7) (fs : Bool) (ord : BitVec 2) (scp : BitVec 3) :
    decodeFields (rrf 0x2C p x a 0)
      (BitVec.ofBool fs ++ y ++ ord ++ scp ++ 0#3 ++ 0#16) = some (.taff p a x y fs ord scp) := by
  rw [arm_0x2C (op_rrf ..)]
  simp (disch := decide) only [laneOf, pre_rrr, pre_rrf, pre_rg, pre_i15, pre_br, d_rrr, d_rrf, d_rg, d_i15, a_rrr, a_rrf, a_rg, b_rrr, n_rrr, fn_rrf, slice_rrr, slice_rrf, low_rrf, lowbit_rrf, hibit_rrf, ccOf_code, shflKindOf_code, atomOpOf_code, redOpOf_code, gd_rg, imm_i15, off_br, gd_br, da_rrf, code_rrf, hi_slice, lo_slice, full_slice, hi_bit, lo_bit, bool_bit, Nat.reduceSub, BitVec.ofNat_eq_ofNat, BitVec.reduceToNat, ↓reduceIte, Option.map_some, reduceCtorEq]

theorem fields_tscale (p : Pre) (a x : BitVec 7) (fs : Bool) (ord : BitVec 2) (scp : BitVec 3) :
    decodeFields (rrf 0x2C p x a 1)
      (BitVec.ofBool fs ++ 0#7 ++ ord ++ scp ++ 0#3 ++ 0#16) = some (.tscale p a x fs ord scp) := by
  rw [arm_0x2C (op_rrf ..)]
  simp (disch := decide) only [laneOf, pre_rrr, pre_rrf, pre_rg, pre_i15, pre_br, d_rrr, d_rrf, d_rg, d_i15, a_rrr, a_rrf, a_rg, b_rrr, n_rrr, fn_rrf, slice_rrr, slice_rrf, low_rrf, lowbit_rrf, hibit_rrf, ccOf_code, shflKindOf_code, atomOpOf_code, redOpOf_code, gd_rg, imm_i15, off_br, gd_br, da_rrf, code_rrf, hi_slice, lo_slice, full_slice, hi_bit, lo_bit, bool_bit, Nat.reduceSub, BitVec.ofNat_eq_ofNat, BitVec.reduceToNat, ↓reduceIte, Option.map_some, reduceCtorEq]

theorem fields_toffs (p : Pre) (a x : BitVec 7) (fs : Bool) (ord : BitVec 2) (scp : BitVec 3) :
    decodeFields (rrf 0x2C p x a 2)
      (BitVec.ofBool fs ++ 0#7 ++ ord ++ scp ++ 0#3 ++ 0#16) = some (.toffs p a x fs ord scp) := by
  rw [arm_0x2C (op_rrf ..)]
  simp (disch := decide) only [laneOf, pre_rrr, pre_rrf, pre_rg, pre_i15, pre_br, d_rrr, d_rrf, d_rg, d_i15, a_rrr, a_rrf, a_rg, b_rrr, n_rrr, fn_rrf, slice_rrr, slice_rrf, low_rrf, lowbit_rrf, hibit_rrf, ccOf_code, shflKindOf_code, atomOpOf_code, redOpOf_code, gd_rg, imm_i15, off_br, gd_br, da_rrf, code_rrf, hi_slice, lo_slice, full_slice, hi_bit, lo_bit, bool_bit, Nat.reduceSub, BitVec.ofNat_eq_ofNat, BitVec.reduceToNat, ↓reduceIte, Option.map_some, reduceCtorEq]

theorem fields_tclamp (p : Pre) (a x y : BitVec 7) (fs : Bool) (ord : BitVec 2) (scp : BitVec 3) :
    decodeFields (rrf 0x2C p x a 3)
      (BitVec.ofBool fs ++ y ++ ord ++ scp ++ 0#3 ++ 0#16) = some (.tclamp p a x y fs ord scp) := by
  rw [arm_0x2C (op_rrf ..)]
  simp (disch := decide) only [laneOf, pre_rrr, pre_rrf, pre_rg, pre_i15, pre_br, d_rrr, d_rrf, d_rg, d_i15, a_rrr, a_rrf, a_rg, b_rrr, n_rrr, fn_rrf, slice_rrr, slice_rrf, low_rrf, lowbit_rrf, hibit_rrf, ccOf_code, shflKindOf_code, atomOpOf_code, redOpOf_code, gd_rg, imm_i15, off_br, gd_br, da_rrf, code_rrf, hi_slice, lo_slice, full_slice, hi_bit, lo_bit, bool_bit, Nat.reduceSub, BitVec.ofNat_eq_ofNat, BitVec.reduceToNat, ↓reduceIte, Option.map_some, reduceCtorEq]

theorem fields_tfill (p : Pre) (a x : BitVec 7) (fs : Bool) (ord : BitVec 2) (scp : BitVec 3) :
    decodeFields (rrf 0x2C p x a 4)
      (BitVec.ofBool fs ++ 0#7 ++ ord ++ scp ++ 0#3 ++ 0#16) = some (.tfill p a x fs ord scp) := by
  rw [arm_0x2C (op_rrf ..)]
  simp (disch := decide) only [laneOf, pre_rrr, pre_rrf, pre_rg, pre_i15, pre_br, d_rrr, d_rrf, d_rg, d_i15, a_rrr, a_rrf, a_rg, b_rrr, n_rrr, fn_rrf, slice_rrr, slice_rrf, low_rrf, lowbit_rrf, hibit_rrf, ccOf_code, shflKindOf_code, atomOpOf_code, redOpOf_code, gd_rg, imm_i15, off_br, gd_br, da_rrf, code_rrf, hi_slice, lo_slice, full_slice, hi_bit, lo_bit, bool_bit, Nat.reduceSub, BitVec.ofNat_eq_ofNat, BitVec.reduceToNat, ↓reduceIte, Option.map_some, reduceCtorEq]

theorem fields_tperm (p : Pre) (a : BitVec 7) (perm : BitVec 3) (fs : Bool) (ord : BitVec 2) (scp : BitVec 3) :
    decodeFields (rrf 0x2C p 0 a 5)
      (BitVec.ofBool fs ++ 0#7 ++ ord ++ scp ++ perm ++ 0#16) = some (.tperm p a perm fs ord scp) := by
  rw [arm_0x2C (op_rrf ..)]
  simp (disch := decide) only [laneOf, pre_rrr, pre_rrf, pre_rg, pre_i15, pre_br, d_rrr, d_rrf, d_rg, d_i15, a_rrr, a_rrf, a_rg, b_rrr, n_rrr, fn_rrf, slice_rrr, slice_rrf, low_rrf, lowbit_rrf, hibit_rrf, ccOf_code, shflKindOf_code, atomOpOf_code, redOpOf_code, gd_rg, imm_i15, off_br, gd_br, da_rrf, code_rrf, hi_slice, lo_slice, full_slice, hi_bit, lo_bit, bool_bit, Nat.reduceSub, BitVec.ofNat_eq_ofNat, BitVec.reduceToNat, ↓reduceIte, Option.map_some, reduceCtorEq]

theorem fields_bara (p : Pre) (name : BitVec 4) (a : BitVec 7) (w : Bool) (x : Word) :
    decodeFields (rrf 0x2D p (0#3 ++ name) a (BitVec.ofBool w ++ 0#7))
      (x) = some (.bara p name a w) := by
  rw [arm_0x2D (op_rrf ..)]
  simp (disch := decide) only [laneOf, pre_rrr, pre_rrf, pre_rg, pre_i15, pre_br, d_rrr, d_rrf, d_rg, d_i15, a_rrr, a_rrf, a_rg, b_rrr, n_rrr, fn_rrf, slice_rrr, slice_rrf, low_rrf, lowbit_rrf, hibit_rrf, ccOf_code, shflKindOf_code, atomOpOf_code, redOpOf_code, gd_rg, imm_i15, off_br, gd_br, da_rrf, code_rrf, hi_slice, lo_slice, full_slice, hi_bit, lo_bit, bool_bit, Nat.reduceSub, BitVec.ofNat_eq_ofNat, BitVec.reduceToNat, ↓reduceIte, Option.map_some, reduceCtorEq]
  cases w <;> rfl

theorem fields_bars (p : Pre) (name : BitVec 4) (a : BitVec 7) (w : Bool) (x : Word) :
    decodeFields (rrf 0x2D p (0#3 ++ name) a (BitVec.ofBool w ++ 1#7))
      (x) = some (.bars p name a w) := by
  rw [arm_0x2D (op_rrf ..)]
  simp (disch := decide) only [laneOf, pre_rrr, pre_rrf, pre_rg, pre_i15, pre_br, d_rrr, d_rrf, d_rg, d_i15, a_rrr, a_rrf, a_rg, b_rrr, n_rrr, fn_rrf, slice_rrr, slice_rrf, low_rrf, lowbit_rrf, hibit_rrf, ccOf_code, shflKindOf_code, atomOpOf_code, redOpOf_code, gd_rg, imm_i15, off_br, gd_br, da_rrf, code_rrf, hi_slice, lo_slice, full_slice, hi_bit, lo_bit, bool_bit, Nat.reduceSub, BitVec.ofNat_eq_ofNat, BitVec.reduceToNat, ↓reduceIte, Option.map_some, reduceCtorEq]
  cases w <;> rfl

theorem fields_barw (p : Pre) (name : BitVec 4) (w : Bool) (x : Word) :
    decodeFields (rrf 0x2D p (0#3 ++ name) 0 (BitVec.ofBool w ++ 2#7))
      (x) = some (.barw p name w) := by
  rw [arm_0x2D (op_rrf ..)]
  simp (disch := decide) only [laneOf, pre_rrr, pre_rrf, pre_rg, pre_i15, pre_br, d_rrr, d_rrf, d_rg, d_i15, a_rrr, a_rrf, a_rg, b_rrr, n_rrr, fn_rrf, slice_rrr, slice_rrf, low_rrf, lowbit_rrf, hibit_rrf, ccOf_code, shflKindOf_code, atomOpOf_code, redOpOf_code, gd_rg, imm_i15, off_br, gd_br, da_rrf, code_rrf, hi_slice, lo_slice, full_slice, hi_bit, lo_bit, bool_bit, Nat.reduceSub, BitVec.ofNat_eq_ofNat, BitVec.reduceToNat, ↓reduceIte, Option.map_some, reduceCtorEq]
  cases w <;> rfl

theorem fields_bxinit (p : Pre) (d a : BitVec 7) (x : Word) :
    decodeFields (rrf 0x2E p d a 0)
      (x) = some (.bxinit p d a) := by
  rw [arm_0x2E (op_rrf ..)]
  simp (disch := decide) only [laneOf, pre_rrr, pre_rrf, pre_rg, pre_i15, pre_br, d_rrr, d_rrf, d_rg, d_i15, a_rrr, a_rrf, a_rg, b_rrr, n_rrr, fn_rrf, slice_rrr, slice_rrf, low_rrf, lowbit_rrf, hibit_rrf, ccOf_code, shflKindOf_code, atomOpOf_code, redOpOf_code, gd_rg, imm_i15, off_br, gd_br, da_rrf, code_rrf, hi_slice, lo_slice, full_slice, hi_bit, lo_bit, bool_bit, Nat.reduceSub, BitVec.ofNat_eq_ofNat, BitVec.reduceToNat, ↓reduceIte, Option.map_some, reduceCtorEq]

theorem fields_bxexp (p : Pre) (d a : BitVec 7) (x : Word) :
    decodeFields (rrf 0x2E p d a 1)
      (x) = some (.bxexp p d a) := by
  rw [arm_0x2E (op_rrf ..)]
  simp (disch := decide) only [laneOf, pre_rrr, pre_rrf, pre_rg, pre_i15, pre_br, d_rrr, d_rrf, d_rg, d_i15, a_rrr, a_rrf, a_rg, b_rrr, n_rrr, fn_rrf, slice_rrr, slice_rrf, low_rrf, lowbit_rrf, hibit_rrf, ccOf_code, shflKindOf_code, atomOpOf_code, redOpOf_code, gd_rg, imm_i15, off_br, gd_br, da_rrf, code_rrf, hi_slice, lo_slice, full_slice, hi_bit, lo_bit, bool_bit, Nat.reduceSub, BitVec.ofNat_eq_ofNat, BitVec.reduceToNat, ↓reduceIte, Option.map_some, reduceCtorEq]

theorem fields_bxarr (p : Pre) (d a : BitVec 7) (x : Word) :
    decodeFields (rrf 0x2E p d a 2)
      (x) = some (.bxarr p d a) := by
  rw [arm_0x2E (op_rrf ..)]
  simp (disch := decide) only [laneOf, pre_rrr, pre_rrf, pre_rg, pre_i15, pre_br, d_rrr, d_rrf, d_rg, d_i15, a_rrr, a_rrf, a_rg, b_rrr, n_rrr, fn_rrf, slice_rrr, slice_rrf, low_rrf, lowbit_rrf, hibit_rrf, ccOf_code, shflKindOf_code, atomOpOf_code, redOpOf_code, gd_rg, imm_i15, off_br, gd_br, da_rrf, code_rrf, hi_slice, lo_slice, full_slice, hi_bit, lo_bit, bool_bit, Nat.reduceSub, BitVec.ofNat_eq_ofNat, BitVec.reduceToNat, ↓reduceIte, Option.map_some, reduceCtorEq]

theorem fields_bxwait (p : Pre) (par : Bool) (q : BitVec 2) (a : BitVec 7) (x : Word) :
    decodeFields (rrf 0x2E p (0#4 ++ BitVec.ofBool par ++ q) a 3)
      (x) = some (.bxwait p par q a) := by
  rw [arm_0x2E (op_rrf ..)]
  simp (disch := decide) only [laneOf, pre_rrr, pre_rrf, pre_rg, pre_i15, pre_br, d_rrr, d_rrf, d_rg, d_i15, a_rrr, a_rrf, a_rg, b_rrr, n_rrr, fn_rrf, slice_rrr, slice_rrf, low_rrf, lowbit_rrf, hibit_rrf, ccOf_code, shflKindOf_code, atomOpOf_code, redOpOf_code, gd_rg, imm_i15, off_br, gd_br, da_rrf, code_rrf, hi_slice, lo_slice, full_slice, hi_bit, lo_bit, bool_bit, Nat.reduceSub, BitVec.ofNat_eq_ofNat, BitVec.reduceToNat, ↓reduceIte, Option.map_some, reduceCtorEq]

theorem fields_crwaitEmpty (p : Pre) (ring : BitVec 3) (ph : Bool) (a : BitVec 7) (x : Word) :
    decodeFields (rrf 0x2F p (ring ++ 0#3 ++ BitVec.ofBool ph) a 0)
      (x) = some (.crwaitEmpty p ring ph a) := by
  rw [arm_0x2F (op_rrf ..)]
  simp (disch := decide) only [laneOf, pre_rrr, pre_rrf, pre_rg, pre_i15, pre_br, d_rrr, d_rrf, d_rg, d_i15, a_rrr, a_rrf, a_rg, b_rrr, n_rrr, fn_rrf, slice_rrr, slice_rrf, low_rrf, lowbit_rrf, hibit_rrf, ccOf_code, shflKindOf_code, atomOpOf_code, redOpOf_code, gd_rg, imm_i15, off_br, gd_br, da_rrf, code_rrf, hi_slice, lo_slice, full_slice, hi_bit, lo_bit, bool_bit, Nat.reduceSub, BitVec.ofNat_eq_ofNat, BitVec.reduceToNat, ↓reduceIte, Option.map_some, reduceCtorEq]

theorem fields_crwaitFull (p : Pre) (ring : BitVec 3) (ph : Bool) (a : BitVec 7) (x : Word) :
    decodeFields (rrf 0x2F p (ring ++ 0#3 ++ BitVec.ofBool ph) a 1)
      (x) = some (.crwaitFull p ring ph a) := by
  rw [arm_0x2F (op_rrf ..)]
  simp (disch := decide) only [laneOf, pre_rrr, pre_rrf, pre_rg, pre_i15, pre_br, d_rrr, d_rrf, d_rg, d_i15, a_rrr, a_rrf, a_rg, b_rrr, n_rrr, fn_rrf, slice_rrr, slice_rrf, low_rrf, lowbit_rrf, hibit_rrf, ccOf_code, shflKindOf_code, atomOpOf_code, redOpOf_code, gd_rg, imm_i15, off_br, gd_br, da_rrf, code_rrf, hi_slice, lo_slice, full_slice, hi_bit, lo_bit, bool_bit, Nat.reduceSub, BitVec.ofNat_eq_ofNat, BitVec.reduceToNat, ↓reduceIte, Option.map_some, reduceCtorEq]

theorem fields_crfill (p : Pre) (ring : BitVec 3) (a : BitVec 7) (x : Word) :
    decodeFields (rrf 0x2F p (ring ++ 0#4) a 2)
      (x) = some (.crfill p ring a) := by
  rw [arm_0x2F (op_rrf ..)]
  simp (disch := decide) only [laneOf, pre_rrr, pre_rrf, pre_rg, pre_i15, pre_br, d_rrr, d_rrf, d_rg, d_i15, a_rrr, a_rrf, a_rg, b_rrr, n_rrr, fn_rrf, slice_rrr, slice_rrf, low_rrf, lowbit_rrf, hibit_rrf, ccOf_code, shflKindOf_code, atomOpOf_code, redOpOf_code, gd_rg, imm_i15, off_br, gd_br, da_rrf, code_rrf, hi_slice, lo_slice, full_slice, hi_bit, lo_bit, bool_bit, Nat.reduceSub, BitVec.ofNat_eq_ofNat, BitVec.reduceToNat, ↓reduceIte, Option.map_some, reduceCtorEq]

theorem fields_crfree (p : Pre) (ring : BitVec 3) (a : BitVec 7) (x : Word) :
    decodeFields (rrf 0x2F p (ring ++ 0#4) a 3)
      (x) = some (.crfree p ring a) := by
  rw [arm_0x2F (op_rrf ..)]
  simp (disch := decide) only [laneOf, pre_rrr, pre_rrf, pre_rg, pre_i15, pre_br, d_rrr, d_rrf, d_rg, d_i15, a_rrr, a_rrf, a_rg, b_rrr, n_rrr, fn_rrf, slice_rrr, slice_rrf, low_rrf, lowbit_rrf, hibit_rrf, ccOf_code, shflKindOf_code, atomOpOf_code, redOpOf_code, gd_rg, imm_i15, off_br, gd_br, da_rrf, code_rrf, hi_slice, lo_slice, full_slice, hi_bit, lo_bit, bool_bit, Nat.reduceSub, BitVec.ofNat_eq_ofNat, BitVec.reduceToNat, ↓reduceIte, Option.map_some, reduceCtorEq]

theorem fields_crtakeEmpty (p : Pre) (ring : BitVec 3) (q : BitVec 2) (ph : Bool) (a : BitVec 7) (x : Word) :
    decodeFields (rrf 0x2F p (ring ++ 0#1 ++ q ++ BitVec.ofBool ph) a 4)
      (x) = some (.crtakeEmpty p ring q ph a) := by
  rw [arm_0x2F (op_rrf ..)]
  simp (disch := decide) only [laneOf, pre_rrr, pre_rrf, pre_rg, pre_i15, pre_br, d_rrr, d_rrf, d_rg, d_i15, a_rrr, a_rrf, a_rg, b_rrr, n_rrr, fn_rrf, slice_rrr, slice_rrf, low_rrf, lowbit_rrf, hibit_rrf, ccOf_code, shflKindOf_code, atomOpOf_code, redOpOf_code, gd_rg, imm_i15, off_br, gd_br, da_rrf, code_rrf, hi_slice, lo_slice, full_slice, hi_bit, lo_bit, bool_bit, Nat.reduceSub, BitVec.ofNat_eq_ofNat, BitVec.reduceToNat, ↓reduceIte, Option.map_some, reduceCtorEq]

theorem fields_crtakeFull (p : Pre) (ring : BitVec 3) (q : BitVec 2) (ph : Bool) (a : BitVec 7) (x : Word) :
    decodeFields (rrf 0x2F p (ring ++ 0#1 ++ q ++ BitVec.ofBool ph) a 5)
      (x) = some (.crtakeFull p ring q ph a) := by
  rw [arm_0x2F (op_rrf ..)]
  simp (disch := decide) only [laneOf, pre_rrr, pre_rrf, pre_rg, pre_i15, pre_br, d_rrr, d_rrf, d_rg, d_i15, a_rrr, a_rrf, a_rg, b_rrr, n_rrr, fn_rrf, slice_rrr, slice_rrf, low_rrf, lowbit_rrf, hibit_rrf, ccOf_code, shflKindOf_code, atomOpOf_code, redOpOf_code, gd_rg, imm_i15, off_br, gd_br, da_rrf, code_rrf, hi_slice, lo_slice, full_slice, hi_bit, lo_bit, bool_bit, Nat.reduceSub, BitVec.ofNat_eq_ofNat, BitVec.reduceToNat, ↓reduceIte, Option.map_some, reduceCtorEq]

theorem fields_cpy (p : Pre) (a e b o : BitVec 7) (ds : Bool) :
    decodeFields (rrr 0x30 p 0 a e false)
      (0#1 ++ b ++ o ++ BitVec.ofBool ds ++ 0#16) = some (.cpy p a e b o ds) := by
  rw [arm_0x30 (op_rrr ..)]
  simp (disch := decide) only [laneOf, pre_rrr, pre_rrf, pre_rg, pre_i15, pre_br, d_rrr, d_rrf, d_rg, d_i15, a_rrr, a_rrf, a_rg, b_rrr, n_rrr, fn_rrf, slice_rrr, slice_rrf, low_rrf, lowbit_rrf, hibit_rrf, ccOf_code, shflKindOf_code, atomOpOf_code, redOpOf_code, gd_rg, imm_i15, off_br, gd_br, da_rrf, code_rrf, hi_slice, lo_slice, full_slice, hi_bit, lo_bit, bool_bit, Nat.reduceSub, BitVec.ofNat_eq_ofNat, BitVec.reduceToNat, ↓reduceIte, Option.map_some, reduceCtorEq]

theorem fields_cpyp (p : Pre) (d a e b o : BitVec 7) (ds : Bool) :
    decodeFields (rrr 0x30 p d a e true)
      (0#1 ++ b ++ o ++ BitVec.ofBool ds ++ 0#16) = some (.cpyp p d a e b o ds) := by
  rw [arm_0x30 (op_rrr ..)]
  simp (disch := decide) only [laneOf, pre_rrr, pre_rrf, pre_rg, pre_i15, pre_br, d_rrr, d_rrf, d_rg, d_i15, a_rrr, a_rrf, a_rg, b_rrr, n_rrr, fn_rrf, slice_rrr, slice_rrf, low_rrf, lowbit_rrf, hibit_rrf, ccOf_code, shflKindOf_code, atomOpOf_code, redOpOf_code, gd_rg, imm_i15, off_br, gd_br, da_rrf, code_rrf, hi_slice, lo_slice, full_slice, hi_bit, lo_bit, bool_bit, Nat.reduceSub, BitVec.ofNat_eq_ofNat, BitVec.reduceToNat, ↓reduceIte, Option.map_some, reduceCtorEq]

theorem fields_cwait (p : Pre) (par : Bool) (d a : BitVec 7) (x : Word) :
    decodeFields (rrf 0x31 p d a (0#7 ++ BitVec.ofBool par))
      (x) = some (.cwait p par d a) := by
  rw [arm_0x31 (op_rrf ..)]
  simp (disch := decide) only [laneOf, pre_rrr, pre_rrf, pre_rg, pre_i15, pre_br, d_rrr, d_rrf, d_rg, d_i15, a_rrr, a_rrf, a_rg, b_rrr, n_rrr, fn_rrf, slice_rrr, slice_rrf, low_rrf, lowbit_rrf, hibit_rrf, ccOf_code, shflKindOf_code, atomOpOf_code, redOpOf_code, gd_rg, imm_i15, off_br, gd_br, da_rrf, code_rrf, hi_slice, lo_slice, full_slice, hi_bit, lo_bit, bool_bit, Nat.reduceSub, BitVec.ofNat_eq_ofNat, BitVec.reduceToNat, ↓reduceIte, Option.map_some, reduceCtorEq]
  cases par <;> rfl

theorem fields_cstat (p : Pre) (d a : BitVec 7) (x : Word) :
    decodeFields (rrf 0x31 p d a 2)
      (x) = some (.cstat p d a) := by
  rw [arm_0x31 (op_rrf ..)]
  simp (disch := decide) only [laneOf, pre_rrr, pre_rrf, pre_rg, pre_i15, pre_br, d_rrr, d_rrf, d_rg, d_i15, a_rrr, a_rrf, a_rg, b_rrr, n_rrr, fn_rrf, slice_rrr, slice_rrf, low_rrf, lowbit_rrf, hibit_rrf, ccOf_code, shflKindOf_code, atomOpOf_code, redOpOf_code, gd_rg, imm_i15, off_br, gd_br, da_rrf, code_rrf, hi_slice, lo_slice, full_slice, hi_bit, lo_bit, bool_bit, Nat.reduceSub, BitVec.ofNat_eq_ofNat, BitVec.reduceToNat, ↓reduceIte, Option.map_some, reduceCtorEq]

theorem fields_cstatIdx (p : Pre) (d a : BitVec 7) (x : Word) :
    decodeFields (rrf 0x31 p d a 3)
      (x) = some (.cstatIdx p d a) := by
  rw [arm_0x31 (op_rrf ..)]
  simp (disch := decide) only [laneOf, pre_rrr, pre_rrf, pre_rg, pre_i15, pre_br, d_rrr, d_rrf, d_rg, d_i15, a_rrr, a_rrf, a_rg, b_rrr, n_rrr, fn_rrf, slice_rrr, slice_rrf, low_rrf, lowbit_rrf, hibit_rrf, ccOf_code, shflKindOf_code, atomOpOf_code, redOpOf_code, gd_rg, imm_i15, off_br, gd_br, da_rrf, code_rrf, hi_slice, lo_slice, full_slice, hi_bit, lo_bit, bool_bit, Nat.reduceSub, BitVec.ofNat_eq_ofNat, BitVec.reduceToNat, ↓reduceIte, Option.map_some, reduceCtorEq]

theorem fields_cstatClr (p : Pre) (d a : BitVec 7) (x : Word) :
    decodeFields (rrf 0x31 p d a 4)
      (x) = some (.cstatClr p d a) := by
  rw [arm_0x31 (op_rrf ..)]
  simp (disch := decide) only [laneOf, pre_rrr, pre_rrf, pre_rg, pre_i15, pre_br, d_rrr, d_rrf, d_rg, d_i15, a_rrr, a_rrf, a_rg, b_rrr, n_rrr, fn_rrf, slice_rrr, slice_rrf, low_rrf, lowbit_rrf, hibit_rrf, ccOf_code, shflKindOf_code, atomOpOf_code, redOpOf_code, gd_rg, imm_i15, off_br, gd_br, da_rrf, code_rrf, hi_slice, lo_slice, full_slice, hi_bit, lo_bit, bool_bit, Nat.reduceSub, BitVec.ofNat_eq_ofNat, BitVec.reduceToNat, ↓reduceIte, Option.map_some, reduceCtorEq]

theorem fields_hedit (p : Pre) (a e b o : BitVec 7) (ds : Bool) :
    decodeFields (rrr 0x32 p 0 a e false)
      (0#1 ++ b ++ o ++ BitVec.ofBool ds ++ 0#16) = some (.hedit p a e b o ds) := by
  rw [arm_0x32 (op_rrr ..)]
  simp (disch := decide) only [laneOf, pre_rrr, pre_rrf, pre_rg, pre_i15, pre_br, d_rrr, d_rrf, d_rg, d_i15, a_rrr, a_rrf, a_rg, b_rrr, n_rrr, fn_rrf, slice_rrr, slice_rrf, low_rrf, lowbit_rrf, hibit_rrf, ccOf_code, shflKindOf_code, atomOpOf_code, redOpOf_code, gd_rg, imm_i15, off_br, gd_br, da_rrf, code_rrf, hi_slice, lo_slice, full_slice, hi_bit, lo_bit, bool_bit, Nat.reduceSub, BitVec.ofNat_eq_ofNat, BitVec.reduceToNat, ↓reduceIte, Option.map_some, reduceCtorEq]

theorem fields_bankcmd (p : Pre) (d a e b : BitVec 7) :
    decodeFields (rrr 0x33 p d a e false)
      (0#1 ++ b ++ 0#24) = some (.bankcmd p d a e b) := by
  rw [arm_0x33 (op_rrr ..)]
  simp (disch := decide) only [laneOf, pre_rrr, pre_rrf, pre_rg, pre_i15, pre_br, d_rrr, d_rrf, d_rg, d_i15, a_rrr, a_rrf, a_rg, b_rrr, n_rrr, fn_rrf, slice_rrr, slice_rrf, low_rrf, lowbit_rrf, hibit_rrf, ccOf_code, shflKindOf_code, atomOpOf_code, redOpOf_code, gd_rg, imm_i15, off_br, gd_br, da_rrf, code_rrf, hi_slice, lo_slice, full_slice, hi_bit, lo_bit, bool_bit, Nat.reduceSub, BitVec.ofNat_eq_ofNat, BitVec.reduceToNat, ↓reduceIte, Option.map_some, reduceCtorEq]

theorem fields_icinv (p : Pre) (x : Word) :
    decodeFields (rrf 0x34 p 0 0 0)
      (x) = some (.icinv p) := by
  rw [arm_0x34 (op_rrf ..)]
  simp (disch := decide) only [laneOf, pre_rrr, pre_rrf, pre_rg, pre_i15, pre_br, d_rrr, d_rrf, d_rg, d_i15, a_rrr, a_rrf, a_rg, b_rrr, n_rrr, fn_rrf, slice_rrr, slice_rrf, low_rrf, lowbit_rrf, hibit_rrf, ccOf_code, shflKindOf_code, atomOpOf_code, redOpOf_code, gd_rg, imm_i15, off_br, gd_br, da_rrf, code_rrf, hi_slice, lo_slice, full_slice, hi_bit, lo_bit, bool_bit, Nat.reduceSub, BitVec.ofNat_eq_ofNat, BitVec.reduceToNat, ↓reduceIte, Option.map_some, reduceCtorEq]

theorem fields_icinvDev (p : Pre) (x : Word) :
    decodeFields (rrf 0x34 p 0 0 1)
      (x) = some (.icinvDev p) := by
  rw [arm_0x34 (op_rrf ..)]
  simp (disch := decide) only [laneOf, pre_rrr, pre_rrf, pre_rg, pre_i15, pre_br, d_rrr, d_rrf, d_rg, d_i15, a_rrr, a_rrf, a_rg, b_rrr, n_rrr, fn_rrf, slice_rrr, slice_rrf, low_rrf, lowbit_rrf, hibit_rrf, ccOf_code, shflKindOf_code, atomOpOf_code, redOpOf_code, gd_rg, imm_i15, off_br, gd_br, da_rrf, code_rrf, hi_slice, lo_slice, full_slice, hi_bit, lo_bit, bool_bit, Nat.reduceSub, BitVec.ofNat_eq_ofNat, BitVec.reduceToNat, ↓reduceIte, Option.map_some, reduceCtorEq]

theorem fields_isync (p : Pre) (x : Word) :
    decodeFields (rrf 0x34 p 0 0 2)
      (x) = some (.isync p) := by
  rw [arm_0x34 (op_rrf ..)]
  simp (disch := decide) only [laneOf, pre_rrr, pre_rrf, pre_rg, pre_i15, pre_br, d_rrr, d_rrf, d_rg, d_i15, a_rrr, a_rrf, a_rg, b_rrr, n_rrr, fn_rrf, slice_rrr, slice_rrf, low_rrf, lowbit_rrf, hibit_rrf, ccOf_code, shflKindOf_code, atomOpOf_code, redOpOf_code, gd_rg, imm_i15, off_br, gd_br, da_rrf, code_rrf, hi_slice, lo_slice, full_slice, hi_bit, lo_bit, bool_bit, Nat.reduceSub, BitVec.ofNat_eq_ofNat, BitVec.reduceToNat, ↓reduceIte, Option.map_some, reduceCtorEq]

theorem fields_dcwb (p : Pre) (d a : BitVec 7) (x : Word) :
    decodeFields (rrf 0x34 p d a 3)
      (x) = some (.dcwb p d a) := by
  rw [arm_0x34 (op_rrf ..)]
  simp (disch := decide) only [laneOf, pre_rrr, pre_rrf, pre_rg, pre_i15, pre_br, d_rrr, d_rrf, d_rg, d_i15, a_rrr, a_rrf, a_rg, b_rrr, n_rrr, fn_rrf, slice_rrr, slice_rrf, low_rrf, lowbit_rrf, hibit_rrf, ccOf_code, shflKindOf_code, atomOpOf_code, redOpOf_code, gd_rg, imm_i15, off_br, gd_br, da_rrf, code_rrf, hi_slice, lo_slice, full_slice, hi_bit, lo_bit, bool_bit, Nat.reduceSub, BitVec.ofNat_eq_ofNat, BitVec.reduceToNat, ↓reduceIte, Option.map_some, reduceCtorEq]

theorem fields_dcinv (p : Pre) (d a : BitVec 7) (x : Word) :
    decodeFields (rrf 0x34 p d a 4)
      (x) = some (.dcinv p d a) := by
  rw [arm_0x34 (op_rrf ..)]
  simp (disch := decide) only [laneOf, pre_rrr, pre_rrf, pre_rg, pre_i15, pre_br, d_rrr, d_rrf, d_rg, d_i15, a_rrr, a_rrf, a_rg, b_rrr, n_rrr, fn_rrf, slice_rrr, slice_rrf, low_rrf, lowbit_rrf, hibit_rrf, ccOf_code, shflKindOf_code, atomOpOf_code, redOpOf_code, gd_rg, imm_i15, off_br, gd_br, da_rrf, code_rrf, hi_slice, lo_slice, full_slice, hi_bit, lo_bit, bool_bit, Nat.reduceSub, BitVec.ofNat_eq_ofNat, BitVec.reduceToNat, ↓reduceIte, Option.map_some, reduceCtorEq]

theorem fields_vadd (p : Pre) (d a b : BitVec 7) (n : Bool) (x : Word) :
    decodeFields (rrr 0x38 p d a b n)
      (x) = some (.vadd p d a b n) := by
  rw [arm_0x38 (op_rrr ..)]
  simp (disch := decide) only [laneOf, pre_rrr, pre_rrf, pre_rg, pre_i15, pre_br, d_rrr, d_rrf, d_rg, d_i15, a_rrr, a_rrf, a_rg, b_rrr, n_rrr, fn_rrf, slice_rrr, slice_rrf, low_rrf, lowbit_rrf, hibit_rrf, ccOf_code, shflKindOf_code, atomOpOf_code, redOpOf_code, gd_rg, imm_i15, off_br, gd_br, da_rrf, code_rrf, hi_slice, lo_slice, full_slice, hi_bit, lo_bit, bool_bit, Nat.reduceSub, BitVec.ofNat_eq_ofNat, BitVec.reduceToNat, ↓reduceIte, Option.map_some, reduceCtorEq]

theorem fields_vsub (p : Pre) (d a b : BitVec 7) (n : Bool) (x : Word) :
    decodeFields (rrr 0x39 p d a b n)
      (x) = some (.vsub p d a b n) := by
  rw [arm_0x39 (op_rrr ..)]
  simp (disch := decide) only [laneOf, pre_rrr, pre_rrf, pre_rg, pre_i15, pre_br, d_rrr, d_rrf, d_rg, d_i15, a_rrr, a_rrf, a_rg, b_rrr, n_rrr, fn_rrf, slice_rrr, slice_rrf, low_rrf, lowbit_rrf, hibit_rrf, ccOf_code, shflKindOf_code, atomOpOf_code, redOpOf_code, gd_rg, imm_i15, off_br, gd_br, da_rrf, code_rrf, hi_slice, lo_slice, full_slice, hi_bit, lo_bit, bool_bit, Nat.reduceSub, BitVec.ofNat_eq_ofNat, BitVec.reduceToNat, ↓reduceIte, Option.map_some, reduceCtorEq]

theorem fields_vmul (p : Pre) (d a b : BitVec 7) (n : Bool) (x : Word) :
    decodeFields (rrr 0x3A p d a b n)
      (x) = some (.vmul p d a b n) := by
  rw [arm_0x3A (op_rrr ..)]
  simp (disch := decide) only [laneOf, pre_rrr, pre_rrf, pre_rg, pre_i15, pre_br, d_rrr, d_rrf, d_rg, d_i15, a_rrr, a_rrf, a_rg, b_rrr, n_rrr, fn_rrf, slice_rrr, slice_rrf, low_rrf, lowbit_rrf, hibit_rrf, ccOf_code, shflKindOf_code, atomOpOf_code, redOpOf_code, gd_rg, imm_i15, off_br, gd_br, da_rrf, code_rrf, hi_slice, lo_slice, full_slice, hi_bit, lo_bit, bool_bit, Nat.reduceSub, BitVec.ofNat_eq_ofNat, BitVec.reduceToNat, ↓reduceIte, Option.map_some, reduceCtorEq]

theorem fields_vmulh (p : Pre) (d a b : BitVec 7) (n : Bool) (x : Word) :
    decodeFields (rrr 0x3B p d a b n)
      (x) = some (.vmulh p d a b n) := by
  rw [arm_0x3B (op_rrr ..)]
  simp (disch := decide) only [laneOf, pre_rrr, pre_rrf, pre_rg, pre_i15, pre_br, d_rrr, d_rrf, d_rg, d_i15, a_rrr, a_rrf, a_rg, b_rrr, n_rrr, fn_rrf, slice_rrr, slice_rrf, low_rrf, lowbit_rrf, hibit_rrf, ccOf_code, shflKindOf_code, atomOpOf_code, redOpOf_code, gd_rg, imm_i15, off_br, gd_br, da_rrf, code_rrf, hi_slice, lo_slice, full_slice, hi_bit, lo_bit, bool_bit, Nat.reduceSub, BitVec.ofNat_eq_ofNat, BitVec.reduceToNat, ↓reduceIte, Option.map_some, reduceCtorEq]

theorem fields_vmad (p : Pre) (d a b : BitVec 7) (n : Bool) (x : Word) :
    decodeFields (rrr 0x3C p d a b n)
      (x) = some (.vmad p d a b n) := by
  rw [arm_0x3C (op_rrr ..)]
  simp (disch := decide) only [laneOf, pre_rrr, pre_rrf, pre_rg, pre_i15, pre_br, d_rrr, d_rrf, d_rg, d_i15, a_rrr, a_rrf, a_rg, b_rrr, n_rrr, fn_rrf, slice_rrr, slice_rrf, low_rrf, lowbit_rrf, hibit_rrf, ccOf_code, shflKindOf_code, atomOpOf_code, redOpOf_code, gd_rg, imm_i15, off_br, gd_br, da_rrf, code_rrf, hi_slice, lo_slice, full_slice, hi_bit, lo_bit, bool_bit, Nat.reduceSub, BitVec.ofNat_eq_ofNat, BitVec.reduceToNat, ↓reduceIte, Option.map_some, reduceCtorEq]

theorem fields_vand (p : Pre) (d a b : BitVec 7) (n : Bool) (x : Word) :
    decodeFields (rrr 0x3D p d a b n)
      (x) = some (.vand p d a b n) := by
  rw [arm_0x3D (op_rrr ..)]
  simp (disch := decide) only [laneOf, pre_rrr, pre_rrf, pre_rg, pre_i15, pre_br, d_rrr, d_rrf, d_rg, d_i15, a_rrr, a_rrf, a_rg, b_rrr, n_rrr, fn_rrf, slice_rrr, slice_rrf, low_rrf, lowbit_rrf, hibit_rrf, ccOf_code, shflKindOf_code, atomOpOf_code, redOpOf_code, gd_rg, imm_i15, off_br, gd_br, da_rrf, code_rrf, hi_slice, lo_slice, full_slice, hi_bit, lo_bit, bool_bit, Nat.reduceSub, BitVec.ofNat_eq_ofNat, BitVec.reduceToNat, ↓reduceIte, Option.map_some, reduceCtorEq]

theorem fields_vor (p : Pre) (d a b : BitVec 7) (n : Bool) (x : Word) :
    decodeFields (rrr 0x3E p d a b n)
      (x) = some (.vor p d a b n) := by
  rw [arm_0x3E (op_rrr ..)]
  simp (disch := decide) only [laneOf, pre_rrr, pre_rrf, pre_rg, pre_i15, pre_br, d_rrr, d_rrf, d_rg, d_i15, a_rrr, a_rrf, a_rg, b_rrr, n_rrr, fn_rrf, slice_rrr, slice_rrf, low_rrf, lowbit_rrf, hibit_rrf, ccOf_code, shflKindOf_code, atomOpOf_code, redOpOf_code, gd_rg, imm_i15, off_br, gd_br, da_rrf, code_rrf, hi_slice, lo_slice, full_slice, hi_bit, lo_bit, bool_bit, Nat.reduceSub, BitVec.ofNat_eq_ofNat, BitVec.reduceToNat, ↓reduceIte, Option.map_some, reduceCtorEq]

theorem fields_vxor (p : Pre) (d a b : BitVec 7) (n : Bool) (x : Word) :
    decodeFields (rrr 0x3F p d a b n)
      (x) = some (.vxor p d a b n) := by
  rw [arm_0x3F (op_rrr ..)]
  simp (disch := decide) only [laneOf, pre_rrr, pre_rrf, pre_rg, pre_i15, pre_br, d_rrr, d_rrf, d_rg, d_i15, a_rrr, a_rrf, a_rg, b_rrr, n_rrr, fn_rrf, slice_rrr, slice_rrf, low_rrf, lowbit_rrf, hibit_rrf, ccOf_code, shflKindOf_code, atomOpOf_code, redOpOf_code, gd_rg, imm_i15, off_br, gd_br, da_rrf, code_rrf, hi_slice, lo_slice, full_slice, hi_bit, lo_bit, bool_bit, Nat.reduceSub, BitVec.ofNat_eq_ofNat, BitVec.reduceToNat, ↓reduceIte, Option.map_some, reduceCtorEq]

theorem fields_vshl (p : Pre) (d a b : BitVec 7) (n : Bool) (x : Word) :
    decodeFields (rrr 0x40 p d a b n)
      (x) = some (.vshl p d a b n) := by
  rw [arm_0x40 (op_rrr ..)]
  simp (disch := decide) only [laneOf, pre_rrr, pre_rrf, pre_rg, pre_i15, pre_br, d_rrr, d_rrf, d_rg, d_i15, a_rrr, a_rrf, a_rg, b_rrr, n_rrr, fn_rrf, slice_rrr, slice_rrf, low_rrf, lowbit_rrf, hibit_rrf, ccOf_code, shflKindOf_code, atomOpOf_code, redOpOf_code, gd_rg, imm_i15, off_br, gd_br, da_rrf, code_rrf, hi_slice, lo_slice, full_slice, hi_bit, lo_bit, bool_bit, Nat.reduceSub, BitVec.ofNat_eq_ofNat, BitVec.reduceToNat, ↓reduceIte, Option.map_some, reduceCtorEq]

theorem fields_vshr (p : Pre) (d a b : BitVec 7) (n : Bool) (x : Word) :
    decodeFields (rrr 0x41 p d a b n)
      (x) = some (.vshr p d a b n) := by
  rw [arm_0x41 (op_rrr ..)]
  simp (disch := decide) only [laneOf, pre_rrr, pre_rrf, pre_rg, pre_i15, pre_br, d_rrr, d_rrf, d_rg, d_i15, a_rrr, a_rrf, a_rg, b_rrr, n_rrr, fn_rrf, slice_rrr, slice_rrf, low_rrf, lowbit_rrf, hibit_rrf, ccOf_code, shflKindOf_code, atomOpOf_code, redOpOf_code, gd_rg, imm_i15, off_br, gd_br, da_rrf, code_rrf, hi_slice, lo_slice, full_slice, hi_bit, lo_bit, bool_bit, Nat.reduceSub, BitVec.ofNat_eq_ofNat, BitVec.reduceToNat, ↓reduceIte, Option.map_some, reduceCtorEq]

theorem fields_vsra (p : Pre) (d a b : BitVec 7) (n : Bool) (x : Word) :
    decodeFields (rrr 0x42 p d a b n)
      (x) = some (.vsra p d a b n) := by
  rw [arm_0x42 (op_rrr ..)]
  simp (disch := decide) only [laneOf, pre_rrr, pre_rrf, pre_rg, pre_i15, pre_br, d_rrr, d_rrf, d_rg, d_i15, a_rrr, a_rrf, a_rg, b_rrr, n_rrr, fn_rrf, slice_rrr, slice_rrf, low_rrf, lowbit_rrf, hibit_rrf, ccOf_code, shflKindOf_code, atomOpOf_code, redOpOf_code, gd_rg, imm_i15, off_br, gd_br, da_rrf, code_rrf, hi_slice, lo_slice, full_slice, hi_bit, lo_bit, bool_bit, Nat.reduceSub, BitVec.ofNat_eq_ofNat, BitVec.reduceToNat, ↓reduceIte, Option.map_some, reduceCtorEq]

theorem fields_vfshl (p : Pre) (d a b : BitVec 7) (ck : BitVec 2) (c : BitVec 7) (imm : BitVec 6) :
    decodeFields (rrr 0x43 p d a b false)
      (0#1 ++ 0#1 ++ ck ++ c ++ 0#15 ++ imm) = some (.vfshl p d a b ck c imm) := by
  rw [arm_0x43 (op_rrr ..)]
  simp (disch := decide) only [laneOf, pre_rrr, pre_rrf, pre_rg, pre_i15, pre_br, d_rrr, d_rrf, d_rg, d_i15, a_rrr, a_rrf, a_rg, b_rrr, n_rrr, fn_rrf, slice_rrr, slice_rrf, low_rrf, lowbit_rrf, hibit_rrf, ccOf_code, shflKindOf_code, atomOpOf_code, redOpOf_code, gd_rg, imm_i15, off_br, gd_br, da_rrf, code_rrf, hi_slice, lo_slice, full_slice, hi_bit, lo_bit, bool_bit, Nat.reduceSub, BitVec.ofNat_eq_ofNat, BitVec.reduceToNat, ↓reduceIte, Option.map_some, reduceCtorEq]
  rfl

theorem fields_vfshr (p : Pre) (d a b : BitVec 7) (ck : BitVec 2) (c : BitVec 7) (imm : BitVec 6) :
    decodeFields (rrr 0x43 p d a b false)
      (0#1 ++ 1#1 ++ ck ++ c ++ 0#15 ++ imm) = some (.vfshr p d a b ck c imm) := by
  rw [arm_0x43 (op_rrr ..)]
  simp (disch := decide) only [laneOf, pre_rrr, pre_rrf, pre_rg, pre_i15, pre_br, d_rrr, d_rrf, d_rg, d_i15, a_rrr, a_rrf, a_rg, b_rrr, n_rrr, fn_rrf, slice_rrr, slice_rrf, low_rrf, lowbit_rrf, hibit_rrf, ccOf_code, shflKindOf_code, atomOpOf_code, redOpOf_code, gd_rg, imm_i15, off_br, gd_br, da_rrf, code_rrf, hi_slice, lo_slice, full_slice, hi_bit, lo_bit, bool_bit, Nat.reduceSub, BitVec.ofNat_eq_ofNat, BitVec.reduceToNat, ↓reduceIte, Option.map_some, reduceCtorEq]
  rfl

theorem fields_vmin (p : Pre) (d a b : BitVec 7) (n : Bool) (x : Word) :
    decodeFields (rrr 0x44 p d a b n)
      (x) = some (.vmin p d a b n) := by
  rw [arm_0x44 (op_rrr ..)]
  simp (disch := decide) only [laneOf, pre_rrr, pre_rrf, pre_rg, pre_i15, pre_br, d_rrr, d_rrf, d_rg, d_i15, a_rrr, a_rrf, a_rg, b_rrr, n_rrr, fn_rrf, slice_rrr, slice_rrf, low_rrf, lowbit_rrf, hibit_rrf, ccOf_code, shflKindOf_code, atomOpOf_code, redOpOf_code, gd_rg, imm_i15, off_br, gd_br, da_rrf, code_rrf, hi_slice, lo_slice, full_slice, hi_bit, lo_bit, bool_bit, Nat.reduceSub, BitVec.ofNat_eq_ofNat, BitVec.reduceToNat, ↓reduceIte, Option.map_some, reduceCtorEq]

theorem fields_vmax (p : Pre) (d a b : BitVec 7) (n : Bool) (x : Word) :
    decodeFields (rrr 0x45 p d a b n)
      (x) = some (.vmax p d a b n) := by
  rw [arm_0x45 (op_rrr ..)]
  simp (disch := decide) only [laneOf, pre_rrr, pre_rrf, pre_rg, pre_i15, pre_br, d_rrr, d_rrf, d_rg, d_i15, a_rrr, a_rrf, a_rg, b_rrr, n_rrr, fn_rrf, slice_rrr, slice_rrf, low_rrf, lowbit_rrf, hibit_rrf, ccOf_code, shflKindOf_code, atomOpOf_code, redOpOf_code, gd_rg, imm_i15, off_br, gd_br, da_rrf, code_rrf, hi_slice, lo_slice, full_slice, hi_bit, lo_bit, bool_bit, Nat.reduceSub, BitVec.ofNat_eq_ofNat, BitVec.reduceToNat, ↓reduceIte, Option.map_some, reduceCtorEq]

theorem fields_vabs (p : Pre) (d a : BitVec 7) (x : Word) :
    decodeFields (rrf 0x46 p d a 0)
      (x) = some (.vabs p d a) := by
  rw [arm_0x46 (op_rrf ..)]
  simp (disch := decide) only [laneOf, pre_rrr, pre_rrf, pre_rg, pre_i15, pre_br, d_rrr, d_rrf, d_rg, d_i15, a_rrr, a_rrf, a_rg, b_rrr, n_rrr, fn_rrf, slice_rrr, slice_rrf, low_rrf, lowbit_rrf, hibit_rrf, ccOf_code, shflKindOf_code, atomOpOf_code, redOpOf_code, gd_rg, imm_i15, off_br, gd_br, da_rrf, code_rrf, hi_slice, lo_slice, full_slice, hi_bit, lo_bit, bool_bit, Nat.reduceSub, BitVec.ofNat_eq_ofNat, BitVec.reduceToNat, ↓reduceIte, Option.map_some, reduceCtorEq]

theorem fields_vclz (p : Pre) (d a : BitVec 7) (x : Word) :
    decodeFields (rrf 0x46 p d a 1)
      (x) = some (.vclz p d a) := by
  rw [arm_0x46 (op_rrf ..)]
  simp (disch := decide) only [laneOf, pre_rrr, pre_rrf, pre_rg, pre_i15, pre_br, d_rrr, d_rrf, d_rg, d_i15, a_rrr, a_rrf, a_rg, b_rrr, n_rrr, fn_rrf, slice_rrr, slice_rrf, low_rrf, lowbit_rrf, hibit_rrf, ccOf_code, shflKindOf_code, atomOpOf_code, redOpOf_code, gd_rg, imm_i15, off_br, gd_br, da_rrf, code_rrf, hi_slice, lo_slice, full_slice, hi_bit, lo_bit, bool_bit, Nat.reduceSub, BitVec.ofNat_eq_ofNat, BitVec.reduceToNat, ↓reduceIte, Option.map_some, reduceCtorEq]

theorem fields_vpop (p : Pre) (d a : BitVec 7) (x : Word) :
    decodeFields (rrf 0x46 p d a 2)
      (x) = some (.vpop p d a) := by
  rw [arm_0x46 (op_rrf ..)]
  simp (disch := decide) only [laneOf, pre_rrr, pre_rrf, pre_rg, pre_i15, pre_br, d_rrr, d_rrf, d_rg, d_i15, a_rrr, a_rrf, a_rg, b_rrr, n_rrr, fn_rrf, slice_rrr, slice_rrf, low_rrf, lowbit_rrf, hibit_rrf, ccOf_code, shflKindOf_code, atomOpOf_code, redOpOf_code, gd_rg, imm_i15, off_br, gd_br, da_rrf, code_rrf, hi_slice, lo_slice, full_slice, hi_bit, lo_bit, bool_bit, Nat.reduceSub, BitVec.ofNat_eq_ofNat, BitVec.reduceToNat, ↓reduceIte, Option.map_some, reduceCtorEq]

theorem fields_vbrev (p : Pre) (d a : BitVec 7) (x : Word) :
    decodeFields (rrf 0x46 p d a 3)
      (x) = some (.vbrev p d a) := by
  rw [arm_0x46 (op_rrf ..)]
  simp (disch := decide) only [laneOf, pre_rrr, pre_rrf, pre_rg, pre_i15, pre_br, d_rrr, d_rrf, d_rg, d_i15, a_rrr, a_rrf, a_rg, b_rrr, n_rrr, fn_rrf, slice_rrr, slice_rrf, low_rrf, lowbit_rrf, hibit_rrf, ccOf_code, shflKindOf_code, atomOpOf_code, redOpOf_code, gd_rg, imm_i15, off_br, gd_br, da_rrf, code_rrf, hi_slice, lo_slice, full_slice, hi_bit, lo_bit, bool_bit, Nat.reduceSub, BitVec.ofNat_eq_ofNat, BitVec.reduceToNat, ↓reduceIte, Option.map_some, reduceCtorEq]

theorem fields_vmov (p : Pre) (d a : BitVec 7) (x : Word) :
    decodeFields (rrf 0x46 p d a 4)
      (x) = some (.vmov p d a) := by
  rw [arm_0x46 (op_rrf ..)]
  simp (disch := decide) only [laneOf, pre_rrr, pre_rrf, pre_rg, pre_i15, pre_br, d_rrr, d_rrf, d_rg, d_i15, a_rrr, a_rrf, a_rg, b_rrr, n_rrr, fn_rrf, slice_rrr, slice_rrf, low_rrf, lowbit_rrf, hibit_rrf, ccOf_code, shflKindOf_code, atomOpOf_code, redOpOf_code, gd_rg, imm_i15, off_br, gd_br, da_rrf, code_rrf, hi_slice, lo_slice, full_slice, hi_bit, lo_bit, bool_bit, Nat.reduceSub, BitVec.ofNat_eq_ofNat, BitVec.reduceToNat, ↓reduceIte, Option.map_some, reduceCtorEq]

theorem fields_vbcast (p : Pre) (d a : BitVec 7) (x : Word) :
    decodeFields (rrf 0x46 p d a 5)
      (x) = some (.vbcast p d a) := by
  rw [arm_0x46 (op_rrf ..)]
  simp (disch := decide) only [laneOf, pre_rrr, pre_rrf, pre_rg, pre_i15, pre_br, d_rrr, d_rrf, d_rg, d_i15, a_rrr, a_rrf, a_rg, b_rrr, n_rrr, fn_rrf, slice_rrr, slice_rrf, low_rrf, lowbit_rrf, hibit_rrf, ccOf_code, shflKindOf_code, atomOpOf_code, redOpOf_code, gd_rg, imm_i15, off_br, gd_br, da_rrf, code_rrf, hi_slice, lo_slice, full_slice, hi_bit, lo_bit, bool_bit, Nat.reduceSub, BitVec.ofNat_eq_ofNat, BitVec.reduceToNat, ↓reduceIte, Option.map_some, reduceCtorEq]

theorem fields_vlane (p : Pre) (d : BitVec 7) (x : Word) :
    decodeFields (rrf 0x46 p d 0 6)
      (x) = some (.vlane p d) := by
  rw [arm_0x46 (op_rrf ..)]
  simp (disch := decide) only [laneOf, pre_rrr, pre_rrf, pre_rg, pre_i15, pre_br, d_rrr, d_rrf, d_rg, d_i15, a_rrr, a_rrf, a_rg, b_rrr, n_rrr, fn_rrf, slice_rrr, slice_rrf, low_rrf, lowbit_rrf, hibit_rrf, ccOf_code, shflKindOf_code, atomOpOf_code, redOpOf_code, gd_rg, imm_i15, off_br, gd_br, da_rrf, code_rrf, hi_slice, lo_slice, full_slice, hi_bit, lo_bit, bool_bit, Nat.reduceSub, BitVec.ofNat_eq_ofNat, BitVec.reduceToNat, ↓reduceIte, Option.map_some, reduceCtorEq]

theorem fields_vcmp (p : Pre) (pd : BitVec 3) (a b : BitVec 7) (bk : Bool) (cc : Cc) (u : Bool) :
    decodeFields (rrr 0x47 p (0#4 ++ pd) a b bk)
      (0#1 ++ cc.code ++ BitVec.ofBool u ++ 0#27) = some (.vcmp p pd a b bk cc u) := by
  rw [arm_0x47 (op_rrr ..)]
  simp (disch := decide) only [laneOf, pre_rrr, pre_rrf, pre_rg, pre_i15, pre_br, d_rrr, d_rrf, d_rg, d_i15, a_rrr, a_rrf, a_rg, b_rrr, n_rrr, fn_rrf, slice_rrr, slice_rrf, low_rrf, lowbit_rrf, hibit_rrf, ccOf_code, shflKindOf_code, atomOpOf_code, redOpOf_code, gd_rg, imm_i15, off_br, gd_br, da_rrf, code_rrf, hi_slice, lo_slice, full_slice, hi_bit, lo_bit, bool_bit, Nat.reduceSub, BitVec.ofNat_eq_ofNat, BitVec.reduceToNat, ↓reduceIte, Option.map_some, reduceCtorEq]

theorem fields_vsel (p : Pre) (d a b : BitVec 7) (bk : Bool) (gd : BitVec 4) :
    decodeFields (rrr 0x48 p d a b bk)
      (0#4 ++ gd ++ 0#24) = some (.vsel p d a b bk gd) := by
  rw [arm_0x48 (op_rrr ..)]
  simp (disch := decide) only [laneOf, pre_rrr, pre_rrf, pre_rg, pre_i15, pre_br, d_rrr, d_rrf, d_rg, d_i15, a_rrr, a_rrf, a_rg, b_rrr, n_rrr, fn_rrf, slice_rrr, slice_rrf, low_rrf, lowbit_rrf, hibit_rrf, ccOf_code, shflKindOf_code, atomOpOf_code, redOpOf_code, gd_rg, imm_i15, off_br, gd_br, da_rrf, code_rrf, hi_slice, lo_slice, full_slice, hi_bit, lo_bit, bool_bit, Nat.reduceSub, BitVec.ofNat_eq_ofNat, BitVec.reduceToNat, ↓reduceIte, Option.map_some, reduceCtorEq]

theorem fields_vmovi (p : Pre) (d : BitVec 7) (imm : Word) :
    decodeFields (i15 0x49 p d 0)
      (imm) = some (.vmovi p d imm) := by
  rw [arm_0x49 (op_i15 ..)]
  simp (disch := decide) only [laneOf, pre_rrr, pre_rrf, pre_rg, pre_i15, pre_br, d_rrr, d_rrf, d_rg, d_i15, a_rrr, a_rrf, a_rg, b_rrr, n_rrr, fn_rrf, slice_rrr, slice_rrf, low_rrf, lowbit_rrf, hibit_rrf, ccOf_code, shflKindOf_code, atomOpOf_code, redOpOf_code, gd_rg, imm_i15, off_br, gd_br, da_rrf, code_rrf, hi_slice, lo_slice, full_slice, hi_bit, lo_bit, bool_bit, Nat.reduceSub, BitVec.ofNat_eq_ofNat, BitVec.reduceToNat, ↓reduceIte, Option.map_some, reduceCtorEq]

theorem fields_vfadd (p : Pre) (d a b : BitVec 7) (n : Bool) (x : Word) :
    decodeFields (rrr 0x4A p d a b n)
      (x) = some (.vfadd p d a b n) := by
  rw [arm_0x4A (op_rrr ..)]
  simp (disch := decide) only [laneOf, pre_rrr, pre_rrf, pre_rg, pre_i15, pre_br, d_rrr, d_rrf, d_rg, d_i15, a_rrr, a_rrf, a_rg, b_rrr, n_rrr, fn_rrf, slice_rrr, slice_rrf, low_rrf, lowbit_rrf, hibit_rrf, ccOf_code, shflKindOf_code, atomOpOf_code, redOpOf_code, gd_rg, imm_i15, off_br, gd_br, da_rrf, code_rrf, hi_slice, lo_slice, full_slice, hi_bit, lo_bit, bool_bit, Nat.reduceSub, BitVec.ofNat_eq_ofNat, BitVec.reduceToNat, ↓reduceIte, Option.map_some, reduceCtorEq]

theorem fields_vfsub (p : Pre) (d a b : BitVec 7) (n : Bool) (x : Word) :
    decodeFields (rrr 0x4B p d a b n)
      (x) = some (.vfsub p d a b n) := by
  rw [arm_0x4B (op_rrr ..)]
  simp (disch := decide) only [laneOf, pre_rrr, pre_rrf, pre_rg, pre_i15, pre_br, d_rrr, d_rrf, d_rg, d_i15, a_rrr, a_rrf, a_rg, b_rrr, n_rrr, fn_rrf, slice_rrr, slice_rrf, low_rrf, lowbit_rrf, hibit_rrf, ccOf_code, shflKindOf_code, atomOpOf_code, redOpOf_code, gd_rg, imm_i15, off_br, gd_br, da_rrf, code_rrf, hi_slice, lo_slice, full_slice, hi_bit, lo_bit, bool_bit, Nat.reduceSub, BitVec.ofNat_eq_ofNat, BitVec.reduceToNat, ↓reduceIte, Option.map_some, reduceCtorEq]

theorem fields_vfmul (p : Pre) (d a b : BitVec 7) (n : Bool) (x : Word) :
    decodeFields (rrr 0x4C p d a b n)
      (x) = some (.vfmul p d a b n) := by
  rw [arm_0x4C (op_rrr ..)]
  simp (disch := decide) only [laneOf, pre_rrr, pre_rrf, pre_rg, pre_i15, pre_br, d_rrr, d_rrf, d_rg, d_i15, a_rrr, a_rrf, a_rg, b_rrr, n_rrr, fn_rrf, slice_rrr, slice_rrf, low_rrf, lowbit_rrf, hibit_rrf, ccOf_code, shflKindOf_code, atomOpOf_code, redOpOf_code, gd_rg, imm_i15, off_br, gd_br, da_rrf, code_rrf, hi_slice, lo_slice, full_slice, hi_bit, lo_bit, bool_bit, Nat.reduceSub, BitVec.ofNat_eq_ofNat, BitVec.reduceToNat, ↓reduceIte, Option.map_some, reduceCtorEq]

theorem fields_vfma (p : Pre) (d a b : BitVec 7) (n : Bool) (x : Word) :
    decodeFields (rrr 0x4D p d a b n)
      (x) = some (.vfma p d a b n) := by
  rw [arm_0x4D (op_rrr ..)]
  simp (disch := decide) only [laneOf, pre_rrr, pre_rrf, pre_rg, pre_i15, pre_br, d_rrr, d_rrf, d_rg, d_i15, a_rrr, a_rrf, a_rg, b_rrr, n_rrr, fn_rrf, slice_rrr, slice_rrf, low_rrf, lowbit_rrf, hibit_rrf, ccOf_code, shflKindOf_code, atomOpOf_code, redOpOf_code, gd_rg, imm_i15, off_br, gd_br, da_rrf, code_rrf, hi_slice, lo_slice, full_slice, hi_bit, lo_bit, bool_bit, Nat.reduceSub, BitVec.ofNat_eq_ofNat, BitVec.reduceToNat, ↓reduceIte, Option.map_some, reduceCtorEq]

theorem fields_vfmin (p : Pre) (d a b : BitVec 7) (n : Bool) (x : Word) :
    decodeFields (rrr 0x4E p d a b n)
      (x) = some (.vfmin p d a b n) := by
  rw [arm_0x4E (op_rrr ..)]
  simp (disch := decide) only [laneOf, pre_rrr, pre_rrf, pre_rg, pre_i15, pre_br, d_rrr, d_rrf, d_rg, d_i15, a_rrr, a_rrf, a_rg, b_rrr, n_rrr, fn_rrf, slice_rrr, slice_rrf, low_rrf, lowbit_rrf, hibit_rrf, ccOf_code, shflKindOf_code, atomOpOf_code, redOpOf_code, gd_rg, imm_i15, off_br, gd_br, da_rrf, code_rrf, hi_slice, lo_slice, full_slice, hi_bit, lo_bit, bool_bit, Nat.reduceSub, BitVec.ofNat_eq_ofNat, BitVec.reduceToNat, ↓reduceIte, Option.map_some, reduceCtorEq]

theorem fields_vfmax (p : Pre) (d a b : BitVec 7) (n : Bool) (x : Word) :
    decodeFields (rrr 0x4F p d a b n)
      (x) = some (.vfmax p d a b n) := by
  rw [arm_0x4F (op_rrr ..)]
  simp (disch := decide) only [laneOf, pre_rrr, pre_rrf, pre_rg, pre_i15, pre_br, d_rrr, d_rrf, d_rg, d_i15, a_rrr, a_rrf, a_rg, b_rrr, n_rrr, fn_rrf, slice_rrr, slice_rrf, low_rrf, lowbit_rrf, hibit_rrf, ccOf_code, shflKindOf_code, atomOpOf_code, redOpOf_code, gd_rg, imm_i15, off_br, gd_br, da_rrf, code_rrf, hi_slice, lo_slice, full_slice, hi_bit, lo_bit, bool_bit, Nat.reduceSub, BitVec.ofNat_eq_ofNat, BitVec.reduceToNat, ↓reduceIte, Option.map_some, reduceCtorEq]

theorem fields_vfcmp (p : Pre) (pd : BitVec 3) (a b : BitVec 7) (bk : Bool) (cc : Cc) (tot : Bool) :
    decodeFields (rrr 0x50 p (0#4 ++ pd) a b bk)
      (0#1 ++ cc.code ++ BitVec.ofBool tot ++ 0#27) = some (.vfcmp p pd a b bk cc tot) := by
  rw [arm_0x50 (op_rrr ..)]
  simp (disch := decide) only [laneOf, pre_rrr, pre_rrf, pre_rg, pre_i15, pre_br, d_rrr, d_rrf, d_rg, d_i15, a_rrr, a_rrf, a_rg, b_rrr, n_rrr, fn_rrf, slice_rrr, slice_rrf, low_rrf, lowbit_rrf, hibit_rrf, ccOf_code, shflKindOf_code, atomOpOf_code, redOpOf_code, gd_rg, imm_i15, off_br, gd_br, da_rrf, code_rrf, hi_slice, lo_slice, full_slice, hi_bit, lo_bit, bool_bit, Nat.reduceSub, BitVec.ofNat_eq_ofNat, BitVec.reduceToNat, ↓reduceIte, Option.map_some, reduceCtorEq]

theorem fields_vfdiv (p : Pre) (d a b : BitVec 7) (n : Bool) (x : Word) :
    decodeFields (rrr 0x51 p d a b n)
      (x) = some (.vfdiv p d a b n) := by
  rw [arm_0x51 (op_rrr ..)]
  simp (disch := decide) only [laneOf, pre_rrr, pre_rrf, pre_rg, pre_i15, pre_br, d_rrr, d_rrf, d_rg, d_i15, a_rrr, a_rrf, a_rg, b_rrr, n_rrr, fn_rrf, slice_rrr, slice_rrf, low_rrf, lowbit_rrf, hibit_rrf, ccOf_code, shflKindOf_code, atomOpOf_code, redOpOf_code, gd_rg, imm_i15, off_br, gd_br, da_rrf, code_rrf, hi_slice, lo_slice, full_slice, hi_bit, lo_bit, bool_bit, Nat.reduceSub, BitVec.ofNat_eq_ofNat, BitVec.reduceToNat, ↓reduceIte, Option.map_some, reduceCtorEq]

theorem fields_vfsqrt (p : Pre) (d a : BitVec 7) (x : Word) :
    decodeFields (rrf 0x52 p d a 0)
      (x) = some (.vfsqrt p d a) := by
  rw [arm_0x52 (op_rrf ..)]
  simp (disch := decide) only [laneOf, pre_rrr, pre_rrf, pre_rg, pre_i15, pre_br, d_rrr, d_rrf, d_rg, d_i15, a_rrr, a_rrf, a_rg, b_rrr, n_rrr, fn_rrf, slice_rrr, slice_rrf, low_rrf, lowbit_rrf, hibit_rrf, ccOf_code, shflKindOf_code, atomOpOf_code, redOpOf_code, gd_rg, imm_i15, off_br, gd_br, da_rrf, code_rrf, hi_slice, lo_slice, full_slice, hi_bit, lo_bit, bool_bit, Nat.reduceSub, BitVec.ofNat_eq_ofNat, BitVec.reduceToNat, ↓reduceIte, Option.map_some, reduceCtorEq]

theorem fields_vrcp (p : Pre) (d a : BitVec 7) (x : Word) :
    decodeFields (rrf 0x52 p d a 1)
      (x) = some (.vrcp p d a) := by
  rw [arm_0x52 (op_rrf ..)]
  simp (disch := decide) only [laneOf, pre_rrr, pre_rrf, pre_rg, pre_i15, pre_br, d_rrr, d_rrf, d_rg, d_i15, a_rrr, a_rrf, a_rg, b_rrr, n_rrr, fn_rrf, slice_rrr, slice_rrf, low_rrf, lowbit_rrf, hibit_rrf, ccOf_code, shflKindOf_code, atomOpOf_code, redOpOf_code, gd_rg, imm_i15, off_br, gd_br, da_rrf, code_rrf, hi_slice, lo_slice, full_slice, hi_bit, lo_bit, bool_bit, Nat.reduceSub, BitVec.ofNat_eq_ofNat, BitVec.reduceToNat, ↓reduceIte, Option.map_some, reduceCtorEq]

theorem fields_vrsq (p : Pre) (d a : BitVec 7) (x : Word) :
    decodeFields (rrf 0x52 p d a 2)
      (x) = some (.vrsq p d a) := by
  rw [arm_0x52 (op_rrf ..)]
  simp (disch := decide) only [laneOf, pre_rrr, pre_rrf, pre_rg, pre_i15, pre_br, d_rrr, d_rrf, d_rg, d_i15, a_rrr, a_rrf, a_rg, b_rrr, n_rrr, fn_rrf, slice_rrr, slice_rrf, low_rrf, lowbit_rrf, hibit_rrf, ccOf_code, shflKindOf_code, atomOpOf_code, redOpOf_code, gd_rg, imm_i15, off_br, gd_br, da_rrf, code_rrf, hi_slice, lo_slice, full_slice, hi_bit, lo_bit, bool_bit, Nat.reduceSub, BitVec.ofNat_eq_ofNat, BitVec.reduceToNat, ↓reduceIte, Option.map_some, reduceCtorEq]

theorem fields_vlog2 (p : Pre) (d a : BitVec 7) (x : Word) :
    decodeFields (rrf 0x52 p d a 3)
      (x) = some (.vlog2 p d a) := by
  rw [arm_0x52 (op_rrf ..)]
  simp (disch := decide) only [laneOf, pre_rrr, pre_rrf, pre_rg, pre_i15, pre_br, d_rrr, d_rrf, d_rg, d_i15, a_rrr, a_rrf, a_rg, b_rrr, n_rrr, fn_rrf, slice_rrr, slice_rrf, low_rrf, lowbit_rrf, hibit_rrf, ccOf_code, shflKindOf_code, atomOpOf_code, redOpOf_code, gd_rg, imm_i15, off_br, gd_br, da_rrf, code_rrf, hi_slice, lo_slice, full_slice, hi_bit, lo_bit, bool_bit, Nat.reduceSub, BitVec.ofNat_eq_ofNat, BitVec.reduceToNat, ↓reduceIte, Option.map_some, reduceCtorEq]

theorem fields_vexp2 (p : Pre) (d a b : BitVec 7) (bk : Bool) (c : BitVec 7) (ck : Bool) :
    decodeFields (rrr 0x53 p d a b bk)
      (0#1 ++ c ++ BitVec.ofBool ck ++ 0#23) = some (.vexp2 p d a b bk c ck) := by
  rw [arm_0x53 (op_rrr ..)]
  simp (disch := decide) only [laneOf, pre_rrr, pre_rrf, pre_rg, pre_i15, pre_br, d_rrr, d_rrf, d_rg, d_i15, a_rrr, a_rrf, a_rg, b_rrr, n_rrr, fn_rrf, slice_rrr, slice_rrf, low_rrf, lowbit_rrf, hibit_rrf, ccOf_code, shflKindOf_code, atomOpOf_code, redOpOf_code, gd_rg, imm_i15, off_br, gd_br, da_rrf, code_rrf, hi_slice, lo_slice, full_slice, hi_bit, lo_bit, bool_bit, Nat.reduceSub, BitVec.ofNat_eq_ofNat, BitVec.reduceToNat, ↓reduceIte, Option.map_some, reduceCtorEq]

theorem fields_vhadd (p : Pre) (d a b : BitVec 7) (n : Bool) (x : Word) :
    decodeFields (rrr 0x54 p d a b n)
      (x) = some (.vhadd p d a b n) := by
  rw [arm_0x54 (op_rrr ..)]
  simp (disch := decide) only [laneOf, pre_rrr, pre_rrf, pre_rg, pre_i15, pre_br, d_rrr, d_rrf, d_rg, d_i15, a_rrr, a_rrf, a_rg, b_rrr, n_rrr, fn_rrf, slice_rrr, slice_rrf, low_rrf, lowbit_rrf, hibit_rrf, ccOf_code, shflKindOf_code, atomOpOf_code, redOpOf_code, gd_rg, imm_i15, off_br, gd_br, da_rrf, code_rrf, hi_slice, lo_slice, full_slice, hi_bit, lo_bit, bool_bit, Nat.reduceSub, BitVec.ofNat_eq_ofNat, BitVec.reduceToNat, ↓reduceIte, Option.map_some, reduceCtorEq]

theorem fields_vhmul (p : Pre) (d a b : BitVec 7) (n : Bool) (x : Word) :
    decodeFields (rrr 0x55 p d a b n)
      (x) = some (.vhmul p d a b n) := by
  rw [arm_0x55 (op_rrr ..)]
  simp (disch := decide) only [laneOf, pre_rrr, pre_rrf, pre_rg, pre_i15, pre_br, d_rrr, d_rrf, d_rg, d_i15, a_rrr, a_rrf, a_rg, b_rrr, n_rrr, fn_rrf, slice_rrr, slice_rrf, low_rrf, lowbit_rrf, hibit_rrf, ccOf_code, shflKindOf_code, atomOpOf_code, redOpOf_code, gd_rg, imm_i15, off_br, gd_br, da_rrf, code_rrf, hi_slice, lo_slice, full_slice, hi_bit, lo_bit, bool_bit, Nat.reduceSub, BitVec.ofNat_eq_ofNat, BitVec.reduceToNat, ↓reduceIte, Option.map_some, reduceCtorEq]

theorem fields_vhfma (p : Pre) (d a b : BitVec 7) (n : Bool) (x : Word) :
    decodeFields (rrr 0x56 p d a b n)
      (x) = some (.vhfma p d a b n) := by
  rw [arm_0x56 (op_rrr ..)]
  simp (disch := decide) only [laneOf, pre_rrr, pre_rrf, pre_rg, pre_i15, pre_br, d_rrr, d_rrf, d_rg, d_i15, a_rrr, a_rrf, a_rg, b_rrr, n_rrr, fn_rrf, slice_rrr, slice_rrf, low_rrf, lowbit_rrf, hibit_rrf, ccOf_code, shflKindOf_code, atomOpOf_code, redOpOf_code, gd_rg, imm_i15, off_br, gd_br, da_rrf, code_rrf, hi_slice, lo_slice, full_slice, hi_bit, lo_bit, bool_bit, Nat.reduceSub, BitVec.ofNat_eq_ofNat, BitVec.reduceToNat, ↓reduceIte, Option.map_some, reduceCtorEq]

theorem fields_vred (p : Pre) (d a : BitVec 7) (w ds : Bool) (op : RedOp) (x : Word) :
    decodeFields (rrf 0x57 p d a (BitVec.ofBool w ++ BitVec.ofBool ds ++ 0#2 ++ op.code))
      (x) = some (.vred p d a w ds op) := by
  rw [arm_0x57 (op_rrf ..)]
  simp (disch := decide) only [laneOf, pre_rrr, pre_rrf, pre_rg, pre_i15, pre_br, d_rrr, d_rrf, d_rg, d_i15, a_rrr, a_rrf, a_rg, b_rrr, n_rrr, fn_rrf, slice_rrr, slice_rrf, low_rrf, lowbit_rrf, hibit_rrf, ccOf_code, shflKindOf_code, atomOpOf_code, redOpOf_code, gd_rg, imm_i15, off_br, gd_br, da_rrf, code_rrf, hi_slice, lo_slice, full_slice, hi_bit, lo_bit, bool_bit, Nat.reduceSub, BitVec.ofNat_eq_ofNat, BitVec.reduceToNat, ↓reduceIte, Option.map_some, reduceCtorEq]
  rfl

theorem fields_vscan (p : Pre) (d a : BitVec 7) (w ex : Bool) (op : RedOp) (x : Word) :
    decodeFields (rrf 0x57 p d a (BitVec.ofBool w ++ 1#2 ++ BitVec.ofBool ex ++ op.code))
      (x) = some (.vscan p d a w ex op) := by
  rw [arm_0x57 (op_rrf ..)]
  simp (disch := decide) only [laneOf, pre_rrr, pre_rrf, pre_rg, pre_i15, pre_br, d_rrr, d_rrf, d_rg, d_i15, a_rrr, a_rrf, a_rg, b_rrr, n_rrr, fn_rrf, slice_rrr, slice_rrf, low_rrf, lowbit_rrf, hibit_rrf, ccOf_code, shflKindOf_code, atomOpOf_code, redOpOf_code, gd_rg, imm_i15, off_br, gd_br, da_rrf, code_rrf, hi_slice, lo_slice, full_slice, hi_bit, lo_bit, bool_bit, Nat.reduceSub, BitVec.ofNat_eq_ofNat, BitVec.reduceToNat, ↓reduceIte, Option.map_some, reduceCtorEq]
  rfl

theorem fields_vcvt (p : Pre) (d a : BitVec 7) (sfmt dfmt : BitVec 8) (mode : BitVec 3) (sat : Bool) (sel : BitVec 3) :
    decodeFields (rrf 0x58 p d a sfmt)
      (0#1 ++ dfmt ++ mode ++ BitVec.ofBool sat ++ sel ++ 0#16) = some (.vcvt p d a sfmt dfmt mode sat sel) := by
  rw [arm_0x58 (op_rrf ..)]
  simp (disch := decide) only [laneOf, pre_rrr, pre_rrf, pre_rg, pre_i15, pre_br, d_rrr, d_rrf, d_rg, d_i15, a_rrr, a_rrf, a_rg, b_rrr, n_rrr, fn_rrf, slice_rrr, slice_rrf, low_rrf, lowbit_rrf, hibit_rrf, ccOf_code, shflKindOf_code, atomOpOf_code, redOpOf_code, gd_rg, imm_i15, off_br, gd_br, da_rrf, code_rrf, hi_slice, lo_slice, full_slice, hi_bit, lo_bit, bool_bit, Nat.reduceSub, BitVec.ofNat_eq_ofNat, BitVec.reduceToNat, ↓reduceIte, Option.map_some, reduceCtorEq]

theorem fields_vcvtef (p : Pre) (d a e : BitVec 7) (dfmt : BitVec 8) (mode : BitVec 3) (sat : Bool) (pd : BitVec 3) :
    decodeFields (rrr 0x59 p d a e false)
      (0#1 ++ dfmt ++ mode ++ BitVec.ofBool sat ++ pd ++ 0#16) = some (.vcvtef p d a e dfmt mode sat pd) := by
  rw [arm_0x59 (op_rrr ..)]
  simp (disch := decide) only [laneOf, pre_rrr, pre_rrf, pre_rg, pre_i15, pre_br, d_rrr, d_rrf, d_rg, d_i15, a_rrr, a_rrf, a_rg, b_rrr, n_rrr, fn_rrf, slice_rrr, slice_rrf, low_rrf, lowbit_rrf, hibit_rrf, ccOf_code, shflKindOf_code, atomOpOf_code, redOpOf_code, gd_rg, imm_i15, off_br, gd_br, da_rrf, code_rrf, hi_slice, lo_slice, full_slice, hi_bit, lo_bit, bool_bit, Nat.reduceSub, BitVec.ofNat_eq_ofNat, BitVec.reduceToNat, ↓reduceIte, Option.map_some, reduceCtorEq]

theorem fields_vpack (p : Pre) (d a : BitVec 7) (fmt : BitVec 8) (mode : BitVec 3) (sat : Bool) :
    decodeFields (rrf 0x5A p d a fmt)
      (0#2 ++ mode ++ BitVec.ofBool sat ++ 0#26) = some (.vpack p d a fmt mode sat) := by
  rw [arm_0x5A (op_rrf ..)]
  simp (disch := decide) only [laneOf, pre_rrr, pre_rrf, pre_rg, pre_i15, pre_br, d_rrr, d_rrf, d_rg, d_i15, a_rrr, a_rrf, a_rg, b_rrr, n_rrr, fn_rrf, slice_rrr, slice_rrf, low_rrf, lowbit_rrf, hibit_rrf, ccOf_code, shflKindOf_code, atomOpOf_code, redOpOf_code, gd_rg, imm_i15, off_br, gd_br, da_rrf, code_rrf, hi_slice, lo_slice, full_slice, hi_bit, lo_bit, bool_bit, Nat.reduceSub, BitVec.ofNat_eq_ofNat, BitVec.reduceToNat, ↓reduceIte, Option.map_some, reduceCtorEq]
  rfl

theorem fields_vunpk (p : Pre) (d a : BitVec 7) (fmt : BitVec 8) :
    decodeFields (rrf 0x5A p d a fmt)
      (1#2 ++ 0#30) = some (.vunpk p d a fmt) := by
  rw [arm_0x5A (op_rrf ..)]
  simp (disch := decide) only [laneOf, pre_rrr, pre_rrf, pre_rg, pre_i15, pre_br, d_rrr, d_rrf, d_rg, d_i15, a_rrr, a_rrf, a_rg, b_rrr, n_rrr, fn_rrf, slice_rrr, slice_rrf, low_rrf, lowbit_rrf, hibit_rrf, ccOf_code, shflKindOf_code, atomOpOf_code, redOpOf_code, gd_rg, imm_i15, off_br, gd_br, da_rrf, code_rrf, hi_slice, lo_slice, full_slice, hi_bit, lo_bit, bool_bit, Nat.reduceSub, BitVec.ofNat_eq_ofNat, BitVec.reduceToNat, ↓reduceIte, Option.map_some, reduceCtorEq]
  rfl

theorem fields_vsclap (p : Pre) (d a b : BitVec 7) (n : Bool) (x : Word) :
    decodeFields (rrr 0x5B p d a b n)
      (x) = some (.vsclap p d a b n) := by
  rw [arm_0x5B (op_rrr ..)]
  simp (disch := decide) only [laneOf, pre_rrr, pre_rrf, pre_rg, pre_i15, pre_br, d_rrr, d_rrf, d_rg, d_i15, a_rrr, a_rrf, a_rg, b_rrr, n_rrr, fn_rrf, slice_rrr, slice_rrf, low_rrf, lowbit_rrf, hibit_rrf, ccOf_code, shflKindOf_code, atomOpOf_code, redOpOf_code, gd_rg, imm_i15, off_br, gd_br, da_rrf, code_rrf, hi_slice, lo_slice, full_slice, hi_bit, lo_bit, bool_bit, Nat.reduceSub, BitVec.ofNat_eq_ofNat, BitVec.reduceToNat, ↓reduceIte, Option.map_some, reduceCtorEq]

theorem fields_vcmprs (p : Pre) (d a f : BitVec 7) (fk w : Bool) (mask : BitVec 4) (sc : BitVec 7) :
    decodeFields (rrr 0x5C p d a f fk)
      (0#1 ++ 0#1 ++ BitVec.ofBool w ++ 0#1 ++ mask ++ sc ++ 0#17) = some (.vcmprs p d a f fk w mask sc) := by
  rw [arm_0x5C (op_rrr ..)]
  simp (disch := decide) only [laneOf, pre_rrr, pre_rrf, pre_rg, pre_i15, pre_br, d_rrr, d_rrf, d_rg, d_i15, a_rrr, a_rrf, a_rg, b_rrr, n_rrr, fn_rrf, slice_rrr, slice_rrf, low_rrf, lowbit_rrf, hibit_rrf, ccOf_code, shflKindOf_code, atomOpOf_code, redOpOf_code, gd_rg, imm_i15, off_br, gd_br, da_rrf, code_rrf, hi_slice, lo_slice, full_slice, hi_bit, lo_bit, bool_bit, Nat.reduceSub, BitVec.ofNat_eq_ofNat, BitVec.reduceToNat, ↓reduceIte, Option.map_some, reduceCtorEq]
  rfl

theorem fields_vexpnd (p : Pre) (d a f : BitVec 7) (fk w : Bool) (mask : BitVec 4) (sc : BitVec 7) :
    decodeFields (rrr 0x5C p d a f fk)
      (0#1 ++ 1#1 ++ BitVec.ofBool w ++ 0#1 ++ mask ++ sc ++ 0#17) = some (.vexpnd p d a f fk w mask sc) := by
  rw [arm_0x5C (op_rrr ..)]
  simp (disch := decide) only [laneOf, pre_rrr, pre_rrf, pre_rg, pre_i15, pre_br, d_rrr, d_rrf, d_rg, d_i15, a_rrr, a_rrf, a_rg, b_rrr, n_rrr, fn_rrf, slice_rrr, slice_rrf, low_rrf, lowbit_rrf, hibit_rrf, ccOf_code, shflKindOf_code, atomOpOf_code, redOpOf_code, gd_rg, imm_i15, off_br, gd_br, da_rrf, code_rrf, hi_slice, lo_slice, full_slice, hi_bit, lo_bit, bool_bit, Nat.reduceSub, BitVec.ofNat_eq_ofNat, BitVec.reduceToNat, ↓reduceIte, Option.map_some, reduceCtorEq]
  rfl

theorem fields_vdecode (p : Pre) (d a c : BitVec 7) (te : Bool) (nreg : BitVec 7) (w : Bool) :
    decodeFields (rrr 0x5D p d a c te)
      (0#1 ++ nreg ++ BitVec.ofBool w ++ 0#23) = some (.vdecode p d a c te nreg w) := by
  rw [arm_0x5D (op_rrr ..)]
  simp (disch := decide) only [laneOf, pre_rrr, pre_rrf, pre_rg, pre_i15, pre_br, d_rrr, d_rrf, d_rg, d_i15, a_rrr, a_rrf, a_rg, b_rrr, n_rrr, fn_rrf, slice_rrr, slice_rrf, low_rrf, lowbit_rrf, hibit_rrf, ccOf_code, shflKindOf_code, atomOpOf_code, redOpOf_code, gd_rg, imm_i15, off_br, gd_br, da_rrf, code_rrf, hi_slice, lo_slice, full_slice, hi_bit, lo_bit, bool_bit, Nat.reduceSub, BitVec.ofNat_eq_ofNat, BitVec.reduceToNat, ↓reduceIte, Option.map_some, reduceCtorEq]
  rfl

theorem fields_vdstat (p : Pre) (d : BitVec 7) :
    decodeFields (rrr 0x5D p d 0 0 false)
      (0#9 ++ 1#2 ++ 0#21) = some (.vdstat p d) := by
  rw [arm_0x5D (op_rrr ..)]
  simp (disch := decide) only [laneOf, pre_rrr, pre_rrf, pre_rg, pre_i15, pre_br, d_rrr, d_rrf, d_rg, d_i15, a_rrr, a_rrf, a_rg, b_rrr, n_rrr, fn_rrf, slice_rrr, slice_rrf, low_rrf, lowbit_rrf, hibit_rrf, ccOf_code, shflKindOf_code, atomOpOf_code, redOpOf_code, gd_rg, imm_i15, off_br, gd_br, da_rrf, code_rrf, hi_slice, lo_slice, full_slice, hi_bit, lo_bit, bool_bit, Nat.reduceSub, BitVec.ofNat_eq_ofNat, BitVec.reduceToNat, ↓reduceIte, Option.map_some, reduceCtorEq]

theorem fields_vdstatClr (p : Pre) (d : BitVec 7) :
    decodeFields (rrr 0x5D p d 0 0 false)
      (0#9 ++ 2#2 ++ 0#21) = some (.vdstatClr p d) := by
  rw [arm_0x5D (op_rrr ..)]
  simp (disch := decide) only [laneOf, pre_rrr, pre_rrf, pre_rg, pre_i15, pre_br, d_rrr, d_rrf, d_rg, d_i15, a_rrr, a_rrf, a_rg, b_rrr, n_rrr, fn_rrf, slice_rrr, slice_rrf, low_rrf, lowbit_rrf, hibit_rrf, ccOf_code, shflKindOf_code, atomOpOf_code, redOpOf_code, gd_rg, imm_i15, off_br, gd_br, da_rrf, code_rrf, hi_slice, lo_slice, full_slice, hi_bit, lo_bit, bool_bit, Nat.reduceSub, BitVec.ofNat_eq_ofNat, BitVec.reduceToNat, ↓reduceIte, Option.map_some, reduceCtorEq]

theorem fields_oclaim (p : Pre) (q : BitVec 2) (k : BitVec 7) (x : Word) :
    decodeFields (rrf 0x60 p (0#5 ++ q) k 0)
      (x) = some (.oclaim p q k) := by
  rw [arm_0x60 (op_rrf ..)]
  simp (disch := decide) only [laneOf, pre_rrr, pre_rrf, pre_rg, pre_i15, pre_br, d_rrr, d_rrf, d_rg, d_i15, a_rrr, a_rrf, a_rg, b_rrr, n_rrr, fn_rrf, slice_rrr, slice_rrf, low_rrf, lowbit_rrf, hibit_rrf, ccOf_code, shflKindOf_code, atomOpOf_code, redOpOf_code, gd_rg, imm_i15, off_br, gd_br, da_rrf, code_rrf, hi_slice, lo_slice, full_slice, hi_bit, lo_bit, bool_bit, Nat.reduceSub, BitVec.ofNat_eq_ofNat, BitVec.reduceToNat, ↓reduceIte, Option.map_some, reduceCtorEq]

theorem fields_orelease (p : Pre) (k : BitVec 7) (x : Word) :
    decodeFields (rrf 0x60 p 0 k 1)
      (x) = some (.orelease p k) := by
  rw [arm_0x60 (op_rrf ..)]
  simp (disch := decide) only [laneOf, pre_rrr, pre_rrf, pre_rg, pre_i15, pre_br, d_rrr, d_rrf, d_rg, d_i15, a_rrr, a_rrf, a_rg, b_rrr, n_rrr, fn_rrf, slice_rrr, slice_rrf, low_rrf, lowbit_rrf, hibit_rrf, ccOf_code, shflKindOf_code, atomOpOf_code, redOpOf_code, gd_rg, imm_i15, off_br, gd_br, da_rrf, code_rrf, hi_slice, lo_slice, full_slice, hi_bit, lo_bit, bool_bit, Nat.reduceSub, BitVec.ofNat_eq_ofNat, BitVec.reduceToNat, ↓reduceIte, Option.map_some, reduceCtorEq]

theorem fields_oqry (p : Pre) (d k : BitVec 7) (x : Word) :
    decodeFields (rrf 0x60 p d k 2)
      (x) = some (.oqry p d k) := by
  rw [arm_0x60 (op_rrf ..)]
  simp (disch := decide) only [laneOf, pre_rrr, pre_rrf, pre_rg, pre_i15, pre_br, d_rrr, d_rrf, d_rg, d_i15, a_rrr, a_rrf, a_rg, b_rrr, n_rrr, fn_rrf, slice_rrr, slice_rrf, low_rrf, lowbit_rrf, hibit_rrf, ccOf_code, shflKindOf_code, atomOpOf_code, redOpOf_code, gd_rg, imm_i15, off_br, gd_br, da_rrf, code_rrf, hi_slice, lo_slice, full_slice, hi_bit, lo_bit, bool_bit, Nat.reduceSub, BitVec.ofNat_eq_ofNat, BitVec.reduceToNat, ↓reduceIte, Option.map_some, reduceCtorEq]

theorem fields_oload (p : Pre) (k a e o : BitVec 7) (dfmt : BitVec 8) (ds tr scw : Bool) :
    decodeFields (rrr 0x61 p k a e false)
      (0#1 ++ o ++ dfmt ++ BitVec.ofBool ds ++ BitVec.ofBool tr ++ BitVec.ofBool scw ++ 0#13) = some (.oload p k a e o dfmt ds tr scw) := by
  rw [arm_0x61 (op_rrr ..)]
  simp (disch := decide) only [laneOf, pre_rrr, pre_rrf, pre_rg, pre_i15, pre_br, d_rrr, d_rrf, d_rg, d_i15, a_rrr, a_rrf, a_rg, b_rrr, n_rrr, fn_rrf, slice_rrr, slice_rrf, low_rrf, lowbit_rrf, hibit_rrf, ccOf_code, shflKindOf_code, atomOpOf_code, redOpOf_code, gd_rg, imm_i15, off_br, gd_br, da_rrf, code_rrf, hi_slice, lo_slice, full_slice, hi_bit, lo_bit, bool_bit, Nat.reduceSub, BitVec.ofNat_eq_ofNat, BitVec.reduceToNat, ↓reduceIte, Option.map_some, reduceCtorEq]

theorem fields_ofill (p : Pre) (k a : BitVec 7) (fmt : BitVec 8) (fs : Bool) (row : BitVec 6) (woff : BitVec 5) (nreg : BitVec 6) (sc w : Bool) :
    decodeFields (rrf 0x62 p k a fmt)
      (BitVec.ofBool fs ++ row ++ woff ++ nreg ++ BitVec.ofBool sc ++ BitVec.ofBool w ++ 0#12) = some (.ofill p k a fmt fs row woff nreg sc w) := by
  rw [arm_0x62 (op_rrf ..)]
  simp (disch := decide) only [laneOf, pre_rrr, pre_rrf, pre_rg, pre_i15, pre_br, d_rrr, d_rrf, d_rg, d_i15, a_rrr, a_rrf, a_rg, b_rrr, n_rrr, fn_rrf, slice_rrr, slice_rrf, low_rrf, lowbit_rrf, hibit_rrf, ccOf_code, shflKindOf_code, atomOpOf_code, redOpOf_code, gd_rg, imm_i15, off_br, gd_br, da_rrf, code_rrf, hi_slice, lo_slice, full_slice, hi_bit, lo_bit, bool_bit, Nat.reduceSub, BitVec.ofNat_eq_ofNat, BitVec.reduceToNat, ↓reduceIte, Option.map_some, reduceCtorEq]

theorem fields_mma (p : Pre) (d a b : BitVec 7) (fs : Bool) (pi : BitVec 7) (arow : BitVec 6) (w : Bool) :
    decodeFields (rrr 0x63 p d a b false)
      (BitVec.ofBool fs ++ pi ++ arow ++ BitVec.ofBool w ++ 0#17) = some (.mma p d a b fs pi arow w) := by
  rw [arm_0x63 (op_rrr ..)]
  simp (disch := decide) only [laneOf, pre_rrr, pre_rrf, pre_rg, pre_i15, pre_br, d_rrr, d_rrf, d_rg, d_i15, a_rrr, a_rrf, a_rg, b_rrr, n_rrr, fn_rrf, slice_rrr, slice_rrf, low_rrf, lowbit_rrf, hibit_rrf, ccOf_code, shflKindOf_code, atomOpOf_code, redOpOf_code, gd_rg, imm_i15, off_br, gd_br, da_rrf, code_rrf, hi_slice, lo_slice, full_slice, hi_bit, lo_bit, bool_bit, Nat.reduceSub, BitVec.ofNat_eq_ofNat, BitVec.reduceToNat, ↓reduceIte, Option.map_some, reduceCtorEq]

theorem fields_mmas (p : Pre) (d a b : BitVec 7) (fs : Bool) (pi : BitVec 7) (arow : BitVec 6) (w : Bool) :
    decodeFields (rrr 0x63 p d a b true)
      (BitVec.ofBool fs ++ pi ++ arow ++ BitVec.ofBool w ++ 0#17) = some (.mmas p d a b fs pi arow w) := by
  rw [arm_0x63 (op_rrr ..)]
  simp (disch := decide) only [laneOf, pre_rrr, pre_rrf, pre_rg, pre_i15, pre_br, d_rrr, d_rrf, d_rg, d_i15, a_rrr, a_rrf, a_rg, b_rrr, n_rrr, fn_rrf, slice_rrr, slice_rrf, low_rrf, lowbit_rrf, hibit_rrf, ccOf_code, shflKindOf_code, atomOpOf_code, redOpOf_code, gd_rg, imm_i15, off_br, gd_br, da_rrf, code_rrf, hi_slice, lo_slice, full_slice, hi_bit, lo_bit, bool_bit, Nat.reduceSub, BitVec.ofNat_eq_ofNat, BitVec.reduceToNat, ↓reduceIte, Option.map_some, reduceCtorEq]

theorem fields_accz (p : Pre) (d : BitVec 7) (fs w : Bool) :
    decodeFields (rrf 0x64 p d 0 0)
      (BitVec.ofBool fs ++ 0#15 ++ BitVec.ofBool w ++ 0#15) = some (.accz p d fs w) := by
  rw [arm_0x64 (op_rrf ..)]
  simp (disch := decide) only [laneOf, pre_rrr, pre_rrf, pre_rg, pre_i15, pre_br, d_rrr, d_rrf, d_rg, d_i15, a_rrr, a_rrf, a_rg, b_rrr, n_rrr, fn_rrf, slice_rrr, slice_rrf, low_rrf, lowbit_rrf, hibit_rrf, ccOf_code, shflKindOf_code, atomOpOf_code, redOpOf_code, gd_rg, imm_i15, off_br, gd_br, da_rrf, code_rrf, hi_slice, lo_slice, full_slice, hi_bit, lo_bit, bool_bit, Nat.reduceSub, BitVec.ofNat_eq_ofNat, BitVec.reduceToNat, ↓reduceIte, Option.map_some, reduceCtorEq]
  rfl

theorem fields_accrd (p : Pre) (d a : BitVec 7) (fs : Bool) (col : BitVec 6) (nreg : BitVec 7) (w : Bool) :
    decodeFields (rrf 0x64 p d a 0)
      (BitVec.ofBool fs ++ 1#2 ++ col ++ nreg ++ BitVec.ofBool w ++ 0#15) = some (.accrd p d a fs col nreg w) := by
  rw [arm_0x64 (op_rrf ..)]
  simp (disch := decide) only [laneOf, pre_rrr, pre_rrf, pre_rg, pre_i15, pre_br, d_rrr, d_rrf, d_rg, d_i15, a_rrr, a_rrf, a_rg, b_rrr, n_rrr, fn_rrf, slice_rrr, slice_rrf, low_rrf, lowbit_rrf, hibit_rrf, ccOf_code, shflKindOf_code, atomOpOf_code, redOpOf_code, gd_rg, imm_i15, off_br, gd_br, da_rrf, code_rrf, hi_slice, lo_slice, full_slice, hi_bit, lo_bit, bool_bit, Nat.reduceSub, BitVec.ofNat_eq_ofNat, BitVec.reduceToNat, ↓reduceIte, Option.map_some, reduceCtorEq]

theorem fields_accwr (p : Pre) (d a : BitVec 7) (fs : Bool) (col : BitVec 6) (nreg : BitVec 7) (w : Bool) :
    decodeFields (rrf 0x64 p d a 0)
      (BitVec.ofBool fs ++ 2#2 ++ col ++ nreg ++ BitVec.ofBool w ++ 0#15) = some (.accwr p d a fs col nreg w) := by
  rw [arm_0x64 (op_rrf ..)]
  simp (disch := decide) only [laneOf, pre_rrr, pre_rrf, pre_rg, pre_i15, pre_br, d_rrr, d_rrf, d_rg, d_i15, a_rrr, a_rrf, a_rg, b_rrr, n_rrr, fn_rrf, slice_rrr, slice_rrf, low_rrf, lowbit_rrf, hibit_rrf, ccOf_code, shflKindOf_code, atomOpOf_code, redOpOf_code, gd_rg, imm_i15, off_br, gd_br, da_rrf, code_rrf, hi_slice, lo_slice, full_slice, hi_bit, lo_bit, bool_bit, Nat.reduceSub, BitVec.ofNat_eq_ofNat, BitVec.reduceToNat, ↓reduceIte, Option.map_some, reduceCtorEq]

theorem fields_accst (p : Pre) (d a : BitVec 7) (fmt : BitVec 8) (fs : Bool) (col : BitVec 6) (mode : BitVec 3) (sat scw : Bool) (row : BitVec 6) (ord : BitVec 2) (scp : BitVec 3) :
    decodeFields (rrf 0x64 p d a fmt)
      (BitVec.ofBool fs ++ 3#2 ++ col ++ mode ++ BitVec.ofBool sat ++ BitVec.ofBool scw ++ row ++ ord ++ scp ++ 0#7) = some (.accst p d a fmt fs col mode sat scw row ord scp) := by
  rw [arm_0x64 (op_rrf ..)]
  simp (disch := decide) only [laneOf, pre_rrr, pre_rrf, pre_rg, pre_i15, pre_br, d_rrr, d_rrf, d_rg, d_i15, a_rrr, a_rrf, a_rg, b_rrr, n_rrr, fn_rrf, slice_rrr, slice_rrf, low_rrf, lowbit_rrf, hibit_rrf, ccOf_code, shflKindOf_code, atomOpOf_code, redOpOf_code, gd_rg, imm_i15, off_br, gd_br, da_rrf, code_rrf, hi_slice, lo_slice, full_slice, hi_bit, lo_bit, bool_bit, Nat.reduceSub, BitVec.ofNat_eq_ofNat, BitVec.reduceToNat, ↓reduceIte, Option.map_some, reduceCtorEq]

theorem fields_ocmp (p : Pre) (d a b : BitVec 7) (bk fs : Bool) (cc : Cc) (tie tot : Bool) (fmt : BitVec 8) (seg : BitVec 5) (w : Bool) :
    decodeFields (rrr 0x65 p d a b bk)
      (BitVec.ofBool fs ++ cc.code ++ BitVec.ofBool tie ++ BitVec.ofBool tot ++ fmt ++ seg ++ BitVec.ofBool w ++ 0#12) = some (.ocmp p d a b bk fs cc tie tot fmt seg w) := by
  rw [arm_0x65 (op_rrr ..)]
  simp (disch := decide) only [laneOf, pre_rrr, pre_rrf, pre_rg, pre_i15, pre_br, d_rrr, d_rrf, d_rg, d_i15, a_rrr, a_rrf, a_rg, b_rrr, n_rrr, fn_rrf, slice_rrr, slice_rrf, low_rrf, lowbit_rrf, hibit_rrf, ccOf_code, shflKindOf_code, atomOpOf_code, redOpOf_code, gd_rg, imm_i15, off_br, gd_br, da_rrf, code_rrf, hi_slice, lo_slice, full_slice, hi_bit, lo_bit, bool_bit, Nat.reduceSub, BitVec.ofNat_eq_ofNat, BitVec.reduceToNat, ↓reduceIte, Option.map_some, reduceCtorEq]

theorem fields_btcnt (p : Pre) (d a : BitVec 7) (fs w : Bool) :
    decodeFields (rrr 0x66 p d a 0 false)
      (BitVec.ofBool fs ++ 0#5 ++ 0#1 ++ 0#7 ++ 0#2 ++ 0#3 ++ BitVec.ofBool w ++ 0#12) = some (.btcnt p d a fs w) := by
  rw [arm_0x66 (op_rrr ..)]
  simp (disch := decide) only [laneOf, pre_rrr, pre_rrf, pre_rg, pre_i15, pre_br, d_rrr, d_rrf, d_rg, d_i15, a_rrr, a_rrf, a_rg, b_rrr, n_rrr, fn_rrf, slice_rrr, slice_rrf, low_rrf, lowbit_rrf, hibit_rrf, ccOf_code, shflKindOf_code, atomOpOf_code, redOpOf_code, gd_rg, imm_i15, off_br, gd_br, da_rrf, code_rrf, hi_slice, lo_slice, full_slice, hi_bit, lo_bit, bool_bit, Nat.reduceSub, BitVec.ofNat_eq_ofNat, BitVec.reduceToNat, ↓reduceIte, Option.map_some, reduceCtorEq]

theorem fields_btcolc (p : Pre) (d a : BitVec 7) (fs w : Bool) :
    decodeFields (rrr 0x66 p d a 0 false)
      (BitVec.ofBool fs ++ 1#5 ++ 0#1 ++ 0#7 ++ 0#2 ++ 0#3 ++ BitVec.ofBool w ++ 0#12) = some (.btcolc p d a fs w) := by
  rw [arm_0x66 (op_rrr ..)]
  simp (disch := decide) only [laneOf, pre_rrr, pre_rrf, pre_rg, pre_i15, pre_br, d_rrr, d_rrf, d_rg, d_i15, a_rrr, a_rrf, a_rg, b_rrr, n_rrr, fn_rrf, slice_rrr, slice_rrf, low_rrf, lowbit_rrf, hibit_rrf, ccOf_code, shflKindOf_code, atomOpOf_code, redOpOf_code, gd_rg, imm_i15, off_br, gd_br, da_rrf, code_rrf, hi_slice, lo_slice, full_slice, hi_bit, lo_bit, bool_bit, Nat.reduceSub, BitVec.ofNat_eq_ofNat, BitVec.reduceToNat, ↓reduceIte, Option.map_some, reduceCtorEq]

theorem fields_btand (p : Pre) (d a b : BitVec 7) (fs : Bool) :
    decodeFields (rrr 0x66 p d a b false)
      (BitVec.ofBool fs ++ 2#5 ++ 0#1 ++ 0#7 ++ 0#2 ++ 0#3 ++ 0#1 ++ 0#12) = some (.btand p d a b fs) := by
  rw [arm_0x66 (op_rrr ..)]
  simp (disch := decide) only [laneOf, pre_rrr, pre_rrf, pre_rg, pre_i15, pre_br, d_rrr, d_rrf, d_rg, d_i15, a_rrr, a_rrf, a_rg, b_rrr, n_rrr, fn_rrf, slice_rrr, slice_rrf, low_rrf, lowbit_rrf, hibit_rrf, ccOf_code, shflKindOf_code, atomOpOf_code, redOpOf_code, gd_rg, imm_i15, off_br, gd_br, da_rrf, code_rrf, hi_slice, lo_slice, full_slice, hi_bit, lo_bit, bool_bit, Nat.reduceSub, BitVec.ofNat_eq_ofNat, BitVec.reduceToNat, ↓reduceIte, Option.map_some, reduceCtorEq]

theorem fields_btor (p : Pre) (d a b : BitVec 7) (fs : Bool) :
    decodeFields (rrr 0x66 p d a b false)
      (BitVec.ofBool fs ++ 3#5 ++ 0#1 ++ 0#7 ++ 0#2 ++ 0#3 ++ 0#1 ++ 0#12) = some (.btor p d a b fs) := by
  rw [arm_0x66 (op_rrr ..)]
  simp (disch := decide) only [laneOf, pre_rrr, pre_rrf, pre_rg, pre_i15, pre_br, d_rrr, d_rrf, d_rg, d_i15, a_rrr, a_rrf, a_rg, b_rrr, n_rrr, fn_rrf, slice_rrr, slice_rrf, low_rrf, lowbit_rrf, hibit_rrf, ccOf_code, shflKindOf_code, atomOpOf_code, redOpOf_code, gd_rg, imm_i15, off_br, gd_br, da_rrf, code_rrf, hi_slice, lo_slice, full_slice, hi_bit, lo_bit, bool_bit, Nat.reduceSub, BitVec.ofNat_eq_ofNat, BitVec.reduceToNat, ↓reduceIte, Option.map_some, reduceCtorEq]

theorem fields_btxor (p : Pre) (d a b : BitVec 7) (fs : Bool) :
    decodeFields (rrr 0x66 p d a b false)
      (BitVec.ofBool fs ++ 4#5 ++ 0#1 ++ 0#7 ++ 0#2 ++ 0#3 ++ 0#1 ++ 0#12) = some (.btxor p d a b fs) := by
  rw [arm_0x66 (op_rrr ..)]
  simp (disch := decide) only [laneOf, pre_rrr, pre_rrf, pre_rg, pre_i15, pre_br, d_rrr, d_rrf, d_rg, d_i15, a_rrr, a_rrf, a_rg, b_rrr, n_rrr, fn_rrf, slice_rrr, slice_rrf, low_rrf, lowbit_rrf, hibit_rrf, ccOf_code, shflKindOf_code, atomOpOf_code, redOpOf_code, gd_rg, imm_i15, off_br, gd_br, da_rrf, code_rrf, hi_slice, lo_slice, full_slice, hi_bit, lo_bit, bool_bit, Nat.reduceSub, BitVec.ofNat_eq_ofNat, BitVec.reduceToNat, ↓reduceIte, Option.map_some, reduceCtorEq]

theorem fields_btnot (p : Pre) (d a : BitVec 7) (fs : Bool) :
    decodeFields (rrr 0x66 p d a 0 false)
      (BitVec.ofBool fs ++ 5#5 ++ 0#1 ++ 0#7 ++ 0#2 ++ 0#3 ++ 0#1 ++ 0#12) = some (.btnot p d a fs) := by
  rw [arm_0x66 (op_rrr ..)]
  simp (disch := decide) only [laneOf, pre_rrr, pre_rrf, pre_rg, pre_i15, pre_br, d_rrr, d_rrf, d_rg, d_i15, a_rrr, a_rrf, a_rg, b_rrr, n_rrr, fn_rrf, slice_rrr, slice_rrf, low_rrf, lowbit_rrf, hibit_rrf, ccOf_code, shflKindOf_code, atomOpOf_code, redOpOf_code, gd_rg, imm_i15, off_br, gd_br, da_rrf, code_rrf, hi_slice, lo_slice, full_slice, hi_bit, lo_bit, bool_bit, Nat.reduceSub, BitVec.ofNat_eq_ofNat, BitVec.reduceToNat, ↓reduceIte, Option.map_some, reduceCtorEq]

theorem fields_btt (p : Pre) (d a : BitVec 7) (fs : Bool) :
    decodeFields (rrr 0x66 p d a 0 false)
      (BitVec.ofBool fs ++ 6#5 ++ 0#1 ++ 0#7 ++ 0#2 ++ 0#3 ++ 0#1 ++ 0#12) = some (.btt p d a fs) := by
  rw [arm_0x66 (op_rrr ..)]
  simp (disch := decide) only [laneOf, pre_rrr, pre_rrf, pre_rg, pre_i15, pre_br, d_rrr, d_rrf, d_rg, d_i15, a_rrr, a_rrf, a_rg, b_rrr, n_rrr, fn_rrf, slice_rrr, slice_rrf, low_rrf, lowbit_rrf, hibit_rrf, ccOf_code, shflKindOf_code, atomOpOf_code, redOpOf_code, gd_rg, imm_i15, off_br, gd_br, da_rrf, code_rrf, hi_slice, lo_slice, full_slice, hi_bit, lo_bit, bool_bit, Nat.reduceSub, BitVec.ofNat_eq_ofNat, BitVec.reduceToNat, ↓reduceIte, Option.map_some, reduceCtorEq]

theorem fields_btcomp (p : Pre) (d a b : BitVec 7) (fs : Bool) :
    decodeFields (rrr 0x66 p d a b false)
      (BitVec.ofBool fs ++ 7#5 ++ 0#1 ++ 0#7 ++ 0#2 ++ 0#3 ++ 0#1 ++ 0#12) = some (.btcomp p d a b fs) := by
  rw [arm_0x66 (op_rrr ..)]
  simp (disch := decide) only [laneOf, pre_rrr, pre_rrf, pre_rg, pre_i15, pre_br, d_rrr, d_rrf, d_rg, d_i15, a_rrr, a_rrf, a_rg, b_rrr, n_rrr, fn_rrf, slice_rrr, slice_rrf, low_rrf, lowbit_rrf, hibit_rrf, ccOf_code, shflKindOf_code, atomOpOf_code, redOpOf_code, gd_rg, imm_i15, off_br, gd_br, da_rrf, code_rrf, hi_slice, lo_slice, full_slice, hi_bit, lo_bit, bool_bit, Nat.reduceSub, BitVec.ofNat_eq_ofNat, BitVec.reduceToNat, ↓reduceIte, Option.map_some, reduceCtorEq]

theorem fields_btclos (p : Pre) (d a x : BitVec 7) (fs : Bool) :
    decodeFields (rrr 0x66 p d a 0 false)
      (BitVec.ofBool fs ++ 8#5 ++ 0#1 ++ x ++ 0#2 ++ 0#3 ++ 0#1 ++ 0#12) = some (.btclos p d a x fs) := by
  rw [arm_0x66 (op_rrr ..)]
  simp (disch := decide) only [laneOf, pre_rrr, pre_rrf, pre_rg, pre_i15, pre_br, d_rrr, d_rrf, d_rg, d_i15, a_rrr, a_rrf, a_rg, b_rrr, n_rrr, fn_rrf, slice_rrr, slice_rrf, low_rrf, lowbit_rrf, hibit_rrf, ccOf_code, shflKindOf_code, atomOpOf_code, redOpOf_code, gd_rg, imm_i15, off_br, gd_br, da_rrf, code_rrf, hi_slice, lo_slice, full_slice, hi_bit, lo_bit, bool_bit, Nat.reduceSub, BitVec.ofNat_eq_ofNat, BitVec.reduceToNat, ↓reduceIte, Option.map_some, reduceCtorEq]

theorem fields_bteye (p : Pre) (d : BitVec 7) (fs : Bool) :
    decodeFields (rrr 0x66 p d 0 0 false)
      (BitVec.ofBool fs ++ 9#5 ++ 0#1 ++ 0#7 ++ 0#2 ++ 0#3 ++ 0#1 ++ 0#12) = some (.bteye p d fs) := by
  rw [arm_0x66 (op_rrr ..)]
  simp (disch := decide) only [laneOf, pre_rrr, pre_rrf, pre_rg, pre_i15, pre_br, d_rrr, d_rrf, d_rg, d_i15, a_rrr, a_rrf, a_rg, b_rrr, n_rrr, fn_rrf, slice_rrr, slice_rrf, low_rrf, lowbit_rrf, hibit_rrf, ccOf_code, shflKindOf_code, atomOpOf_code, redOpOf_code, gd_rg, imm_i15, off_br, gd_br, da_rrf, code_rrf, hi_slice, lo_slice, full_slice, hi_bit, lo_bit, bool_bit, Nat.reduceSub, BitVec.ofNat_eq_ofNat, BitVec.reduceToNat, ↓reduceIte, Option.map_some, reduceCtorEq]

theorem fields_btfirst (p : Pre) (d a : BitVec 7) (fs w : Bool) :
    decodeFields (rrr 0x66 p d a 0 false)
      (BitVec.ofBool fs ++ 10#5 ++ 0#1 ++ 0#7 ++ 0#2 ++ 0#3 ++ BitVec.ofBool w ++ 0#12) = some (.btfirst p d a fs w) := by
  rw [arm_0x66 (op_rrr ..)]
  simp (disch := decide) only [laneOf, pre_rrr, pre_rrf, pre_rg, pre_i15, pre_br, d_rrr, d_rrf, d_rg, d_i15, a_rrr, a_rrf, a_rg, b_rrr, n_rrr, fn_rrf, slice_rrr, slice_rrf, low_rrf, lowbit_rrf, hibit_rrf, ccOf_code, shflKindOf_code, atomOpOf_code, redOpOf_code, gd_rg, imm_i15, off_br, gd_br, da_rrf, code_rrf, hi_slice, lo_slice, full_slice, hi_bit, lo_bit, bool_bit, Nat.reduceSub, BitVec.ofNat_eq_ofNat, BitVec.reduceToNat, ↓reduceIte, Option.map_some, reduceCtorEq]

theorem fields_btrowRd (p : Pre) (d a : BitVec 7) (fs w : Bool) :
    decodeFields (rrr 0x66 p d a 0 false)
      (BitVec.ofBool fs ++ 11#5 ++ 0#1 ++ 0#7 ++ 0#2 ++ 0#3 ++ BitVec.ofBool w ++ 0#12) = some (.btrowRd p d a fs w) := by
  rw [arm_0x66 (op_rrr ..)]
  simp (disch := decide) only [laneOf, pre_rrr, pre_rrf, pre_rg, pre_i15, pre_br, d_rrr, d_rrf, d_rg, d_i15, a_rrr, a_rrf, a_rg, b_rrr, n_rrr, fn_rrf, slice_rrr, slice_rrf, low_rrf, lowbit_rrf, hibit_rrf, ccOf_code, shflKindOf_code, atomOpOf_code, redOpOf_code, gd_rg, imm_i15, off_br, gd_br, da_rrf, code_rrf, hi_slice, lo_slice, full_slice, hi_bit, lo_bit, bool_bit, Nat.reduceSub, BitVec.ofNat_eq_ofNat, BitVec.reduceToNat, ↓reduceIte, Option.map_some, reduceCtorEq]

theorem fields_btrowWr (p : Pre) (d a : BitVec 7) (fs w : Bool) :
    decodeFields (rrr 0x66 p d a 0 false)
      (BitVec.ofBool fs ++ 12#5 ++ 0#1 ++ 0#7 ++ 0#2 ++ 0#3 ++ BitVec.ofBool w ++ 0#12) = some (.btrowWr p d a fs w) := by
  rw [arm_0x66 (op_rrr ..)]
  simp (disch := decide) only [laneOf, pre_rrr, pre_rrf, pre_rg, pre_i15, pre_br, d_rrr, d_rrf, d_rg, d_i15, a_rrr, a_rrf, a_rg, b_rrr, n_rrr, fn_rrf, slice_rrr, slice_rrf, low_rrf, lowbit_rrf, hibit_rrf, ccOf_code, shflKindOf_code, atomOpOf_code, redOpOf_code, gd_rg, imm_i15, off_br, gd_br, da_rrf, code_rrf, hi_slice, lo_slice, full_slice, hi_bit, lo_bit, bool_bit, Nat.reduceSub, BitVec.ofNat_eq_ofNat, BitVec.reduceToNat, ↓reduceIte, Option.map_some, reduceCtorEq]

theorem fields_btld (p : Pre) (d a : BitVec 7) (fs sp : Bool) (ord : BitVec 2) (scp : BitVec 3) :
    decodeFields (rrr 0x66 p d a 0 false)
      (BitVec.ofBool fs ++ 13#5 ++ BitVec.ofBool sp ++ 0#7 ++ ord ++ scp ++ 0#1 ++ 0#12) = some (.btld p d a fs sp ord scp) := by
  rw [arm_0x66 (op_rrr ..)]
  simp (disch := decide) only [laneOf, pre_rrr, pre_rrf, pre_rg, pre_i15, pre_br, d_rrr, d_rrf, d_rg, d_i15, a_rrr, a_rrf, a_rg, b_rrr, n_rrr, fn_rrf, slice_rrr, slice_rrf, low_rrf, lowbit_rrf, hibit_rrf, ccOf_code, shflKindOf_code, atomOpOf_code, redOpOf_code, gd_rg, imm_i15, off_br, gd_br, da_rrf, code_rrf, hi_slice, lo_slice, full_slice, hi_bit, lo_bit, bool_bit, Nat.reduceSub, BitVec.ofNat_eq_ofNat, BitVec.reduceToNat, ↓reduceIte, Option.map_some, reduceCtorEq]

theorem fields_btst (p : Pre) (d a : BitVec 7) (fs sp : Bool) (ord : BitVec 2) (scp : BitVec 3) :
    decodeFields (rrr 0x66 p d a 0 false)
      (BitVec.ofBool fs ++ 14#5 ++ BitVec.ofBool sp ++ 0#7 ++ ord ++ scp ++ 0#1 ++ 0#12) = some (.btst p d a fs sp ord scp) := by
  rw [arm_0x66 (op_rrr ..)]
  simp (disch := decide) only [laneOf, pre_rrr, pre_rrf, pre_rg, pre_i15, pre_br, d_rrr, d_rrf, d_rg, d_i15, a_rrr, a_rrf, a_rg, b_rrr, n_rrr, fn_rrf, slice_rrr, slice_rrf, low_rrf, lowbit_rrf, hibit_rrf, ccOf_code, shflKindOf_code, atomOpOf_code, redOpOf_code, gd_rg, imm_i15, off_br, gd_br, da_rrf, code_rrf, hi_slice, lo_slice, full_slice, hi_bit, lo_bit, bool_bit, Nat.reduceSub, BitVec.ofNat_eq_ofNat, BitVec.reduceToNat, ↓reduceIte, Option.map_some, reduceCtorEq]

theorem fields_trap (p : Pre) (code : BitVec 14) (x : Word) :
    decodeFields (rrf 0x68 p (code.extractLsb' 7 7) (code.extractLsb' 0 7) 0)
      (x) = some (.trap p code) := by
  rw [arm_0x68 (op_rrf ..)]
  simp (disch := decide) only [laneOf, pre_rrr, pre_rrf, pre_rg, pre_i15, pre_br, d_rrr, d_rrf, d_rg, d_i15, a_rrr, a_rrf, a_rg, b_rrr, n_rrr, fn_rrf, slice_rrr, slice_rrf, low_rrf, lowbit_rrf, hibit_rrf, ccOf_code, shflKindOf_code, atomOpOf_code, redOpOf_code, gd_rg, imm_i15, off_br, gd_br, da_rrf, code_rrf, hi_slice, lo_slice, full_slice, hi_bit, lo_bit, bool_bit, Nat.reduceSub, BitVec.ofNat_eq_ofNat, BitVec.reduceToNat, ↓reduceIte, Option.map_some, reduceCtorEq]

theorem fields_tret (p : Pre) (x : Word) :
    decodeFields (rrf 0x68 p 0 0 1)
      (x) = some (.tret p) := by
  rw [arm_0x68 (op_rrf ..)]
  simp (disch := decide) only [laneOf, pre_rrr, pre_rrf, pre_rg, pre_i15, pre_br, d_rrr, d_rrf, d_rg, d_i15, a_rrr, a_rrf, a_rg, b_rrr, n_rrr, fn_rrf, slice_rrr, slice_rrf, low_rrf, lowbit_rrf, hibit_rrf, ccOf_code, shflKindOf_code, atomOpOf_code, redOpOf_code, gd_rg, imm_i15, off_br, gd_br, da_rrf, code_rrf, hi_slice, lo_slice, full_slice, hi_bit, lo_bit, bool_bit, Nat.reduceSub, BitVec.ofNat_eq_ofNat, BitVec.reduceToNat, ↓reduceIte, Option.map_some, reduceCtorEq]

theorem fields_tretKill (p : Pre) (x : Word) :
    decodeFields (rrf 0x68 p 0 0 2)
      (x) = some (.tretKill p) := by
  rw [arm_0x68 (op_rrf ..)]
  simp (disch := decide) only [laneOf, pre_rrr, pre_rrf, pre_rg, pre_i15, pre_br, d_rrr, d_rrf, d_rg, d_i15, a_rrr, a_rrf, a_rg, b_rrr, n_rrr, fn_rrf, slice_rrr, slice_rrf, low_rrf, lowbit_rrf, hibit_rrf, ccOf_code, shflKindOf_code, atomOpOf_code, redOpOf_code, gd_rg, imm_i15, off_br, gd_br, da_rrf, code_rrf, hi_slice, lo_slice, full_slice, hi_bit, lo_bit, bool_bit, Nat.reduceSub, BitVec.ofNat_eq_ofNat, BitVec.reduceToNat, ↓reduceIte, Option.map_some, reduceCtorEq]

theorem fields_tretIgn (p : Pre) (x : Word) :
    decodeFields (rrf 0x68 p 0 0 3)
      (x) = some (.tretIgn p) := by
  rw [arm_0x68 (op_rrf ..)]
  simp (disch := decide) only [laneOf, pre_rrr, pre_rrf, pre_rg, pre_i15, pre_br, d_rrr, d_rrf, d_rg, d_i15, a_rrr, a_rrf, a_rg, b_rrr, n_rrr, fn_rrf, slice_rrr, slice_rrf, low_rrf, lowbit_rrf, hibit_rrf, ccOf_code, shflKindOf_code, atomOpOf_code, redOpOf_code, gd_rg, imm_i15, off_br, gd_br, da_rrf, code_rrf, hi_slice, lo_slice, full_slice, hi_bit, lo_bit, bool_bit, Nat.reduceSub, BitVec.ofNat_eq_ofNat, BitVec.reduceToNat, ↓reduceIte, Option.map_some, reduceCtorEq]

theorem fields_trd (p : Pre) (d r : BitVec 7) (x : Word) :
    decodeFields (rrf 0x68 p d r 4)
      (x) = some (.trd p d r) := by
  rw [arm_0x68 (op_rrf ..)]
  simp (disch := decide) only [laneOf, pre_rrr, pre_rrf, pre_rg, pre_i15, pre_br, d_rrr, d_rrf, d_rg, d_i15, a_rrr, a_rrf, a_rg, b_rrr, n_rrr, fn_rrf, slice_rrr, slice_rrf, low_rrf, lowbit_rrf, hibit_rrf, ccOf_code, shflKindOf_code, atomOpOf_code, redOpOf_code, gd_rg, imm_i15, off_br, gd_br, da_rrf, code_rrf, hi_slice, lo_slice, full_slice, hi_bit, lo_bit, bool_bit, Nat.reduceSub, BitVec.ofNat_eq_ofNat, BitVec.reduceToNat, ↓reduceIte, Option.map_some, reduceCtorEq]

theorem fields_twr (p : Pre) (r a : BitVec 7) (x : Word) :
    decodeFields (rrf 0x68 p r a 5)
      (x) = some (.twr p r a) := by
  rw [arm_0x68 (op_rrf ..)]
  simp (disch := decide) only [laneOf, pre_rrr, pre_rrf, pre_rg, pre_i15, pre_br, d_rrr, d_rrf, d_rg, d_i15, a_rrr, a_rrf, a_rg, b_rrr, n_rrr, fn_rrf, slice_rrr, slice_rrf, low_rrf, lowbit_rrf, hibit_rrf, ccOf_code, shflKindOf_code, atomOpOf_code, redOpOf_code, gd_rg, imm_i15, off_br, gd_br, da_rrf, code_rrf, hi_slice, lo_slice, full_slice, hi_bit, lo_bit, bool_bit, Nat.reduceSub, BitVec.ofNat_eq_ofNat, BitVec.reduceToNat, ↓reduceIte, Option.map_some, reduceCtorEq]

theorem fields_flash (p : Pre) (a : BitVec 7) (x : Word) :
    decodeFields (rrf 0x69 p 0 a 0)
      (x) = some (.flash p a) := by
  rw [arm_0x69 (op_rrf ..)]
  simp (disch := decide) only [laneOf, pre_rrr, pre_rrf, pre_rg, pre_i15, pre_br, d_rrr, d_rrf, d_rg, d_i15, a_rrr, a_rrf, a_rg, b_rrr, n_rrr, fn_rrf, slice_rrr, slice_rrf, low_rrf, lowbit_rrf, hibit_rrf, ccOf_code, shflKindOf_code, atomOpOf_code, redOpOf_code, gd_rg, imm_i15, off_br, gd_br, da_rrf, code_rrf, hi_slice, lo_slice, full_slice, hi_bit, lo_bit, bool_bit, Nat.reduceSub, BitVec.ofNat_eq_ofNat, BitVec.reduceToNat, ↓reduceIte, Option.map_some, reduceCtorEq]

theorem fields_flashNone (p : Pre) (x : Word) :
    decodeFields (rrf 0x69 p 0 0 1)
      (x) = some (.flashNone p) := by
  rw [arm_0x69 (op_rrf ..)]
  simp (disch := decide) only [laneOf, pre_rrr, pre_rrf, pre_rg, pre_i15, pre_br, d_rrr, d_rrf, d_rg, d_i15, a_rrr, a_rrf, a_rg, b_rrr, n_rrr, fn_rrf, slice_rrr, slice_rrf, low_rrf, lowbit_rrf, hibit_rrf, ccOf_code, shflKindOf_code, atomOpOf_code, redOpOf_code, gd_rg, imm_i15, off_br, gd_br, da_rrf, code_rrf, hi_slice, lo_slice, full_slice, hi_bit, lo_bit, bool_bit, Nat.reduceSub, BitVec.ofNat_eq_ofNat, BitVec.reduceToNat, ↓reduceIte, Option.map_some, reduceCtorEq]

theorem fields_dbgbrk (p : Pre) (code : BitVec 14) (x : Word) :
    decodeFields (rrf 0x6A p (code.extractLsb' 7 7) (code.extractLsb' 0 7) 0)
      (x) = some (.dbgbrk p code) := by
  rw [arm_0x6A (op_rrf ..)]
  simp (disch := decide) only [laneOf, pre_rrr, pre_rrf, pre_rg, pre_i15, pre_br, d_rrr, d_rrf, d_rg, d_i15, a_rrr, a_rrf, a_rg, b_rrr, n_rrr, fn_rrf, slice_rrr, slice_rrf, low_rrf, lowbit_rrf, hibit_rrf, ccOf_code, shflKindOf_code, atomOpOf_code, redOpOf_code, gd_rg, imm_i15, off_br, gd_br, da_rrf, code_rrf, hi_slice, lo_slice, full_slice, hi_bit, lo_bit, bool_bit, Nat.reduceSub, BitVec.ofNat_eq_ofNat, BitVec.reduceToNat, ↓reduceIte, Option.map_some, reduceCtorEq]

theorem fields_dmbw (p : Pre) (i : BitVec 3) (a : BitVec 7) (x : Word) :
    decodeFields (rrf 0x6A p (0#4 ++ i) a 1)
      (x) = some (.dmbw p i a) := by
  rw [arm_0x6A (op_rrf ..)]
  simp (disch := decide) only [laneOf, pre_rrr, pre_rrf, pre_rg, pre_i15, pre_br, d_rrr, d_rrf, d_rg, d_i15, a_rrr, a_rrf, a_rg, b_rrr, n_rrr, fn_rrf, slice_rrr, slice_rrf, low_rrf, lowbit_rrf, hibit_rrf, ccOf_code, shflKindOf_code, atomOpOf_code, redOpOf_code, gd_rg, imm_i15, off_br, gd_br, da_rrf, code_rrf, hi_slice, lo_slice, full_slice, hi_bit, lo_bit, bool_bit, Nat.reduceSub, BitVec.ofNat_eq_ofNat, BitVec.reduceToNat, ↓reduceIte, Option.map_some, reduceCtorEq]

theorem fields_dmbwPost (p : Pre) (i : BitVec 3) (a : BitVec 7) (x : Word) :
    decodeFields (rrf 0x6A p (0#4 ++ i) a 2)
      (x) = some (.dmbwPost p i a) := by
  rw [arm_0x6A (op_rrf ..)]
  simp (disch := decide) only [laneOf, pre_rrr, pre_rrf, pre_rg, pre_i15, pre_br, d_rrr, d_rrf, d_rg, d_i15, a_rrr, a_rrf, a_rg, b_rrr, n_rrr, fn_rrf, slice_rrr, slice_rrf, low_rrf, lowbit_rrf, hibit_rrf, ccOf_code, shflKindOf_code, atomOpOf_code, redOpOf_code, gd_rg, imm_i15, off_br, gd_br, da_rrf, code_rrf, hi_slice, lo_slice, full_slice, hi_bit, lo_bit, bool_bit, Nat.reduceSub, BitVec.ofNat_eq_ofNat, BitVec.reduceToNat, ↓reduceIte, Option.map_some, reduceCtorEq]

theorem fields_dmbr (p : Pre) (d i : BitVec 7) (x : Word) :
    decodeFields (rrf 0x6A p d i 3)
      (x) = some (.dmbr p d i) := by
  rw [arm_0x6A (op_rrf ..)]
  simp (disch := decide) only [laneOf, pre_rrr, pre_rrf, pre_rg, pre_i15, pre_br, d_rrr, d_rrf, d_rg, d_i15, a_rrr, a_rrf, a_rg, b_rrr, n_rrr, fn_rrf, slice_rrr, slice_rrf, low_rrf, lowbit_rrf, hibit_rrf, ccOf_code, shflKindOf_code, atomOpOf_code, redOpOf_code, gd_rg, imm_i15, off_br, gd_br, da_rrf, code_rrf, hi_slice, lo_slice, full_slice, hi_bit, lo_bit, bool_bit, Nat.reduceSub, BitVec.ofNat_eq_ofNat, BitVec.reduceToNat, ↓reduceIte, Option.map_some, reduceCtorEq]

theorem fields_cntrd (p : Pre) (d : BitVec 7) (n : BitVec 7) (x : Word) :
    decodeFields (rrf 0x6B p d n 0)
      (x) = some (.cntrd p d n) := by
  rw [arm_0x6B (op_rrf ..)]
  simp (disch := decide) only [laneOf, pre_rrr, pre_rrf, pre_rg, pre_i15, pre_br, d_rrr, d_rrf, d_rg, d_i15, a_rrr, a_rrf, a_rg, b_rrr, n_rrr, fn_rrf, slice_rrr, slice_rrf, low_rrf, lowbit_rrf, hibit_rrf, ccOf_code, shflKindOf_code, atomOpOf_code, redOpOf_code, gd_rg, imm_i15, off_br, gd_br, da_rrf, code_rrf, hi_slice, lo_slice, full_slice, hi_bit, lo_bit, bool_bit, Nat.reduceSub, BitVec.ofNat_eq_ofNat, BitVec.reduceToNat, ↓reduceIte, Option.map_some, reduceCtorEq]

theorem fields_tsrd (p : Pre) (d : BitVec 7) (x : Word) :
    decodeFields (rrf 0x6B p d 0 1)
      (x) = some (.tsrd p d) := by
  rw [arm_0x6B (op_rrf ..)]
  simp (disch := decide) only [laneOf, pre_rrr, pre_rrf, pre_rg, pre_i15, pre_br, d_rrr, d_rrf, d_rg, d_i15, a_rrr, a_rrf, a_rg, b_rrr, n_rrr, fn_rrf, slice_rrr, slice_rrf, low_rrf, lowbit_rrf, hibit_rrf, ccOf_code, shflKindOf_code, atomOpOf_code, redOpOf_code, gd_rg, imm_i15, off_br, gd_br, da_rrf, code_rrf, hi_slice, lo_slice, full_slice, hi_bit, lo_bit, bool_bit, Nat.reduceSub, BitVec.ofNat_eq_ofNat, BitVec.reduceToNat, ↓reduceIte, Option.map_some, reduceCtorEq]

theorem fields_tickrd (p : Pre) (d : BitVec 7) (x : Word) :
    decodeFields (rrf 0x6B p d 0 2)
      (x) = some (.tickrd p d) := by
  rw [arm_0x6B (op_rrf ..)]
  simp (disch := decide) only [laneOf, pre_rrr, pre_rrf, pre_rg, pre_i15, pre_br, d_rrr, d_rrf, d_rg, d_i15, a_rrr, a_rrf, a_rg, b_rrr, n_rrr, fn_rrf, slice_rrr, slice_rrf, low_rrf, lowbit_rrf, hibit_rrf, ccOf_code, shflKindOf_code, atomOpOf_code, redOpOf_code, gd_rg, imm_i15, off_br, gd_br, da_rrf, code_rrf, hi_slice, lo_slice, full_slice, hi_bit, lo_bit, bool_bit, Nat.reduceSub, BitVec.ofNat_eq_ofNat, BitVec.reduceToNat, ↓reduceIte, Option.map_some, reduceCtorEq]

theorem fields_featq (p : Pre) (d n : BitVec 7) (x : Word) :
    decodeFields (rrf 0x6B p d n 3)
      (x) = some (.featq p d n) := by
  rw [arm_0x6B (op_rrf ..)]
  simp (disch := decide) only [laneOf, pre_rrr, pre_rrf, pre_rg, pre_i15, pre_br, d_rrr, d_rrf, d_rg, d_i15, a_rrr, a_rrf, a_rg, b_rrr, n_rrr, fn_rrf, slice_rrr, slice_rrf, low_rrf, lowbit_rrf, hibit_rrf, ccOf_code, shflKindOf_code, atomOpOf_code, redOpOf_code, gd_rg, imm_i15, off_br, gd_br, da_rrf, code_rrf, hi_slice, lo_slice, full_slice, hi_bit, lo_bit, bool_bit, Nat.reduceSub, BitVec.ofNat_eq_ofNat, BitVec.reduceToNat, ↓reduceIte, Option.map_some, reduceCtorEq]

theorem fields_nop (p : Pre) (x : Word) :
    decodeFields (rrf 0x6C p 0 0 0)
      (x) = some (.nop p) := by
  rw [arm_0x6C (op_rrf ..)]
  simp (disch := decide) only [laneOf, pre_rrr, pre_rrf, pre_rg, pre_i15, pre_br, d_rrr, d_rrf, d_rg, d_i15, a_rrr, a_rrf, a_rg, b_rrr, n_rrr, fn_rrf, slice_rrr, slice_rrf, low_rrf, lowbit_rrf, hibit_rrf, ccOf_code, shflKindOf_code, atomOpOf_code, redOpOf_code, gd_rg, imm_i15, off_br, gd_br, da_rrf, code_rrf, hi_slice, lo_slice, full_slice, hi_bit, lo_bit, bool_bit, Nat.reduceSub, BitVec.ofNat_eq_ofNat, BitVec.reduceToNat, ↓reduceIte, Option.map_some, reduceCtorEq]

end Sys2Proof.Laws
end

