-- ==== Sys2Proof/Laws/SMap.lean ====
section
/-! SUPPORT. Sparse tables: what a key reads as after a write, and the canonical form that every operation keeps. -/

namespace Sys2Proof.Machine

variable {β : Type}

theorem smGet_dropWhile_le (d : β) (m : SMap β) {a b : Nat} (h : a < b) :
    smGet d (m.dropWhile fun kv => decide (kv.1 ≤ a)) b = smGet d m b := by
  induction m with
  | nil => rfl
  | cons kv r ih =>
    obtain ⟨k, v⟩ := kv
    by_cases hk : k ≤ a
    · simp [hk, ih, smGet, show k < b by omega]
    · simp [hk]

theorem smGet_dropWhile_ge (d : β) (m : SMap β) {a b : Nat} (h : b ≤ a) :
    smGet d (m.dropWhile fun kv => decide (kv.1 ≤ a)) b = d := by
  induction m with
  | nil => rfl
  | cons kv r ih =>
    obtain ⟨k, v⟩ := kv
    by_cases hk : k ≤ a
    · simp [hk, ih]
    · simp [hk, smGet, show ¬ k < b by omega, show ¬ k = b by omega]

section Decidable

variable [DecidableEq β]

@[simp] theorem smGet_smSet_same (d : β) (m : SMap β) (a : Nat) (v : β) : smGet d (smSet d m a v) a = v := by
  induction m with
  | nil => by_cases hv : v = d <;> simp [smSet, smGet, hv]
  | cons kv r ih =>
    obtain ⟨k, w⟩ := kv
    by_cases h1 : k < a
    · simp [smSet, h1, smGet, ih]
    · by_cases h2 : k = a
      · subst h2
        by_cases hv : v = d
        · simp [smSet, hv, smGet_dropWhile_ge]
        · simp [smSet, hv, smGet]
      · by_cases hv : v = d <;> simp [smSet, h1, h2, hv, smGet]

theorem smGet_smSet_other (d : β) (m : SMap β) {a b : Nat} (v : β) (h : a ≠ b) :
    smGet d (smSet d m a v) b = smGet d m b := by
  induction m with
  | nil =>
    by_cases hv : v = d
    · simp [smSet, hv]
    · by_cases hb : a < b <;> simp [smSet, hv, smGet, hb, h]
  | cons kv r ih =>
    obtain ⟨k, w⟩ := kv
    by_cases h1 : k < a
    · simp [smSet, h1, smGet, ih]
    · by_cases h2 : k = a
      · subst h2
        by_cases hv : v = d
        · by_cases hb : k < b
          · simp [smSet, hv, smGet, hb, smGet_dropWhile_le d r hb]
          · simp [smSet, hv, smGet, hb, h, smGet_dropWhile_ge d r (show b ≤ k by omega)]
        · simp [smSet, hv, smGet, h]
      · by_cases hv : v = d
        · simp [smSet, h1, h2, hv]
        · by_cases hb : a < b
          · simp [smSet, h1, h2, hv, smGet, hb]
          · simp [smSet, h1, h2, hv, smGet, hb, h, show ¬ k < b by omega, show ¬ k = b by omega]

theorem smGet_smSet (d : β) (m : SMap β) (a b : Nat) (v : β) :
    smGet d (smSet d m a v) b = if a = b then v else smGet d m b := by
  by_cases h : a = b
  · subst h; simp
  · simp [h, smGet_smSet_other d m v h]

theorem smFrom_mono (d : β) {m : SMap β} {lo hi : Nat} (h : smFrom d hi m = true) (hl : lo ≤ hi) :
    smFrom d lo m = true := by
  cases m with
  | nil => rfl
  | cons kv r =>
    obtain ⟨k, v⟩ := kv
    simp only [smFrom, Bool.and_eq_true, decide_eq_true_eq] at h ⊢
    exact ⟨⟨by omega, h.1.2⟩, h.2⟩

theorem smFrom_smSet (d : β) (m : SMap β) (lo a : Nat) (v : β) (h : smFrom d lo m = true) (ha : lo ≤ a) :
    smFrom d lo (smSet d m a v) = true := by
  induction m generalizing lo with
  | nil => by_cases hv : v = d <;> simp [smSet, hv, smFrom, ha]
  | cons kv r ih =>
    obtain ⟨k, w⟩ := kv
    simp only [smFrom, Bool.and_eq_true, decide_eq_true_eq] at h
    obtain ⟨⟨hk, hw⟩, hr⟩ := h
    by_cases h1 : k < a
    · simp [smSet, h1, smFrom, hk, hw, ih (k + 1) hr (by omega)]
    · by_cases h2 : k = a
      · subst h2
        by_cases hv : v = d
        · have : r.dropWhile (fun kv => decide (kv.1 ≤ k)) = r := by
            cases r with
            | nil => rfl
            | cons kv r =>
              simp only [smFrom, Bool.and_eq_true, decide_eq_true_eq] at hr
              simp [show ¬ kv.1 ≤ k by omega]
          simp [smSet, hv, this, smFrom_mono d hr (show lo ≤ k + 1 by omega)]
        · simp [smSet, hv, smFrom, hk, hr]
      · by_cases hv : v = d
        · simp [smSet, h1, h2, hv, smFrom, hk, hw, hr]
        · simp [smSet, h1, h2, hv, smFrom, ha, hw, hr, show a + 1 ≤ k by omega]

/-- A write keeps the canonical form. -/
theorem smWf_smSet (d : β) (m : SMap β) (a : Nat) (v : β) (h : smWf d m = true) : smWf d (smSet d m a v) = true :=
  smFrom_smSet d m 0 a v h (Nat.zero_le a)

/-- Writes in order keep the canonical form. -/
theorem smWf_smSetAll (d : β) (l : List (Nat × β)) (m : SMap β) (h : smWf d m = true) :
    smWf d (smSetAll d m l) = true := by
  induction l generalizing m with
  | nil => exact h
  | cons x r ih => exact ih _ (smWf_smSet d m x.1 x.2 h)

theorem smFrom_filter (d : β) (p : Nat × β → Bool) (m : SMap β) (lo : Nat) (h : smFrom d lo m = true) :
    smFrom d lo (m.filter p) = true := by
  induction m generalizing lo with
  | nil => rfl
  | cons kv r ih =>
    obtain ⟨k, v⟩ := kv
    simp only [smFrom, Bool.and_eq_true, decide_eq_true_eq] at h
    obtain ⟨⟨hk, hv⟩, hr⟩ := h
    by_cases hp : p (k, v) = true
    · simp [hp, smFrom, hk, hv, ih (k + 1) hr]
    · simp [hp, smFrom_mono d (ih (k + 1) hr) (show lo ≤ k + 1 by omega)]

/-- Taking entries out keeps the canonical form. -/
theorem smWf_filter (d : β) (p : Nat × β → Bool) (m : SMap β) (h : smWf d m = true) :
    smWf d (m.filter p) = true := smFrom_filter d p m 0 h

theorem smFrom_dropWhile (d : β) (p : Nat × β → Bool) (m : SMap β) (lo : Nat) (h : smFrom d lo m = true) :
    smFrom d lo (m.dropWhile p) = true := by
  induction m generalizing lo with
  | nil => rfl
  | cons kv r ih =>
    obtain ⟨k, v⟩ := kv
    by_cases hp : p (k, v) = true
    · simp only [List.dropWhile_cons, hp, if_true]
      simp only [smFrom, Bool.and_eq_true, decide_eq_true_eq] at h
      exact smFrom_mono d (ih (k + 1) h.2) (by omega)
    · simpa [hp] using h

/-- Taking a range of keys out keeps the canonical form. -/
theorem smWf_smDrop (d : β) (m : SMap β) (lo hi : Nat) (h : smWf d m = true) : smWf d (smDrop m lo hi) = true := by
  have key : ∀ (m : SMap β) (n : Nat), smFrom d n m = true → smFrom d n (smDrop m lo hi) = true := by
    intro m
    induction m with
    | nil => exact fun _ _ => rfl
    | cons kv r ih =>
      obtain ⟨k, v⟩ := kv
      intro n hn
      by_cases hk : k < lo
      · have hr := hn
        simp only [smFrom, Bool.and_eq_true, decide_eq_true_eq] at hr
        have := ih (k + 1) hr.2
        simp only [smDrop, List.takeWhile_cons, List.dropWhile_cons, hk, decide_true, if_true, List.cons_append, smFrom,
          Bool.and_eq_true, decide_eq_true_eq]
        exact ⟨hr.1, this⟩
      · have : smDrop ((k, v) :: r) lo hi = ((k, v) :: r).dropWhile fun kv => decide (kv.1 < hi) := by
          simp [smDrop, hk]
        rw [this]
        exact smFrom_dropWhile d _ _ _ hn
  exact key m 0 h

omit [DecidableEq β] in
theorem smGet_dropWhile_lt (d : β) (m : SMap β) {hi b : Nat} (h : hi ≤ b) :
    smGet d (m.dropWhile fun kv => decide (kv.1 < hi)) b = smGet d m b := by
  induction m with
  | nil => rfl
  | cons kv r ih =>
    obtain ⟨k, v⟩ := kv
    by_cases hk : k < hi
    · simp [hk, ih, smGet, show k < b by omega]
    · simp [hk]

omit [DecidableEq β] in
theorem smGet_dropWhile_under (d : β) (m : SMap β) {hi b : Nat} (h : b < hi) :
    smGet d (m.dropWhile fun kv => decide (kv.1 < hi)) b = d := by
  induction m with
  | nil => rfl
  | cons kv r ih =>
    obtain ⟨k, v⟩ := kv
    by_cases hk : k < hi
    · simp [hk, ih]
    · simp [hk, smGet, show ¬ k < b by omega, show ¬ k = b by omega]

omit [DecidableEq β] in
/-- A range of keys taken out reads as the default; every other key reads as before. -/
theorem smGet_smDrop (d : β) (m : SMap β) (lo hi a : Nat) :
    smGet d (smDrop m lo hi) a = if lo ≤ a ∧ a < hi then d else smGet d m a := by
  induction m with
  | nil => simp [smDrop, smGet]
  | cons kv r ih =>
    obtain ⟨k, v⟩ := kv
    by_cases hk : k < lo
    · have e : smDrop ((k, v) :: r) lo hi = (k, v) :: smDrop r lo hi := by simp [smDrop, hk]
      rw [e]
      by_cases ha : k < a
      · simp only [smGet, ha, if_true, ih]
      · have : ¬ (lo ≤ a ∧ a < hi) := by omega
        simp [smGet, ha, this]
    · have e : smDrop ((k, v) :: r) lo hi = ((k, v) :: r).dropWhile fun kv => decide (kv.1 < hi) := by
        simp [smDrop, hk]
      rw [e]
      by_cases hh : hi ≤ a
      · rw [smGet_dropWhile_lt d _ hh, if_neg (by omega)]
      · rw [smGet_dropWhile_under d _ (by omega)]
        by_cases hla : lo ≤ a
        · rw [if_pos (by omega)]
        · rw [if_neg (by omega)]
          simp [smGet, show ¬ k < a by omega, show ¬ k = a by omega]

theorem smGet_below (d : β) {m : SMap β} {lo a : Nat} (h : smFrom d lo m = true) (ha : a < lo) : smGet d m a = d := by
  cases m with
  | nil => rfl
  | cons kv r =>
    obtain ⟨k, v⟩ := kv
    simp only [smFrom, Bool.and_eq_true, decide_eq_true_eq] at h
    simp [smGet, show ¬ k < a by omega, show ¬ k = a by omega]

theorem smFrom_ext (d : β) (m n : SMap β) (lo : Nat) (hm : smFrom d lo m = true) (hn : smFrom d lo n = true)
    (h : ∀ a, smGet d m a = smGet d n a) : m = n := by
  induction m generalizing n lo with
  | nil =>
    cases n with
    | nil => rfl
    | cons kv r =>
      obtain ⟨k, v⟩ := kv
      simp only [smFrom, Bool.and_eq_true, decide_eq_true_eq] at hn
      have := h k
      simp [smGet] at this
      exact absurd this.symm hn.1.2
  | cons kv r ih =>
    obtain ⟨k, v⟩ := kv
    cases n with
    | nil =>
      simp only [smFrom, Bool.and_eq_true, decide_eq_true_eq] at hm
      have := h k
      simp [smGet] at this
      exact absurd this hm.1.2
    | cons kw q =>
      obtain ⟨k', w⟩ := kw
      simp only [smFrom, Bool.and_eq_true, decide_eq_true_eq] at hm hn
      have hk : k = k' := by
        rcases Nat.lt_trichotomy k k' with hlt | heq | hgt
        · have := h k
          simp [smGet, show ¬ k' < k by omega, show ¬ k' = k by omega] at this
          exact absurd this hm.1.2
        · exact heq
        · have := h k'
          simp [smGet, show ¬ k < k' by omega, show ¬ k = k' by omega] at this
          exact absurd this.symm hn.1.2
      subst hk
      have hvw : v = w := by simpa [smGet] using h k
      subst hvw
      congr 1
      refine ih q (k + 1) hm.2 hn.2 fun a => ?_
      by_cases ha : k < a
      · simpa [smGet, ha] using h a
      · rw [smGet_below d hm.2 (by omega), smGet_below d hn.2 (by omega)]

/-- Tables in canonical form that read alike are equal. -/
theorem sm_ext (d : β) (m n : SMap β) (hm : smWf d m = true) (hn : smWf d n = true)
    (h : ∀ a, smGet d m a = smGet d n a) : m = n := smFrom_ext d m n 0 hm hn h

end Decidable

/-- A key's value is found past the smaller keys. -/
theorem smGet_eq_dropWhile (d : β) (m : SMap β) (a : Nat) :
    smGet d m a = match m.dropWhile fun kv => decide (kv.1 < a) with
      | (k, v) :: _ => if k = a then v else d
      | [] => d := by
  induction m with
  | nil => rfl
  | cons p r ih =>
    by_cases h : p.1 < a
    · simp [smGet, h, ih]
    · simp [smGet, h]

/-- Values read in one pass are those of the keys, one by one. -/
theorem smRead_eq (d : β) (m : SMap β) (a n : Nat) : smRead d m a n = (List.range n).map fun i => smGet d m (a + i) := by
  unfold smRead
  rw [List.range_eq_range']
  have gen : ∀ n j (m' : SMap β) , (∀ b, a + j ≤ b → smGet d m' b = smGet d m b) →
      smSlice d n m' (a + j) = (List.range' j n).map fun i => smGet d m (a + i) := by
    intro n
    induction n with
    | zero => intros; rfl
    | succ n ih =>
      intro j m' h
      have h0 := h (a + j) (Nat.le_refl _)
      rw [smGet_eq_dropWhile] at h0
      rw [List.range'_succ, List.map_cons]
      unfold smSlice
      split
      · rename_i k v r e
        rw [e] at h0
        dsimp only at h0
        rw [h0, ← ih (j + 1) ((k, v) :: r) fun b hb => ?_]
        · rfl
        · rw [← h b (by omega), ← e, smGet_dropWhile_lt d m' (by omega)]
      · rename_i e
        have all : ∀ b, a + j ≤ b → smGet d m b = d := by
          intro b hb
          rw [← h b hb, ← smGet_dropWhile_lt d m' hb, e]
          rfl
        rw [List.replicate_succ]
        have : (List.range' (j + 1) n).map (fun i => smGet d m (a + i)) = List.replicate n d := by
          refine List.eq_replicate_iff.mpr ⟨by simp, fun b hb => ?_⟩
          simp only [List.mem_map, List.mem_range'_1] at hb
          obtain ⟨i, hi, rfl⟩ := hb
          exact all _ (by omega)
        rw [this, all _ (Nat.le_refl _)]
  exact gen n 0 m fun _ _ => rfl

end Sys2Proof.Machine
end

