-- ==== Sys2Proof/Laws/State.lean ====
section
/-! SUPPORT. State updates, field by field: each named update of the state changes the fields its `_only` lemma names, and
every other field reads as before. -/

namespace Sys2Proof.Machine

/-! ## setVdev -/

theorem State.setVdev_only (s : State) (d : VDev) :
    s.setVdev d = { s with vdevs := (s.setVdev d).vdevs } :=
  by unfold State.setVdev; split <;> rfl

@[simp] theorem State.setVdev_tick (s : State) (d : VDev) : (s.setVdev d).tick = s.tick := by rw [State.setVdev_only]
@[simp] theorem State.setVdev_cycle (s : State) (d : VDev) : (s.setVdev d).cycle = s.cycle := by rw [State.setVdev_only]
@[simp] theorem State.setVdev_focused (s : State) (d : VDev) : (s.setVdev d).focused = s.focused := by rw [State.setVdev_only]
@[simp] theorem State.setVdev_issuedNow (s : State) (d : VDev) : (s.setVdev d).issuedNow = s.issuedNow := by rw [State.setVdev_only]
@[simp] theorem State.setVdev_cycleMarks (s : State) (d : VDev) : (s.setVdev d).cycleMarks = s.cycleMarks := by rw [State.setVdev_only]
@[simp] theorem State.setVdev_pipesBusy (s : State) (d : VDev) : (s.setVdev d).pipesBusy = s.pipesBusy := by rw [State.setVdev_only]
@[simp] theorem State.setVdev_loopBufs (s : State) (d : VDev) : (s.setVdev d).loopBufs = s.loopBufs := by rw [State.setVdev_only]
@[simp] theorem State.setVdev_g (s : State) (d : VDev) : (s.setVdev d).g = s.g := by rw [State.setVdev_only]
@[simp] theorem State.setVdev_t (s : State) (d : VDev) : (s.setVdev d).t = s.t := by rw [State.setVdev_only]
@[simp] theorem State.setVdev_gangs (s : State) (d : VDev) : (s.setVdev d).gangs = s.gangs := by rw [State.setVdev_only]
@[simp] theorem State.setVdev_blocks (s : State) (d : VDev) : (s.setVdev d).blocks = s.blocks := by rw [State.setVdev_only]
@[simp] theorem State.setVdev_slots (s : State) (d : VDev) : (s.setVdev d).slots = s.slots := by rw [State.setVdev_only]
@[simp] theorem State.setVdev_deque (s : State) (d : VDev) : (s.setVdev d).deque = s.deque := by rw [State.setVdev_only]
@[simp] theorem State.setVdev_ops (s : State) (d : VDev) : (s.setVdev d).ops = s.ops := by rw [State.setVdev_only]
@[simp] theorem State.setVdev_mops (s : State) (d : VDev) : (s.setVdev d).mops = s.mops := by rw [State.setVdev_only]
@[simp] theorem State.setVdev_copies (s : State) (d : VDev) : (s.setVdev d).copies = s.copies := by rw [State.setVdev_only]
@[simp] theorem State.setVdev_banks (s : State) (d : VDev) : (s.setVdev d).banks = s.banks := by rw [State.setVdev_only]
@[simp] theorem State.setVdev_jobs (s : State) (d : VDev) : (s.setVdev d).jobs = s.jobs := by rw [State.setVdev_only]
@[simp] theorem State.setVdev_levels (s : State) (d : VDev) : (s.setVdev d).levels = s.levels := by rw [State.setVdev_only]
@[simp] theorem State.setVdev_launches (s : State) (d : VDev) : (s.setVdev d).launches = s.launches := by rw [State.setVdev_only]
@[simp] theorem State.setVdev_steals (s : State) (d : VDev) : (s.setVdev d).steals = s.steals := by rw [State.setVdev_only]
@[simp] theorem State.setVdev_pfrecs (s : State) (d : VDev) : (s.setVdev d).pfrecs = s.pfrecs := by rw [State.setVdev_only]
@[simp] theorem State.setVdev_parts (s : State) (d : VDev) : (s.setVdev d).parts = s.parts := by rw [State.setVdev_only]
@[simp] theorem State.setVdev_throttles (s : State) (d : VDev) : (s.setVdev d).throttles = s.throttles := by rw [State.setVdev_only]
@[simp] theorem State.setVdev_grants (s : State) (d : VDev) : (s.setVdev d).grants = s.grants := by rw [State.setVdev_only]
@[simp] theorem State.setVdev_mem (s : State) (d : VDev) : (s.setVdev d).mem = s.mem := by rw [State.setVdev_only]
@[simp] theorem State.setVdev_lineKey (s : State) (d : VDev) : (s.setVdev d).lineKey = s.lineKey := by rw [State.setVdev_only]
@[simp] theorem State.setVdev_keyGen (s : State) (d : VDev) : (s.setVdev d).keyGen = s.keyGen := by rw [State.setVdev_only]
@[simp] theorem State.setVdev_keyMat (s : State) (d : VDev) : (s.setVdev d).keyMat = s.keyMat := by rw [State.setVdev_only]
@[simp] theorem State.setVdev_cached (s : State) (d : VDev) : (s.setVdev d).cached = s.cached := by rw [State.setVdev_only]
@[simp] theorem State.setVdev_softErrors (s : State) (d : VDev) : (s.setVdev d).softErrors = s.softErrors := by rw [State.setVdev_only]
@[simp] theorem State.setVdev_poison (s : State) (d : VDev) : (s.setVdev d).poison = s.poison := by rw [State.setVdev_only]
@[simp] theorem State.setVdev_pendingClear (s : State) (d : VDev) : (s.setVdev d).pendingClear = s.pendingClear := by rw [State.setVdev_only]
@[simp] theorem State.setVdev_shadow (s : State) (d : VDev) : (s.setVdev d).shadow = s.shadow := by rw [State.setVdev_only]
@[simp] theorem State.setVdev_carries (s : State) (d : VDev) : (s.setVdev d).carries = s.carries := by rw [State.setVdev_only]
@[simp] theorem State.setVdev_dies (s : State) (d : VDev) : (s.setVdev d).dies = s.dies := by rw [State.setVdev_only]
@[simp] theorem State.setVdev_governorUsed (s : State) (d : VDev) : (s.setVdev d).governorUsed = s.governorUsed := by rw [State.setVdev_only]
@[simp] theorem State.setVdev_outbox (s : State) (d : VDev) : (s.setVdev d).outbox = s.outbox := by rw [State.setVdev_only]
@[simp] theorem State.setVdev_nextId (s : State) (d : VDev) : (s.setVdev d).nextId = s.nextId := by rw [State.setVdev_only]
@[simp] theorem State.setVdev_freeCount (s : State) (d : VDev) : (s.setVdev d).freeCount = s.freeCount := by rw [State.setVdev_only]

/-! ## raiseIntr -/

theorem State.raiseIntr_only (s : State) (vd vec : Nat) :
    s.raiseIntr vd vec = { s with vdevs := (s.raiseIntr vd vec).vdevs } :=
  State.setVdev_only s _

@[simp] theorem State.raiseIntr_tick (s : State) (vd vec : Nat) : (s.raiseIntr vd vec).tick = s.tick := by rw [State.raiseIntr_only]
@[simp] theorem State.raiseIntr_cycle (s : State) (vd vec : Nat) : (s.raiseIntr vd vec).cycle = s.cycle := by rw [State.raiseIntr_only]
@[simp] theorem State.raiseIntr_focused (s : State) (vd vec : Nat) : (s.raiseIntr vd vec).focused = s.focused := by rw [State.raiseIntr_only]
@[simp] theorem State.raiseIntr_issuedNow (s : State) (vd vec : Nat) : (s.raiseIntr vd vec).issuedNow = s.issuedNow := by rw [State.raiseIntr_only]
@[simp] theorem State.raiseIntr_cycleMarks (s : State) (vd vec : Nat) : (s.raiseIntr vd vec).cycleMarks = s.cycleMarks := by rw [State.raiseIntr_only]
@[simp] theorem State.raiseIntr_pipesBusy (s : State) (vd vec : Nat) : (s.raiseIntr vd vec).pipesBusy = s.pipesBusy := by rw [State.raiseIntr_only]
@[simp] theorem State.raiseIntr_loopBufs (s : State) (vd vec : Nat) : (s.raiseIntr vd vec).loopBufs = s.loopBufs := by rw [State.raiseIntr_only]
@[simp] theorem State.raiseIntr_g (s : State) (vd vec : Nat) : (s.raiseIntr vd vec).g = s.g := by rw [State.raiseIntr_only]
@[simp] theorem State.raiseIntr_t (s : State) (vd vec : Nat) : (s.raiseIntr vd vec).t = s.t := by rw [State.raiseIntr_only]
@[simp] theorem State.raiseIntr_gangs (s : State) (vd vec : Nat) : (s.raiseIntr vd vec).gangs = s.gangs := by rw [State.raiseIntr_only]
@[simp] theorem State.raiseIntr_blocks (s : State) (vd vec : Nat) : (s.raiseIntr vd vec).blocks = s.blocks := by rw [State.raiseIntr_only]
@[simp] theorem State.raiseIntr_slots (s : State) (vd vec : Nat) : (s.raiseIntr vd vec).slots = s.slots := by rw [State.raiseIntr_only]
@[simp] theorem State.raiseIntr_deque (s : State) (vd vec : Nat) : (s.raiseIntr vd vec).deque = s.deque := by rw [State.raiseIntr_only]
@[simp] theorem State.raiseIntr_ops (s : State) (vd vec : Nat) : (s.raiseIntr vd vec).ops = s.ops := by rw [State.raiseIntr_only]
@[simp] theorem State.raiseIntr_mops (s : State) (vd vec : Nat) : (s.raiseIntr vd vec).mops = s.mops := by rw [State.raiseIntr_only]
@[simp] theorem State.raiseIntr_copies (s : State) (vd vec : Nat) : (s.raiseIntr vd vec).copies = s.copies := by rw [State.raiseIntr_only]
@[simp] theorem State.raiseIntr_banks (s : State) (vd vec : Nat) : (s.raiseIntr vd vec).banks = s.banks := by rw [State.raiseIntr_only]
@[simp] theorem State.raiseIntr_jobs (s : State) (vd vec : Nat) : (s.raiseIntr vd vec).jobs = s.jobs := by rw [State.raiseIntr_only]
@[simp] theorem State.raiseIntr_levels (s : State) (vd vec : Nat) : (s.raiseIntr vd vec).levels = s.levels := by rw [State.raiseIntr_only]
@[simp] theorem State.raiseIntr_launches (s : State) (vd vec : Nat) : (s.raiseIntr vd vec).launches = s.launches := by rw [State.raiseIntr_only]
@[simp] theorem State.raiseIntr_steals (s : State) (vd vec : Nat) : (s.raiseIntr vd vec).steals = s.steals := by rw [State.raiseIntr_only]
@[simp] theorem State.raiseIntr_pfrecs (s : State) (vd vec : Nat) : (s.raiseIntr vd vec).pfrecs = s.pfrecs := by rw [State.raiseIntr_only]
@[simp] theorem State.raiseIntr_parts (s : State) (vd vec : Nat) : (s.raiseIntr vd vec).parts = s.parts := by rw [State.raiseIntr_only]
@[simp] theorem State.raiseIntr_throttles (s : State) (vd vec : Nat) : (s.raiseIntr vd vec).throttles = s.throttles := by rw [State.raiseIntr_only]
@[simp] theorem State.raiseIntr_grants (s : State) (vd vec : Nat) : (s.raiseIntr vd vec).grants = s.grants := by rw [State.raiseIntr_only]
@[simp] theorem State.raiseIntr_mem (s : State) (vd vec : Nat) : (s.raiseIntr vd vec).mem = s.mem := by rw [State.raiseIntr_only]
@[simp] theorem State.raiseIntr_lineKey (s : State) (vd vec : Nat) : (s.raiseIntr vd vec).lineKey = s.lineKey := by rw [State.raiseIntr_only]
@[simp] theorem State.raiseIntr_keyGen (s : State) (vd vec : Nat) : (s.raiseIntr vd vec).keyGen = s.keyGen := by rw [State.raiseIntr_only]
@[simp] theorem State.raiseIntr_keyMat (s : State) (vd vec : Nat) : (s.raiseIntr vd vec).keyMat = s.keyMat := by rw [State.raiseIntr_only]
@[simp] theorem State.raiseIntr_cached (s : State) (vd vec : Nat) : (s.raiseIntr vd vec).cached = s.cached := by rw [State.raiseIntr_only]
@[simp] theorem State.raiseIntr_softErrors (s : State) (vd vec : Nat) : (s.raiseIntr vd vec).softErrors = s.softErrors := by rw [State.raiseIntr_only]
@[simp] theorem State.raiseIntr_poison (s : State) (vd vec : Nat) : (s.raiseIntr vd vec).poison = s.poison := by rw [State.raiseIntr_only]
@[simp] theorem State.raiseIntr_pendingClear (s : State) (vd vec : Nat) : (s.raiseIntr vd vec).pendingClear = s.pendingClear := by rw [State.raiseIntr_only]
@[simp] theorem State.raiseIntr_shadow (s : State) (vd vec : Nat) : (s.raiseIntr vd vec).shadow = s.shadow := by rw [State.raiseIntr_only]
@[simp] theorem State.raiseIntr_carries (s : State) (vd vec : Nat) : (s.raiseIntr vd vec).carries = s.carries := by rw [State.raiseIntr_only]
@[simp] theorem State.raiseIntr_dies (s : State) (vd vec : Nat) : (s.raiseIntr vd vec).dies = s.dies := by rw [State.raiseIntr_only]
@[simp] theorem State.raiseIntr_governorUsed (s : State) (vd vec : Nat) : (s.raiseIntr vd vec).governorUsed = s.governorUsed := by rw [State.raiseIntr_only]
@[simp] theorem State.raiseIntr_outbox (s : State) (vd vec : Nat) : (s.raiseIntr vd vec).outbox = s.outbox := by rw [State.raiseIntr_only]
@[simp] theorem State.raiseIntr_nextId (s : State) (vd vec : Nat) : (s.raiseIntr vd vec).nextId = s.nextId := by rw [State.raiseIntr_only]
@[simp] theorem State.raiseIntr_freeCount (s : State) (vd vec : Nat) : (s.raiseIntr vd vec).freeCount = s.freeCount := by rw [State.raiseIntr_only]

/-! ## count -/

theorem State.count_only (s : State) (vd n k : Nat) :
    s.count vd n k = { s with vdevs := (s.count vd n k).vdevs } :=
  State.setVdev_only s _

@[simp] theorem State.count_tick (s : State) (vd n k : Nat) : (s.count vd n k).tick = s.tick := by rw [State.count_only]
@[simp] theorem State.count_cycle (s : State) (vd n k : Nat) : (s.count vd n k).cycle = s.cycle := by rw [State.count_only]
@[simp] theorem State.count_focused (s : State) (vd n k : Nat) : (s.count vd n k).focused = s.focused := by rw [State.count_only]
@[simp] theorem State.count_issuedNow (s : State) (vd n k : Nat) : (s.count vd n k).issuedNow = s.issuedNow := by rw [State.count_only]
@[simp] theorem State.count_cycleMarks (s : State) (vd n k : Nat) : (s.count vd n k).cycleMarks = s.cycleMarks := by rw [State.count_only]
@[simp] theorem State.count_pipesBusy (s : State) (vd n k : Nat) : (s.count vd n k).pipesBusy = s.pipesBusy := by rw [State.count_only]
@[simp] theorem State.count_loopBufs (s : State) (vd n k : Nat) : (s.count vd n k).loopBufs = s.loopBufs := by rw [State.count_only]
@[simp] theorem State.count_g (s : State) (vd n k : Nat) : (s.count vd n k).g = s.g := by rw [State.count_only]
@[simp] theorem State.count_t (s : State) (vd n k : Nat) : (s.count vd n k).t = s.t := by rw [State.count_only]
@[simp] theorem State.count_gangs (s : State) (vd n k : Nat) : (s.count vd n k).gangs = s.gangs := by rw [State.count_only]
@[simp] theorem State.count_blocks (s : State) (vd n k : Nat) : (s.count vd n k).blocks = s.blocks := by rw [State.count_only]
@[simp] theorem State.count_slots (s : State) (vd n k : Nat) : (s.count vd n k).slots = s.slots := by rw [State.count_only]
@[simp] theorem State.count_deque (s : State) (vd n k : Nat) : (s.count vd n k).deque = s.deque := by rw [State.count_only]
@[simp] theorem State.count_ops (s : State) (vd n k : Nat) : (s.count vd n k).ops = s.ops := by rw [State.count_only]
@[simp] theorem State.count_mops (s : State) (vd n k : Nat) : (s.count vd n k).mops = s.mops := by rw [State.count_only]
@[simp] theorem State.count_copies (s : State) (vd n k : Nat) : (s.count vd n k).copies = s.copies := by rw [State.count_only]
@[simp] theorem State.count_banks (s : State) (vd n k : Nat) : (s.count vd n k).banks = s.banks := by rw [State.count_only]
@[simp] theorem State.count_jobs (s : State) (vd n k : Nat) : (s.count vd n k).jobs = s.jobs := by rw [State.count_only]
@[simp] theorem State.count_levels (s : State) (vd n k : Nat) : (s.count vd n k).levels = s.levels := by rw [State.count_only]
@[simp] theorem State.count_launches (s : State) (vd n k : Nat) : (s.count vd n k).launches = s.launches := by rw [State.count_only]
@[simp] theorem State.count_steals (s : State) (vd n k : Nat) : (s.count vd n k).steals = s.steals := by rw [State.count_only]
@[simp] theorem State.count_pfrecs (s : State) (vd n k : Nat) : (s.count vd n k).pfrecs = s.pfrecs := by rw [State.count_only]
@[simp] theorem State.count_parts (s : State) (vd n k : Nat) : (s.count vd n k).parts = s.parts := by rw [State.count_only]
@[simp] theorem State.count_throttles (s : State) (vd n k : Nat) : (s.count vd n k).throttles = s.throttles := by rw [State.count_only]
@[simp] theorem State.count_grants (s : State) (vd n k : Nat) : (s.count vd n k).grants = s.grants := by rw [State.count_only]
@[simp] theorem State.count_mem (s : State) (vd n k : Nat) : (s.count vd n k).mem = s.mem := by rw [State.count_only]
@[simp] theorem State.count_lineKey (s : State) (vd n k : Nat) : (s.count vd n k).lineKey = s.lineKey := by rw [State.count_only]
@[simp] theorem State.count_keyGen (s : State) (vd n k : Nat) : (s.count vd n k).keyGen = s.keyGen := by rw [State.count_only]
@[simp] theorem State.count_keyMat (s : State) (vd n k : Nat) : (s.count vd n k).keyMat = s.keyMat := by rw [State.count_only]
@[simp] theorem State.count_cached (s : State) (vd n k : Nat) : (s.count vd n k).cached = s.cached := by rw [State.count_only]
@[simp] theorem State.count_softErrors (s : State) (vd n k : Nat) : (s.count vd n k).softErrors = s.softErrors := by rw [State.count_only]
@[simp] theorem State.count_poison (s : State) (vd n k : Nat) : (s.count vd n k).poison = s.poison := by rw [State.count_only]
@[simp] theorem State.count_pendingClear (s : State) (vd n k : Nat) : (s.count vd n k).pendingClear = s.pendingClear := by rw [State.count_only]
@[simp] theorem State.count_shadow (s : State) (vd n k : Nat) : (s.count vd n k).shadow = s.shadow := by rw [State.count_only]
@[simp] theorem State.count_carries (s : State) (vd n k : Nat) : (s.count vd n k).carries = s.carries := by rw [State.count_only]
@[simp] theorem State.count_dies (s : State) (vd n k : Nat) : (s.count vd n k).dies = s.dies := by rw [State.count_only]
@[simp] theorem State.count_governorUsed (s : State) (vd n k : Nat) : (s.count vd n k).governorUsed = s.governorUsed := by rw [State.count_only]
@[simp] theorem State.count_outbox (s : State) (vd n k : Nat) : (s.count vd n k).outbox = s.outbox := by rw [State.count_only]
@[simp] theorem State.count_nextId (s : State) (vd n k : Nat) : (s.count vd n k).nextId = s.nextId := by rw [State.count_only]
@[simp] theorem State.count_freeCount (s : State) (vd n k : Nat) : (s.count vd n k).freeCount = s.freeCount := by rw [State.count_only]

/-! ## setBlock -/

theorem State.setBlock_only (s : State) (b : Block) :
    s.setBlock b = { s with blocks := (s.setBlock b).blocks } :=
  rfl

@[simp] theorem State.setBlock_tick (s : State) (b : Block) : (s.setBlock b).tick = s.tick := by rw [State.setBlock_only]
@[simp] theorem State.setBlock_cycle (s : State) (b : Block) : (s.setBlock b).cycle = s.cycle := by rw [State.setBlock_only]
@[simp] theorem State.setBlock_focused (s : State) (b : Block) : (s.setBlock b).focused = s.focused := by rw [State.setBlock_only]
@[simp] theorem State.setBlock_issuedNow (s : State) (b : Block) : (s.setBlock b).issuedNow = s.issuedNow := by rw [State.setBlock_only]
@[simp] theorem State.setBlock_cycleMarks (s : State) (b : Block) : (s.setBlock b).cycleMarks = s.cycleMarks := by rw [State.setBlock_only]
@[simp] theorem State.setBlock_pipesBusy (s : State) (b : Block) : (s.setBlock b).pipesBusy = s.pipesBusy := by rw [State.setBlock_only]
@[simp] theorem State.setBlock_loopBufs (s : State) (b : Block) : (s.setBlock b).loopBufs = s.loopBufs := by rw [State.setBlock_only]
@[simp] theorem State.setBlock_g (s : State) (b : Block) : (s.setBlock b).g = s.g := by rw [State.setBlock_only]
@[simp] theorem State.setBlock_t (s : State) (b : Block) : (s.setBlock b).t = s.t := by rw [State.setBlock_only]
@[simp] theorem State.setBlock_gangs (s : State) (b : Block) : (s.setBlock b).gangs = s.gangs := by rw [State.setBlock_only]
@[simp] theorem State.setBlock_slots (s : State) (b : Block) : (s.setBlock b).slots = s.slots := by rw [State.setBlock_only]
@[simp] theorem State.setBlock_deque (s : State) (b : Block) : (s.setBlock b).deque = s.deque := by rw [State.setBlock_only]
@[simp] theorem State.setBlock_ops (s : State) (b : Block) : (s.setBlock b).ops = s.ops := by rw [State.setBlock_only]
@[simp] theorem State.setBlock_mops (s : State) (b : Block) : (s.setBlock b).mops = s.mops := by rw [State.setBlock_only]
@[simp] theorem State.setBlock_copies (s : State) (b : Block) : (s.setBlock b).copies = s.copies := by rw [State.setBlock_only]
@[simp] theorem State.setBlock_banks (s : State) (b : Block) : (s.setBlock b).banks = s.banks := by rw [State.setBlock_only]
@[simp] theorem State.setBlock_jobs (s : State) (b : Block) : (s.setBlock b).jobs = s.jobs := by rw [State.setBlock_only]
@[simp] theorem State.setBlock_levels (s : State) (b : Block) : (s.setBlock b).levels = s.levels := by rw [State.setBlock_only]
@[simp] theorem State.setBlock_launches (s : State) (b : Block) : (s.setBlock b).launches = s.launches := by rw [State.setBlock_only]
@[simp] theorem State.setBlock_steals (s : State) (b : Block) : (s.setBlock b).steals = s.steals := by rw [State.setBlock_only]
@[simp] theorem State.setBlock_pfrecs (s : State) (b : Block) : (s.setBlock b).pfrecs = s.pfrecs := by rw [State.setBlock_only]
@[simp] theorem State.setBlock_vdevs (s : State) (b : Block) : (s.setBlock b).vdevs = s.vdevs := by rw [State.setBlock_only]
@[simp] theorem State.setBlock_parts (s : State) (b : Block) : (s.setBlock b).parts = s.parts := by rw [State.setBlock_only]
@[simp] theorem State.setBlock_throttles (s : State) (b : Block) : (s.setBlock b).throttles = s.throttles := by rw [State.setBlock_only]
@[simp] theorem State.setBlock_grants (s : State) (b : Block) : (s.setBlock b).grants = s.grants := by rw [State.setBlock_only]
@[simp] theorem State.setBlock_mem (s : State) (b : Block) : (s.setBlock b).mem = s.mem := by rw [State.setBlock_only]
@[simp] theorem State.setBlock_lineKey (s : State) (b : Block) : (s.setBlock b).lineKey = s.lineKey := by rw [State.setBlock_only]
@[simp] theorem State.setBlock_keyGen (s : State) (b : Block) : (s.setBlock b).keyGen = s.keyGen := by rw [State.setBlock_only]
@[simp] theorem State.setBlock_keyMat (s : State) (b : Block) : (s.setBlock b).keyMat = s.keyMat := by rw [State.setBlock_only]
@[simp] theorem State.setBlock_cached (s : State) (b : Block) : (s.setBlock b).cached = s.cached := by rw [State.setBlock_only]
@[simp] theorem State.setBlock_softErrors (s : State) (b : Block) : (s.setBlock b).softErrors = s.softErrors := by rw [State.setBlock_only]
@[simp] theorem State.setBlock_poison (s : State) (b : Block) : (s.setBlock b).poison = s.poison := by rw [State.setBlock_only]
@[simp] theorem State.setBlock_pendingClear (s : State) (b : Block) : (s.setBlock b).pendingClear = s.pendingClear := by rw [State.setBlock_only]
@[simp] theorem State.setBlock_shadow (s : State) (b : Block) : (s.setBlock b).shadow = s.shadow := by rw [State.setBlock_only]
@[simp] theorem State.setBlock_carries (s : State) (b : Block) : (s.setBlock b).carries = s.carries := by rw [State.setBlock_only]
@[simp] theorem State.setBlock_dies (s : State) (b : Block) : (s.setBlock b).dies = s.dies := by rw [State.setBlock_only]
@[simp] theorem State.setBlock_governorUsed (s : State) (b : Block) : (s.setBlock b).governorUsed = s.governorUsed := by rw [State.setBlock_only]
@[simp] theorem State.setBlock_outbox (s : State) (b : Block) : (s.setBlock b).outbox = s.outbox := by rw [State.setBlock_only]
@[simp] theorem State.setBlock_nextId (s : State) (b : Block) : (s.setBlock b).nextId = s.nextId := by rw [State.setBlock_only]
@[simp] theorem State.setBlock_freeCount (s : State) (b : Block) : (s.setBlock b).freeCount = s.freeCount := by rw [State.setBlock_only]

/-! ## charge -/

theorem State.charge_only (s : State) (vd place k n : Nat) :
    s.charge vd place k n = { s with parts := (s.charge vd place k n).parts, governorUsed := (s.charge vd place k n).governorUsed } :=
  by unfold State.charge; split <;> rfl

@[simp] theorem State.charge_tick (s : State) (vd place k n : Nat) : (s.charge vd place k n).tick = s.tick := by rw [State.charge_only]
@[simp] theorem State.charge_cycle (s : State) (vd place k n : Nat) : (s.charge vd place k n).cycle = s.cycle := by rw [State.charge_only]
@[simp] theorem State.charge_focused (s : State) (vd place k n : Nat) : (s.charge vd place k n).focused = s.focused := by rw [State.charge_only]
@[simp] theorem State.charge_issuedNow (s : State) (vd place k n : Nat) : (s.charge vd place k n).issuedNow = s.issuedNow := by rw [State.charge_only]
@[simp] theorem State.charge_cycleMarks (s : State) (vd place k n : Nat) : (s.charge vd place k n).cycleMarks = s.cycleMarks := by rw [State.charge_only]
@[simp] theorem State.charge_pipesBusy (s : State) (vd place k n : Nat) : (s.charge vd place k n).pipesBusy = s.pipesBusy := by rw [State.charge_only]
@[simp] theorem State.charge_loopBufs (s : State) (vd place k n : Nat) : (s.charge vd place k n).loopBufs = s.loopBufs := by rw [State.charge_only]
@[simp] theorem State.charge_g (s : State) (vd place k n : Nat) : (s.charge vd place k n).g = s.g := by rw [State.charge_only]
@[simp] theorem State.charge_t (s : State) (vd place k n : Nat) : (s.charge vd place k n).t = s.t := by rw [State.charge_only]
@[simp] theorem State.charge_gangs (s : State) (vd place k n : Nat) : (s.charge vd place k n).gangs = s.gangs := by rw [State.charge_only]
@[simp] theorem State.charge_blocks (s : State) (vd place k n : Nat) : (s.charge vd place k n).blocks = s.blocks := by rw [State.charge_only]
@[simp] theorem State.charge_slots (s : State) (vd place k n : Nat) : (s.charge vd place k n).slots = s.slots := by rw [State.charge_only]
@[simp] theorem State.charge_deque (s : State) (vd place k n : Nat) : (s.charge vd place k n).deque = s.deque := by rw [State.charge_only]
@[simp] theorem State.charge_ops (s : State) (vd place k n : Nat) : (s.charge vd place k n).ops = s.ops := by rw [State.charge_only]
@[simp] theorem State.charge_mops (s : State) (vd place k n : Nat) : (s.charge vd place k n).mops = s.mops := by rw [State.charge_only]
@[simp] theorem State.charge_copies (s : State) (vd place k n : Nat) : (s.charge vd place k n).copies = s.copies := by rw [State.charge_only]
@[simp] theorem State.charge_banks (s : State) (vd place k n : Nat) : (s.charge vd place k n).banks = s.banks := by rw [State.charge_only]
@[simp] theorem State.charge_jobs (s : State) (vd place k n : Nat) : (s.charge vd place k n).jobs = s.jobs := by rw [State.charge_only]
@[simp] theorem State.charge_levels (s : State) (vd place k n : Nat) : (s.charge vd place k n).levels = s.levels := by rw [State.charge_only]
@[simp] theorem State.charge_launches (s : State) (vd place k n : Nat) : (s.charge vd place k n).launches = s.launches := by rw [State.charge_only]
@[simp] theorem State.charge_steals (s : State) (vd place k n : Nat) : (s.charge vd place k n).steals = s.steals := by rw [State.charge_only]
@[simp] theorem State.charge_pfrecs (s : State) (vd place k n : Nat) : (s.charge vd place k n).pfrecs = s.pfrecs := by rw [State.charge_only]
@[simp] theorem State.charge_vdevs (s : State) (vd place k n : Nat) : (s.charge vd place k n).vdevs = s.vdevs := by rw [State.charge_only]
@[simp] theorem State.charge_throttles (s : State) (vd place k n : Nat) : (s.charge vd place k n).throttles = s.throttles := by rw [State.charge_only]
@[simp] theorem State.charge_grants (s : State) (vd place k n : Nat) : (s.charge vd place k n).grants = s.grants := by rw [State.charge_only]
@[simp] theorem State.charge_mem (s : State) (vd place k n : Nat) : (s.charge vd place k n).mem = s.mem := by rw [State.charge_only]
@[simp] theorem State.charge_lineKey (s : State) (vd place k n : Nat) : (s.charge vd place k n).lineKey = s.lineKey := by rw [State.charge_only]
@[simp] theorem State.charge_keyGen (s : State) (vd place k n : Nat) : (s.charge vd place k n).keyGen = s.keyGen := by rw [State.charge_only]
@[simp] theorem State.charge_keyMat (s : State) (vd place k n : Nat) : (s.charge vd place k n).keyMat = s.keyMat := by rw [State.charge_only]
@[simp] theorem State.charge_cached (s : State) (vd place k n : Nat) : (s.charge vd place k n).cached = s.cached := by rw [State.charge_only]
@[simp] theorem State.charge_softErrors (s : State) (vd place k n : Nat) : (s.charge vd place k n).softErrors = s.softErrors := by rw [State.charge_only]
@[simp] theorem State.charge_poison (s : State) (vd place k n : Nat) : (s.charge vd place k n).poison = s.poison := by rw [State.charge_only]
@[simp] theorem State.charge_pendingClear (s : State) (vd place k n : Nat) : (s.charge vd place k n).pendingClear = s.pendingClear := by rw [State.charge_only]
@[simp] theorem State.charge_shadow (s : State) (vd place k n : Nat) : (s.charge vd place k n).shadow = s.shadow := by rw [State.charge_only]
@[simp] theorem State.charge_carries (s : State) (vd place k n : Nat) : (s.charge vd place k n).carries = s.carries := by rw [State.charge_only]
@[simp] theorem State.charge_dies (s : State) (vd place k n : Nat) : (s.charge vd place k n).dies = s.dies := by rw [State.charge_only]
@[simp] theorem State.charge_outbox (s : State) (vd place k n : Nat) : (s.charge vd place k n).outbox = s.outbox := by rw [State.charge_only]
@[simp] theorem State.charge_nextId (s : State) (vd place k n : Nat) : (s.charge vd place k n).nextId = s.nextId := by rw [State.charge_only]
@[simp] theorem State.charge_freeCount (s : State) (vd place k n : Nat) : (s.charge vd place k n).freeCount = s.freeCount := by rw [State.charge_only]

/-! ## countCycle -/

theorem State.countCycle_only (s : State) :
    s.countCycle = { s with vdevs := (s.countCycle).vdevs, issuedNow := (s.countCycle).issuedNow } :=
  by unfold State.countCycle; dsimp only; split; rfl; rw [State.count_only]

@[simp] theorem State.countCycle_tick (s : State) : (s.countCycle).tick = s.tick := by rw [State.countCycle_only]
@[simp] theorem State.countCycle_cycle (s : State) : (s.countCycle).cycle = s.cycle := by rw [State.countCycle_only]
@[simp] theorem State.countCycle_focused (s : State) : (s.countCycle).focused = s.focused := by rw [State.countCycle_only]
@[simp] theorem State.countCycle_cycleMarks (s : State) : (s.countCycle).cycleMarks = s.cycleMarks := by rw [State.countCycle_only]
@[simp] theorem State.countCycle_pipesBusy (s : State) : (s.countCycle).pipesBusy = s.pipesBusy := by rw [State.countCycle_only]
@[simp] theorem State.countCycle_loopBufs (s : State) : (s.countCycle).loopBufs = s.loopBufs := by rw [State.countCycle_only]
@[simp] theorem State.countCycle_g (s : State) : (s.countCycle).g = s.g := by rw [State.countCycle_only]
@[simp] theorem State.countCycle_t (s : State) : (s.countCycle).t = s.t := by rw [State.countCycle_only]
@[simp] theorem State.countCycle_gangs (s : State) : (s.countCycle).gangs = s.gangs := by rw [State.countCycle_only]
@[simp] theorem State.countCycle_blocks (s : State) : (s.countCycle).blocks = s.blocks := by rw [State.countCycle_only]
@[simp] theorem State.countCycle_slots (s : State) : (s.countCycle).slots = s.slots := by rw [State.countCycle_only]
@[simp] theorem State.countCycle_deque (s : State) : (s.countCycle).deque = s.deque := by rw [State.countCycle_only]
@[simp] theorem State.countCycle_ops (s : State) : (s.countCycle).ops = s.ops := by rw [State.countCycle_only]
@[simp] theorem State.countCycle_mops (s : State) : (s.countCycle).mops = s.mops := by rw [State.countCycle_only]
@[simp] theorem State.countCycle_copies (s : State) : (s.countCycle).copies = s.copies := by rw [State.countCycle_only]
@[simp] theorem State.countCycle_banks (s : State) : (s.countCycle).banks = s.banks := by rw [State.countCycle_only]
@[simp] theorem State.countCycle_jobs (s : State) : (s.countCycle).jobs = s.jobs := by rw [State.countCycle_only]
@[simp] theorem State.countCycle_levels (s : State) : (s.countCycle).levels = s.levels := by rw [State.countCycle_only]
@[simp] theorem State.countCycle_launches (s : State) : (s.countCycle).launches = s.launches := by rw [State.countCycle_only]
@[simp] theorem State.countCycle_steals (s : State) : (s.countCycle).steals = s.steals := by rw [State.countCycle_only]
@[simp] theorem State.countCycle_pfrecs (s : State) : (s.countCycle).pfrecs = s.pfrecs := by rw [State.countCycle_only]
@[simp] theorem State.countCycle_parts (s : State) : (s.countCycle).parts = s.parts := by rw [State.countCycle_only]
@[simp] theorem State.countCycle_throttles (s : State) : (s.countCycle).throttles = s.throttles := by rw [State.countCycle_only]
@[simp] theorem State.countCycle_grants (s : State) : (s.countCycle).grants = s.grants := by rw [State.countCycle_only]
@[simp] theorem State.countCycle_mem (s : State) : (s.countCycle).mem = s.mem := by rw [State.countCycle_only]
@[simp] theorem State.countCycle_lineKey (s : State) : (s.countCycle).lineKey = s.lineKey := by rw [State.countCycle_only]
@[simp] theorem State.countCycle_keyGen (s : State) : (s.countCycle).keyGen = s.keyGen := by rw [State.countCycle_only]
@[simp] theorem State.countCycle_keyMat (s : State) : (s.countCycle).keyMat = s.keyMat := by rw [State.countCycle_only]
@[simp] theorem State.countCycle_cached (s : State) : (s.countCycle).cached = s.cached := by rw [State.countCycle_only]
@[simp] theorem State.countCycle_softErrors (s : State) : (s.countCycle).softErrors = s.softErrors := by rw [State.countCycle_only]
@[simp] theorem State.countCycle_poison (s : State) : (s.countCycle).poison = s.poison := by rw [State.countCycle_only]
@[simp] theorem State.countCycle_pendingClear (s : State) : (s.countCycle).pendingClear = s.pendingClear := by rw [State.countCycle_only]
@[simp] theorem State.countCycle_shadow (s : State) : (s.countCycle).shadow = s.shadow := by rw [State.countCycle_only]
@[simp] theorem State.countCycle_carries (s : State) : (s.countCycle).carries = s.carries := by rw [State.countCycle_only]
@[simp] theorem State.countCycle_dies (s : State) : (s.countCycle).dies = s.dies := by rw [State.countCycle_only]
@[simp] theorem State.countCycle_governorUsed (s : State) : (s.countCycle).governorUsed = s.governorUsed := by rw [State.countCycle_only]
@[simp] theorem State.countCycle_outbox (s : State) : (s.countCycle).outbox = s.outbox := by rw [State.countCycle_only]
@[simp] theorem State.countCycle_nextId (s : State) : (s.countCycle).nextId = s.nextId := by rw [State.countCycle_only]
@[simp] theorem State.countCycle_freeCount (s : State) : (s.countCycle).freeCount = s.freeCount := by rw [State.countCycle_only]

/-! ## writeS -/

theorem State.writeS_only (s : State) (p : Pre) (r : BitVec 7) (v : Word) :
    s.writeS p r v = { s with t := (s.writeS p r v).t } :=
  rfl

@[simp] theorem State.writeS_tick (s : State) (p : Pre) (r : BitVec 7) (v : Word) : (s.writeS p r v).tick = s.tick := by rw [State.writeS_only]
@[simp] theorem State.writeS_cycle (s : State) (p : Pre) (r : BitVec 7) (v : Word) : (s.writeS p r v).cycle = s.cycle := by rw [State.writeS_only]
@[simp] theorem State.writeS_focused (s : State) (p : Pre) (r : BitVec 7) (v : Word) : (s.writeS p r v).focused = s.focused := by rw [State.writeS_only]
@[simp] theorem State.writeS_issuedNow (s : State) (p : Pre) (r : BitVec 7) (v : Word) : (s.writeS p r v).issuedNow = s.issuedNow := by rw [State.writeS_only]
@[simp] theorem State.writeS_cycleMarks (s : State) (p : Pre) (r : BitVec 7) (v : Word) : (s.writeS p r v).cycleMarks = s.cycleMarks := by rw [State.writeS_only]
@[simp] theorem State.writeS_pipesBusy (s : State) (p : Pre) (r : BitVec 7) (v : Word) : (s.writeS p r v).pipesBusy = s.pipesBusy := by rw [State.writeS_only]
@[simp] theorem State.writeS_loopBufs (s : State) (p : Pre) (r : BitVec 7) (v : Word) : (s.writeS p r v).loopBufs = s.loopBufs := by rw [State.writeS_only]
@[simp] theorem State.writeS_g (s : State) (p : Pre) (r : BitVec 7) (v : Word) : (s.writeS p r v).g = s.g := by rw [State.writeS_only]
@[simp] theorem State.writeS_gangs (s : State) (p : Pre) (r : BitVec 7) (v : Word) : (s.writeS p r v).gangs = s.gangs := by rw [State.writeS_only]
@[simp] theorem State.writeS_blocks (s : State) (p : Pre) (r : BitVec 7) (v : Word) : (s.writeS p r v).blocks = s.blocks := by rw [State.writeS_only]
@[simp] theorem State.writeS_slots (s : State) (p : Pre) (r : BitVec 7) (v : Word) : (s.writeS p r v).slots = s.slots := by rw [State.writeS_only]
@[simp] theorem State.writeS_deque (s : State) (p : Pre) (r : BitVec 7) (v : Word) : (s.writeS p r v).deque = s.deque := by rw [State.writeS_only]
@[simp] theorem State.writeS_ops (s : State) (p : Pre) (r : BitVec 7) (v : Word) : (s.writeS p r v).ops = s.ops := by rw [State.writeS_only]
@[simp] theorem State.writeS_mops (s : State) (p : Pre) (r : BitVec 7) (v : Word) : (s.writeS p r v).mops = s.mops := by rw [State.writeS_only]
@[simp] theorem State.writeS_copies (s : State) (p : Pre) (r : BitVec 7) (v : Word) : (s.writeS p r v).copies = s.copies := by rw [State.writeS_only]
@[simp] theorem State.writeS_banks (s : State) (p : Pre) (r : BitVec 7) (v : Word) : (s.writeS p r v).banks = s.banks := by rw [State.writeS_only]
@[simp] theorem State.writeS_jobs (s : State) (p : Pre) (r : BitVec 7) (v : Word) : (s.writeS p r v).jobs = s.jobs := by rw [State.writeS_only]
@[simp] theorem State.writeS_levels (s : State) (p : Pre) (r : BitVec 7) (v : Word) : (s.writeS p r v).levels = s.levels := by rw [State.writeS_only]
@[simp] theorem State.writeS_launches (s : State) (p : Pre) (r : BitVec 7) (v : Word) : (s.writeS p r v).launches = s.launches := by rw [State.writeS_only]
@[simp] theorem State.writeS_steals (s : State) (p : Pre) (r : BitVec 7) (v : Word) : (s.writeS p r v).steals = s.steals := by rw [State.writeS_only]
@[simp] theorem State.writeS_pfrecs (s : State) (p : Pre) (r : BitVec 7) (v : Word) : (s.writeS p r v).pfrecs = s.pfrecs := by rw [State.writeS_only]
@[simp] theorem State.writeS_vdevs (s : State) (p : Pre) (r : BitVec 7) (v : Word) : (s.writeS p r v).vdevs = s.vdevs := by rw [State.writeS_only]
@[simp] theorem State.writeS_parts (s : State) (p : Pre) (r : BitVec 7) (v : Word) : (s.writeS p r v).parts = s.parts := by rw [State.writeS_only]
@[simp] theorem State.writeS_throttles (s : State) (p : Pre) (r : BitVec 7) (v : Word) : (s.writeS p r v).throttles = s.throttles := by rw [State.writeS_only]
@[simp] theorem State.writeS_grants (s : State) (p : Pre) (r : BitVec 7) (v : Word) : (s.writeS p r v).grants = s.grants := by rw [State.writeS_only]
@[simp] theorem State.writeS_mem (s : State) (p : Pre) (r : BitVec 7) (v : Word) : (s.writeS p r v).mem = s.mem := by rw [State.writeS_only]
@[simp] theorem State.writeS_lineKey (s : State) (p : Pre) (r : BitVec 7) (v : Word) : (s.writeS p r v).lineKey = s.lineKey := by rw [State.writeS_only]
@[simp] theorem State.writeS_keyGen (s : State) (p : Pre) (r : BitVec 7) (v : Word) : (s.writeS p r v).keyGen = s.keyGen := by rw [State.writeS_only]
@[simp] theorem State.writeS_keyMat (s : State) (p : Pre) (r : BitVec 7) (v : Word) : (s.writeS p r v).keyMat = s.keyMat := by rw [State.writeS_only]
@[simp] theorem State.writeS_cached (s : State) (p : Pre) (r : BitVec 7) (v : Word) : (s.writeS p r v).cached = s.cached := by rw [State.writeS_only]
@[simp] theorem State.writeS_softErrors (s : State) (p : Pre) (r : BitVec 7) (v : Word) : (s.writeS p r v).softErrors = s.softErrors := by rw [State.writeS_only]
@[simp] theorem State.writeS_poison (s : State) (p : Pre) (r : BitVec 7) (v : Word) : (s.writeS p r v).poison = s.poison := by rw [State.writeS_only]
@[simp] theorem State.writeS_pendingClear (s : State) (p : Pre) (r : BitVec 7) (v : Word) : (s.writeS p r v).pendingClear = s.pendingClear := by rw [State.writeS_only]
@[simp] theorem State.writeS_shadow (s : State) (p : Pre) (r : BitVec 7) (v : Word) : (s.writeS p r v).shadow = s.shadow := by rw [State.writeS_only]
@[simp] theorem State.writeS_carries (s : State) (p : Pre) (r : BitVec 7) (v : Word) : (s.writeS p r v).carries = s.carries := by rw [State.writeS_only]
@[simp] theorem State.writeS_dies (s : State) (p : Pre) (r : BitVec 7) (v : Word) : (s.writeS p r v).dies = s.dies := by rw [State.writeS_only]
@[simp] theorem State.writeS_governorUsed (s : State) (p : Pre) (r : BitVec 7) (v : Word) : (s.writeS p r v).governorUsed = s.governorUsed := by rw [State.writeS_only]
@[simp] theorem State.writeS_outbox (s : State) (p : Pre) (r : BitVec 7) (v : Word) : (s.writeS p r v).outbox = s.outbox := by rw [State.writeS_only]
@[simp] theorem State.writeS_nextId (s : State) (p : Pre) (r : BitVec 7) (v : Word) : (s.writeS p r v).nextId = s.nextId := by rw [State.writeS_only]
@[simp] theorem State.writeS_freeCount (s : State) (p : Pre) (r : BitVec 7) (v : Word) : (s.writeS p r v).freeCount = s.freeCount := by rw [State.writeS_only]

/-! ## writePair -/

theorem State.writePair_only (s : State) (r : BitVec 7) (v : Addr) :
    s.writePair r v = { s with t := (s.writePair r v).t } :=
  rfl

@[simp] theorem State.writePair_tick (s : State) (r : BitVec 7) (v : Addr) : (s.writePair r v).tick = s.tick := by rw [State.writePair_only]
@[simp] theorem State.writePair_cycle (s : State) (r : BitVec 7) (v : Addr) : (s.writePair r v).cycle = s.cycle := by rw [State.writePair_only]
@[simp] theorem State.writePair_focused (s : State) (r : BitVec 7) (v : Addr) : (s.writePair r v).focused = s.focused := by rw [State.writePair_only]
@[simp] theorem State.writePair_issuedNow (s : State) (r : BitVec 7) (v : Addr) : (s.writePair r v).issuedNow = s.issuedNow := by rw [State.writePair_only]
@[simp] theorem State.writePair_cycleMarks (s : State) (r : BitVec 7) (v : Addr) : (s.writePair r v).cycleMarks = s.cycleMarks := by rw [State.writePair_only]
@[simp] theorem State.writePair_pipesBusy (s : State) (r : BitVec 7) (v : Addr) : (s.writePair r v).pipesBusy = s.pipesBusy := by rw [State.writePair_only]
@[simp] theorem State.writePair_loopBufs (s : State) (r : BitVec 7) (v : Addr) : (s.writePair r v).loopBufs = s.loopBufs := by rw [State.writePair_only]
@[simp] theorem State.writePair_g (s : State) (r : BitVec 7) (v : Addr) : (s.writePair r v).g = s.g := by rw [State.writePair_only]
@[simp] theorem State.writePair_gangs (s : State) (r : BitVec 7) (v : Addr) : (s.writePair r v).gangs = s.gangs := by rw [State.writePair_only]
@[simp] theorem State.writePair_blocks (s : State) (r : BitVec 7) (v : Addr) : (s.writePair r v).blocks = s.blocks := by rw [State.writePair_only]
@[simp] theorem State.writePair_slots (s : State) (r : BitVec 7) (v : Addr) : (s.writePair r v).slots = s.slots := by rw [State.writePair_only]
@[simp] theorem State.writePair_deque (s : State) (r : BitVec 7) (v : Addr) : (s.writePair r v).deque = s.deque := by rw [State.writePair_only]
@[simp] theorem State.writePair_ops (s : State) (r : BitVec 7) (v : Addr) : (s.writePair r v).ops = s.ops := by rw [State.writePair_only]
@[simp] theorem State.writePair_mops (s : State) (r : BitVec 7) (v : Addr) : (s.writePair r v).mops = s.mops := by rw [State.writePair_only]
@[simp] theorem State.writePair_copies (s : State) (r : BitVec 7) (v : Addr) : (s.writePair r v).copies = s.copies := by rw [State.writePair_only]
@[simp] theorem State.writePair_banks (s : State) (r : BitVec 7) (v : Addr) : (s.writePair r v).banks = s.banks := by rw [State.writePair_only]
@[simp] theorem State.writePair_jobs (s : State) (r : BitVec 7) (v : Addr) : (s.writePair r v).jobs = s.jobs := by rw [State.writePair_only]
@[simp] theorem State.writePair_levels (s : State) (r : BitVec 7) (v : Addr) : (s.writePair r v).levels = s.levels := by rw [State.writePair_only]
@[simp] theorem State.writePair_launches (s : State) (r : BitVec 7) (v : Addr) : (s.writePair r v).launches = s.launches := by rw [State.writePair_only]
@[simp] theorem State.writePair_steals (s : State) (r : BitVec 7) (v : Addr) : (s.writePair r v).steals = s.steals := by rw [State.writePair_only]
@[simp] theorem State.writePair_pfrecs (s : State) (r : BitVec 7) (v : Addr) : (s.writePair r v).pfrecs = s.pfrecs := by rw [State.writePair_only]
@[simp] theorem State.writePair_vdevs (s : State) (r : BitVec 7) (v : Addr) : (s.writePair r v).vdevs = s.vdevs := by rw [State.writePair_only]
@[simp] theorem State.writePair_parts (s : State) (r : BitVec 7) (v : Addr) : (s.writePair r v).parts = s.parts := by rw [State.writePair_only]
@[simp] theorem State.writePair_throttles (s : State) (r : BitVec 7) (v : Addr) : (s.writePair r v).throttles = s.throttles := by rw [State.writePair_only]
@[simp] theorem State.writePair_grants (s : State) (r : BitVec 7) (v : Addr) : (s.writePair r v).grants = s.grants := by rw [State.writePair_only]
@[simp] theorem State.writePair_mem (s : State) (r : BitVec 7) (v : Addr) : (s.writePair r v).mem = s.mem := by rw [State.writePair_only]
@[simp] theorem State.writePair_lineKey (s : State) (r : BitVec 7) (v : Addr) : (s.writePair r v).lineKey = s.lineKey := by rw [State.writePair_only]
@[simp] theorem State.writePair_keyGen (s : State) (r : BitVec 7) (v : Addr) : (s.writePair r v).keyGen = s.keyGen := by rw [State.writePair_only]
@[simp] theorem State.writePair_keyMat (s : State) (r : BitVec 7) (v : Addr) : (s.writePair r v).keyMat = s.keyMat := by rw [State.writePair_only]
@[simp] theorem State.writePair_cached (s : State) (r : BitVec 7) (v : Addr) : (s.writePair r v).cached = s.cached := by rw [State.writePair_only]
@[simp] theorem State.writePair_softErrors (s : State) (r : BitVec 7) (v : Addr) : (s.writePair r v).softErrors = s.softErrors := by rw [State.writePair_only]
@[simp] theorem State.writePair_poison (s : State) (r : BitVec 7) (v : Addr) : (s.writePair r v).poison = s.poison := by rw [State.writePair_only]
@[simp] theorem State.writePair_pendingClear (s : State) (r : BitVec 7) (v : Addr) : (s.writePair r v).pendingClear = s.pendingClear := by rw [State.writePair_only]
@[simp] theorem State.writePair_shadow (s : State) (r : BitVec 7) (v : Addr) : (s.writePair r v).shadow = s.shadow := by rw [State.writePair_only]
@[simp] theorem State.writePair_carries (s : State) (r : BitVec 7) (v : Addr) : (s.writePair r v).carries = s.carries := by rw [State.writePair_only]
@[simp] theorem State.writePair_dies (s : State) (r : BitVec 7) (v : Addr) : (s.writePair r v).dies = s.dies := by rw [State.writePair_only]
@[simp] theorem State.writePair_governorUsed (s : State) (r : BitVec 7) (v : Addr) : (s.writePair r v).governorUsed = s.governorUsed := by rw [State.writePair_only]
@[simp] theorem State.writePair_outbox (s : State) (r : BitVec 7) (v : Addr) : (s.writePair r v).outbox = s.outbox := by rw [State.writePair_only]
@[simp] theorem State.writePair_nextId (s : State) (r : BitVec 7) (v : Addr) : (s.writePair r v).nextId = s.nextId := by rw [State.writePair_only]
@[simp] theorem State.writePair_freeCount (s : State) (r : BitVec 7) (v : Addr) : (s.writePair r v).freeCount = s.freeCount := by rw [State.writePair_only]

/-! ## writeQ -/

theorem State.writeQ_only (s : State) (n : BitVec 2) (b : Bool) :
    s.writeQ n b = { s with t := (s.writeQ n b).t } :=
  rfl

@[simp] theorem State.writeQ_tick (s : State) (n : BitVec 2) (b : Bool) : (s.writeQ n b).tick = s.tick := by rw [State.writeQ_only]
@[simp] theorem State.writeQ_cycle (s : State) (n : BitVec 2) (b : Bool) : (s.writeQ n b).cycle = s.cycle := by rw [State.writeQ_only]
@[simp] theorem State.writeQ_focused (s : State) (n : BitVec 2) (b : Bool) : (s.writeQ n b).focused = s.focused := by rw [State.writeQ_only]
@[simp] theorem State.writeQ_issuedNow (s : State) (n : BitVec 2) (b : Bool) : (s.writeQ n b).issuedNow = s.issuedNow := by rw [State.writeQ_only]
@[simp] theorem State.writeQ_cycleMarks (s : State) (n : BitVec 2) (b : Bool) : (s.writeQ n b).cycleMarks = s.cycleMarks := by rw [State.writeQ_only]
@[simp] theorem State.writeQ_pipesBusy (s : State) (n : BitVec 2) (b : Bool) : (s.writeQ n b).pipesBusy = s.pipesBusy := by rw [State.writeQ_only]
@[simp] theorem State.writeQ_loopBufs (s : State) (n : BitVec 2) (b : Bool) : (s.writeQ n b).loopBufs = s.loopBufs := by rw [State.writeQ_only]
@[simp] theorem State.writeQ_g (s : State) (n : BitVec 2) (b : Bool) : (s.writeQ n b).g = s.g := by rw [State.writeQ_only]
@[simp] theorem State.writeQ_gangs (s : State) (n : BitVec 2) (b : Bool) : (s.writeQ n b).gangs = s.gangs := by rw [State.writeQ_only]
@[simp] theorem State.writeQ_blocks (s : State) (n : BitVec 2) (b : Bool) : (s.writeQ n b).blocks = s.blocks := by rw [State.writeQ_only]
@[simp] theorem State.writeQ_slots (s : State) (n : BitVec 2) (b : Bool) : (s.writeQ n b).slots = s.slots := by rw [State.writeQ_only]
@[simp] theorem State.writeQ_deque (s : State) (n : BitVec 2) (b : Bool) : (s.writeQ n b).deque = s.deque := by rw [State.writeQ_only]
@[simp] theorem State.writeQ_ops (s : State) (n : BitVec 2) (b : Bool) : (s.writeQ n b).ops = s.ops := by rw [State.writeQ_only]
@[simp] theorem State.writeQ_mops (s : State) (n : BitVec 2) (b : Bool) : (s.writeQ n b).mops = s.mops := by rw [State.writeQ_only]
@[simp] theorem State.writeQ_copies (s : State) (n : BitVec 2) (b : Bool) : (s.writeQ n b).copies = s.copies := by rw [State.writeQ_only]
@[simp] theorem State.writeQ_banks (s : State) (n : BitVec 2) (b : Bool) : (s.writeQ n b).banks = s.banks := by rw [State.writeQ_only]
@[simp] theorem State.writeQ_jobs (s : State) (n : BitVec 2) (b : Bool) : (s.writeQ n b).jobs = s.jobs := by rw [State.writeQ_only]
@[simp] theorem State.writeQ_levels (s : State) (n : BitVec 2) (b : Bool) : (s.writeQ n b).levels = s.levels := by rw [State.writeQ_only]
@[simp] theorem State.writeQ_launches (s : State) (n : BitVec 2) (b : Bool) : (s.writeQ n b).launches = s.launches := by rw [State.writeQ_only]
@[simp] theorem State.writeQ_steals (s : State) (n : BitVec 2) (b : Bool) : (s.writeQ n b).steals = s.steals := by rw [State.writeQ_only]
@[simp] theorem State.writeQ_pfrecs (s : State) (n : BitVec 2) (b : Bool) : (s.writeQ n b).pfrecs = s.pfrecs := by rw [State.writeQ_only]
@[simp] theorem State.writeQ_vdevs (s : State) (n : BitVec 2) (b : Bool) : (s.writeQ n b).vdevs = s.vdevs := by rw [State.writeQ_only]
@[simp] theorem State.writeQ_parts (s : State) (n : BitVec 2) (b : Bool) : (s.writeQ n b).parts = s.parts := by rw [State.writeQ_only]
@[simp] theorem State.writeQ_throttles (s : State) (n : BitVec 2) (b : Bool) : (s.writeQ n b).throttles = s.throttles := by rw [State.writeQ_only]
@[simp] theorem State.writeQ_grants (s : State) (n : BitVec 2) (b : Bool) : (s.writeQ n b).grants = s.grants := by rw [State.writeQ_only]
@[simp] theorem State.writeQ_mem (s : State) (n : BitVec 2) (b : Bool) : (s.writeQ n b).mem = s.mem := by rw [State.writeQ_only]
@[simp] theorem State.writeQ_lineKey (s : State) (n : BitVec 2) (b : Bool) : (s.writeQ n b).lineKey = s.lineKey := by rw [State.writeQ_only]
@[simp] theorem State.writeQ_keyGen (s : State) (n : BitVec 2) (b : Bool) : (s.writeQ n b).keyGen = s.keyGen := by rw [State.writeQ_only]
@[simp] theorem State.writeQ_keyMat (s : State) (n : BitVec 2) (b : Bool) : (s.writeQ n b).keyMat = s.keyMat := by rw [State.writeQ_only]
@[simp] theorem State.writeQ_cached (s : State) (n : BitVec 2) (b : Bool) : (s.writeQ n b).cached = s.cached := by rw [State.writeQ_only]
@[simp] theorem State.writeQ_softErrors (s : State) (n : BitVec 2) (b : Bool) : (s.writeQ n b).softErrors = s.softErrors := by rw [State.writeQ_only]
@[simp] theorem State.writeQ_poison (s : State) (n : BitVec 2) (b : Bool) : (s.writeQ n b).poison = s.poison := by rw [State.writeQ_only]
@[simp] theorem State.writeQ_pendingClear (s : State) (n : BitVec 2) (b : Bool) : (s.writeQ n b).pendingClear = s.pendingClear := by rw [State.writeQ_only]
@[simp] theorem State.writeQ_shadow (s : State) (n : BitVec 2) (b : Bool) : (s.writeQ n b).shadow = s.shadow := by rw [State.writeQ_only]
@[simp] theorem State.writeQ_carries (s : State) (n : BitVec 2) (b : Bool) : (s.writeQ n b).carries = s.carries := by rw [State.writeQ_only]
@[simp] theorem State.writeQ_dies (s : State) (n : BitVec 2) (b : Bool) : (s.writeQ n b).dies = s.dies := by rw [State.writeQ_only]
@[simp] theorem State.writeQ_governorUsed (s : State) (n : BitVec 2) (b : Bool) : (s.writeQ n b).governorUsed = s.governorUsed := by rw [State.writeQ_only]
@[simp] theorem State.writeQ_outbox (s : State) (n : BitVec 2) (b : Bool) : (s.writeQ n b).outbox = s.outbox := by rw [State.writeQ_only]
@[simp] theorem State.writeQ_nextId (s : State) (n : BitVec 2) (b : Bool) : (s.writeQ n b).nextId = s.nextId := by rw [State.writeQ_only]
@[simp] theorem State.writeQ_freeCount (s : State) (n : BitVec 2) (b : Bool) : (s.writeQ n b).freeCount = s.freeCount := by rw [State.writeQ_only]

/-! ## setV -/

theorem State.setV_only (s : State) (r : Nat) (l : List (Nat × Word)) :
    s.setV r l = { s with t := (s.setV r l).t, g := (s.setV r l).g } :=
  rfl

@[simp] theorem State.setV_tick (s : State) (r : Nat) (l : List (Nat × Word)) : (s.setV r l).tick = s.tick := by rw [State.setV_only]
@[simp] theorem State.setV_cycle (s : State) (r : Nat) (l : List (Nat × Word)) : (s.setV r l).cycle = s.cycle := by rw [State.setV_only]
@[simp] theorem State.setV_focused (s : State) (r : Nat) (l : List (Nat × Word)) : (s.setV r l).focused = s.focused := by rw [State.setV_only]
@[simp] theorem State.setV_issuedNow (s : State) (r : Nat) (l : List (Nat × Word)) : (s.setV r l).issuedNow = s.issuedNow := by rw [State.setV_only]
@[simp] theorem State.setV_cycleMarks (s : State) (r : Nat) (l : List (Nat × Word)) : (s.setV r l).cycleMarks = s.cycleMarks := by rw [State.setV_only]
@[simp] theorem State.setV_pipesBusy (s : State) (r : Nat) (l : List (Nat × Word)) : (s.setV r l).pipesBusy = s.pipesBusy := by rw [State.setV_only]
@[simp] theorem State.setV_loopBufs (s : State) (r : Nat) (l : List (Nat × Word)) : (s.setV r l).loopBufs = s.loopBufs := by rw [State.setV_only]
@[simp] theorem State.setV_gangs (s : State) (r : Nat) (l : List (Nat × Word)) : (s.setV r l).gangs = s.gangs := by rw [State.setV_only]
@[simp] theorem State.setV_blocks (s : State) (r : Nat) (l : List (Nat × Word)) : (s.setV r l).blocks = s.blocks := by rw [State.setV_only]
@[simp] theorem State.setV_slots (s : State) (r : Nat) (l : List (Nat × Word)) : (s.setV r l).slots = s.slots := by rw [State.setV_only]
@[simp] theorem State.setV_deque (s : State) (r : Nat) (l : List (Nat × Word)) : (s.setV r l).deque = s.deque := by rw [State.setV_only]
@[simp] theorem State.setV_ops (s : State) (r : Nat) (l : List (Nat × Word)) : (s.setV r l).ops = s.ops := by rw [State.setV_only]
@[simp] theorem State.setV_mops (s : State) (r : Nat) (l : List (Nat × Word)) : (s.setV r l).mops = s.mops := by rw [State.setV_only]
@[simp] theorem State.setV_copies (s : State) (r : Nat) (l : List (Nat × Word)) : (s.setV r l).copies = s.copies := by rw [State.setV_only]
@[simp] theorem State.setV_banks (s : State) (r : Nat) (l : List (Nat × Word)) : (s.setV r l).banks = s.banks := by rw [State.setV_only]
@[simp] theorem State.setV_jobs (s : State) (r : Nat) (l : List (Nat × Word)) : (s.setV r l).jobs = s.jobs := by rw [State.setV_only]
@[simp] theorem State.setV_levels (s : State) (r : Nat) (l : List (Nat × Word)) : (s.setV r l).levels = s.levels := by rw [State.setV_only]
@[simp] theorem State.setV_launches (s : State) (r : Nat) (l : List (Nat × Word)) : (s.setV r l).launches = s.launches := by rw [State.setV_only]
@[simp] theorem State.setV_steals (s : State) (r : Nat) (l : List (Nat × Word)) : (s.setV r l).steals = s.steals := by rw [State.setV_only]
@[simp] theorem State.setV_pfrecs (s : State) (r : Nat) (l : List (Nat × Word)) : (s.setV r l).pfrecs = s.pfrecs := by rw [State.setV_only]
@[simp] theorem State.setV_vdevs (s : State) (r : Nat) (l : List (Nat × Word)) : (s.setV r l).vdevs = s.vdevs := by rw [State.setV_only]
@[simp] theorem State.setV_parts (s : State) (r : Nat) (l : List (Nat × Word)) : (s.setV r l).parts = s.parts := by rw [State.setV_only]
@[simp] theorem State.setV_throttles (s : State) (r : Nat) (l : List (Nat × Word)) : (s.setV r l).throttles = s.throttles := by rw [State.setV_only]
@[simp] theorem State.setV_grants (s : State) (r : Nat) (l : List (Nat × Word)) : (s.setV r l).grants = s.grants := by rw [State.setV_only]
@[simp] theorem State.setV_mem (s : State) (r : Nat) (l : List (Nat × Word)) : (s.setV r l).mem = s.mem := by rw [State.setV_only]
@[simp] theorem State.setV_lineKey (s : State) (r : Nat) (l : List (Nat × Word)) : (s.setV r l).lineKey = s.lineKey := by rw [State.setV_only]
@[simp] theorem State.setV_keyGen (s : State) (r : Nat) (l : List (Nat × Word)) : (s.setV r l).keyGen = s.keyGen := by rw [State.setV_only]
@[simp] theorem State.setV_keyMat (s : State) (r : Nat) (l : List (Nat × Word)) : (s.setV r l).keyMat = s.keyMat := by rw [State.setV_only]
@[simp] theorem State.setV_cached (s : State) (r : Nat) (l : List (Nat × Word)) : (s.setV r l).cached = s.cached := by rw [State.setV_only]
@[simp] theorem State.setV_softErrors (s : State) (r : Nat) (l : List (Nat × Word)) : (s.setV r l).softErrors = s.softErrors := by rw [State.setV_only]
@[simp] theorem State.setV_poison (s : State) (r : Nat) (l : List (Nat × Word)) : (s.setV r l).poison = s.poison := by rw [State.setV_only]
@[simp] theorem State.setV_pendingClear (s : State) (r : Nat) (l : List (Nat × Word)) : (s.setV r l).pendingClear = s.pendingClear := by rw [State.setV_only]
@[simp] theorem State.setV_shadow (s : State) (r : Nat) (l : List (Nat × Word)) : (s.setV r l).shadow = s.shadow := by rw [State.setV_only]
@[simp] theorem State.setV_carries (s : State) (r : Nat) (l : List (Nat × Word)) : (s.setV r l).carries = s.carries := by rw [State.setV_only]
@[simp] theorem State.setV_dies (s : State) (r : Nat) (l : List (Nat × Word)) : (s.setV r l).dies = s.dies := by rw [State.setV_only]
@[simp] theorem State.setV_governorUsed (s : State) (r : Nat) (l : List (Nat × Word)) : (s.setV r l).governorUsed = s.governorUsed := by rw [State.setV_only]
@[simp] theorem State.setV_outbox (s : State) (r : Nat) (l : List (Nat × Word)) : (s.setV r l).outbox = s.outbox := by rw [State.setV_only]
@[simp] theorem State.setV_nextId (s : State) (r : Nat) (l : List (Nat × Word)) : (s.setV r l).nextId = s.nextId := by rw [State.setV_only]
@[simp] theorem State.setV_freeCount (s : State) (r : Nat) (l : List (Nat × Word)) : (s.setV r l).freeCount = s.freeCount := by rw [State.setV_only]

/-! ## writeV -/

theorem State.writeV_only (s : State) (p : Pre) (r : BitVec 7) (l : List (Nat × Word)) :
    s.writeV p r l = { s with t := (s.writeV p r l).t, g := (s.writeV p r l).g } :=
  by unfold State.writeV; split <;> rfl

@[simp] theorem State.writeV_tick (s : State) (p : Pre) (r : BitVec 7) (l : List (Nat × Word)) : (s.writeV p r l).tick = s.tick := by rw [State.writeV_only]
@[simp] theorem State.writeV_cycle (s : State) (p : Pre) (r : BitVec 7) (l : List (Nat × Word)) : (s.writeV p r l).cycle = s.cycle := by rw [State.writeV_only]
@[simp] theorem State.writeV_focused (s : State) (p : Pre) (r : BitVec 7) (l : List (Nat × Word)) : (s.writeV p r l).focused = s.focused := by rw [State.writeV_only]
@[simp] theorem State.writeV_issuedNow (s : State) (p : Pre) (r : BitVec 7) (l : List (Nat × Word)) : (s.writeV p r l).issuedNow = s.issuedNow := by rw [State.writeV_only]
@[simp] theorem State.writeV_cycleMarks (s : State) (p : Pre) (r : BitVec 7) (l : List (Nat × Word)) : (s.writeV p r l).cycleMarks = s.cycleMarks := by rw [State.writeV_only]
@[simp] theorem State.writeV_pipesBusy (s : State) (p : Pre) (r : BitVec 7) (l : List (Nat × Word)) : (s.writeV p r l).pipesBusy = s.pipesBusy := by rw [State.writeV_only]
@[simp] theorem State.writeV_loopBufs (s : State) (p : Pre) (r : BitVec 7) (l : List (Nat × Word)) : (s.writeV p r l).loopBufs = s.loopBufs := by rw [State.writeV_only]
@[simp] theorem State.writeV_gangs (s : State) (p : Pre) (r : BitVec 7) (l : List (Nat × Word)) : (s.writeV p r l).gangs = s.gangs := by rw [State.writeV_only]
@[simp] theorem State.writeV_blocks (s : State) (p : Pre) (r : BitVec 7) (l : List (Nat × Word)) : (s.writeV p r l).blocks = s.blocks := by rw [State.writeV_only]
@[simp] theorem State.writeV_slots (s : State) (p : Pre) (r : BitVec 7) (l : List (Nat × Word)) : (s.writeV p r l).slots = s.slots := by rw [State.writeV_only]
@[simp] theorem State.writeV_deque (s : State) (p : Pre) (r : BitVec 7) (l : List (Nat × Word)) : (s.writeV p r l).deque = s.deque := by rw [State.writeV_only]
@[simp] theorem State.writeV_ops (s : State) (p : Pre) (r : BitVec 7) (l : List (Nat × Word)) : (s.writeV p r l).ops = s.ops := by rw [State.writeV_only]
@[simp] theorem State.writeV_mops (s : State) (p : Pre) (r : BitVec 7) (l : List (Nat × Word)) : (s.writeV p r l).mops = s.mops := by rw [State.writeV_only]
@[simp] theorem State.writeV_copies (s : State) (p : Pre) (r : BitVec 7) (l : List (Nat × Word)) : (s.writeV p r l).copies = s.copies := by rw [State.writeV_only]
@[simp] theorem State.writeV_banks (s : State) (p : Pre) (r : BitVec 7) (l : List (Nat × Word)) : (s.writeV p r l).banks = s.banks := by rw [State.writeV_only]
@[simp] theorem State.writeV_jobs (s : State) (p : Pre) (r : BitVec 7) (l : List (Nat × Word)) : (s.writeV p r l).jobs = s.jobs := by rw [State.writeV_only]
@[simp] theorem State.writeV_levels (s : State) (p : Pre) (r : BitVec 7) (l : List (Nat × Word)) : (s.writeV p r l).levels = s.levels := by rw [State.writeV_only]
@[simp] theorem State.writeV_launches (s : State) (p : Pre) (r : BitVec 7) (l : List (Nat × Word)) : (s.writeV p r l).launches = s.launches := by rw [State.writeV_only]
@[simp] theorem State.writeV_steals (s : State) (p : Pre) (r : BitVec 7) (l : List (Nat × Word)) : (s.writeV p r l).steals = s.steals := by rw [State.writeV_only]
@[simp] theorem State.writeV_pfrecs (s : State) (p : Pre) (r : BitVec 7) (l : List (Nat × Word)) : (s.writeV p r l).pfrecs = s.pfrecs := by rw [State.writeV_only]
@[simp] theorem State.writeV_vdevs (s : State) (p : Pre) (r : BitVec 7) (l : List (Nat × Word)) : (s.writeV p r l).vdevs = s.vdevs := by rw [State.writeV_only]
@[simp] theorem State.writeV_parts (s : State) (p : Pre) (r : BitVec 7) (l : List (Nat × Word)) : (s.writeV p r l).parts = s.parts := by rw [State.writeV_only]
@[simp] theorem State.writeV_throttles (s : State) (p : Pre) (r : BitVec 7) (l : List (Nat × Word)) : (s.writeV p r l).throttles = s.throttles := by rw [State.writeV_only]
@[simp] theorem State.writeV_grants (s : State) (p : Pre) (r : BitVec 7) (l : List (Nat × Word)) : (s.writeV p r l).grants = s.grants := by rw [State.writeV_only]
@[simp] theorem State.writeV_mem (s : State) (p : Pre) (r : BitVec 7) (l : List (Nat × Word)) : (s.writeV p r l).mem = s.mem := by rw [State.writeV_only]
@[simp] theorem State.writeV_lineKey (s : State) (p : Pre) (r : BitVec 7) (l : List (Nat × Word)) : (s.writeV p r l).lineKey = s.lineKey := by rw [State.writeV_only]
@[simp] theorem State.writeV_keyGen (s : State) (p : Pre) (r : BitVec 7) (l : List (Nat × Word)) : (s.writeV p r l).keyGen = s.keyGen := by rw [State.writeV_only]
@[simp] theorem State.writeV_keyMat (s : State) (p : Pre) (r : BitVec 7) (l : List (Nat × Word)) : (s.writeV p r l).keyMat = s.keyMat := by rw [State.writeV_only]
@[simp] theorem State.writeV_cached (s : State) (p : Pre) (r : BitVec 7) (l : List (Nat × Word)) : (s.writeV p r l).cached = s.cached := by rw [State.writeV_only]
@[simp] theorem State.writeV_softErrors (s : State) (p : Pre) (r : BitVec 7) (l : List (Nat × Word)) : (s.writeV p r l).softErrors = s.softErrors := by rw [State.writeV_only]
@[simp] theorem State.writeV_poison (s : State) (p : Pre) (r : BitVec 7) (l : List (Nat × Word)) : (s.writeV p r l).poison = s.poison := by rw [State.writeV_only]
@[simp] theorem State.writeV_pendingClear (s : State) (p : Pre) (r : BitVec 7) (l : List (Nat × Word)) : (s.writeV p r l).pendingClear = s.pendingClear := by rw [State.writeV_only]
@[simp] theorem State.writeV_shadow (s : State) (p : Pre) (r : BitVec 7) (l : List (Nat × Word)) : (s.writeV p r l).shadow = s.shadow := by rw [State.writeV_only]
@[simp] theorem State.writeV_carries (s : State) (p : Pre) (r : BitVec 7) (l : List (Nat × Word)) : (s.writeV p r l).carries = s.carries := by rw [State.writeV_only]
@[simp] theorem State.writeV_dies (s : State) (p : Pre) (r : BitVec 7) (l : List (Nat × Word)) : (s.writeV p r l).dies = s.dies := by rw [State.writeV_only]
@[simp] theorem State.writeV_governorUsed (s : State) (p : Pre) (r : BitVec 7) (l : List (Nat × Word)) : (s.writeV p r l).governorUsed = s.governorUsed := by rw [State.writeV_only]
@[simp] theorem State.writeV_outbox (s : State) (p : Pre) (r : BitVec 7) (l : List (Nat × Word)) : (s.writeV p r l).outbox = s.outbox := by rw [State.writeV_only]
@[simp] theorem State.writeV_nextId (s : State) (p : Pre) (r : BitVec 7) (l : List (Nat × Word)) : (s.writeV p r l).nextId = s.nextId := by rw [State.writeV_only]
@[simp] theorem State.writeV_freeCount (s : State) (p : Pre) (r : BitVec 7) (l : List (Nat × Word)) : (s.writeV p r l).freeCount = s.freeCount := by rw [State.writeV_only]

/-! ## mapV -/

theorem State.mapV_only (s : State) (p : Pre) (r : BitVec 7) (f : Nat → Word) :
    s.mapV p r f = { s with t := (s.mapV p r f).t, g := (s.mapV p r f).g } :=
  State.writeV_only s p r _

@[simp] theorem State.mapV_tick (s : State) (p : Pre) (r : BitVec 7) (f : Nat → Word) : (s.mapV p r f).tick = s.tick := by rw [State.mapV_only]
@[simp] theorem State.mapV_cycle (s : State) (p : Pre) (r : BitVec 7) (f : Nat → Word) : (s.mapV p r f).cycle = s.cycle := by rw [State.mapV_only]
@[simp] theorem State.mapV_focused (s : State) (p : Pre) (r : BitVec 7) (f : Nat → Word) : (s.mapV p r f).focused = s.focused := by rw [State.mapV_only]
@[simp] theorem State.mapV_issuedNow (s : State) (p : Pre) (r : BitVec 7) (f : Nat → Word) : (s.mapV p r f).issuedNow = s.issuedNow := by rw [State.mapV_only]
@[simp] theorem State.mapV_cycleMarks (s : State) (p : Pre) (r : BitVec 7) (f : Nat → Word) : (s.mapV p r f).cycleMarks = s.cycleMarks := by rw [State.mapV_only]
@[simp] theorem State.mapV_pipesBusy (s : State) (p : Pre) (r : BitVec 7) (f : Nat → Word) : (s.mapV p r f).pipesBusy = s.pipesBusy := by rw [State.mapV_only]
@[simp] theorem State.mapV_loopBufs (s : State) (p : Pre) (r : BitVec 7) (f : Nat → Word) : (s.mapV p r f).loopBufs = s.loopBufs := by rw [State.mapV_only]
@[simp] theorem State.mapV_gangs (s : State) (p : Pre) (r : BitVec 7) (f : Nat → Word) : (s.mapV p r f).gangs = s.gangs := by rw [State.mapV_only]
@[simp] theorem State.mapV_blocks (s : State) (p : Pre) (r : BitVec 7) (f : Nat → Word) : (s.mapV p r f).blocks = s.blocks := by rw [State.mapV_only]
@[simp] theorem State.mapV_slots (s : State) (p : Pre) (r : BitVec 7) (f : Nat → Word) : (s.mapV p r f).slots = s.slots := by rw [State.mapV_only]
@[simp] theorem State.mapV_deque (s : State) (p : Pre) (r : BitVec 7) (f : Nat → Word) : (s.mapV p r f).deque = s.deque := by rw [State.mapV_only]
@[simp] theorem State.mapV_ops (s : State) (p : Pre) (r : BitVec 7) (f : Nat → Word) : (s.mapV p r f).ops = s.ops := by rw [State.mapV_only]
@[simp] theorem State.mapV_mops (s : State) (p : Pre) (r : BitVec 7) (f : Nat → Word) : (s.mapV p r f).mops = s.mops := by rw [State.mapV_only]
@[simp] theorem State.mapV_copies (s : State) (p : Pre) (r : BitVec 7) (f : Nat → Word) : (s.mapV p r f).copies = s.copies := by rw [State.mapV_only]
@[simp] theorem State.mapV_banks (s : State) (p : Pre) (r : BitVec 7) (f : Nat → Word) : (s.mapV p r f).banks = s.banks := by rw [State.mapV_only]
@[simp] theorem State.mapV_jobs (s : State) (p : Pre) (r : BitVec 7) (f : Nat → Word) : (s.mapV p r f).jobs = s.jobs := by rw [State.mapV_only]
@[simp] theorem State.mapV_levels (s : State) (p : Pre) (r : BitVec 7) (f : Nat → Word) : (s.mapV p r f).levels = s.levels := by rw [State.mapV_only]
@[simp] theorem State.mapV_launches (s : State) (p : Pre) (r : BitVec 7) (f : Nat → Word) : (s.mapV p r f).launches = s.launches := by rw [State.mapV_only]
@[simp] theorem State.mapV_steals (s : State) (p : Pre) (r : BitVec 7) (f : Nat → Word) : (s.mapV p r f).steals = s.steals := by rw [State.mapV_only]
@[simp] theorem State.mapV_pfrecs (s : State) (p : Pre) (r : BitVec 7) (f : Nat → Word) : (s.mapV p r f).pfrecs = s.pfrecs := by rw [State.mapV_only]
@[simp] theorem State.mapV_vdevs (s : State) (p : Pre) (r : BitVec 7) (f : Nat → Word) : (s.mapV p r f).vdevs = s.vdevs := by rw [State.mapV_only]
@[simp] theorem State.mapV_parts (s : State) (p : Pre) (r : BitVec 7) (f : Nat → Word) : (s.mapV p r f).parts = s.parts := by rw [State.mapV_only]
@[simp] theorem State.mapV_throttles (s : State) (p : Pre) (r : BitVec 7) (f : Nat → Word) : (s.mapV p r f).throttles = s.throttles := by rw [State.mapV_only]
@[simp] theorem State.mapV_grants (s : State) (p : Pre) (r : BitVec 7) (f : Nat → Word) : (s.mapV p r f).grants = s.grants := by rw [State.mapV_only]
@[simp] theorem State.mapV_mem (s : State) (p : Pre) (r : BitVec 7) (f : Nat → Word) : (s.mapV p r f).mem = s.mem := by rw [State.mapV_only]
@[simp] theorem State.mapV_lineKey (s : State) (p : Pre) (r : BitVec 7) (f : Nat → Word) : (s.mapV p r f).lineKey = s.lineKey := by rw [State.mapV_only]
@[simp] theorem State.mapV_keyGen (s : State) (p : Pre) (r : BitVec 7) (f : Nat → Word) : (s.mapV p r f).keyGen = s.keyGen := by rw [State.mapV_only]
@[simp] theorem State.mapV_keyMat (s : State) (p : Pre) (r : BitVec 7) (f : Nat → Word) : (s.mapV p r f).keyMat = s.keyMat := by rw [State.mapV_only]
@[simp] theorem State.mapV_cached (s : State) (p : Pre) (r : BitVec 7) (f : Nat → Word) : (s.mapV p r f).cached = s.cached := by rw [State.mapV_only]
@[simp] theorem State.mapV_softErrors (s : State) (p : Pre) (r : BitVec 7) (f : Nat → Word) : (s.mapV p r f).softErrors = s.softErrors := by rw [State.mapV_only]
@[simp] theorem State.mapV_poison (s : State) (p : Pre) (r : BitVec 7) (f : Nat → Word) : (s.mapV p r f).poison = s.poison := by rw [State.mapV_only]
@[simp] theorem State.mapV_pendingClear (s : State) (p : Pre) (r : BitVec 7) (f : Nat → Word) : (s.mapV p r f).pendingClear = s.pendingClear := by rw [State.mapV_only]
@[simp] theorem State.mapV_shadow (s : State) (p : Pre) (r : BitVec 7) (f : Nat → Word) : (s.mapV p r f).shadow = s.shadow := by rw [State.mapV_only]
@[simp] theorem State.mapV_carries (s : State) (p : Pre) (r : BitVec 7) (f : Nat → Word) : (s.mapV p r f).carries = s.carries := by rw [State.mapV_only]
@[simp] theorem State.mapV_dies (s : State) (p : Pre) (r : BitVec 7) (f : Nat → Word) : (s.mapV p r f).dies = s.dies := by rw [State.mapV_only]
@[simp] theorem State.mapV_governorUsed (s : State) (p : Pre) (r : BitVec 7) (f : Nat → Word) : (s.mapV p r f).governorUsed = s.governorUsed := by rw [State.mapV_only]
@[simp] theorem State.mapV_outbox (s : State) (p : Pre) (r : BitVec 7) (f : Nat → Word) : (s.mapV p r f).outbox = s.outbox := by rw [State.mapV_only]
@[simp] theorem State.mapV_nextId (s : State) (p : Pre) (r : BitVec 7) (f : Nat → Word) : (s.mapV p r f).nextId = s.nextId := by rw [State.mapV_only]
@[simp] theorem State.mapV_freeCount (s : State) (p : Pre) (r : BitVec 7) (f : Nat → Word) : (s.mapV p r f).freeCount = s.freeCount := by rw [State.mapV_only]

/-! ## writeP -/

theorem State.writeP_only (s : State) (n : Nat) (v : Mask) :
    s.writeP n v = { s with t := (s.writeP n v).t, g := (s.writeP n v).g } :=
  rfl

@[simp] theorem State.writeP_tick (s : State) (n : Nat) (v : Mask) : (s.writeP n v).tick = s.tick := by rw [State.writeP_only]
@[simp] theorem State.writeP_cycle (s : State) (n : Nat) (v : Mask) : (s.writeP n v).cycle = s.cycle := by rw [State.writeP_only]
@[simp] theorem State.writeP_focused (s : State) (n : Nat) (v : Mask) : (s.writeP n v).focused = s.focused := by rw [State.writeP_only]
@[simp] theorem State.writeP_issuedNow (s : State) (n : Nat) (v : Mask) : (s.writeP n v).issuedNow = s.issuedNow := by rw [State.writeP_only]
@[simp] theorem State.writeP_cycleMarks (s : State) (n : Nat) (v : Mask) : (s.writeP n v).cycleMarks = s.cycleMarks := by rw [State.writeP_only]
@[simp] theorem State.writeP_pipesBusy (s : State) (n : Nat) (v : Mask) : (s.writeP n v).pipesBusy = s.pipesBusy := by rw [State.writeP_only]
@[simp] theorem State.writeP_loopBufs (s : State) (n : Nat) (v : Mask) : (s.writeP n v).loopBufs = s.loopBufs := by rw [State.writeP_only]
@[simp] theorem State.writeP_gangs (s : State) (n : Nat) (v : Mask) : (s.writeP n v).gangs = s.gangs := by rw [State.writeP_only]
@[simp] theorem State.writeP_blocks (s : State) (n : Nat) (v : Mask) : (s.writeP n v).blocks = s.blocks := by rw [State.writeP_only]
@[simp] theorem State.writeP_slots (s : State) (n : Nat) (v : Mask) : (s.writeP n v).slots = s.slots := by rw [State.writeP_only]
@[simp] theorem State.writeP_deque (s : State) (n : Nat) (v : Mask) : (s.writeP n v).deque = s.deque := by rw [State.writeP_only]
@[simp] theorem State.writeP_ops (s : State) (n : Nat) (v : Mask) : (s.writeP n v).ops = s.ops := by rw [State.writeP_only]
@[simp] theorem State.writeP_mops (s : State) (n : Nat) (v : Mask) : (s.writeP n v).mops = s.mops := by rw [State.writeP_only]
@[simp] theorem State.writeP_copies (s : State) (n : Nat) (v : Mask) : (s.writeP n v).copies = s.copies := by rw [State.writeP_only]
@[simp] theorem State.writeP_banks (s : State) (n : Nat) (v : Mask) : (s.writeP n v).banks = s.banks := by rw [State.writeP_only]
@[simp] theorem State.writeP_jobs (s : State) (n : Nat) (v : Mask) : (s.writeP n v).jobs = s.jobs := by rw [State.writeP_only]
@[simp] theorem State.writeP_levels (s : State) (n : Nat) (v : Mask) : (s.writeP n v).levels = s.levels := by rw [State.writeP_only]
@[simp] theorem State.writeP_launches (s : State) (n : Nat) (v : Mask) : (s.writeP n v).launches = s.launches := by rw [State.writeP_only]
@[simp] theorem State.writeP_steals (s : State) (n : Nat) (v : Mask) : (s.writeP n v).steals = s.steals := by rw [State.writeP_only]
@[simp] theorem State.writeP_pfrecs (s : State) (n : Nat) (v : Mask) : (s.writeP n v).pfrecs = s.pfrecs := by rw [State.writeP_only]
@[simp] theorem State.writeP_vdevs (s : State) (n : Nat) (v : Mask) : (s.writeP n v).vdevs = s.vdevs := by rw [State.writeP_only]
@[simp] theorem State.writeP_parts (s : State) (n : Nat) (v : Mask) : (s.writeP n v).parts = s.parts := by rw [State.writeP_only]
@[simp] theorem State.writeP_throttles (s : State) (n : Nat) (v : Mask) : (s.writeP n v).throttles = s.throttles := by rw [State.writeP_only]
@[simp] theorem State.writeP_grants (s : State) (n : Nat) (v : Mask) : (s.writeP n v).grants = s.grants := by rw [State.writeP_only]
@[simp] theorem State.writeP_mem (s : State) (n : Nat) (v : Mask) : (s.writeP n v).mem = s.mem := by rw [State.writeP_only]
@[simp] theorem State.writeP_lineKey (s : State) (n : Nat) (v : Mask) : (s.writeP n v).lineKey = s.lineKey := by rw [State.writeP_only]
@[simp] theorem State.writeP_keyGen (s : State) (n : Nat) (v : Mask) : (s.writeP n v).keyGen = s.keyGen := by rw [State.writeP_only]
@[simp] theorem State.writeP_keyMat (s : State) (n : Nat) (v : Mask) : (s.writeP n v).keyMat = s.keyMat := by rw [State.writeP_only]
@[simp] theorem State.writeP_cached (s : State) (n : Nat) (v : Mask) : (s.writeP n v).cached = s.cached := by rw [State.writeP_only]
@[simp] theorem State.writeP_softErrors (s : State) (n : Nat) (v : Mask) : (s.writeP n v).softErrors = s.softErrors := by rw [State.writeP_only]
@[simp] theorem State.writeP_poison (s : State) (n : Nat) (v : Mask) : (s.writeP n v).poison = s.poison := by rw [State.writeP_only]
@[simp] theorem State.writeP_pendingClear (s : State) (n : Nat) (v : Mask) : (s.writeP n v).pendingClear = s.pendingClear := by rw [State.writeP_only]
@[simp] theorem State.writeP_shadow (s : State) (n : Nat) (v : Mask) : (s.writeP n v).shadow = s.shadow := by rw [State.writeP_only]
@[simp] theorem State.writeP_carries (s : State) (n : Nat) (v : Mask) : (s.writeP n v).carries = s.carries := by rw [State.writeP_only]
@[simp] theorem State.writeP_dies (s : State) (n : Nat) (v : Mask) : (s.writeP n v).dies = s.dies := by rw [State.writeP_only]
@[simp] theorem State.writeP_governorUsed (s : State) (n : Nat) (v : Mask) : (s.writeP n v).governorUsed = s.governorUsed := by rw [State.writeP_only]
@[simp] theorem State.writeP_outbox (s : State) (n : Nat) (v : Mask) : (s.writeP n v).outbox = s.outbox := by rw [State.writeP_only]
@[simp] theorem State.writeP_nextId (s : State) (n : Nat) (v : Mask) : (s.writeP n v).nextId = s.nextId := by rw [State.writeP_only]
@[simp] theorem State.writeP_freeCount (s : State) (n : Nat) (v : Mask) : (s.writeP n v).freeCount = s.freeCount := by rw [State.writeP_only]

/-! ## released -/

theorem State.released_only (s : State) :
    s.released = { s with g := (s.released).g } :=
  rfl

@[simp] theorem State.released_tick (s : State) : (s.released).tick = s.tick := by rw [State.released_only]
@[simp] theorem State.released_cycle (s : State) : (s.released).cycle = s.cycle := by rw [State.released_only]
@[simp] theorem State.released_focused (s : State) : (s.released).focused = s.focused := by rw [State.released_only]
@[simp] theorem State.released_issuedNow (s : State) : (s.released).issuedNow = s.issuedNow := by rw [State.released_only]
@[simp] theorem State.released_cycleMarks (s : State) : (s.released).cycleMarks = s.cycleMarks := by rw [State.released_only]
@[simp] theorem State.released_pipesBusy (s : State) : (s.released).pipesBusy = s.pipesBusy := by rw [State.released_only]
@[simp] theorem State.released_loopBufs (s : State) : (s.released).loopBufs = s.loopBufs := by rw [State.released_only]
@[simp] theorem State.released_t (s : State) : (s.released).t = s.t := by rw [State.released_only]
@[simp] theorem State.released_gangs (s : State) : (s.released).gangs = s.gangs := by rw [State.released_only]
@[simp] theorem State.released_blocks (s : State) : (s.released).blocks = s.blocks := by rw [State.released_only]
@[simp] theorem State.released_slots (s : State) : (s.released).slots = s.slots := by rw [State.released_only]
@[simp] theorem State.released_deque (s : State) : (s.released).deque = s.deque := by rw [State.released_only]
@[simp] theorem State.released_ops (s : State) : (s.released).ops = s.ops := by rw [State.released_only]
@[simp] theorem State.released_mops (s : State) : (s.released).mops = s.mops := by rw [State.released_only]
@[simp] theorem State.released_copies (s : State) : (s.released).copies = s.copies := by rw [State.released_only]
@[simp] theorem State.released_banks (s : State) : (s.released).banks = s.banks := by rw [State.released_only]
@[simp] theorem State.released_jobs (s : State) : (s.released).jobs = s.jobs := by rw [State.released_only]
@[simp] theorem State.released_levels (s : State) : (s.released).levels = s.levels := by rw [State.released_only]
@[simp] theorem State.released_launches (s : State) : (s.released).launches = s.launches := by rw [State.released_only]
@[simp] theorem State.released_steals (s : State) : (s.released).steals = s.steals := by rw [State.released_only]
@[simp] theorem State.released_pfrecs (s : State) : (s.released).pfrecs = s.pfrecs := by rw [State.released_only]
@[simp] theorem State.released_vdevs (s : State) : (s.released).vdevs = s.vdevs := by rw [State.released_only]
@[simp] theorem State.released_parts (s : State) : (s.released).parts = s.parts := by rw [State.released_only]
@[simp] theorem State.released_throttles (s : State) : (s.released).throttles = s.throttles := by rw [State.released_only]
@[simp] theorem State.released_grants (s : State) : (s.released).grants = s.grants := by rw [State.released_only]
@[simp] theorem State.released_mem (s : State) : (s.released).mem = s.mem := by rw [State.released_only]
@[simp] theorem State.released_lineKey (s : State) : (s.released).lineKey = s.lineKey := by rw [State.released_only]
@[simp] theorem State.released_keyGen (s : State) : (s.released).keyGen = s.keyGen := by rw [State.released_only]
@[simp] theorem State.released_keyMat (s : State) : (s.released).keyMat = s.keyMat := by rw [State.released_only]
@[simp] theorem State.released_cached (s : State) : (s.released).cached = s.cached := by rw [State.released_only]
@[simp] theorem State.released_softErrors (s : State) : (s.released).softErrors = s.softErrors := by rw [State.released_only]
@[simp] theorem State.released_poison (s : State) : (s.released).poison = s.poison := by rw [State.released_only]
@[simp] theorem State.released_pendingClear (s : State) : (s.released).pendingClear = s.pendingClear := by rw [State.released_only]
@[simp] theorem State.released_shadow (s : State) : (s.released).shadow = s.shadow := by rw [State.released_only]
@[simp] theorem State.released_carries (s : State) : (s.released).carries = s.carries := by rw [State.released_only]
@[simp] theorem State.released_dies (s : State) : (s.released).dies = s.dies := by rw [State.released_only]
@[simp] theorem State.released_governorUsed (s : State) : (s.released).governorUsed = s.governorUsed := by rw [State.released_only]
@[simp] theorem State.released_outbox (s : State) : (s.released).outbox = s.outbox := by rw [State.released_only]
@[simp] theorem State.released_nextId (s : State) : (s.released).nextId = s.nextId := by rw [State.released_only]
@[simp] theorem State.released_freeCount (s : State) : (s.released).freeCount = s.freeCount := by rw [State.released_only]

/-! ## acquired -/

theorem State.acquired_only (s : State) (j : Option Nat) :
    s.acquired j = { s with g := (s.acquired j).g } :=
  by cases j <;> rfl

@[simp] theorem State.acquired_tick (s : State) (j : Option Nat) : (s.acquired j).tick = s.tick := by rw [State.acquired_only]
@[simp] theorem State.acquired_cycle (s : State) (j : Option Nat) : (s.acquired j).cycle = s.cycle := by rw [State.acquired_only]
@[simp] theorem State.acquired_focused (s : State) (j : Option Nat) : (s.acquired j).focused = s.focused := by rw [State.acquired_only]
@[simp] theorem State.acquired_issuedNow (s : State) (j : Option Nat) : (s.acquired j).issuedNow = s.issuedNow := by rw [State.acquired_only]
@[simp] theorem State.acquired_cycleMarks (s : State) (j : Option Nat) : (s.acquired j).cycleMarks = s.cycleMarks := by rw [State.acquired_only]
@[simp] theorem State.acquired_pipesBusy (s : State) (j : Option Nat) : (s.acquired j).pipesBusy = s.pipesBusy := by rw [State.acquired_only]
@[simp] theorem State.acquired_loopBufs (s : State) (j : Option Nat) : (s.acquired j).loopBufs = s.loopBufs := by rw [State.acquired_only]
@[simp] theorem State.acquired_t (s : State) (j : Option Nat) : (s.acquired j).t = s.t := by rw [State.acquired_only]
@[simp] theorem State.acquired_gangs (s : State) (j : Option Nat) : (s.acquired j).gangs = s.gangs := by rw [State.acquired_only]
@[simp] theorem State.acquired_blocks (s : State) (j : Option Nat) : (s.acquired j).blocks = s.blocks := by rw [State.acquired_only]
@[simp] theorem State.acquired_slots (s : State) (j : Option Nat) : (s.acquired j).slots = s.slots := by rw [State.acquired_only]
@[simp] theorem State.acquired_deque (s : State) (j : Option Nat) : (s.acquired j).deque = s.deque := by rw [State.acquired_only]
@[simp] theorem State.acquired_ops (s : State) (j : Option Nat) : (s.acquired j).ops = s.ops := by rw [State.acquired_only]
@[simp] theorem State.acquired_mops (s : State) (j : Option Nat) : (s.acquired j).mops = s.mops := by rw [State.acquired_only]
@[simp] theorem State.acquired_copies (s : State) (j : Option Nat) : (s.acquired j).copies = s.copies := by rw [State.acquired_only]
@[simp] theorem State.acquired_banks (s : State) (j : Option Nat) : (s.acquired j).banks = s.banks := by rw [State.acquired_only]
@[simp] theorem State.acquired_jobs (s : State) (j : Option Nat) : (s.acquired j).jobs = s.jobs := by rw [State.acquired_only]
@[simp] theorem State.acquired_levels (s : State) (j : Option Nat) : (s.acquired j).levels = s.levels := by rw [State.acquired_only]
@[simp] theorem State.acquired_launches (s : State) (j : Option Nat) : (s.acquired j).launches = s.launches := by rw [State.acquired_only]
@[simp] theorem State.acquired_steals (s : State) (j : Option Nat) : (s.acquired j).steals = s.steals := by rw [State.acquired_only]
@[simp] theorem State.acquired_pfrecs (s : State) (j : Option Nat) : (s.acquired j).pfrecs = s.pfrecs := by rw [State.acquired_only]
@[simp] theorem State.acquired_vdevs (s : State) (j : Option Nat) : (s.acquired j).vdevs = s.vdevs := by rw [State.acquired_only]
@[simp] theorem State.acquired_parts (s : State) (j : Option Nat) : (s.acquired j).parts = s.parts := by rw [State.acquired_only]
@[simp] theorem State.acquired_throttles (s : State) (j : Option Nat) : (s.acquired j).throttles = s.throttles := by rw [State.acquired_only]
@[simp] theorem State.acquired_grants (s : State) (j : Option Nat) : (s.acquired j).grants = s.grants := by rw [State.acquired_only]
@[simp] theorem State.acquired_mem (s : State) (j : Option Nat) : (s.acquired j).mem = s.mem := by rw [State.acquired_only]
@[simp] theorem State.acquired_lineKey (s : State) (j : Option Nat) : (s.acquired j).lineKey = s.lineKey := by rw [State.acquired_only]
@[simp] theorem State.acquired_keyGen (s : State) (j : Option Nat) : (s.acquired j).keyGen = s.keyGen := by rw [State.acquired_only]
@[simp] theorem State.acquired_keyMat (s : State) (j : Option Nat) : (s.acquired j).keyMat = s.keyMat := by rw [State.acquired_only]
@[simp] theorem State.acquired_cached (s : State) (j : Option Nat) : (s.acquired j).cached = s.cached := by rw [State.acquired_only]
@[simp] theorem State.acquired_softErrors (s : State) (j : Option Nat) : (s.acquired j).softErrors = s.softErrors := by rw [State.acquired_only]
@[simp] theorem State.acquired_poison (s : State) (j : Option Nat) : (s.acquired j).poison = s.poison := by rw [State.acquired_only]
@[simp] theorem State.acquired_pendingClear (s : State) (j : Option Nat) : (s.acquired j).pendingClear = s.pendingClear := by rw [State.acquired_only]
@[simp] theorem State.acquired_shadow (s : State) (j : Option Nat) : (s.acquired j).shadow = s.shadow := by rw [State.acquired_only]
@[simp] theorem State.acquired_carries (s : State) (j : Option Nat) : (s.acquired j).carries = s.carries := by rw [State.acquired_only]
@[simp] theorem State.acquired_dies (s : State) (j : Option Nat) : (s.acquired j).dies = s.dies := by rw [State.acquired_only]
@[simp] theorem State.acquired_governorUsed (s : State) (j : Option Nat) : (s.acquired j).governorUsed = s.governorUsed := by rw [State.acquired_only]
@[simp] theorem State.acquired_outbox (s : State) (j : Option Nat) : (s.acquired j).outbox = s.outbox := by rw [State.acquired_only]
@[simp] theorem State.acquired_nextId (s : State) (j : Option Nat) : (s.acquired j).nextId = s.nextId := by rw [State.acquired_only]
@[simp] theorem State.acquired_freeCount (s : State) (j : Option Nat) : (s.acquired j).freeCount = s.freeCount := by rw [State.acquired_only]

/-! ## recordIssue -/

theorem State.recordIssue_only (s : State) :
    s.recordIssue = { s with t := (s.recordIssue).t, nextId := (s.recordIssue).nextId } :=
  rfl

@[simp] theorem State.recordIssue_tick (s : State) : (s.recordIssue).tick = s.tick := by rw [State.recordIssue_only]
@[simp] theorem State.recordIssue_cycle (s : State) : (s.recordIssue).cycle = s.cycle := by rw [State.recordIssue_only]
@[simp] theorem State.recordIssue_focused (s : State) : (s.recordIssue).focused = s.focused := by rw [State.recordIssue_only]
@[simp] theorem State.recordIssue_issuedNow (s : State) : (s.recordIssue).issuedNow = s.issuedNow := by rw [State.recordIssue_only]
@[simp] theorem State.recordIssue_cycleMarks (s : State) : (s.recordIssue).cycleMarks = s.cycleMarks := by rw [State.recordIssue_only]
@[simp] theorem State.recordIssue_pipesBusy (s : State) : (s.recordIssue).pipesBusy = s.pipesBusy := by rw [State.recordIssue_only]
@[simp] theorem State.recordIssue_loopBufs (s : State) : (s.recordIssue).loopBufs = s.loopBufs := by rw [State.recordIssue_only]
@[simp] theorem State.recordIssue_g (s : State) : (s.recordIssue).g = s.g := by rw [State.recordIssue_only]
@[simp] theorem State.recordIssue_gangs (s : State) : (s.recordIssue).gangs = s.gangs := by rw [State.recordIssue_only]
@[simp] theorem State.recordIssue_blocks (s : State) : (s.recordIssue).blocks = s.blocks := by rw [State.recordIssue_only]
@[simp] theorem State.recordIssue_slots (s : State) : (s.recordIssue).slots = s.slots := by rw [State.recordIssue_only]
@[simp] theorem State.recordIssue_deque (s : State) : (s.recordIssue).deque = s.deque := by rw [State.recordIssue_only]
@[simp] theorem State.recordIssue_ops (s : State) : (s.recordIssue).ops = s.ops := by rw [State.recordIssue_only]
@[simp] theorem State.recordIssue_mops (s : State) : (s.recordIssue).mops = s.mops := by rw [State.recordIssue_only]
@[simp] theorem State.recordIssue_copies (s : State) : (s.recordIssue).copies = s.copies := by rw [State.recordIssue_only]
@[simp] theorem State.recordIssue_banks (s : State) : (s.recordIssue).banks = s.banks := by rw [State.recordIssue_only]
@[simp] theorem State.recordIssue_jobs (s : State) : (s.recordIssue).jobs = s.jobs := by rw [State.recordIssue_only]
@[simp] theorem State.recordIssue_levels (s : State) : (s.recordIssue).levels = s.levels := by rw [State.recordIssue_only]
@[simp] theorem State.recordIssue_launches (s : State) : (s.recordIssue).launches = s.launches := by rw [State.recordIssue_only]
@[simp] theorem State.recordIssue_steals (s : State) : (s.recordIssue).steals = s.steals := by rw [State.recordIssue_only]
@[simp] theorem State.recordIssue_pfrecs (s : State) : (s.recordIssue).pfrecs = s.pfrecs := by rw [State.recordIssue_only]
@[simp] theorem State.recordIssue_vdevs (s : State) : (s.recordIssue).vdevs = s.vdevs := by rw [State.recordIssue_only]
@[simp] theorem State.recordIssue_parts (s : State) : (s.recordIssue).parts = s.parts := by rw [State.recordIssue_only]
@[simp] theorem State.recordIssue_throttles (s : State) : (s.recordIssue).throttles = s.throttles := by rw [State.recordIssue_only]
@[simp] theorem State.recordIssue_grants (s : State) : (s.recordIssue).grants = s.grants := by rw [State.recordIssue_only]
@[simp] theorem State.recordIssue_mem (s : State) : (s.recordIssue).mem = s.mem := by rw [State.recordIssue_only]
@[simp] theorem State.recordIssue_lineKey (s : State) : (s.recordIssue).lineKey = s.lineKey := by rw [State.recordIssue_only]
@[simp] theorem State.recordIssue_keyGen (s : State) : (s.recordIssue).keyGen = s.keyGen := by rw [State.recordIssue_only]
@[simp] theorem State.recordIssue_keyMat (s : State) : (s.recordIssue).keyMat = s.keyMat := by rw [State.recordIssue_only]
@[simp] theorem State.recordIssue_cached (s : State) : (s.recordIssue).cached = s.cached := by rw [State.recordIssue_only]
@[simp] theorem State.recordIssue_softErrors (s : State) : (s.recordIssue).softErrors = s.softErrors := by rw [State.recordIssue_only]
@[simp] theorem State.recordIssue_poison (s : State) : (s.recordIssue).poison = s.poison := by rw [State.recordIssue_only]
@[simp] theorem State.recordIssue_pendingClear (s : State) : (s.recordIssue).pendingClear = s.pendingClear := by rw [State.recordIssue_only]
@[simp] theorem State.recordIssue_shadow (s : State) : (s.recordIssue).shadow = s.shadow := by rw [State.recordIssue_only]
@[simp] theorem State.recordIssue_carries (s : State) : (s.recordIssue).carries = s.carries := by rw [State.recordIssue_only]
@[simp] theorem State.recordIssue_dies (s : State) : (s.recordIssue).dies = s.dies := by rw [State.recordIssue_only]
@[simp] theorem State.recordIssue_governorUsed (s : State) : (s.recordIssue).governorUsed = s.governorUsed := by rw [State.recordIssue_only]
@[simp] theorem State.recordIssue_outbox (s : State) : (s.recordIssue).outbox = s.outbox := by rw [State.recordIssue_only]
@[simp] theorem State.recordIssue_freeCount (s : State) : (s.recordIssue).freeCount = s.freeCount := by rw [State.recordIssue_only]

/-! ## addOp -/

theorem State.addOp_only (s : State) (k : OpKind) (fs : Option Bool) (acq : Option Nat) (rel : List Carry) :
    s.addOp k fs acq rel = { s with t := (s.addOp k fs acq rel).t, nextId := (s.addOp k fs acq rel).nextId, ops := (s.addOp k fs acq rel).ops } :=
  rfl

@[simp] theorem State.addOp_tick (s : State) (k : OpKind) (fs : Option Bool) (acq : Option Nat) (rel : List Carry) : (s.addOp k fs acq rel).tick = s.tick := by rw [State.addOp_only]
@[simp] theorem State.addOp_cycle (s : State) (k : OpKind) (fs : Option Bool) (acq : Option Nat) (rel : List Carry) : (s.addOp k fs acq rel).cycle = s.cycle := by rw [State.addOp_only]
@[simp] theorem State.addOp_focused (s : State) (k : OpKind) (fs : Option Bool) (acq : Option Nat) (rel : List Carry) : (s.addOp k fs acq rel).focused = s.focused := by rw [State.addOp_only]
@[simp] theorem State.addOp_issuedNow (s : State) (k : OpKind) (fs : Option Bool) (acq : Option Nat) (rel : List Carry) : (s.addOp k fs acq rel).issuedNow = s.issuedNow := by rw [State.addOp_only]
@[simp] theorem State.addOp_cycleMarks (s : State) (k : OpKind) (fs : Option Bool) (acq : Option Nat) (rel : List Carry) : (s.addOp k fs acq rel).cycleMarks = s.cycleMarks := by rw [State.addOp_only]
@[simp] theorem State.addOp_pipesBusy (s : State) (k : OpKind) (fs : Option Bool) (acq : Option Nat) (rel : List Carry) : (s.addOp k fs acq rel).pipesBusy = s.pipesBusy := by rw [State.addOp_only]
@[simp] theorem State.addOp_loopBufs (s : State) (k : OpKind) (fs : Option Bool) (acq : Option Nat) (rel : List Carry) : (s.addOp k fs acq rel).loopBufs = s.loopBufs := by rw [State.addOp_only]
@[simp] theorem State.addOp_g (s : State) (k : OpKind) (fs : Option Bool) (acq : Option Nat) (rel : List Carry) : (s.addOp k fs acq rel).g = s.g := by rw [State.addOp_only]
@[simp] theorem State.addOp_gangs (s : State) (k : OpKind) (fs : Option Bool) (acq : Option Nat) (rel : List Carry) : (s.addOp k fs acq rel).gangs = s.gangs := by rw [State.addOp_only]
@[simp] theorem State.addOp_blocks (s : State) (k : OpKind) (fs : Option Bool) (acq : Option Nat) (rel : List Carry) : (s.addOp k fs acq rel).blocks = s.blocks := by rw [State.addOp_only]
@[simp] theorem State.addOp_slots (s : State) (k : OpKind) (fs : Option Bool) (acq : Option Nat) (rel : List Carry) : (s.addOp k fs acq rel).slots = s.slots := by rw [State.addOp_only]
@[simp] theorem State.addOp_deque (s : State) (k : OpKind) (fs : Option Bool) (acq : Option Nat) (rel : List Carry) : (s.addOp k fs acq rel).deque = s.deque := by rw [State.addOp_only]
@[simp] theorem State.addOp_mops (s : State) (k : OpKind) (fs : Option Bool) (acq : Option Nat) (rel : List Carry) : (s.addOp k fs acq rel).mops = s.mops := by rw [State.addOp_only]
@[simp] theorem State.addOp_copies (s : State) (k : OpKind) (fs : Option Bool) (acq : Option Nat) (rel : List Carry) : (s.addOp k fs acq rel).copies = s.copies := by rw [State.addOp_only]
@[simp] theorem State.addOp_banks (s : State) (k : OpKind) (fs : Option Bool) (acq : Option Nat) (rel : List Carry) : (s.addOp k fs acq rel).banks = s.banks := by rw [State.addOp_only]
@[simp] theorem State.addOp_jobs (s : State) (k : OpKind) (fs : Option Bool) (acq : Option Nat) (rel : List Carry) : (s.addOp k fs acq rel).jobs = s.jobs := by rw [State.addOp_only]
@[simp] theorem State.addOp_levels (s : State) (k : OpKind) (fs : Option Bool) (acq : Option Nat) (rel : List Carry) : (s.addOp k fs acq rel).levels = s.levels := by rw [State.addOp_only]
@[simp] theorem State.addOp_launches (s : State) (k : OpKind) (fs : Option Bool) (acq : Option Nat) (rel : List Carry) : (s.addOp k fs acq rel).launches = s.launches := by rw [State.addOp_only]
@[simp] theorem State.addOp_steals (s : State) (k : OpKind) (fs : Option Bool) (acq : Option Nat) (rel : List Carry) : (s.addOp k fs acq rel).steals = s.steals := by rw [State.addOp_only]
@[simp] theorem State.addOp_pfrecs (s : State) (k : OpKind) (fs : Option Bool) (acq : Option Nat) (rel : List Carry) : (s.addOp k fs acq rel).pfrecs = s.pfrecs := by rw [State.addOp_only]
@[simp] theorem State.addOp_vdevs (s : State) (k : OpKind) (fs : Option Bool) (acq : Option Nat) (rel : List Carry) : (s.addOp k fs acq rel).vdevs = s.vdevs := by rw [State.addOp_only]
@[simp] theorem State.addOp_parts (s : State) (k : OpKind) (fs : Option Bool) (acq : Option Nat) (rel : List Carry) : (s.addOp k fs acq rel).parts = s.parts := by rw [State.addOp_only]
@[simp] theorem State.addOp_throttles (s : State) (k : OpKind) (fs : Option Bool) (acq : Option Nat) (rel : List Carry) : (s.addOp k fs acq rel).throttles = s.throttles := by rw [State.addOp_only]
@[simp] theorem State.addOp_grants (s : State) (k : OpKind) (fs : Option Bool) (acq : Option Nat) (rel : List Carry) : (s.addOp k fs acq rel).grants = s.grants := by rw [State.addOp_only]
@[simp] theorem State.addOp_mem (s : State) (k : OpKind) (fs : Option Bool) (acq : Option Nat) (rel : List Carry) : (s.addOp k fs acq rel).mem = s.mem := by rw [State.addOp_only]
@[simp] theorem State.addOp_lineKey (s : State) (k : OpKind) (fs : Option Bool) (acq : Option Nat) (rel : List Carry) : (s.addOp k fs acq rel).lineKey = s.lineKey := by rw [State.addOp_only]
@[simp] theorem State.addOp_keyGen (s : State) (k : OpKind) (fs : Option Bool) (acq : Option Nat) (rel : List Carry) : (s.addOp k fs acq rel).keyGen = s.keyGen := by rw [State.addOp_only]
@[simp] theorem State.addOp_keyMat (s : State) (k : OpKind) (fs : Option Bool) (acq : Option Nat) (rel : List Carry) : (s.addOp k fs acq rel).keyMat = s.keyMat := by rw [State.addOp_only]
@[simp] theorem State.addOp_cached (s : State) (k : OpKind) (fs : Option Bool) (acq : Option Nat) (rel : List Carry) : (s.addOp k fs acq rel).cached = s.cached := by rw [State.addOp_only]
@[simp] theorem State.addOp_softErrors (s : State) (k : OpKind) (fs : Option Bool) (acq : Option Nat) (rel : List Carry) : (s.addOp k fs acq rel).softErrors = s.softErrors := by rw [State.addOp_only]
@[simp] theorem State.addOp_poison (s : State) (k : OpKind) (fs : Option Bool) (acq : Option Nat) (rel : List Carry) : (s.addOp k fs acq rel).poison = s.poison := by rw [State.addOp_only]
@[simp] theorem State.addOp_pendingClear (s : State) (k : OpKind) (fs : Option Bool) (acq : Option Nat) (rel : List Carry) : (s.addOp k fs acq rel).pendingClear = s.pendingClear := by rw [State.addOp_only]
@[simp] theorem State.addOp_shadow (s : State) (k : OpKind) (fs : Option Bool) (acq : Option Nat) (rel : List Carry) : (s.addOp k fs acq rel).shadow = s.shadow := by rw [State.addOp_only]
@[simp] theorem State.addOp_carries (s : State) (k : OpKind) (fs : Option Bool) (acq : Option Nat) (rel : List Carry) : (s.addOp k fs acq rel).carries = s.carries := by rw [State.addOp_only]
@[simp] theorem State.addOp_dies (s : State) (k : OpKind) (fs : Option Bool) (acq : Option Nat) (rel : List Carry) : (s.addOp k fs acq rel).dies = s.dies := by rw [State.addOp_only]
@[simp] theorem State.addOp_governorUsed (s : State) (k : OpKind) (fs : Option Bool) (acq : Option Nat) (rel : List Carry) : (s.addOp k fs acq rel).governorUsed = s.governorUsed := by rw [State.addOp_only]
@[simp] theorem State.addOp_outbox (s : State) (k : OpKind) (fs : Option Bool) (acq : Option Nat) (rel : List Carry) : (s.addOp k fs acq rel).outbox = s.outbox := by rw [State.addOp_only]
@[simp] theorem State.addOp_freeCount (s : State) (k : OpKind) (fs : Option Bool) (acq : Option Nat) (rel : List Carry) : (s.addOp k fs acq rel).freeCount = s.freeCount := by rw [State.addOp_only]

/-! ## takePipes -/

theorem State.takePipes_only (s : State) (i : Instr) :
    s.takePipes i = { s with pipesBusy := (s.takePipes i).pipesBusy, cycleMarks := (s.takePipes i).cycleMarks } :=
  rfl

@[simp] theorem State.takePipes_tick (s : State) (i : Instr) : (s.takePipes i).tick = s.tick := by rw [State.takePipes_only]
@[simp] theorem State.takePipes_cycle (s : State) (i : Instr) : (s.takePipes i).cycle = s.cycle := by rw [State.takePipes_only]
@[simp] theorem State.takePipes_focused (s : State) (i : Instr) : (s.takePipes i).focused = s.focused := by rw [State.takePipes_only]
@[simp] theorem State.takePipes_issuedNow (s : State) (i : Instr) : (s.takePipes i).issuedNow = s.issuedNow := by rw [State.takePipes_only]
@[simp] theorem State.takePipes_loopBufs (s : State) (i : Instr) : (s.takePipes i).loopBufs = s.loopBufs := by rw [State.takePipes_only]
@[simp] theorem State.takePipes_g (s : State) (i : Instr) : (s.takePipes i).g = s.g := by rw [State.takePipes_only]
@[simp] theorem State.takePipes_t (s : State) (i : Instr) : (s.takePipes i).t = s.t := by rw [State.takePipes_only]
@[simp] theorem State.takePipes_gangs (s : State) (i : Instr) : (s.takePipes i).gangs = s.gangs := by rw [State.takePipes_only]
@[simp] theorem State.takePipes_blocks (s : State) (i : Instr) : (s.takePipes i).blocks = s.blocks := by rw [State.takePipes_only]
@[simp] theorem State.takePipes_slots (s : State) (i : Instr) : (s.takePipes i).slots = s.slots := by rw [State.takePipes_only]
@[simp] theorem State.takePipes_deque (s : State) (i : Instr) : (s.takePipes i).deque = s.deque := by rw [State.takePipes_only]
@[simp] theorem State.takePipes_ops (s : State) (i : Instr) : (s.takePipes i).ops = s.ops := by rw [State.takePipes_only]
@[simp] theorem State.takePipes_mops (s : State) (i : Instr) : (s.takePipes i).mops = s.mops := by rw [State.takePipes_only]
@[simp] theorem State.takePipes_copies (s : State) (i : Instr) : (s.takePipes i).copies = s.copies := by rw [State.takePipes_only]
@[simp] theorem State.takePipes_banks (s : State) (i : Instr) : (s.takePipes i).banks = s.banks := by rw [State.takePipes_only]
@[simp] theorem State.takePipes_jobs (s : State) (i : Instr) : (s.takePipes i).jobs = s.jobs := by rw [State.takePipes_only]
@[simp] theorem State.takePipes_levels (s : State) (i : Instr) : (s.takePipes i).levels = s.levels := by rw [State.takePipes_only]
@[simp] theorem State.takePipes_launches (s : State) (i : Instr) : (s.takePipes i).launches = s.launches := by rw [State.takePipes_only]
@[simp] theorem State.takePipes_steals (s : State) (i : Instr) : (s.takePipes i).steals = s.steals := by rw [State.takePipes_only]
@[simp] theorem State.takePipes_pfrecs (s : State) (i : Instr) : (s.takePipes i).pfrecs = s.pfrecs := by rw [State.takePipes_only]
@[simp] theorem State.takePipes_vdevs (s : State) (i : Instr) : (s.takePipes i).vdevs = s.vdevs := by rw [State.takePipes_only]
@[simp] theorem State.takePipes_parts (s : State) (i : Instr) : (s.takePipes i).parts = s.parts := by rw [State.takePipes_only]
@[simp] theorem State.takePipes_throttles (s : State) (i : Instr) : (s.takePipes i).throttles = s.throttles := by rw [State.takePipes_only]
@[simp] theorem State.takePipes_grants (s : State) (i : Instr) : (s.takePipes i).grants = s.grants := by rw [State.takePipes_only]
@[simp] theorem State.takePipes_mem (s : State) (i : Instr) : (s.takePipes i).mem = s.mem := by rw [State.takePipes_only]
@[simp] theorem State.takePipes_lineKey (s : State) (i : Instr) : (s.takePipes i).lineKey = s.lineKey := by rw [State.takePipes_only]
@[simp] theorem State.takePipes_keyGen (s : State) (i : Instr) : (s.takePipes i).keyGen = s.keyGen := by rw [State.takePipes_only]
@[simp] theorem State.takePipes_keyMat (s : State) (i : Instr) : (s.takePipes i).keyMat = s.keyMat := by rw [State.takePipes_only]
@[simp] theorem State.takePipes_cached (s : State) (i : Instr) : (s.takePipes i).cached = s.cached := by rw [State.takePipes_only]
@[simp] theorem State.takePipes_softErrors (s : State) (i : Instr) : (s.takePipes i).softErrors = s.softErrors := by rw [State.takePipes_only]
@[simp] theorem State.takePipes_poison (s : State) (i : Instr) : (s.takePipes i).poison = s.poison := by rw [State.takePipes_only]
@[simp] theorem State.takePipes_pendingClear (s : State) (i : Instr) : (s.takePipes i).pendingClear = s.pendingClear := by rw [State.takePipes_only]
@[simp] theorem State.takePipes_shadow (s : State) (i : Instr) : (s.takePipes i).shadow = s.shadow := by rw [State.takePipes_only]
@[simp] theorem State.takePipes_carries (s : State) (i : Instr) : (s.takePipes i).carries = s.carries := by rw [State.takePipes_only]
@[simp] theorem State.takePipes_dies (s : State) (i : Instr) : (s.takePipes i).dies = s.dies := by rw [State.takePipes_only]
@[simp] theorem State.takePipes_governorUsed (s : State) (i : Instr) : (s.takePipes i).governorUsed = s.governorUsed := by rw [State.takePipes_only]
@[simp] theorem State.takePipes_outbox (s : State) (i : Instr) : (s.takePipes i).outbox = s.outbox := by rw [State.takePipes_only]
@[simp] theorem State.takePipes_nextId (s : State) (i : Instr) : (s.takePipes i).nextId = s.nextId := by rw [State.takePipes_only]
@[simp] theorem State.takePipes_freeCount (s : State) (i : Instr) : (s.takePipes i).freeCount = s.freeCount := by rw [State.takePipes_only]

/-! ## countIssue -/

theorem State.countIssue_only (s : State) (i : Instr) :
    s.countIssue i = { s with t := (s.countIssue i).t, vdevs := (s.countIssue i).vdevs, parts := (s.countIssue i).parts, issuedNow := (s.countIssue i).issuedNow, governorUsed := (s.countIssue i).governorUsed, pipesBusy := (s.countIssue i).pipesBusy, cycleMarks := (s.countIssue i).cycleMarks } :=
  by
  unfold State.countIssue
  split
  · rfl
  · dsimp only
    obtain ⟨a, b, h1⟩ : ∃ a b, s.countCycle = { s with vdevs := a, issuedNow := b } := ⟨_, _, s.countCycle_only⟩
    rw [h1]
    obtain ⟨c, h2⟩ : ∃ c, ({ s with vdevs := a, issuedNow := b } : State).count s.g.vd 2 1 = { s with vdevs := c, issuedNow := b } :=
      ⟨_, State.count_only _ _ _ _⟩
    rw [h2]
    generalize (slicesOf s.t.active).length * occupancy i (popMask s.t.active) = n
    obtain ⟨d, e, h3⟩ : ∃ d e, ({ s with vdevs := c, issuedNow := b } : State).charge s.g.vd (dieOf s.g.core) 2 n =
        { s with vdevs := c, issuedNow := b, parts := d, governorUsed := e } := ⟨_, _, State.charge_only _ _ _ _ _⟩
    rw [h3]
    split <;> rfl

@[simp] theorem State.countIssue_tick (s : State) (i : Instr) : (s.countIssue i).tick = s.tick := by rw [State.countIssue_only]
@[simp] theorem State.countIssue_cycle (s : State) (i : Instr) : (s.countIssue i).cycle = s.cycle := by rw [State.countIssue_only]
@[simp] theorem State.countIssue_focused (s : State) (i : Instr) : (s.countIssue i).focused = s.focused := by rw [State.countIssue_only]
@[simp] theorem State.countIssue_loopBufs (s : State) (i : Instr) : (s.countIssue i).loopBufs = s.loopBufs := by rw [State.countIssue_only]
@[simp] theorem State.countIssue_g (s : State) (i : Instr) : (s.countIssue i).g = s.g := by rw [State.countIssue_only]
@[simp] theorem State.countIssue_gangs (s : State) (i : Instr) : (s.countIssue i).gangs = s.gangs := by rw [State.countIssue_only]
@[simp] theorem State.countIssue_blocks (s : State) (i : Instr) : (s.countIssue i).blocks = s.blocks := by rw [State.countIssue_only]
@[simp] theorem State.countIssue_slots (s : State) (i : Instr) : (s.countIssue i).slots = s.slots := by rw [State.countIssue_only]
@[simp] theorem State.countIssue_deque (s : State) (i : Instr) : (s.countIssue i).deque = s.deque := by rw [State.countIssue_only]
@[simp] theorem State.countIssue_ops (s : State) (i : Instr) : (s.countIssue i).ops = s.ops := by rw [State.countIssue_only]
@[simp] theorem State.countIssue_mops (s : State) (i : Instr) : (s.countIssue i).mops = s.mops := by rw [State.countIssue_only]
@[simp] theorem State.countIssue_copies (s : State) (i : Instr) : (s.countIssue i).copies = s.copies := by rw [State.countIssue_only]
@[simp] theorem State.countIssue_banks (s : State) (i : Instr) : (s.countIssue i).banks = s.banks := by rw [State.countIssue_only]
@[simp] theorem State.countIssue_jobs (s : State) (i : Instr) : (s.countIssue i).jobs = s.jobs := by rw [State.countIssue_only]
@[simp] theorem State.countIssue_levels (s : State) (i : Instr) : (s.countIssue i).levels = s.levels := by rw [State.countIssue_only]
@[simp] theorem State.countIssue_launches (s : State) (i : Instr) : (s.countIssue i).launches = s.launches := by rw [State.countIssue_only]
@[simp] theorem State.countIssue_steals (s : State) (i : Instr) : (s.countIssue i).steals = s.steals := by rw [State.countIssue_only]
@[simp] theorem State.countIssue_pfrecs (s : State) (i : Instr) : (s.countIssue i).pfrecs = s.pfrecs := by rw [State.countIssue_only]
@[simp] theorem State.countIssue_throttles (s : State) (i : Instr) : (s.countIssue i).throttles = s.throttles := by rw [State.countIssue_only]
@[simp] theorem State.countIssue_grants (s : State) (i : Instr) : (s.countIssue i).grants = s.grants := by rw [State.countIssue_only]
@[simp] theorem State.countIssue_mem (s : State) (i : Instr) : (s.countIssue i).mem = s.mem := by rw [State.countIssue_only]
@[simp] theorem State.countIssue_lineKey (s : State) (i : Instr) : (s.countIssue i).lineKey = s.lineKey := by rw [State.countIssue_only]
@[simp] theorem State.countIssue_keyGen (s : State) (i : Instr) : (s.countIssue i).keyGen = s.keyGen := by rw [State.countIssue_only]
@[simp] theorem State.countIssue_keyMat (s : State) (i : Instr) : (s.countIssue i).keyMat = s.keyMat := by rw [State.countIssue_only]
@[simp] theorem State.countIssue_cached (s : State) (i : Instr) : (s.countIssue i).cached = s.cached := by rw [State.countIssue_only]
@[simp] theorem State.countIssue_softErrors (s : State) (i : Instr) : (s.countIssue i).softErrors = s.softErrors := by rw [State.countIssue_only]
@[simp] theorem State.countIssue_poison (s : State) (i : Instr) : (s.countIssue i).poison = s.poison := by rw [State.countIssue_only]
@[simp] theorem State.countIssue_pendingClear (s : State) (i : Instr) : (s.countIssue i).pendingClear = s.pendingClear := by rw [State.countIssue_only]
@[simp] theorem State.countIssue_shadow (s : State) (i : Instr) : (s.countIssue i).shadow = s.shadow := by rw [State.countIssue_only]
@[simp] theorem State.countIssue_carries (s : State) (i : Instr) : (s.countIssue i).carries = s.carries := by rw [State.countIssue_only]
@[simp] theorem State.countIssue_dies (s : State) (i : Instr) : (s.countIssue i).dies = s.dies := by rw [State.countIssue_only]
@[simp] theorem State.countIssue_outbox (s : State) (i : Instr) : (s.countIssue i).outbox = s.outbox := by rw [State.countIssue_only]
@[simp] theorem State.countIssue_nextId (s : State) (i : Instr) : (s.countIssue i).nextId = s.nextId := by rw [State.countIssue_only]
@[simp] theorem State.countIssue_freeCount (s : State) (i : Instr) : (s.countIssue i).freeCount = s.freeCount := by rw [State.countIssue_only]

end Sys2Proof.Machine
end

