-- ==== Sys2Proof/Laws/Strand.lean ====
section
/-! SUPPORT. Strand updates, field by field: each named update changes the fields its `_only` lemma names, and every other
field reads as before. -/

namespace Sys2Proof.Machine

/-! ## expire -/

theorem Strand.expire_only (t : Strand) :
    t.expire = { t with trans := (t.expire).trans } :=
  by unfold Strand.expire; split <;> rfl

@[simp] theorem Strand.expire_idx (t : Strand) : (t.expire).idx = t.idx := by rw [Strand.expire_only]
@[simp] theorem Strand.expire_active (t : Strand) : (t.expire).active = t.active := by rw [Strand.expire_only]
@[simp] theorem Strand.expire_pc (t : Strand) : (t.expire).pc = t.pc := by rw [Strand.expire_only]
@[simp] theorem Strand.expire_clause (t : Strand) : (t.expire).clause = t.clause := by rw [Strand.expire_only]
@[simp] theorem Strand.expire_held (t : Strand) : (t.expire).held = t.held := by rw [Strand.expire_only]
@[simp] theorem Strand.expire_joins (t : Strand) : (t.expire).joins = t.joins := by rw [Strand.expire_only]
@[simp] theorem Strand.expire_sregs (t : Strand) : (t.expire).sregs = t.sregs := by rw [Strand.expire_only]
@[simp] theorem Strand.expire_qregs (t : Strand) : (t.expire).qregs = t.qregs := by rw [Strand.expire_only]
@[simp] theorem Strand.expire_fmtr (t : Strand) : (t.expire).fmtr = t.fmtr := by rw [Strand.expire_only]
@[simp] theorem Strand.expire_cvmr (t : Strand) : (t.expire).cvmr = t.cvmr := by rw [Strand.expire_only]
@[simp] theorem Strand.expire_dsw (t : Strand) : (t.expire).dsw = t.dsw := by rw [Strand.expire_only]
@[simp] theorem Strand.expire_handler (t : Strand) : (t.expire).handler = t.handler := by rw [Strand.expire_only]
@[simp] theorem Strand.expire_wait (t : Strand) : (t.expire).wait = t.wait := by rw [Strand.expire_only]
@[simp] theorem Strand.expire_barPhase (t : Strand) : (t.expire).barPhase = t.barPhase := by rw [Strand.expire_only]
@[simp] theorem Strand.expire_pending (t : Strand) : (t.expire).pending = t.pending := by rw [Strand.expire_only]
@[simp] theorem Strand.expire_mark (t : Strand) : (t.expire).mark = t.mark := by rw [Strand.expire_only]
@[simp] theorem Strand.expire_clean (t : Strand) : (t.expire).clean = t.clean := by rw [Strand.expire_only]
@[simp] theorem Strand.expire_written (t : Strand) : (t.expire).written = t.written := by rw [Strand.expire_only]
@[simp] theorem Strand.expire_issued (t : Strand) : (t.expire).issued = t.issued := by rw [Strand.expire_only]

/-! ## age -/

theorem Strand.age_only (t : Strand) :
    t.age = { t with trans := (t.age).trans } :=
  by unfold Strand.age; split <;> rfl

@[simp] theorem Strand.age_idx (t : Strand) : (t.age).idx = t.idx := by rw [Strand.age_only]
@[simp] theorem Strand.age_active (t : Strand) : (t.age).active = t.active := by rw [Strand.age_only]
@[simp] theorem Strand.age_pc (t : Strand) : (t.age).pc = t.pc := by rw [Strand.age_only]
@[simp] theorem Strand.age_clause (t : Strand) : (t.age).clause = t.clause := by rw [Strand.age_only]
@[simp] theorem Strand.age_held (t : Strand) : (t.age).held = t.held := by rw [Strand.age_only]
@[simp] theorem Strand.age_joins (t : Strand) : (t.age).joins = t.joins := by rw [Strand.age_only]
@[simp] theorem Strand.age_sregs (t : Strand) : (t.age).sregs = t.sregs := by rw [Strand.age_only]
@[simp] theorem Strand.age_qregs (t : Strand) : (t.age).qregs = t.qregs := by rw [Strand.age_only]
@[simp] theorem Strand.age_fmtr (t : Strand) : (t.age).fmtr = t.fmtr := by rw [Strand.age_only]
@[simp] theorem Strand.age_cvmr (t : Strand) : (t.age).cvmr = t.cvmr := by rw [Strand.age_only]
@[simp] theorem Strand.age_dsw (t : Strand) : (t.age).dsw = t.dsw := by rw [Strand.age_only]
@[simp] theorem Strand.age_handler (t : Strand) : (t.age).handler = t.handler := by rw [Strand.age_only]
@[simp] theorem Strand.age_wait (t : Strand) : (t.age).wait = t.wait := by rw [Strand.age_only]
@[simp] theorem Strand.age_barPhase (t : Strand) : (t.age).barPhase = t.barPhase := by rw [Strand.age_only]
@[simp] theorem Strand.age_pending (t : Strand) : (t.age).pending = t.pending := by rw [Strand.age_only]
@[simp] theorem Strand.age_mark (t : Strand) : (t.age).mark = t.mark := by rw [Strand.age_only]
@[simp] theorem Strand.age_clean (t : Strand) : (t.age).clean = t.clean := by rw [Strand.age_only]
@[simp] theorem Strand.age_written (t : Strand) : (t.age).written = t.written := by rw [Strand.age_only]
@[simp] theorem Strand.age_issued (t : Strand) : (t.age).issued = t.issued := by rw [Strand.age_only]

/-! ## ripen -/

theorem Strand.ripen_only (t : Strand) :
    t.ripen = { t with trans := (t.ripen).trans } :=
  by unfold Strand.ripen; split <;> rfl

@[simp] theorem Strand.ripen_idx (t : Strand) : (t.ripen).idx = t.idx := by rw [Strand.ripen_only]
@[simp] theorem Strand.ripen_active (t : Strand) : (t.ripen).active = t.active := by rw [Strand.ripen_only]
@[simp] theorem Strand.ripen_pc (t : Strand) : (t.ripen).pc = t.pc := by rw [Strand.ripen_only]
@[simp] theorem Strand.ripen_clause (t : Strand) : (t.ripen).clause = t.clause := by rw [Strand.ripen_only]
@[simp] theorem Strand.ripen_held (t : Strand) : (t.ripen).held = t.held := by rw [Strand.ripen_only]
@[simp] theorem Strand.ripen_joins (t : Strand) : (t.ripen).joins = t.joins := by rw [Strand.ripen_only]
@[simp] theorem Strand.ripen_sregs (t : Strand) : (t.ripen).sregs = t.sregs := by rw [Strand.ripen_only]
@[simp] theorem Strand.ripen_qregs (t : Strand) : (t.ripen).qregs = t.qregs := by rw [Strand.ripen_only]
@[simp] theorem Strand.ripen_fmtr (t : Strand) : (t.ripen).fmtr = t.fmtr := by rw [Strand.ripen_only]
@[simp] theorem Strand.ripen_cvmr (t : Strand) : (t.ripen).cvmr = t.cvmr := by rw [Strand.ripen_only]
@[simp] theorem Strand.ripen_dsw (t : Strand) : (t.ripen).dsw = t.dsw := by rw [Strand.ripen_only]
@[simp] theorem Strand.ripen_handler (t : Strand) : (t.ripen).handler = t.handler := by rw [Strand.ripen_only]
@[simp] theorem Strand.ripen_wait (t : Strand) : (t.ripen).wait = t.wait := by rw [Strand.ripen_only]
@[simp] theorem Strand.ripen_barPhase (t : Strand) : (t.ripen).barPhase = t.barPhase := by rw [Strand.ripen_only]
@[simp] theorem Strand.ripen_pending (t : Strand) : (t.ripen).pending = t.pending := by rw [Strand.ripen_only]
@[simp] theorem Strand.ripen_mark (t : Strand) : (t.ripen).mark = t.mark := by rw [Strand.ripen_only]
@[simp] theorem Strand.ripen_clean (t : Strand) : (t.ripen).clean = t.clean := by rw [Strand.ripen_only]
@[simp] theorem Strand.ripen_written (t : Strand) : (t.ripen).written = t.written := by rw [Strand.ripen_only]
@[simp] theorem Strand.ripen_issued (t : Strand) : (t.ripen).issued = t.issued := by rw [Strand.ripen_only]

/-! ## note -/

theorem Strand.note_only (t : Strand) (n : Nat) :
    t.note n = { t with written := (t.note n).written } :=
  by unfold Strand.note; split <;> rfl

@[simp] theorem Strand.note_idx (t : Strand) (n : Nat) : (t.note n).idx = t.idx := by rw [Strand.note_only]
@[simp] theorem Strand.note_active (t : Strand) (n : Nat) : (t.note n).active = t.active := by rw [Strand.note_only]
@[simp] theorem Strand.note_pc (t : Strand) (n : Nat) : (t.note n).pc = t.pc := by rw [Strand.note_only]
@[simp] theorem Strand.note_clause (t : Strand) (n : Nat) : (t.note n).clause = t.clause := by rw [Strand.note_only]
@[simp] theorem Strand.note_held (t : Strand) (n : Nat) : (t.note n).held = t.held := by rw [Strand.note_only]
@[simp] theorem Strand.note_joins (t : Strand) (n : Nat) : (t.note n).joins = t.joins := by rw [Strand.note_only]
@[simp] theorem Strand.note_sregs (t : Strand) (n : Nat) : (t.note n).sregs = t.sregs := by rw [Strand.note_only]
@[simp] theorem Strand.note_qregs (t : Strand) (n : Nat) : (t.note n).qregs = t.qregs := by rw [Strand.note_only]
@[simp] theorem Strand.note_fmtr (t : Strand) (n : Nat) : (t.note n).fmtr = t.fmtr := by rw [Strand.note_only]
@[simp] theorem Strand.note_cvmr (t : Strand) (n : Nat) : (t.note n).cvmr = t.cvmr := by rw [Strand.note_only]
@[simp] theorem Strand.note_dsw (t : Strand) (n : Nat) : (t.note n).dsw = t.dsw := by rw [Strand.note_only]
@[simp] theorem Strand.note_handler (t : Strand) (n : Nat) : (t.note n).handler = t.handler := by rw [Strand.note_only]
@[simp] theorem Strand.note_trans (t : Strand) (n : Nat) : (t.note n).trans = t.trans := by rw [Strand.note_only]
@[simp] theorem Strand.note_wait (t : Strand) (n : Nat) : (t.note n).wait = t.wait := by rw [Strand.note_only]
@[simp] theorem Strand.note_barPhase (t : Strand) (n : Nat) : (t.note n).barPhase = t.barPhase := by rw [Strand.note_only]
@[simp] theorem Strand.note_pending (t : Strand) (n : Nat) : (t.note n).pending = t.pending := by rw [Strand.note_only]
@[simp] theorem Strand.note_mark (t : Strand) (n : Nat) : (t.note n).mark = t.mark := by rw [Strand.note_only]
@[simp] theorem Strand.note_clean (t : Strand) (n : Nat) : (t.note n).clean = t.clean := by rw [Strand.note_only]
@[simp] theorem Strand.note_issued (t : Strand) (n : Nat) : (t.note n).issued = t.issued := by rw [Strand.note_only]

/-! ## settle -/

theorem Strand.settle_only (t : Strand) (n : Nat) :
    t.settle n = { t with trans := (t.settle n).trans } :=
  by unfold Strand.settle; split <;> rfl

@[simp] theorem Strand.settle_idx (t : Strand) (n : Nat) : (t.settle n).idx = t.idx := by rw [Strand.settle_only]
@[simp] theorem Strand.settle_active (t : Strand) (n : Nat) : (t.settle n).active = t.active := by rw [Strand.settle_only]
@[simp] theorem Strand.settle_pc (t : Strand) (n : Nat) : (t.settle n).pc = t.pc := by rw [Strand.settle_only]
@[simp] theorem Strand.settle_clause (t : Strand) (n : Nat) : (t.settle n).clause = t.clause := by rw [Strand.settle_only]
@[simp] theorem Strand.settle_held (t : Strand) (n : Nat) : (t.settle n).held = t.held := by rw [Strand.settle_only]
@[simp] theorem Strand.settle_joins (t : Strand) (n : Nat) : (t.settle n).joins = t.joins := by rw [Strand.settle_only]
@[simp] theorem Strand.settle_sregs (t : Strand) (n : Nat) : (t.settle n).sregs = t.sregs := by rw [Strand.settle_only]
@[simp] theorem Strand.settle_qregs (t : Strand) (n : Nat) : (t.settle n).qregs = t.qregs := by rw [Strand.settle_only]
@[simp] theorem Strand.settle_fmtr (t : Strand) (n : Nat) : (t.settle n).fmtr = t.fmtr := by rw [Strand.settle_only]
@[simp] theorem Strand.settle_cvmr (t : Strand) (n : Nat) : (t.settle n).cvmr = t.cvmr := by rw [Strand.settle_only]
@[simp] theorem Strand.settle_dsw (t : Strand) (n : Nat) : (t.settle n).dsw = t.dsw := by rw [Strand.settle_only]
@[simp] theorem Strand.settle_handler (t : Strand) (n : Nat) : (t.settle n).handler = t.handler := by rw [Strand.settle_only]
@[simp] theorem Strand.settle_wait (t : Strand) (n : Nat) : (t.settle n).wait = t.wait := by rw [Strand.settle_only]
@[simp] theorem Strand.settle_barPhase (t : Strand) (n : Nat) : (t.settle n).barPhase = t.barPhase := by rw [Strand.settle_only]
@[simp] theorem Strand.settle_pending (t : Strand) (n : Nat) : (t.settle n).pending = t.pending := by rw [Strand.settle_only]
@[simp] theorem Strand.settle_mark (t : Strand) (n : Nat) : (t.settle n).mark = t.mark := by rw [Strand.settle_only]
@[simp] theorem Strand.settle_clean (t : Strand) (n : Nat) : (t.settle n).clean = t.clean := by rw [Strand.settle_only]
@[simp] theorem Strand.settle_written (t : Strand) (n : Nat) : (t.settle n).written = t.written := by rw [Strand.settle_only]
@[simp] theorem Strand.settle_issued (t : Strand) (n : Nat) : (t.settle n).issued = t.issued := by rw [Strand.settle_only]

/-! ## bypass -/

theorem Strand.bypass_only (t : Strand) (n : Nat) (l : List (Nat × Word)) :
    t.bypass n l = { t with trans := (t.bypass n l).trans } :=
  rfl

@[simp] theorem Strand.bypass_idx (t : Strand) (n : Nat) (l : List (Nat × Word)) : (t.bypass n l).idx = t.idx := by rw [Strand.bypass_only]
@[simp] theorem Strand.bypass_active (t : Strand) (n : Nat) (l : List (Nat × Word)) : (t.bypass n l).active = t.active := by rw [Strand.bypass_only]
@[simp] theorem Strand.bypass_pc (t : Strand) (n : Nat) (l : List (Nat × Word)) : (t.bypass n l).pc = t.pc := by rw [Strand.bypass_only]
@[simp] theorem Strand.bypass_clause (t : Strand) (n : Nat) (l : List (Nat × Word)) : (t.bypass n l).clause = t.clause := by rw [Strand.bypass_only]
@[simp] theorem Strand.bypass_held (t : Strand) (n : Nat) (l : List (Nat × Word)) : (t.bypass n l).held = t.held := by rw [Strand.bypass_only]
@[simp] theorem Strand.bypass_joins (t : Strand) (n : Nat) (l : List (Nat × Word)) : (t.bypass n l).joins = t.joins := by rw [Strand.bypass_only]
@[simp] theorem Strand.bypass_sregs (t : Strand) (n : Nat) (l : List (Nat × Word)) : (t.bypass n l).sregs = t.sregs := by rw [Strand.bypass_only]
@[simp] theorem Strand.bypass_qregs (t : Strand) (n : Nat) (l : List (Nat × Word)) : (t.bypass n l).qregs = t.qregs := by rw [Strand.bypass_only]
@[simp] theorem Strand.bypass_fmtr (t : Strand) (n : Nat) (l : List (Nat × Word)) : (t.bypass n l).fmtr = t.fmtr := by rw [Strand.bypass_only]
@[simp] theorem Strand.bypass_cvmr (t : Strand) (n : Nat) (l : List (Nat × Word)) : (t.bypass n l).cvmr = t.cvmr := by rw [Strand.bypass_only]
@[simp] theorem Strand.bypass_dsw (t : Strand) (n : Nat) (l : List (Nat × Word)) : (t.bypass n l).dsw = t.dsw := by rw [Strand.bypass_only]
@[simp] theorem Strand.bypass_handler (t : Strand) (n : Nat) (l : List (Nat × Word)) : (t.bypass n l).handler = t.handler := by rw [Strand.bypass_only]
@[simp] theorem Strand.bypass_wait (t : Strand) (n : Nat) (l : List (Nat × Word)) : (t.bypass n l).wait = t.wait := by rw [Strand.bypass_only]
@[simp] theorem Strand.bypass_barPhase (t : Strand) (n : Nat) (l : List (Nat × Word)) : (t.bypass n l).barPhase = t.barPhase := by rw [Strand.bypass_only]
@[simp] theorem Strand.bypass_pending (t : Strand) (n : Nat) (l : List (Nat × Word)) : (t.bypass n l).pending = t.pending := by rw [Strand.bypass_only]
@[simp] theorem Strand.bypass_mark (t : Strand) (n : Nat) (l : List (Nat × Word)) : (t.bypass n l).mark = t.mark := by rw [Strand.bypass_only]
@[simp] theorem Strand.bypass_clean (t : Strand) (n : Nat) (l : List (Nat × Word)) : (t.bypass n l).clean = t.clean := by rw [Strand.bypass_only]
@[simp] theorem Strand.bypass_written (t : Strand) (n : Nat) (l : List (Nat × Word)) : (t.bypass n l).written = t.written := by rw [Strand.bypass_only]
@[simp] theorem Strand.bypass_issued (t : Strand) (n : Nat) (l : List (Nat × Word)) : (t.bypass n l).issued = t.issued := by rw [Strand.bypass_only]

/-! ## setS -/

theorem Strand.setS_only (t : Strand) (n : Nat) (v : Word) :
    t.setS n v = { t with trans := (t.setS n v).trans, written := (t.setS n v).written, sregs := (t.setS n v).sregs } :=
  by
  unfold Strand.setS
  dsimp only
  rw [Strand.note_only, Strand.settle_only]

@[simp] theorem Strand.setS_idx (t : Strand) (n : Nat) (v : Word) : (t.setS n v).idx = t.idx := by rw [Strand.setS_only]
@[simp] theorem Strand.setS_active (t : Strand) (n : Nat) (v : Word) : (t.setS n v).active = t.active := by rw [Strand.setS_only]
@[simp] theorem Strand.setS_pc (t : Strand) (n : Nat) (v : Word) : (t.setS n v).pc = t.pc := by rw [Strand.setS_only]
@[simp] theorem Strand.setS_clause (t : Strand) (n : Nat) (v : Word) : (t.setS n v).clause = t.clause := by rw [Strand.setS_only]
@[simp] theorem Strand.setS_held (t : Strand) (n : Nat) (v : Word) : (t.setS n v).held = t.held := by rw [Strand.setS_only]
@[simp] theorem Strand.setS_joins (t : Strand) (n : Nat) (v : Word) : (t.setS n v).joins = t.joins := by rw [Strand.setS_only]
@[simp] theorem Strand.setS_qregs (t : Strand) (n : Nat) (v : Word) : (t.setS n v).qregs = t.qregs := by rw [Strand.setS_only]
@[simp] theorem Strand.setS_fmtr (t : Strand) (n : Nat) (v : Word) : (t.setS n v).fmtr = t.fmtr := by rw [Strand.setS_only]
@[simp] theorem Strand.setS_cvmr (t : Strand) (n : Nat) (v : Word) : (t.setS n v).cvmr = t.cvmr := by rw [Strand.setS_only]
@[simp] theorem Strand.setS_dsw (t : Strand) (n : Nat) (v : Word) : (t.setS n v).dsw = t.dsw := by rw [Strand.setS_only]
@[simp] theorem Strand.setS_handler (t : Strand) (n : Nat) (v : Word) : (t.setS n v).handler = t.handler := by rw [Strand.setS_only]
@[simp] theorem Strand.setS_wait (t : Strand) (n : Nat) (v : Word) : (t.setS n v).wait = t.wait := by rw [Strand.setS_only]
@[simp] theorem Strand.setS_barPhase (t : Strand) (n : Nat) (v : Word) : (t.setS n v).barPhase = t.barPhase := by rw [Strand.setS_only]
@[simp] theorem Strand.setS_pending (t : Strand) (n : Nat) (v : Word) : (t.setS n v).pending = t.pending := by rw [Strand.setS_only]
@[simp] theorem Strand.setS_mark (t : Strand) (n : Nat) (v : Word) : (t.setS n v).mark = t.mark := by rw [Strand.setS_only]
@[simp] theorem Strand.setS_clean (t : Strand) (n : Nat) (v : Word) : (t.setS n v).clean = t.clean := by rw [Strand.setS_only]
@[simp] theorem Strand.setS_issued (t : Strand) (n : Nat) (v : Word) : (t.setS n v).issued = t.issued := by rw [Strand.setS_only]

/-! ## setQ -/

theorem Strand.setQ_only (t : Strand) (n : Nat) (b : Bool) :
    t.setQ n b = { t with written := (t.setQ n b).written, qregs := (t.setQ n b).qregs } :=
  by
  unfold Strand.setQ
  dsimp only
  rw [Strand.note_only]

@[simp] theorem Strand.setQ_idx (t : Strand) (n : Nat) (b : Bool) : (t.setQ n b).idx = t.idx := by rw [Strand.setQ_only]
@[simp] theorem Strand.setQ_active (t : Strand) (n : Nat) (b : Bool) : (t.setQ n b).active = t.active := by rw [Strand.setQ_only]
@[simp] theorem Strand.setQ_pc (t : Strand) (n : Nat) (b : Bool) : (t.setQ n b).pc = t.pc := by rw [Strand.setQ_only]
@[simp] theorem Strand.setQ_clause (t : Strand) (n : Nat) (b : Bool) : (t.setQ n b).clause = t.clause := by rw [Strand.setQ_only]
@[simp] theorem Strand.setQ_held (t : Strand) (n : Nat) (b : Bool) : (t.setQ n b).held = t.held := by rw [Strand.setQ_only]
@[simp] theorem Strand.setQ_joins (t : Strand) (n : Nat) (b : Bool) : (t.setQ n b).joins = t.joins := by rw [Strand.setQ_only]
@[simp] theorem Strand.setQ_sregs (t : Strand) (n : Nat) (b : Bool) : (t.setQ n b).sregs = t.sregs := by rw [Strand.setQ_only]
@[simp] theorem Strand.setQ_fmtr (t : Strand) (n : Nat) (b : Bool) : (t.setQ n b).fmtr = t.fmtr := by rw [Strand.setQ_only]
@[simp] theorem Strand.setQ_cvmr (t : Strand) (n : Nat) (b : Bool) : (t.setQ n b).cvmr = t.cvmr := by rw [Strand.setQ_only]
@[simp] theorem Strand.setQ_dsw (t : Strand) (n : Nat) (b : Bool) : (t.setQ n b).dsw = t.dsw := by rw [Strand.setQ_only]
@[simp] theorem Strand.setQ_handler (t : Strand) (n : Nat) (b : Bool) : (t.setQ n b).handler = t.handler := by rw [Strand.setQ_only]
@[simp] theorem Strand.setQ_trans (t : Strand) (n : Nat) (b : Bool) : (t.setQ n b).trans = t.trans := by rw [Strand.setQ_only]
@[simp] theorem Strand.setQ_wait (t : Strand) (n : Nat) (b : Bool) : (t.setQ n b).wait = t.wait := by rw [Strand.setQ_only]
@[simp] theorem Strand.setQ_barPhase (t : Strand) (n : Nat) (b : Bool) : (t.setQ n b).barPhase = t.barPhase := by rw [Strand.setQ_only]
@[simp] theorem Strand.setQ_pending (t : Strand) (n : Nat) (b : Bool) : (t.setQ n b).pending = t.pending := by rw [Strand.setQ_only]
@[simp] theorem Strand.setQ_mark (t : Strand) (n : Nat) (b : Bool) : (t.setQ n b).mark = t.mark := by rw [Strand.setQ_only]
@[simp] theorem Strand.setQ_clean (t : Strand) (n : Nat) (b : Bool) : (t.setQ n b).clean = t.clean := by rw [Strand.setQ_only]
@[simp] theorem Strand.setQ_issued (t : Strand) (n : Nat) (b : Bool) : (t.setQ n b).issued = t.issued := by rw [Strand.setQ_only]

/-! ## advance -/

theorem Strand.advance_only (t : Strand) (n : Nat) :
    t.advance n = { t with trans := (t.advance n).trans, pc := (t.advance n).pc, clause := (t.advance n).clause } :=
  by
  unfold Strand.advance
  dsimp only
  split
  · rfl
  · split
    · rw [Strand.expire_only]
    · rfl

@[simp] theorem Strand.advance_idx (t : Strand) (n : Nat) : (t.advance n).idx = t.idx := by rw [Strand.advance_only]
@[simp] theorem Strand.advance_active (t : Strand) (n : Nat) : (t.advance n).active = t.active := by rw [Strand.advance_only]
@[simp] theorem Strand.advance_held (t : Strand) (n : Nat) : (t.advance n).held = t.held := by rw [Strand.advance_only]
@[simp] theorem Strand.advance_joins (t : Strand) (n : Nat) : (t.advance n).joins = t.joins := by rw [Strand.advance_only]
@[simp] theorem Strand.advance_sregs (t : Strand) (n : Nat) : (t.advance n).sregs = t.sregs := by rw [Strand.advance_only]
@[simp] theorem Strand.advance_qregs (t : Strand) (n : Nat) : (t.advance n).qregs = t.qregs := by rw [Strand.advance_only]
@[simp] theorem Strand.advance_fmtr (t : Strand) (n : Nat) : (t.advance n).fmtr = t.fmtr := by rw [Strand.advance_only]
@[simp] theorem Strand.advance_cvmr (t : Strand) (n : Nat) : (t.advance n).cvmr = t.cvmr := by rw [Strand.advance_only]
@[simp] theorem Strand.advance_dsw (t : Strand) (n : Nat) : (t.advance n).dsw = t.dsw := by rw [Strand.advance_only]
@[simp] theorem Strand.advance_handler (t : Strand) (n : Nat) : (t.advance n).handler = t.handler := by rw [Strand.advance_only]
@[simp] theorem Strand.advance_wait (t : Strand) (n : Nat) : (t.advance n).wait = t.wait := by rw [Strand.advance_only]
@[simp] theorem Strand.advance_barPhase (t : Strand) (n : Nat) : (t.advance n).barPhase = t.barPhase := by rw [Strand.advance_only]
@[simp] theorem Strand.advance_pending (t : Strand) (n : Nat) : (t.advance n).pending = t.pending := by rw [Strand.advance_only]
@[simp] theorem Strand.advance_mark (t : Strand) (n : Nat) : (t.advance n).mark = t.mark := by rw [Strand.advance_only]
@[simp] theorem Strand.advance_clean (t : Strand) (n : Nat) : (t.advance n).clean = t.clean := by rw [Strand.advance_only]
@[simp] theorem Strand.advance_written (t : Strand) (n : Nat) : (t.advance n).written = t.written := by rw [Strand.advance_only]
@[simp] theorem Strand.advance_issued (t : Strand) (n : Nat) : (t.advance n).issued = t.issued := by rw [Strand.advance_only]

/-! ## jump -/

theorem Strand.jump_only (t : Strand) (a : Addr) :
    t.jump a = { t with trans := (t.jump a).trans, pc := (t.jump a).pc, clause := (t.jump a).clause } :=
  by
  unfold Strand.jump
  rw [Strand.expire_only]

@[simp] theorem Strand.jump_idx (t : Strand) (a : Addr) : (t.jump a).idx = t.idx := by rw [Strand.jump_only]
@[simp] theorem Strand.jump_active (t : Strand) (a : Addr) : (t.jump a).active = t.active := by rw [Strand.jump_only]
@[simp] theorem Strand.jump_held (t : Strand) (a : Addr) : (t.jump a).held = t.held := by rw [Strand.jump_only]
@[simp] theorem Strand.jump_joins (t : Strand) (a : Addr) : (t.jump a).joins = t.joins := by rw [Strand.jump_only]
@[simp] theorem Strand.jump_sregs (t : Strand) (a : Addr) : (t.jump a).sregs = t.sregs := by rw [Strand.jump_only]
@[simp] theorem Strand.jump_qregs (t : Strand) (a : Addr) : (t.jump a).qregs = t.qregs := by rw [Strand.jump_only]
@[simp] theorem Strand.jump_fmtr (t : Strand) (a : Addr) : (t.jump a).fmtr = t.fmtr := by rw [Strand.jump_only]
@[simp] theorem Strand.jump_cvmr (t : Strand) (a : Addr) : (t.jump a).cvmr = t.cvmr := by rw [Strand.jump_only]
@[simp] theorem Strand.jump_dsw (t : Strand) (a : Addr) : (t.jump a).dsw = t.dsw := by rw [Strand.jump_only]
@[simp] theorem Strand.jump_handler (t : Strand) (a : Addr) : (t.jump a).handler = t.handler := by rw [Strand.jump_only]
@[simp] theorem Strand.jump_wait (t : Strand) (a : Addr) : (t.jump a).wait = t.wait := by rw [Strand.jump_only]
@[simp] theorem Strand.jump_barPhase (t : Strand) (a : Addr) : (t.jump a).barPhase = t.barPhase := by rw [Strand.jump_only]
@[simp] theorem Strand.jump_pending (t : Strand) (a : Addr) : (t.jump a).pending = t.pending := by rw [Strand.jump_only]
@[simp] theorem Strand.jump_mark (t : Strand) (a : Addr) : (t.jump a).mark = t.mark := by rw [Strand.jump_only]
@[simp] theorem Strand.jump_clean (t : Strand) (a : Addr) : (t.jump a).clean = t.clean := by rw [Strand.jump_only]
@[simp] theorem Strand.jump_written (t : Strand) (a : Addr) : (t.jump a).written = t.written := by rw [Strand.jump_only]
@[simp] theorem Strand.jump_issued (t : Strand) (a : Addr) : (t.jump a).issued = t.issued := by rw [Strand.jump_only]

/-! ## soil -/

theorem Strand.soil_only (t : Strand) (i : Instr) :
    t.soil i = { t with written := (t.soil i).written, clean := (t.soil i).clean } :=
  by
  have fold : ∀ (l : List Nat) (t : Strand), l.foldl Strand.note t = { t with written := (l.foldl Strand.note t).written } := by
    intro l
    induction l with
    | nil => exact fun _ => rfl
    | cons n r ih => intro t; rw [List.foldl_cons, ih, Strand.note_only]
  unfold Strand.soil
  by_cases h : t.mark.isSome = true
  · simp only [h, if_true]
    split <;> rw [fold]
  · simp only [h, Bool.false_eq_true, if_false]
    split <;> rfl

@[simp] theorem Strand.soil_idx (t : Strand) (i : Instr) : (t.soil i).idx = t.idx := by rw [Strand.soil_only]
@[simp] theorem Strand.soil_active (t : Strand) (i : Instr) : (t.soil i).active = t.active := by rw [Strand.soil_only]
@[simp] theorem Strand.soil_pc (t : Strand) (i : Instr) : (t.soil i).pc = t.pc := by rw [Strand.soil_only]
@[simp] theorem Strand.soil_clause (t : Strand) (i : Instr) : (t.soil i).clause = t.clause := by rw [Strand.soil_only]
@[simp] theorem Strand.soil_held (t : Strand) (i : Instr) : (t.soil i).held = t.held := by rw [Strand.soil_only]
@[simp] theorem Strand.soil_joins (t : Strand) (i : Instr) : (t.soil i).joins = t.joins := by rw [Strand.soil_only]
@[simp] theorem Strand.soil_sregs (t : Strand) (i : Instr) : (t.soil i).sregs = t.sregs := by rw [Strand.soil_only]
@[simp] theorem Strand.soil_qregs (t : Strand) (i : Instr) : (t.soil i).qregs = t.qregs := by rw [Strand.soil_only]
@[simp] theorem Strand.soil_fmtr (t : Strand) (i : Instr) : (t.soil i).fmtr = t.fmtr := by rw [Strand.soil_only]
@[simp] theorem Strand.soil_cvmr (t : Strand) (i : Instr) : (t.soil i).cvmr = t.cvmr := by rw [Strand.soil_only]
@[simp] theorem Strand.soil_dsw (t : Strand) (i : Instr) : (t.soil i).dsw = t.dsw := by rw [Strand.soil_only]
@[simp] theorem Strand.soil_handler (t : Strand) (i : Instr) : (t.soil i).handler = t.handler := by rw [Strand.soil_only]
@[simp] theorem Strand.soil_trans (t : Strand) (i : Instr) : (t.soil i).trans = t.trans := by rw [Strand.soil_only]
@[simp] theorem Strand.soil_wait (t : Strand) (i : Instr) : (t.soil i).wait = t.wait := by rw [Strand.soil_only]
@[simp] theorem Strand.soil_barPhase (t : Strand) (i : Instr) : (t.soil i).barPhase = t.barPhase := by rw [Strand.soil_only]
@[simp] theorem Strand.soil_pending (t : Strand) (i : Instr) : (t.soil i).pending = t.pending := by rw [Strand.soil_only]
@[simp] theorem Strand.soil_mark (t : Strand) (i : Instr) : (t.soil i).mark = t.mark := by rw [Strand.soil_only]
@[simp] theorem Strand.soil_issued (t : Strand) (i : Instr) : (t.soil i).issued = t.issued := by rw [Strand.soil_only]

/-! ## The fields that change -/

@[simp] theorem Strand.setS_sregs (t : Strand) (n : Nat) (v : Word) : (t.setS n v).sregs = smSet 0 t.sregs n v := by
  unfold Strand.setS; simp

@[simp] theorem Strand.setS_trans (t : Strand) (n : Nat) (v : Word) : (t.setS n v).trans = (t.settle (128 + n)).trans := by
  unfold Strand.setS; simp

@[simp] theorem Strand.setQ_qregs (t : Strand) (n : Nat) (b : Bool) :
    (t.setQ n b).qregs = if b then t.qregs ||| (1#4 <<< n) else t.qregs &&& ~~~(1#4 <<< n) := by
  unfold Strand.setQ; simp

@[simp] theorem Strand.advance_pc (t : Strand) (n : Nat) : (t.advance n).pc = t.pc + BitVec.ofNat 64 (4 * n) := by
  unfold Strand.advance
  dsimp only
  split
  · rfl
  · split <;> rfl

@[simp] theorem Strand.advance_clause (t : Strand) (n : Nat) :
    (t.advance n).clause = match t.clause with
      | some c => if t.pc + BitVec.ofNat 64 (4 * n) = c.past then none else some c
      | none => none := by
  unfold Strand.advance
  dsimp only
  split
  · rename_i h; simp [h]
  · rename_i c h
    by_cases hp : t.pc + BitVec.ofNat 64 (4 * n) = c.past <;> simp [hp, h]

@[simp] theorem Strand.jump_pc (t : Strand) (a : Addr) : (t.jump a).pc = a := rfl

@[simp] theorem Strand.jump_clause (t : Strand) (a : Addr) : (t.jump a).clause = none := rfl

end Sys2Proof.Machine
end

