-- ==== Sys2Proof/Laws/Issue.lean ====
section
/-! SUPPORT. The issue of an instruction: what its accounting leaves as it was, how its strand goes on, and what it answers
when its register fields pass their checks. -/

namespace Sys2Proof.Machine

/-! ## Devices and partitions -/

theorem vdev_eq_replaceFirst (l : List VDev) (d : VDev) (n : Nat) (h : l.any (fun e => e.id == d.id) = true) :
    ((replaceFirst (fun e => e.id == d.id) d l).find? fun e => e.id == n) =
      if n = d.id then some d else l.find? fun e => e.id == n := by
  induction l with
  | nil => simp at h
  | cons e r ih =>
    by_cases he : e.id = d.id
    · by_cases hn : n = d.id
      · simp [replaceFirst, he, hn]
      · simp [replaceFirst, he, hn, show (d.id == n) = false by simpa using Ne.symm hn]
    · have hr : r.any (fun e => e.id == d.id) = true := by simpa [he] using h
      by_cases hen : e.id = n
      · subst hen; simp [replaceFirst, he]
      · simp [replaceFirst, he, hen, ih hr]

/-- A device put back is what a number reads as; every other device is as it was. -/
theorem State.vdev_setVdev (s : State) (d : VDev) (n : Nat) :
    (s.setVdev d).vdev n = if n = d.id then d else s.vdev n := by
  unfold State.setVdev State.vdev
  by_cases h : s.vdevs.any (fun e => e.id == d.id) = true
  · simp only [h, if_true, vdev_eq_replaceFirst s.vdevs d n h]
    by_cases hn : n = d.id <;> simp [hn]
  · simp only [h, Bool.false_eq_true, if_false, List.find?_append]
    have hnone : ∀ e ∈ s.vdevs, ¬ e.id = d.id := by simpa using h
    by_cases hn : n = d.id
    · subst hn
      have : (s.vdevs.find? fun e => e.id == d.id) = none := by simpa using hnone
      simp [this]
    · have : ([d].find? fun e => e.id == n) = none := by simp [Ne.symm hn]
      simp [this, hn]

theorem State.vdev_id (s : State) (n : Nat) : (s.vdev n).id = n := by
  unfold State.vdev
  cases h : s.vdevs.find? fun e => e.id == n with
  | none => simp
  | some d => simpa using List.find?_some h

/-! ## Elsewhere -/

theorem State.Elsewhere.refl (s : State) : s.Elsewhere s := ⟨rfl, fun _ => rfl, rfl⟩

theorem State.Elsewhere.trans {s t u : State} (h : s.Elsewhere t) (k : t.Elsewhere u) : s.Elsewhere u := by
  refine ⟨?_, fun n => (k.2.1 n).trans (h.2.1 n), k.2.2.trans h.2.2⟩
  have e := k.1
  rw [h.1] at e
  exact e

/-- What changes the focused strand and gang alone leaves everything else. -/
theorem State.Elsewhere.of_focus {s t u : State} (h : s.Elsewhere t)
    (hu : u = { t with g := u.g, t := u.t }) : s.Elsewhere u :=
  h.trans ⟨by rw [hu], fun n => by rw [hu]; rfl, by rw [hu]⟩

theorem State.Elsewhere.sameBytes {s t : State} (h : s.Elsewhere t) : s.SameBytes t := by
  rw [h.1]; exact ⟨fun _ _ => rfl, rfl⟩

theorem State.count_elsewhere (s : State) (vd n k : Nat) : s.Elsewhere (s.count vd n k) := by
  refine ⟨?_, fun m => ?_, ?_⟩
  · unfold State.count State.setVdev
    dsimp only
    split <;> rfl
  · unfold State.count
    dsimp only
    rw [State.vdev_setVdev]
    by_cases hm : m = vd
    · subst hm
      simp [VDev.plain, State.vdev_id]
    · simp [State.vdev_id, hm]
  · unfold State.count State.setVdev
    dsimp only
    split <;> rfl

theorem Part.charge_plain (p : Part) (place k n : Nat) : (p.charge place k n).plain = p.plain := rfl

theorem State.charge_elsewhere (s : State) (vd place k n : Nat) : s.Elsewhere (s.charge vd place k n) := by
  unfold State.charge
  split
  · exact .refl s
  · refine ⟨rfl, fun _ => rfl, ?_⟩
    simp only [List.map_map]
    refine List.map_congr_left fun p _ => ?_
    simp only [Function.comp]
    split
    · exact Part.charge_plain p place k n
    · rfl

theorem State.countCycle_elsewhere (s : State) : s.Elsewhere s.countCycle := by
  unfold State.countCycle
  dsimp only
  split
  · exact .refl s
  · exact (s.count_elsewhere s.g.vd 1 1).trans ⟨rfl, fun _ => rfl, rfl⟩

theorem Strand.age_moved (t : Strand) : Strand.Moved t t.age := by
  unfold Strand.age
  split
  · rfl
  · rfl

/-- The accounting of an issue leaves everything else, and ages the strand's transients. -/
theorem State.countIssue_elsewhere (s : State) (i : Instr) : s.Elsewhere (s.countIssue i) := by
  have core : ∀ n, s.Elsewhere
      (((s.countCycle.count s.g.vd 2 1).charge s.g.vd (dieOf s.g.core) 2 n).takePipes i) := fun n =>
    ((s.countCycle_elsewhere.trans (State.count_elsewhere _ _ _ _)).trans (State.charge_elsewhere _ _ _ _ n)).trans
      ⟨rfl, fun _ => rfl, rfl⟩
  unfold State.countIssue
  split
  · exact .refl s
  · dsimp only
    split
    · exact (core _).of_focus rfl
    · exact core _

/-! ## Registers during the issue -/

theorem transOf_age (t : Strand) (r : Nat) :
    transOf t.age r = (transOf t r).map fun x => { x with since := x.since + 1 } := by
  unfold Strand.age
  split
  · rename_i h; simp [transOf, h]
  · simp only [transOf]
    induction t.trans with
    | nil => rfl
    | cons x l ih => by_cases hx : x.reg = r <;> simp [hx, ih]

@[simp] theorem Strand.readS_age (t : Strand) (r : Nat) : t.age.readS r = t.readS r := by
  unfold Strand.readS
  rw [transOf_age, Strand.age_sregs]
  cases transOf t (128 + r) <;> rfl


/-- The strand of an issue's accounting is the strand, its transients aged when the instruction writes a result. -/
theorem State.countIssue_t (s : State) (i : Instr) : (s.countIssue i).t = s.t ∨ (s.countIssue i).t = s.t.age := by
  unfold State.countIssue
  split
  · exact .inl rfl
  · dsimp only
    split
    · exact .inr (by simp)
    · exact .inl (by simp)

theorem State.countIssue_t_only (s : State) (i : Instr) :
    (s.countIssue i).t = { s.t with trans := (s.countIssue i).t.trans } := by
  rcases s.countIssue_t i with h | h
  · rw [h]
  · rw [h]; exact s.t.age_only

/-- The strand's fields but its transients are those before the issue's accounting. -/
@[simp] theorem State.countIssue_t_active (s : State) (i : Instr) : (s.countIssue i).t.active = s.t.active := by
  rw [State.countIssue_t_only]
@[simp] theorem State.countIssue_t_pc (s : State) (i : Instr) : (s.countIssue i).t.pc = s.t.pc := by
  rw [State.countIssue_t_only]
@[simp] theorem State.countIssue_t_clause (s : State) (i : Instr) : (s.countIssue i).t.clause = s.t.clause := by
  rw [State.countIssue_t_only]
@[simp] theorem State.countIssue_t_sregs (s : State) (i : Instr) : (s.countIssue i).t.sregs = s.t.sregs := by
  rw [State.countIssue_t_only]
@[simp] theorem State.countIssue_t_qregs (s : State) (i : Instr) : (s.countIssue i).t.qregs = s.t.qregs := by
  rw [State.countIssue_t_only]
@[simp] theorem State.countIssue_t_fmtr (s : State) (i : Instr) : (s.countIssue i).t.fmtr = s.t.fmtr := by
  rw [State.countIssue_t_only]
@[simp] theorem State.countIssue_t_cvmr (s : State) (i : Instr) : (s.countIssue i).t.cvmr = s.t.cvmr := by
  rw [State.countIssue_t_only]
@[simp] theorem State.countIssue_t_joins (s : State) (i : Instr) : (s.countIssue i).t.joins = s.t.joins := by
  rw [State.countIssue_t_only]
@[simp] theorem State.countIssue_t_handler (s : State) (i : Instr) : (s.countIssue i).t.handler = s.t.handler := by
  rw [State.countIssue_t_only]
@[simp] theorem State.countIssue_t_wait (s : State) (i : Instr) : (s.countIssue i).t.wait = s.t.wait := by
  rw [State.countIssue_t_only]
@[simp] theorem State.countIssue_t_issued (s : State) (i : Instr) : (s.countIssue i).t.issued = s.t.issued := by
  rw [State.countIssue_t_only]
@[simp] theorem State.countIssue_t_idx (s : State) (i : Instr) : (s.countIssue i).t.idx = s.t.idx := by
  rw [State.countIssue_t_only]

@[simp] theorem State.countIssue_readS (s : State) (i : Instr) (r : Nat) : (s.countIssue i).readS r = s.readS r := by
  unfold State.readS
  rcases s.countIssue_t i with h | h <;> simp [h]

@[simp] theorem State.countIssue_readPair (s : State) (i : Instr) (r : Nat) :
    (s.countIssue i).readPair r = s.readPair r := by simp [State.readPair]

@[simp] theorem State.countIssue_readV (s : State) (i : Instr) (r l : Nat) :
    (s.countIssue i).readV r l = s.readV r l := by
  unfold State.readV
  rcases s.countIssue_t i with h | h
  · simp [h]
  · rw [h, transOf_age, State.countIssue_g]
    cases transOf s.t r <;> rfl

@[simp] theorem State.countIssue_readQ (s : State) (i : Instr) (n : Nat) : (s.countIssue i).readQ n = s.readQ n := by
  simp [State.readQ]

@[simp] theorem State.countIssue_vdev_plain (s : State) (i : Instr) (n : Nat) :
    ((s.countIssue i).vdev n).plain = (s.vdev n).plain := (s.countIssue_elsewhere i).2.1 n

/-! ## Going on -/

theorem Strand.expire_trans_reg (t : Strand) : t.expire.trans.map (fun x => x.reg) = t.trans.map fun x => x.reg := by
  unfold Strand.expire
  split
  · rfl
  · simp only [List.map_map]
    refine List.map_congr_left fun x _ => ?_
    simp only [Function.comp]; split <;> rfl








theorem Strand.Moved.trans {u v w : Strand} (h : u.Moved v) (k : v.Moved w) : u.Moved w := by
  unfold Strand.Moved at h k ⊢
  rw [h] at k
  exact k

theorem Strand.moved_soil (t : Strand) (i : Instr) : t.Moved (t.soil i) := by
  unfold Strand.Moved; rw [Strand.soil_only]

theorem Strand.moved_ripen (t : Strand) : t.Moved t.ripen := by unfold Strand.Moved; rw [Strand.ripen_only]

theorem Strand.moved_age (t : Strand) : t.Moved t.age := by unfold Strand.Moved; rw [Strand.age_only]

theorem Strand.moved_advance (t : Strand) (n : Nat) : t.Moved (t.advance n) := by
  unfold Strand.Moved; rw [Strand.advance_only]

/-- An instruction that goes on moves its strand and nothing else of it. -/
theorem Strand.finish_seq_moved (t : Strand) (i : Instr) (len : Nat) (cycle : Nat) (step : Bool) :
    Strand.Moved t ((t.soil i).finish len cycle step .seq) := by
  refine (t.moved_soil i).trans ?_
  generalize t.soil i = u
  refine u.moved_ripen.trans ?_
  unfold Strand.finish
  dsimp only
  generalize u.ripen = v
  refine Strand.Moved.trans (v := { v with
      wait := .none, prev := if u.waited then u.prev else some cycle, since := if u.waited then cycle + 1 else u.since,
      opens := cycle + 1, ignNext := false, uncheckedNext := false, entered := false,
      barPhase := if u.handler then u.barPhase else none }) rfl ?_
  exact (Strand.moved_advance _ len).trans rfl

theorem Strand.ripen_regs (t : Strand) : t.ripen.trans.map (fun x => x.reg) = t.trans.map fun x => x.reg := by
  unfold Strand.ripen
  split
  · rfl
  · simp only [List.map_map]
    refine List.map_congr_left fun x _ => ?_
    simp only [Function.comp]; split <;> rfl

/-- The state that an instruction which goes on leaves, from the one that its effect leaves. -/
def State.retired (u : State) (i : Instr) : State :=
  { u with t := (u.t.soil i).finish (wordsOf i) u.cycle (u.g.dbgc.getLsbD 20) .seq }

/-- What an instruction whose register fields pass their checks answers, by what its effect answers. -/
theorem issue_eq {i : Instr} {s : State} (body : State → Except Trap (State × Next)) (h : s.Issues i) :
    issue i s body =
      match body (s.countIssue i) with
      | .error tr => .next (s.trapHere tr)
      | .ok (u, .done) => .next u
      | .ok (u, .stay) => .next (u.waitsFrom (!s.t.waited))
      | .ok (_, .held x) => .next (s.holdAt x)
      | .ok (_, .miss va kind tr) =>
        match s.faultStall va kind tr with
        | .ok u => .next u
        | .error tr => .next (s.trapHere tr)
      | .ok (u, n) => .next { u with t := (u.t.soil i).finish (wordsOf i) u.cycle (u.g.dbgc.getLsbD 20) n } := by
  unfold issue
  rw [if_neg (by simp [h.1]), h.2]
  all_goals
    dsimp only
    rcases body (s.countIssue i) with tr | ⟨u, n⟩
    · rfl
    · cases n <;> rfl

/-- An instruction whose register fields pass their checks and whose effect goes on answers a next state. -/
theorem issue_seq {i : Instr} {s u : State} {body : State → Except Trap (State × Next)} (h : s.Issues i)
    (hb : body (s.countIssue i) = .ok (u, .seq)) : issue i s body = .next (u.retired i) := by
  rw [issue_eq body h, hb]; rfl

theorem issueSeq_next {i : Instr} {s : State} (f : State → State) (h : s.Issues i) :
    issueSeq i s f = .next ((f (s.countIssue i)).retired i) := issue_seq h rfl

/-- An instruction whose effect raises a trap takes it at its word. -/
theorem issue_error {i : Instr} {s : State} {tr : Trap} {body : State → Except Trap (State × Next)} (h : s.Issues i)
    (hb : body (s.countIssue i) = .error tr) : issue i s body = .next (s.trapHere tr) := by
  rw [issue_eq body h, hb]

theorem issue_done {i : Instr} {s u : State} {body : State → Except Trap (State × Next)} (h : s.Issues i)
    (hb : body (s.countIssue i) = .ok (u, .done)) : issue i s body = .next u := by
  rw [issue_eq body h, hb]

theorem issue_stay {i : Instr} {s u : State} {body : State → Except Trap (State × Next)} (h : s.Issues i)
    (hb : body (s.countIssue i) = .ok (u, .stay)) : issue i s body = .next (u.waitsFrom (!s.t.waited)) := by
  rw [issue_eq body h, hb]

/-- An instruction that cannot issue yet has had no effect. -/
theorem issue_held {i : Instr} {s u : State} {x : Hold} {body : State → Except Trap (State × Next)} (h : s.Issues i)
    (hb : body (s.countIssue i) = .ok (u, .held x)) : issue i s body = .next (s.holdAt x) := by
  rw [issue_eq body h, hb]

/-- An instruction that meets a recoverable fault stalls before it has had an effect, or traps where no record is left. -/
theorem issue_miss {i : Instr} {s u : State} {va kind : Nat} {tr : Trap} {body : State → Except Trap (State × Next)}
    (h : s.Issues i) (hb : body (s.countIssue i) = .ok (u, .miss va kind tr)) :
    issue i s body =
      match s.faultStall va kind tr with
      | .ok u => .next u
      | .error tr => .next (s.trapHere tr) := by
  rw [issue_eq body h, hb]

theorem issue_jump {i : Instr} {s u : State} {a : Addr} {body : State → Except Trap (State × Next)} (h : s.Issues i)
    (hb : body (s.countIssue i) = .ok (u, .jump a)) :
    issue i s body = .next { u with
      t := (u.t.soil i).finish (wordsOf i) u.cycle (u.g.dbgc.getLsbD 20) (.jump a) } := by
  rw [issue_eq body h, hb]

@[simp] theorem State.retired_g (u : State) (i : Instr) : (u.retired i).g = u.g := rfl

theorem State.retired_moved (u : State) (i : Instr) : u.t.Moved (u.retired i).t :=
  Strand.finish_seq_moved _ _ _ _ _

theorem State.retired_elsewhere {s u : State} (i : Instr) (h : s.Elsewhere u) : s.Elsewhere (u.retired i) :=
  h.of_focus rfl


theorem State.retired_wentOn {s u : State} (i : Instr) (hp : u.t.pc = s.t.pc) (hc : u.t.clause = s.t.clause) :
    s.WentOn i (u.retired i) := by
  refine ⟨?_, ?_, ?_⟩
  · simp [State.retired, Strand.finish, hp]
  · simp only [State.retired, Strand.finish]
    rw [Strand.advance_only]
  · simp only [State.retired, Strand.finish, Strand.advance_clause, Strand.ripen_pc, Strand.ripen_clause, Strand.soil_pc,
      Strand.soil_clause, hp, hc] <;>
    cases s.t.clause <;> rfl

/-! ## What an instruction that writes an S register leaves -/

theorem transOf_settle_same (t : Strand) (r : Nat) : transOf (t.settle r) r = none := by
  unfold Strand.settle transOf
  split
  · simp
  · rename_i h; simpa using h

theorem find_reg_of_regs (l m : List Trans) (h : l.map (fun x => x.reg) = m.map fun x => x.reg) (r : Nat)
    (hm : (m.find? fun x => x.reg == r) = none) : (l.find? fun x => x.reg == r) = none := by
  have key : ∀ n ∈ l.map (fun x => x.reg), n ≠ r := by
    rw [h]; intro n hn
    obtain ⟨x, hx, rfl⟩ := List.mem_map.mp hn
    simpa using List.find?_eq_none.mp hm x hx
  exact List.find?_eq_none.mpr fun x hx => by simpa using key x.reg (List.mem_map_of_mem hx)

theorem Strand.advance_regs (t : Strand) (n : Nat) :
    (t.advance n).trans.map (fun x => x.reg) = t.trans.map fun x => x.reg := by
  unfold Strand.advance
  dsimp only
  split
  · rfl
  · split
    · exact t.expire_trans_reg
    · rfl

theorem State.retired_regs (u : State) (i : Instr) :
    (u.retired i).t.trans.map (fun x => x.reg) = u.t.trans.map fun x => x.reg := by
  have hs : (u.t.soil i).trans = u.t.trans := by rw [Strand.soil_only]
  simp only [State.retired, Strand.finish]
  rw [Strand.advance_regs, Strand.ripen_regs, hs]

theorem State.retired_transOf_none {u : State} (i : Instr) {r : Nat} (h : transOf u.t r = none) :
    transOf (u.retired i).t r = none := find_reg_of_regs _ _ (u.retired_regs i) r h

theorem Strand.setS_readS (t : Strand) (r : Nat) (v : Word) : (t.setS r v).readS r = v := by
  have h : transOf (t.setS r v) (128 + r) = none := by
    unfold transOf; rw [Strand.setS_trans]; exact transOf_settle_same t (128 + r)
  unfold Strand.readS
  rw [h]
  simp

theorem Strand.setS_moved (t : Strand) (r : Nat) (v : Word) :
    Strand.Moved { t with sregs := smSet 0 t.sregs r v } (t.setS r v) := by
  have h := Strand.setS_only t r v
  rw [Strand.setS_sregs] at h
  generalize t.setS r v = u at h ⊢
  rw [h]
  rfl

theorem Strand.Moved.with_sregs {u v : Strand} (h : u.Moved v) : Strand.Moved { u with sregs := v.sregs } v := by
  unfold Strand.Moved at h ⊢; rw [h]

theorem Strand.Moved.sregs_of {t u v : Strand} (m : SMap Word) (hu : Strand.Moved { t with sregs := m } u) (h : u.Moved v) :
    Strand.Moved { t with sregs := v.sregs } v := by
  unfold Strand.Moved at hu h ⊢
  rw [h, hu]

theorem Strand.moved_sregs {u v : Strand} (h : u.Moved v) : v.sregs = u.sregs := by
  unfold Strand.Moved at h; rw [h]

/-- A live transient of a strand that goes on stays among its records. -/
theorem State.retired_trans_mem {u : State} (i : Instr) {r : Nat} {l : List (Nat × Word)}
    (h : (⟨r, .live, l, 0⟩ : Trans) ∈ u.t.trans) : ∃ k, (⟨r, k, l, 0⟩ : Trans) ∈ (u.retired i).t.trans := by
  have hs : (u.t.soil i).trans = u.t.trans := by rw [Strand.soil_only]
  have hr : (⟨r, .live, l, 0⟩ : Trans) ∈ (u.t.soil i).ripen.trans := by
    rw [← hs] at h
    unfold Strand.ripen
    split
    · exact h
    · exact List.mem_map.mpr ⟨_, h, by simp⟩
  have adv : ∀ (t : Strand) (n : Nat), (⟨r, .live, l, 0⟩ : Trans) ∈ t.trans →
      ∃ k, (⟨r, k, l, 0⟩ : Trans) ∈ (t.advance n).trans := by
    intro t n ht
    unfold Strand.advance
    dsimp only
    split
    · exact ⟨_, ht⟩
    · split
      · refine ⟨.expired, ?_⟩
        unfold Strand.expire
        dsimp only
        split
        · rename_i hn; rw [hn] at ht; cases ht
        · exact List.mem_map.mpr ⟨_, ht, by simp⟩
      · exact ⟨_, ht⟩
  exact adv _ _ hr

/-- An instruction whose effect is one write to an S register leaves what `WritesS` says. -/
theorem State.retired_writesS (s : State) (i : Instr) (p : Pre) (d : BitVec 7) (v : Word) :
    s.WritesS i (((s.countIssue i).writeS p d v).retired i) p d v := by
  have he : s.Elsewhere ((s.countIssue i).writeS p d v) := (s.countIssue_elsewhere i).of_focus rfl
  have hm : Strand.Moved { s.t with sregs := ((s.countIssue i).writeS p d v).t.sregs }
      ((s.countIssue i).writeS p d v).t := by
    have h0 : s.t.Moved (s.countIssue i).t := by
      rcases s.countIssue_t i with h | h <;> rw [h]
      · rfl
      · exact s.t.moved_age
    unfold State.writeS
    cases p.t with
    | true => exact Strand.Moved.with_sregs (h0.trans rfl)
    | false =>
      have := Strand.setS_moved (s.countIssue i).t d.toNat v
      unfold Strand.Moved at this h0 ⊢
      simp only [Bool.false_eq_true, if_false]
      rw [this, h0]
  have hr := ((s.countIssue i).writeS p d v).retired_moved i
  refine ⟨State.retired_elsewhere i he, (State.retired_elsewhere i he).sameBytes, by simp, ?_, hm.sregs_of _ hr, ?_, ?_⟩
  · refine State.retired_wentOn i ?_ ?_
    · unfold State.writeS; cases p.t <;> simp
    · unfold State.writeS; cases p.t <;> simp
  · intro hp
    have hu : ((s.countIssue i).writeS p d v).t = (s.countIssue i).t.setS d.toNat v := by simp [State.writeS, hp]
    have hregs : (((s.countIssue i).writeS p d v).retired i).t.sregs = smSet 0 s.t.sregs d.toNat v := by
      rw [Strand.moved_sregs hr, hu]; simp
    have hnone : transOf (((s.countIssue i).writeS p d v).retired i).t (128 + d.toNat) = none := by
      refine State.retired_transOf_none i ?_
      rw [hu]
      unfold transOf
      rw [Strand.setS_trans]
      exact transOf_settle_same _ _
    refine ⟨?_, fun r hr => ?_⟩
    · unfold State.readS Strand.readS
      rw [hnone, hregs]
      simp
    · rw [hregs, smGet_smSet_other 0 _ v (Ne.symm hr)]
  · intro hp
    have hu : ((s.countIssue i).writeS p d v).t = (s.countIssue i).t.bypass (128 + d.toNat) [(0, v)] := by
      simp [State.writeS, hp]
    refine ⟨?_, State.retired_trans_mem i ?_⟩
    · rw [Strand.moved_sregs hr, hu]; simp
    · rw [hu]; exact List.mem_cons_self

end Sys2Proof.Machine
end

