-- ==== Sys2Proof/Laws/Memory.lean ====
section
/-! SUPPORT. Memory: what a byte reads as after a write, and the canonical form that every operation on memory keeps. -/

namespace Sys2Proof.Machine

/-- Memory lists nothing at reset, which is the canonical form. -/
theorem reset_memory_wf : Memory.wf State.reset.mem = true := rfl

theorem Memory.wf_smSet (m : List Host.Cell) (a : Nat) (b : Byte) (h : Memory.wf m = true) :
    Memory.wf (smSet unlisted m a b) = true := smWf_smSet unlisted m a b h

theorem Memory.wf_smSetAll (m : List Host.Cell) (l : List (Nat × Byte)) (h : Memory.wf m = true) :
    Memory.wf (smSetAll unlisted m l) = true := smWf_smSetAll unlisted l m h

theorem Memory.wf_filter (m : List Host.Cell) (p : Host.Cell → Bool) (h : Memory.wf m = true) :
    Memory.wf (m.filter p) = true := smWf_filter unlisted p m h

theorem Memory.wf_smDrop (m : List Host.Cell) (lo hi : Nat) (h : Memory.wf m = true) :
    Memory.wf (smDrop m lo hi) = true := smWf_smDrop unlisted m lo hi h

theorem State.touchPending_wf (s : State) (c : Nat) (h : Memory.wf s.mem = true) :
    Memory.wf (s.touchPending c).mem = true := by
  unfold State.touchPending
  split
  · exact Memory.wf_smDrop _ _ _ h
  · exact h

theorem State.rekey_wf (s : State) (key c : Nat) (h : Memory.wf s.mem = true) :
    Memory.wf (s.rekey key c).mem = true := by
  unfold State.rekey
  dsimp only
  split
  · exact h
  · split
    · exact h
    · show Memory.wf (smSetAll unlisted s.mem _) = true
      exact Memory.wf_smSetAll s.mem _ h

/-- A written byte keeps memory canonical. -/
theorem State.writeByte_wf (s : State) (key c : Nat) (b : Byte) (h : Memory.wf s.mem = true) :
    Memory.wf (s.writeByte key c b).mem = true :=
  Memory.wf_smSet _ _ _ ((s.rekey key c).touchPending_wf c (s.rekey_wf key c h))

/-- Bytes written in order keep memory canonical. -/
theorem State.writeBytes_wf (s : State) (l : List (Nat × Nat × Byte)) (h : Memory.wf s.mem = true) :
    Memory.wf (s.writeBytes l).mem = true := by
  have fold : ∀ (l : List (Nat × Nat × Byte)) (s : State), Memory.wf s.mem = true →
      Memory.wf (l.foldl (fun s x => s.writeByte x.2.1 x.1 x.2.2) s).mem = true := by
    intro l
    induction l with
    | nil => exact fun s h => h
    | cons x r ih => exact fun s h => ih _ (s.writeByte_wf _ _ _ h)
  unfold State.writeBytes
  dsimp only
  split
  · exact fold l s h
  · exact fold l s h

theorem State.writeDpa_wf (s : State) (key dpa : Nat) (bs : List Byte) (h : Memory.wf s.mem = true) :
    Memory.wf (s.writeDpa key dpa bs).mem = true := s.writeBytes_wf _ h

theorem State.writeR_wf (s : State) (e : RangeEntry) (o : Nat) (bs : List Byte) (h : Memory.wf s.mem = true) :
    Memory.wf (s.writeR e o bs).mem = true := s.writeBytes_wf _ h

/-! ## Reading after writing -/

theorem State.touchPending_pending (s : State) (c : Nat) : (s.touchPending c).pendingByte c = false := by
  unfold State.touchPending
  split
  · rename_i h
    revert h
    unfold State.pendingByte
    simp only []
    generalize s.pendingClear = ps
    induction ps with
    | nil => simp
    | cons p r ih =>
      by_cases hp : p.1 = c / 4096
      · simp [hp]
      · simpa [hp] using ih
  · rename_i h
    exact Bool.eq_false_iff.mpr h

/-- A byte that is neither pending nor in a sector with an error, read under a key. -/
def State.soundByte (s : State) (k a : Nat) : Byte :=
  if smGet noKey s.lineKey (a / 128) = noKey ∨ smGet noKey s.lineKey (a / 128) = ⟨k, s.genOf k⟩ then smGet unlisted s.mem a
  else (s.otherLine (smGet noKey s.lineKey (a / 128)) ⟨k, s.genOf k⟩ a).getD (a % 128) 0

theorem State.byteUnder_eq (s : State) (k a : Nat) :
    s.byteUnder k a =
      if s.pendingByte a then 0 else if s.sectorBad (sectorOf a) then Config.freeByte a else s.soundByte k a := rfl

theorem State.otherLine_line (s : State) (old new : LineKey) (c i : Nat) (h : i < 128) :
    s.otherLine old new (c / 128 * 128 + i) = s.otherLine old new c := by
  have e : (c / 128 * 128 + i) / 128 = c / 128 := by omega
  unfold State.otherLine State.clearLine
  rw [e]

theorem State.clearLine_byte (s : State) (c i : Nat) (h : i < 128) :
    (s.clearLine c).getD i 0 = smGet unlisted s.mem (c / 128 * 128 + i) := by
  unfold State.clearLine
  rw [smRead_eq]
  simp [List.getD, h]

/-- The entries of a line are its 128 bytes, as they read. -/
theorem State.lineUnder_eq (s : State) (key c : Nat) :
    s.lineUnder key c = (List.range 128).map fun i => (c / 128 * 128 + i, s.byteUnder key (c / 128 * 128 + i)) := by
  unfold State.lineUnder
  refine List.map_congr_left fun i hi => ?_
  have hi : i < 128 := List.mem_range.mp hi
  have e1 : (c / 128 * 128 + i) / 128 = c / 128 := by omega
  have e2 : (c / 128 * 128 + i) % 128 = i := by omega
  rw [State.byteUnder_eq, State.soundByte, e1, e2, State.otherLine_line _ _ _ _ _ hi, ← State.clearLine_byte _ _ _ hi]
  by_cases h : smGet noKey s.lineKey (c / 128) = noKey ∨ smGet noKey s.lineKey (c / 128) = ⟨key, s.genOf key⟩
  · simp only [if_pos h]
  · simp only [if_neg h]

/-- The keys of a line's entries are its 128 bytes. -/
theorem State.smGet_lineUnder (s : State) (m : List Host.Cell) (key c a : Nat) :
    smGet unlisted (smSetAll unlisted m (s.lineUnder key c)) a =
      if a / 128 = c / 128 then s.byteUnder key a else smGet unlisted m a := by
  have fold : ∀ (n k : Nat) (m : List Host.Cell),
      smGet unlisted (smSetAll unlisted m
        ((List.range' k n).map fun i => (c / 128 * 128 + i, s.byteUnder key (c / 128 * 128 + i)))) a =
        if c / 128 * 128 + k ≤ a ∧ a < c / 128 * 128 + k + n then s.byteUnder key a else smGet unlisted m a := by
    intro n
    induction n with
    | zero => intro k m; simp [smSetAll] <;> omega
    | succ n ih =>
      intro k m
      rw [List.range'_succ, List.map_cons, smSetAll, ih, smGet_smSet]
      by_cases h1 : c / 128 * 128 + k = a
      · subst h1; simp
      · have e : (c / 128 * 128 + (k + 1) ≤ a ∧ a < c / 128 * 128 + (k + 1) + n) ↔
            (c / 128 * 128 + k ≤ a ∧ a < c / 128 * 128 + k + (n + 1)) := by omega
        simp only [e, if_neg h1]
  rw [State.lineUnder_eq, List.range_eq_range', fold]
  have e : (c / 128 * 128 + 0 ≤ a ∧ a < c / 128 * 128 + 0 + 128) ↔ a / 128 = c / 128 := by omega
  simp only [e]

/-- What a byte reads as depends on its own line's key and its own value. -/
theorem State.byteUnder_congr (s : State) (m : List Host.Cell) (n : SMap LineKey) (k a : Nat)
    (h : s.pendingByte a = false → s.sectorBad (sectorOf a) = false →
      ({ s with mem := m, lineKey := n } : State).soundByte k a = s.soundByte k a) :
    ({ s with mem := m, lineKey := n } : State).byteUnder k a = s.byteUnder k a := by
  rw [State.byteUnder_eq, State.byteUnder_eq]
  have e1 : ({ s with mem := m, lineKey := n } : State).pendingByte a = s.pendingByte a := rfl
  have e2 : ({ s with mem := m, lineKey := n } : State).sectorBad (sectorOf a) = s.sectorBad (sectorOf a) := rfl
  rw [e1, e2]
  by_cases h1 : s.pendingByte a = true
  · rw [if_pos h1, if_pos h1]
  · rw [if_neg h1, if_neg h1]
    by_cases h2 : s.sectorBad (sectorOf a) = true
    · rw [if_pos h2, if_pos h2]
    · rw [if_neg h2, if_neg h2]
      exact h (Bool.eq_false_iff.mpr h1) (Bool.eq_false_iff.mpr h2)

/-- A byte of a line that its reader's key wrote reads as stored. -/
theorem State.soundByte_own (s : State) (m : List Host.Cell) (n : SMap LineKey) (k a : Nat)
    (h : smGet noKey n (a / 128) = ⟨k, s.genOf k⟩) :
    ({ s with mem := m, lineKey := n } : State).soundByte k a = smGet unlisted m a := if_pos (Or.inr h)

/-- A line whose key and bytes are as before reads as before. -/
theorem State.soundByte_congr (s : State) (m : List Host.Cell) (n : SMap LineKey) (k a : Nat)
    (hk : smGet noKey n (a / 128) = smGet noKey s.lineKey (a / 128))
    (hm : ∀ b, b / 128 = a / 128 → smGet unlisted m b = smGet unlisted s.mem b) :
    ({ s with mem := m, lineKey := n } : State).soundByte k a = s.soundByte k a := by
  have line : ({ s with mem := m, lineKey := n } : State).clearLine a = s.clearLine a := by
    unfold State.clearLine
    rw [smRead_eq, smRead_eq]
    refine List.map_congr_left fun i hi => hm _ ?_
    have := List.mem_range.mp hi
    omega
  have mat : ∀ x, ({ s with mem := m, lineKey := n } : State).material x = s.material x := fun _ => rfl
  have gen : ({ s with mem := m, lineKey := n } : State).genOf k = s.genOf k := rfl
  unfold State.soundByte State.otherLine
  rw [gen, line]
  simp only [hk, mat, hm a rfl]

/-- A line that is rekeyed reads under its new key as before. -/
theorem State.rekey_byteUnder (s : State) (key c a : Nat) :
    (s.rekey key c).byteUnder key a = s.byteUnder key a := by
  unfold State.rekey
  dsimp only
  split
  · rfl
  · rename_i h1
    split
    · rename_i h2
      refine s.byteUnder_congr s.mem _ key a fun _ _ => ?_
      by_cases hl : c / 128 = a / 128
      · rw [State.soundByte_own _ _ _ _ _ (by rw [smGet_smSet, if_pos hl])]
        exact (if_pos (Or.inl (hl ▸ h2))).symm
      · exact s.soundByte_congr _ _ _ _ (by rw [smGet_smSet, if_neg hl]) fun _ _ => rfl
    · refine s.byteUnder_congr _ _ key a fun hp hq => ?_
      by_cases hl : c / 128 = a / 128
      · rw [State.soundByte_own _ _ _ _ _ (by rw [smGet_smSet, if_pos hl]), State.smGet_lineUnder, if_pos hl.symm,
          State.byteUnder_eq, hp, hq]
        simp
      · refine s.soundByte_congr _ _ _ _ (by rw [smGet_smSet, if_neg hl]) fun b hb => ?_
        rw [State.smGet_lineUnder, if_neg (by omega)]

/-- Every other line reads as before under every key. -/
theorem State.rekey_byteUnder_far (s : State) (key c k a : Nat) (h : a / 128 ≠ c / 128) :
    (s.rekey key c).byteUnder k a = s.byteUnder k a := by
  unfold State.rekey
  dsimp only
  split
  · rfl
  · split
    · exact s.byteUnder_congr s.mem _ k a fun _ _ =>
        s.soundByte_congr _ _ _ _ (by rw [smGet_smSet, if_neg (Ne.symm h)]) fun _ _ => rfl
    · refine s.byteUnder_congr _ _ k a fun _ _ =>
        s.soundByte_congr _ _ _ _ (by rw [smGet_smSet, if_neg (Ne.symm h)]) fun b hb => ?_
      rw [State.smGet_lineUnder, if_neg (by omega)]

/-- A rekeyed line's key is the writer's, or the line has none. -/
theorem State.rekey_lineKey (s : State) (key c : Nat) :
    smGet noKey (s.rekey key c).lineKey (c / 128) = ⟨key, s.genOf key⟩ := by
  unfold State.rekey
  dsimp only
  split
  · assumption
  · split <;> simp

/-- Only the sector of the byte stops pending. -/
theorem State.touchPending_pendingByte (s : State) (c a : Nat) :
    (s.touchPending c).pendingByte a = (s.pendingByte a && decide (a / 32 ≠ c / 32)) := by
  by_cases hs : a / 32 = c / 32
  · have hp : a / 4096 = c / 4096 := by omega
    have hm : a % 4096 / 32 = c % 4096 / 32 := by omega
    have : (s.touchPending c).pendingByte a = (s.touchPending c).pendingByte c := by
      unfold State.pendingByte; rw [hp, hm]
    rw [this, State.touchPending_pending]; simp [hs]
  · unfold State.touchPending
    split
    · unfold State.pendingByte
      dsimp only
      simp only [hs, not_false_eq_true, decide_true, Bool.and_true, ne_eq]
      generalize s.pendingClear = ps
      induction ps with
      | nil => rfl
      | cons p r ih =>
        by_cases hp : p.1 = a / 4096
        · by_cases hc : p.1 = c / 4096
          · have hm : a % 4096 / 32 ≠ c % 4096 / 32 := by omega
            simp [List.map_cons, hp, ← hc, hm]
          · have hc' : ¬ a / 4096 = c / 4096 := by omega
            simp [List.map_cons, hp, hc']
        · have hp' : (p.1 == a / 4096) = false := by simpa using hp
          by_cases hc : p.1 = c / 4096
          · simpa [List.map_cons, List.find?_cons, ← hc, hp'] using ih
          · simpa [List.map_cons, List.find?_cons, hc, hp'] using ih
    · simp [hs]

@[simp] theorem State.touchPending_lineKey (s : State) (c : Nat) : (s.touchPending c).lineKey = s.lineKey := by
  unfold State.touchPending; split <;> rfl

@[simp] theorem State.touchPending_keyGen (s : State) (c : Nat) : (s.touchPending c).keyGen = s.keyGen := by
  unfold State.touchPending; split <;> rfl

@[simp] theorem State.rekey_keyGen (s : State) (key c : Nat) : (s.rekey key c).keyGen = s.keyGen := by
  unfold State.rekey; dsimp only; split
  · rfl
  · split <;> rfl

@[simp] theorem State.rekey_poison (s : State) (key c : Nat) : (s.rekey key c).poison = s.poison := by
  unfold State.rekey; dsimp only; split
  · rfl
  · split <;> rfl

@[simp] theorem State.rekey_pendingClear (s : State) (key c : Nat) : (s.rekey key c).pendingClear = s.pendingClear := by
  unfold State.rekey; dsimp only; split
  · rfl
  · split <;> rfl

/-- The sector of a pending byte is zeroed; every other byte keeps its value. -/
theorem State.touchPending_mem (s : State) (c a : Nat) :
    smGet unlisted (s.touchPending c).mem a =
      if s.pendingByte c = true ∧ a / 32 = c / 32 then unlisted else smGet unlisted s.mem a := by
  unfold State.touchPending
  split
  · rename_i h
    dsimp only
    rw [smGet_smDrop]
    have e : (c / 32 * 32 ≤ a ∧ a < c / 32 * 32 + 32) ↔ a / 32 = c / 32 := by omega
    simp [e, h]
  · rename_i h; simp [h]

/-- The sector of a pending byte loses its poison; every other sector keeps it. -/
theorem State.touchPending_poison (s : State) (c x : Nat) :
    (s.touchPending c).poison.contains x = (s.poison.contains x && !(s.pendingByte c && x == sectorOf c)) := by
  unfold State.touchPending
  split
  · rename_i h
    rw [Bool.eq_iff_iff]
    simp [h]
  · rename_i h; simp [Bool.eq_false_iff.mpr h]

end Sys2Proof.Machine
end

