-- ==== Sys2Proof/Laws/PerInstr.lean ====
section
/-! SUPPORT. What the decoder reads back from the encoder's words, instruction by instruction. -/

namespace Sys2Proof.Laws

set_option linter.unusedSimpArgs false

/-- The family: decoding an encoded well-formed instruction gives it back, with every operand; a word that is a header
or illegal by where it is reached stands for itself; an event has no words. -/
def RoundTrip.Statement (i : Instr) : Prop :=
  match i.stream with
  | .strand => i.WellFormed → ∀ tail, decodeBytes ((encode i).flatMap bytesOfWord ++ tail) = .ok (i, tail)
  | .placed => ∃ w, encode i = [w]
  | .bank => ∃ lo hi : Word, encode i = [lo, hi] ∧ decodeBank (hi ++ lo) = some i
  | .job => commandOk i = true → decodeFinby (encode i) = .ok i
  | .event => encode i = []

/-- The bytes of a word give it back (R3). -/
theorem word_bytes (w : Word) :
    wordOfBytes (w.extractLsb' 0 8) (w.extractLsb' 8 8) (w.extractLsb' 16 8) (w.extractLsb' 24 8) = w := by
  apply BitVec.eq_of_toNat_eq
  have := w.isLt
  simp only [wordOfBytes, append_nat, BitVec.extractLsb'_toNat, Nat.shiftRight_eq_div_pow]
  omega

/-- A word that reads back as a well-formed instruction whose words it is decodes to it. -/
theorem decode_ok {i : Instr} {w x : Word} (hm : ¬ (majorClass (fOP w).toNat = none ∧ (fOP w).toNat < 0x70))
    (hf : i.WellFormed) (he : encode i = if isLongMajor (fOP w).toNat then [w, x] else [w])
    (hd : decodeFields w x = some i) : decode w x = .ok i := by
  unfold decode
  rw [if_neg hm, hd]
  exact if_pos ⟨hf, he⟩

/-- A one-word instruction whose fields read back decodes to itself. -/
theorem word_back {i : Instr} {w : Word} {op : BitVec 7} (ho : fOP w = op) (hl : isLongMajor op.toNat = false)
    (hm : ¬ (majorClass op.toNat = none ∧ op.toNat < 0x70)) (hf : i.WellFormed) (he : encode i = [w])
    (hd : ∀ x, decodeFields w x = some i) (tail : List Byte) :
    decodeBytes ((encode i).flatMap bytesOfWord ++ tail) = .ok (i, tail) := by
  subst ho
  have h := decode_ok hm hf (x := 0) (by rw [hl, he]; rfl) (hd 0)
  rw [he]
  change decodeBytes (w.extractLsb' 0 8 :: w.extractLsb' 8 8 :: w.extractLsb' 16 8 :: w.extractLsb' 24 8 :: tail) = _
  unfold decodeBytes
  simp only [word_bytes, hl, h, Bool.false_eq_true, if_false]
  rfl

/-- A LONG instruction whose fields read back decodes to itself. -/
theorem long_back {i : Instr} {w x : Word} {op : BitVec 7} (ho : fOP w = op) (hl : isLongMajor op.toNat = true)
    (hm : ¬ (majorClass op.toNat = none ∧ op.toNat < 0x70)) (hf : i.WellFormed) (he : encode i = [w, x])
    (hd : decodeFields w x = some i) (tail : List Byte) :
    decodeBytes ((encode i).flatMap bytesOfWord ++ tail) = .ok (i, tail) := by
  subst ho
  have h := decode_ok hm hf (x := x) (by rw [hl, he]; rfl) hd
  rw [he]
  change decodeBytes (w.extractLsb' 0 8 :: w.extractLsb' 8 8 :: w.extractLsb' 16 8 :: w.extractLsb' 24 8 ::
    x.extractLsb' 0 8 :: x.extractLsb' 8 8 :: x.extractLsb' 16 8 :: x.extractLsb' 24 8 :: tail) = _
  unfold decodeBytes
  simp only [word_bytes, hl, h, if_true]
  rfl

/-- The two words of a 64-bit quantity give it back (R3). -/
theorem join64 (a : Addr) : a.extractLsb' 32 32 ++ a.extractLsb' 0 32 = a := by
  apply BitVec.eq_of_toNat_eq
  have := a.isLt
  simp only [append_nat, BitVec.extractLsb'_toNat, Nat.shiftRight_eq_div_pow]
  omega

/-- A bank instruction whose 64-bit word reads back. -/
theorem bank_back {i : Instr} {a : Addr} (he : encode i = words64 a) (hd : decodeBank a = some i) :
    ∃ lo hi : Word, encode i = [lo, hi] ∧ decodeBank (hi ++ lo) = some i :=
  ⟨_, _, he, by rw [join64]; exact hd⟩

/-- CMD of a command's first word (R19). -/
theorem cmd_cmdWord (arg : BitVec 16) (len : BitVec 4) (cmd : BitVec 8) : (cmdWord arg len cmd).extractLsb' 0 8 = cmd := by
  simp (disch := decide) only [cmdWord, lo_slice, full_slice]

/-- LEN of a command's first word (R19). -/
theorem len_cmdWord (arg : BitVec 16) (len : BitVec 4) (cmd : BitVec 8) : (cmdWord arg len cmd).extractLsb' 8 4 = len := by
  simp (disch := decide) only [cmdWord, hi_slice, lo_slice, full_slice, Nat.reduceSub]

/-- The reserved bits of a command's first word (R19). -/
theorem zero_cmdWord (arg : BitVec 16) (len : BitVec 4) (cmd : BitVec 8) : (cmdWord arg len cmd).extractLsb' 12 4 = 0 := by
  simp (disch := decide) only [cmdWord, hi_slice, lo_slice, full_slice, Nat.reduceSub]
  rfl

/-- ARG of a command's first word (R19). -/
theorem arg_cmdWord (arg : BitVec 16) (len : BitVec 4) (cmd : BitVec 8) : (cmdWord arg len cmd).extractLsb' 16 16 = arg := by
  simp (disch := decide) only [cmdWord, hi_slice, full_slice, Nat.reduceSub]

/-- A stream command whose fields read back decodes to itself. -/
theorem command_back {i : Instr} {arg : BitVec 16} {len : BitVec 4} {cmd : BitVec 8} {r : List Word}
    (he : encode i = cmdWord arg len cmd :: r) (hf : cmdFields (cmdWord arg len cmd :: r) = some i)
    (hl : cmdLenOk cmd.toNat len.toNat = true)
    (hk : (match i with
      | .finbyNop _ _ => true
      | .finbyFence scope => decide (2 ≤ scope.toNat ∧ scope.toNat ≤ 4)
      | _ => cmdAligned i) = true) : decodeFinby (encode i) = .ok i := by
  rw [he]
  unfold decodeFinby
  simp only [hf, cmd_cmdWord, len_cmdWord, zero_cmdWord, hl, if_true]
  split
  · rfl
  · rename_i scope
    have : 2 ≤ scope.toNat ∧ scope.toNat ≤ 4 := by simpa using hk
    rw [if_pos ⟨he, this⟩]
  · rename_i h1 h2
    rw [if_pos he]
    split at hk
    · exact absurd rfl (h1 _ _)
    · exact absurd rfl (h2 _)
    · rw [if_pos hk]

theorem RoundTrip.sadd (p : Pre) (d a b : BitVec 7) (n : Bool) : RoundTrip.Statement (.sadd p d a b n) := by
  intro h tail
  exact word_back (op_rrr ..) (by decide) (by decide) h rfl (fun x => fields_sadd _ _ _ _ _ x) tail

theorem RoundTrip.ssub (p : Pre) (d a b : BitVec 7) (n : Bool) : RoundTrip.Statement (.ssub p d a b n) := by
  intro h tail
  exact word_back (op_rrr ..) (by decide) (by decide) h rfl (fun x => fields_ssub _ _ _ _ _ x) tail

theorem RoundTrip.smul (p : Pre) (d a b : BitVec 7) (n : Bool) : RoundTrip.Statement (.smul p d a b n) := by
  intro h tail
  exact word_back (op_rrr ..) (by decide) (by decide) h rfl (fun x => fields_smul _ _ _ _ _ x) tail

theorem RoundTrip.smulh (p : Pre) (d a b : BitVec 7) (n : Bool) : RoundTrip.Statement (.smulh p d a b n) := by
  intro h tail
  exact word_back (op_rrr ..) (by decide) (by decide) h rfl (fun x => fields_smulh _ _ _ _ _ x) tail

theorem RoundTrip.sand (p : Pre) (d a b : BitVec 7) (n : Bool) : RoundTrip.Statement (.sand p d a b n) := by
  intro h tail
  exact word_back (op_rrr ..) (by decide) (by decide) h rfl (fun x => fields_sand _ _ _ _ _ x) tail

theorem RoundTrip.sor (p : Pre) (d a b : BitVec 7) (n : Bool) : RoundTrip.Statement (.sor p d a b n) := by
  intro h tail
  exact word_back (op_rrr ..) (by decide) (by decide) h rfl (fun x => fields_sor _ _ _ _ _ x) tail

theorem RoundTrip.sxor (p : Pre) (d a b : BitVec 7) (n : Bool) : RoundTrip.Statement (.sxor p d a b n) := by
  intro h tail
  exact word_back (op_rrr ..) (by decide) (by decide) h rfl (fun x => fields_sxor _ _ _ _ _ x) tail

theorem RoundTrip.sshl (p : Pre) (d a b : BitVec 7) (n : Bool) : RoundTrip.Statement (.sshl p d a b n) := by
  intro h tail
  exact word_back (op_rrr ..) (by decide) (by decide) h rfl (fun x => fields_sshl _ _ _ _ _ x) tail

theorem RoundTrip.sshr (p : Pre) (d a b : BitVec 7) (n : Bool) : RoundTrip.Statement (.sshr p d a b n) := by
  intro h tail
  exact word_back (op_rrr ..) (by decide) (by decide) h rfl (fun x => fields_sshr _ _ _ _ _ x) tail

theorem RoundTrip.ssra (p : Pre) (d a b : BitVec 7) (n : Bool) : RoundTrip.Statement (.ssra p d a b n) := by
  intro h tail
  exact word_back (op_rrr ..) (by decide) (by decide) h rfl (fun x => fields_ssra _ _ _ _ _ x) tail

theorem RoundTrip.smin (p : Pre) (d a b : BitVec 7) (n : Bool) : RoundTrip.Statement (.smin p d a b n) := by
  intro h tail
  exact word_back (op_rrr ..) (by decide) (by decide) h rfl (fun x => fields_smin _ _ _ _ _ x) tail

theorem RoundTrip.smax (p : Pre) (d a b : BitVec 7) (n : Bool) : RoundTrip.Statement (.smax p d a b n) := by
  intro h tail
  exact word_back (op_rrr ..) (by decide) (by decide) h rfl (fun x => fields_smax _ _ _ _ _ x) tail

theorem RoundTrip.scmp (p : Pre) (cc : Cc) (q : BitVec 2) (a b : BitVec 7) (n : Bool) : RoundTrip.Statement (.scmp p cc q a b n) := by
  intro h tail
  exact word_back (op_rrr ..) (by decide) (by decide) h rfl (fun x => fields_scmp _ _ _ _ _ _ x) tail

theorem RoundTrip.ssel (p : Pre) (d a : BitVec 7) (gd : BitVec 4) : RoundTrip.Statement (.ssel p d a gd) := by
  intro h tail
  exact word_back (op_rg ..) (by decide) (by decide) h rfl (fun x => fields_ssel _ _ _ _ x) tail

theorem RoundTrip.smov (p : Pre) (d a : BitVec 7) : RoundTrip.Statement (.smov p d a) := by
  intro h tail
  exact word_back (op_rrf ..) (by decide) (by decide) h rfl (fun x => fields_smov _ _ _ x) tail

theorem RoundTrip.srdvFirst (p : Pre) (d a : BitVec 7) : RoundTrip.Statement (.srdvFirst p d a) := by
  intro h tail
  exact word_back (op_rrf ..) (by decide) (by decide) h rfl (fun x => fields_srdvFirst _ _ _ x) tail

theorem RoundTrip.srdv (p : Pre) (d a : BitVec 7) (l : BitVec 6) : RoundTrip.Statement (.srdv p d a l) := by
  intro h tail
  exact word_back (op_rrf ..) (by decide) (by decide) h rfl (fun x => fields_srdv _ _ _ _ x) tail

theorem RoundTrip.srdid (p : Pre) (d : BitVec 7) (id : BitVec 3) : RoundTrip.Statement (.srdid p d id) := by
  intro h tail
  exact word_back (op_rrf ..) (by decide) (by decide) h rfl (fun x => fields_srdid _ _ _ x) tail

theorem RoundTrip.smovi (p : Pre) (d : BitVec 7) (imm : BitVec 15) : RoundTrip.Statement (.smovi p d imm) := by
  intro h tail
  exact word_back (op_i15 ..) (by decide) (by decide) h rfl (fun x => fields_smovi _ _ _ x) tail

theorem RoundTrip.slui (p : Pre) (d : BitVec 7) (imm : BitVec 15) : RoundTrip.Statement (.slui p d imm) := by
  intro h tail
  exact word_back (op_i15 ..) (by decide) (by decide) h rfl (fun x => fields_slui _ _ _ x) tail

theorem RoundTrip.bra (p : Pre) (gd : BitVec 4) (off : BitVec 18) : RoundTrip.Statement (.bra p gd off) := by
  intro h tail
  exact word_back (op_br ..) (by decide) (by decide) h rfl (fun x => fields_bra _ _ _ x) tail

theorem RoundTrip.brl (p : Pre) (gd : BitVec 4) (off : BitVec 18) : RoundTrip.Statement (.brl p gd off) := by
  intro h tail
  exact word_back (op_br ..) (by decide) (by decide) h rfl (fun x => fields_brl _ _ _ x) tail

theorem RoundTrip.joinat (p : Pre) (off : BitVec 18) : RoundTrip.Statement (.joinat p off) := by
  intro h tail
  exact word_back (op_br ..) (by decide) (by decide) h rfl (fun x => fields_joinat _ _ x) tail

theorem RoundTrip.bcall (p : Pre) (gd : BitVec 4) (off : BitVec 18) : RoundTrip.Statement (.bcall p gd off) := by
  intro h tail
  exact word_back (op_br ..) (by decide) (by decide) h rfl (fun x => fields_bcall _ _ _ x) tail

theorem RoundTrip.loopb (p : Pre) (a : BitVec 7) (i8 : BitVec 8) : RoundTrip.Statement (.loopb p a i8) := by
  intro h tail
  exact word_back (op_rrf ..) (by decide) (by decide) h rfl (fun x => fields_loopb _ _ _ x) tail

theorem RoundTrip.bret (p : Pre) (a : BitVec 7) : RoundTrip.Statement (.bret p a) := by
  intro h tail
  exact word_back (op_rrf ..) (by decide) (by decide) h rfl (fun x => fields_bret _ _ x) tail

theorem RoundTrip.bind (p : Pre) (a : BitVec 7) : RoundTrip.Statement (.bind p a) := by
  intro h tail
  exact word_back (op_rrf ..) (by decide) (by decide) h rfl (fun x => fields_bind _ _ x) tail

theorem RoundTrip.bindCall (p : Pre) (d a : BitVec 7) : RoundTrip.Statement (.bindCall p d a) := by
  intro h tail
  exact word_back (op_rrf ..) (by decide) (by decide) h rfl (fun x => fields_bindCall _ _ _ x) tail

theorem RoundTrip.regrp (p : Pre) : RoundTrip.Statement (.regrp p) := by
  intro h tail
  exact word_back (op_rrf ..) (by decide) (by decide) h rfl (fun x => fields_regrp _ x) tail

theorem RoundTrip.exit (p : Pre) : RoundTrip.Statement (.exit p) := by
  intro h tail
  exact word_back (op_rrf ..) (by decide) (by decide) h rfl (fun x => fields_exit _ x) tail

theorem RoundTrip.yield (p : Pre) : RoundTrip.Statement (.yield p) := by
  intro h tail
  exact word_back (op_rrf ..) (by decide) (by decide) h rfl (fun x => fields_yield _ x) tail

theorem RoundTrip.sleep (p : Pre) (a : BitVec 7) : RoundTrip.Statement (.sleep p a) := by
  intro h tail
  exact word_back (op_rrf ..) (by decide) (by decide) h rfl (fun x => fields_sleep _ _ x) tail

theorem RoundTrip.sleepRel (p : Pre) (a : BitVec 7) : RoundTrip.Statement (.sleepRel p a) := by
  intro h tail
  exact word_back (op_rrf ..) (by decide) (by decide) h rfl (fun x => fields_sleepRel _ _ x) tail

theorem RoundTrip.swidth (p : Pre) (d : BitVec 7) : RoundTrip.Statement (.swidth p d) := by
  intro h tail
  exact word_back (op_rrf ..) (by decide) (by decide) h rfl (fun x => fields_swidth _ _ x) tail

theorem RoundTrip.swidthGang (p : Pre) (d : BitVec 7) : RoundTrip.Statement (.swidthGang p d) := by
  intro h tail
  exact word_back (op_rrf ..) (by decide) (by decide) h rfl (fun x => fields_swidthGang _ _ x) tail

theorem RoundTrip.smaskqAct (p : Pre) (d : BitVec 7) : RoundTrip.Statement (.smaskqAct p d) := by
  intro h tail
  exact word_back (op_rrf ..) (by decide) (by decide) h rfl (fun x => fields_smaskqAct _ _ x) tail

theorem RoundTrip.smaskqLive (p : Pre) (d : BitVec 7) : RoundTrip.Statement (.smaskqLive p d) := by
  intro h tail
  exact word_back (op_rrf ..) (by decide) (by decide) h rfl (fun x => fields_smaskqLive _ _ x) tail

theorem RoundTrip.sgangq (p : Pre) (d : BitVec 7) : RoundTrip.Statement (.sgangq p d) := by
  intro h tail
  exact word_back (op_rrf ..) (by decide) (by decide) h rfl (fun x => fields_sgangq _ _ x) tail

theorem RoundTrip.voteAny (p : Pre) (w : Bool) (q : BitVec 2) (a : BitVec 7) : RoundTrip.Statement (.voteAny p w q a) := by
  intro h tail
  exact word_back (op_rrf ..) (by decide) (by decide) h rfl (fun x => fields_voteAny _ _ _ _ x) tail

theorem RoundTrip.voteAll (p : Pre) (w : Bool) (q : BitVec 2) (a : BitVec 7) : RoundTrip.Statement (.voteAll p w q a) := by
  intro h tail
  exact word_back (op_rrf ..) (by decide) (by decide) h rfl (fun x => fields_voteAll _ _ _ _ x) tail

theorem RoundTrip.voteEq (p : Pre) (w : Bool) (q : BitVec 2) (a : BitVec 7) : RoundTrip.Statement (.voteEq p w q a) := by
  intro h tail
  exact word_back (op_rrf ..) (by decide) (by decide) h rfl (fun x => fields_voteEq _ _ _ _ x) tail

theorem RoundTrip.voteBal (p : Pre) (w : Bool) (d a : BitVec 7) : RoundTrip.Statement (.voteBal p w d a) := by
  intro h tail
  exact word_back (op_rrf ..) (by decide) (by decide) h rfl (fun x => fields_voteBal _ _ _ _ x) tail

theorem RoundTrip.shfl (p : Pre) (d a b : BitVec 7) (bk : Bool) (kind : ShflKind) (w fk : Bool) (fr : BitVec 7) (imm : Bool) (c : BitVec 6) : RoundTrip.Statement (.shfl p d a b bk kind w fk fr imm c) := by
  intro h tail
  exact long_back (op_rrr ..) (by decide) (by decide) h rfl (fields_shfl _ _ _ _ _ _ _ _ _ _ _) tail

theorem RoundTrip.setfmt (p : Pre) (a : BitVec 7) : RoundTrip.Statement (.setfmt p a) := by
  intro h tail
  exact word_back (op_rrf ..) (by decide) (by decide) h rfl (fun x => fields_setfmt _ _ x) tail

theorem RoundTrip.setfmtImm (p : Pre) (code : BitVec 8) : RoundTrip.Statement (.setfmtImm p code) := by
  intro h tail
  exact word_back (op_rrf ..) (by decide) (by decide) h rfl (fun x => fields_setfmtImm _ _ x) tail

theorem RoundTrip.getfmt (p : Pre) (d : BitVec 7) : RoundTrip.Statement (.getfmt p d) := by
  intro h tail
  exact word_back (op_rrf ..) (by decide) (by decide) h rfl (fun x => fields_getfmt _ _ x) tail

theorem RoundTrip.setcvm (p : Pre) (a : BitVec 7) : RoundTrip.Statement (.setcvm p a) := by
  intro h tail
  exact word_back (op_rrf ..) (by decide) (by decide) h rfl (fun x => fields_setcvm _ _ x) tail

theorem RoundTrip.getcvm (p : Pre) (d : BitVec 7) : RoundTrip.Statement (.getcvm p d) := by
  intro h tail
  exact word_back (op_rrf ..) (by decide) (by decide) h rfl (fun x => fields_getcvm _ _ x) tail

theorem RoundTrip.seedsr (p : Pre) (a : BitVec 7) : RoundTrip.Statement (.seedsr p a) := by
  intro h tail
  exact word_back (op_rrf ..) (by decide) (by decide) h rfl (fun x => fields_seedsr _ _ x) tail

theorem RoundTrip.seedsrV (p : Pre) (a : BitVec 7) : RoundTrip.Statement (.seedsrV p a) := by
  intro h tail
  exact word_back (op_rrf ..) (by decide) (by decide) h rfl (fun x => fields_seedsrV _ _ x) tail

theorem RoundTrip.xacqV (p : Pre) : RoundTrip.Statement (.xacqV p) := by
  intro h tail
  exact word_back (op_rrf ..) (by decide) (by decide) h rfl (fun x => fields_xacqV _ x) tail

theorem RoundTrip.xacqAcc (p : Pre) (n : BitVec 2) : RoundTrip.Statement (.xacqAcc p n) := by
  intro h tail
  exact word_back (op_rrf ..) (by decide) (by decide) h rfl (fun x => fields_xacqAcc _ _ x) tail

theorem RoundTrip.xacqBt (p : Pre) : RoundTrip.Statement (.xacqBt p) := by
  intro h tail
  exact word_back (op_rrf ..) (by decide) (by decide) h rfl (fun x => fields_xacqBt _ x) tail

theorem RoundTrip.xrelV (p : Pre) : RoundTrip.Statement (.xrelV p) := by
  intro h tail
  exact word_back (op_rrf ..) (by decide) (by decide) h rfl (fun x => fields_xrelV _ x) tail

theorem RoundTrip.xrelAcc (p : Pre) (n : BitVec 2) : RoundTrip.Statement (.xrelAcc p n) := by
  intro h tail
  exact word_back (op_rrf ..) (by decide) (by decide) h rfl (fun x => fields_xrelAcc _ _ x) tail

theorem RoundTrip.xrelBt (p : Pre) : RoundTrip.Statement (.xrelBt p) := by
  intro h tail
  exact word_back (op_rrf ..) (by decide) (by decide) h rfl (fun x => fields_xrelBt _ x) tail

theorem RoundTrip.xqry (p : Pre) (d : BitVec 7) : RoundTrip.Statement (.xqry p d) := by
  intro h tail
  exact word_back (op_rrf ..) (by decide) (by decide) h rfl (fun x => fields_xqry _ _ x) tail

theorem RoundTrip.fork (p : Pre) (q : BitVec 2) (a e : BitVec 7) (loc ek : Bool) (off : BitVec 18) : RoundTrip.Statement (.fork p q a e loc ek off) := by
  intro h tail
  exact long_back (op_rrr ..) (by decide) (by decide) h rfl (fields_fork _ _ _ _ _ _ _) tail

theorem RoundTrip.join (p : Pre) (scp : BitVec 3) (a : BitVec 7) : RoundTrip.Statement (.join p scp a) := by
  intro h tail
  exact word_back (op_rrf ..) (by decide) (by decide) h rfl (fun x => fields_join _ _ _ x) tail

theorem RoundTrip.joinSp (p : Pre) (scp : BitVec 3) (a : BitVec 7) : RoundTrip.Statement (.joinSp p scp a) := by
  intro h tail
  exact word_back (op_rrf ..) (by decide) (by decide) h rfl (fun x => fields_joinSp _ _ _ x) tail

theorem RoundTrip.deqd (p : Pre) (d : BitVec 7) : RoundTrip.Statement (.deqd p d) := by
  intro h tail
  exact word_back (op_rrf ..) (by decide) (by decide) h rfl (fun x => fields_deqd _ _ x) tail

theorem RoundTrip.ld (p : Pre) (m : LaneMem) (raw : Bool) : RoundTrip.Statement (.ld p m raw) := by
  intro h tail
  exact long_back (op_rrr ..) (by decide) (by decide) h rfl (fields_ld _ _ _) tail

theorem RoundTrip.ldu (p : Pre) (m : LaneMem) (raw : Bool) : RoundTrip.Statement (.ldu p m raw) := by
  intro h tail
  exact long_back (op_rrr ..) (by decide) (by decide) h rfl (fields_ldu _ _ _) tail

theorem RoundTrip.lds (p : Pre) (m : LaneMem) : RoundTrip.Statement (.lds p m) := by
  intro h tail
  exact long_back (op_rrr ..) (by decide) (by decide) h rfl (fields_lds _ _) tail

theorem RoundTrip.ldc (p : Pre) (m : LaneMem) (raw : Bool) : RoundTrip.Statement (.ldc p m raw) := by
  intro h tail
  exact long_back (op_rrr ..) (by decide) (by decide) h rfl (fields_ldc _ _ _) tail

theorem RoundTrip.st (p : Pre) (m : LaneMem) (gd : BitVec 4) : RoundTrip.Statement (.st p m gd) := by
  intro h tail
  exact long_back (op_rrr ..) (by decide) (by decide) h rfl (fields_st _ _ _) tail

theorem RoundTrip.stu (p : Pre) (m : LaneMem) (gd : BitVec 4) (mv : BitVec 7) : RoundTrip.Statement (.stu p m gd mv) := by
  intro h tail
  exact long_back (op_rrr ..) (by decide) (by decide) h rfl (fields_stu _ _ _ _ (by
      have h1 : (!p.t && laneOk m && isPair m.a && laneOrd m false true && decide (m.disp.toNat < 2048)) = true := h
      simp only [Bool.and_eq_true, decide_eq_true_eq] at h1
      exact h1.2)) tail

theorem RoundTrip.sts (p : Pre) (m : LaneMem) (gd : BitVec 4) : RoundTrip.Statement (.sts p m gd) := by
  intro h tail
  exact long_back (op_rrr ..) (by decide) (by decide) h rfl (fields_sts _ _ _) tail

theorem RoundTrip.atom (p : Pre) (m : LaneMem) (gd : BitVec 4) (raw : Bool) (aop : AtomOp) (dv cv : BitVec 7) : RoundTrip.Statement (.atom p m gd raw aop dv cv) := by
  intro h tail
  exact long_back (op_rrr ..) (by decide) (by decide) h rfl (fields_atom _ _ _ _ _ _ _ (by
      have h1 : (!p.t && laneOk m && (if raw then isS m.a else isPair m.a) && decide (m.sz = 2 ∨ m.sz = 3) &&
        decide (m.disp = 0) && (decide (m.sz = 2) || (evenReg dv && evenReg cv)) && (decide (aop ≠ .fadd) || decide (m.sz = 2)) &&
        (decide (aop = .cas) || decide (cv = 0))) = true := h
      simp only [Bool.and_eq_true, decide_eq_true_eq] at h1
      exact h1.1.1.1.2)) tail

theorem RoundTrip.fence (p : Pre) (kind : BitVec 2) (scp : BitVec 3) : RoundTrip.Statement (.fence p kind scp) := by
  intro h tail
  exact word_back (op_rrf ..) (by decide) (by decide) h rfl (fun x => fields_fence _ _ _ x) tail

theorem RoundTrip.tld (p : Pre) (d a : BitVec 7) (fmt : BitVec 8) (mode : BitVec 3) (sat : Bool) (fs : Bool) (ord : BitVec 2) (scp : BitVec 3) : RoundTrip.Statement (.tld p d a fmt mode sat fs ord scp) := by
  intro h tail
  exact long_back (op_rrf ..) (by decide) (by decide) h rfl (fields_tld _ _ _ _ _ _ _ _ _) tail

theorem RoundTrip.tst (p : Pre) (d a : BitVec 7) (fmt : BitVec 8) (sclw : Bool) (fs : Bool) (ord : BitVec 2) (scp : BitVec 3) : RoundTrip.Statement (.tst p d a fmt sclw fs ord scp) := by
  intro h tail
  exact long_back (op_rrf ..) (by decide) (by decide) h rfl (fields_tst _ _ _ _ _ _ _ _) tail

theorem RoundTrip.thq (p : Pre) (d a : BitVec 7) (fs : Bool) (ord : BitVec 2) (scp : BitVec 3) : RoundTrip.Statement (.thq p d a fs ord scp) := by
  intro h tail
  exact long_back (op_rrf ..) (by decide) (by decide) h rfl (fields_thq _ _ _ _ _ _) tail

theorem RoundTrip.tmat (p : Pre) (a : BitVec 7) (fs : Bool) (ord : BitVec 2) (scp : BitVec 3) : RoundTrip.Statement (.tmat p a fs ord scp) := by
  intro h tail
  exact long_back (op_rrf ..) (by decide) (by decide) h rfl (fields_tmat _ _ _ _ _) tail

theorem RoundTrip.taff (p : Pre) (a x y : BitVec 7) (fs : Bool) (ord : BitVec 2) (scp : BitVec 3) : RoundTrip.Statement (.taff p a x y fs ord scp) := by
  intro h tail
  exact long_back (op_rrf ..) (by decide) (by decide) h rfl (fields_taff _ _ _ _ _ _ _) tail

theorem RoundTrip.tscale (p : Pre) (a x : BitVec 7) (fs : Bool) (ord : BitVec 2) (scp : BitVec 3) : RoundTrip.Statement (.tscale p a x fs ord scp) := by
  intro h tail
  exact long_back (op_rrf ..) (by decide) (by decide) h rfl (fields_tscale _ _ _ _ _ _) tail

theorem RoundTrip.toffs (p : Pre) (a x : BitVec 7) (fs : Bool) (ord : BitVec 2) (scp : BitVec 3) : RoundTrip.Statement (.toffs p a x fs ord scp) := by
  intro h tail
  exact long_back (op_rrf ..) (by decide) (by decide) h rfl (fields_toffs _ _ _ _ _ _) tail

theorem RoundTrip.tclamp (p : Pre) (a x y : BitVec 7) (fs : Bool) (ord : BitVec 2) (scp : BitVec 3) : RoundTrip.Statement (.tclamp p a x y fs ord scp) := by
  intro h tail
  exact long_back (op_rrf ..) (by decide) (by decide) h rfl (fields_tclamp _ _ _ _ _ _ _) tail

theorem RoundTrip.tfill (p : Pre) (a x : BitVec 7) (fs : Bool) (ord : BitVec 2) (scp : BitVec 3) : RoundTrip.Statement (.tfill p a x fs ord scp) := by
  intro h tail
  exact long_back (op_rrf ..) (by decide) (by decide) h rfl (fields_tfill _ _ _ _ _ _) tail

theorem RoundTrip.tperm (p : Pre) (a : BitVec 7) (perm : BitVec 3) (fs : Bool) (ord : BitVec 2) (scp : BitVec 3) : RoundTrip.Statement (.tperm p a perm fs ord scp) := by
  intro h tail
  exact long_back (op_rrf ..) (by decide) (by decide) h rfl (fields_tperm _ _ _ _ _ _) tail

theorem RoundTrip.bara (p : Pre) (name : BitVec 4) (a : BitVec 7) (w : Bool) : RoundTrip.Statement (.bara p name a w) := by
  intro h tail
  exact word_back (op_rrf ..) (by decide) (by decide) h rfl (fun x => fields_bara _ _ _ _ x) tail

theorem RoundTrip.bars (p : Pre) (name : BitVec 4) (a : BitVec 7) (w : Bool) : RoundTrip.Statement (.bars p name a w) := by
  intro h tail
  exact word_back (op_rrf ..) (by decide) (by decide) h rfl (fun x => fields_bars _ _ _ _ x) tail

theorem RoundTrip.barw (p : Pre) (name : BitVec 4) (w : Bool) : RoundTrip.Statement (.barw p name w) := by
  intro h tail
  exact word_back (op_rrf ..) (by decide) (by decide) h rfl (fun x => fields_barw _ _ _ x) tail

theorem RoundTrip.bxinit (p : Pre) (d a : BitVec 7) : RoundTrip.Statement (.bxinit p d a) := by
  intro h tail
  exact word_back (op_rrf ..) (by decide) (by decide) h rfl (fun x => fields_bxinit _ _ _ x) tail

theorem RoundTrip.bxexp (p : Pre) (d a : BitVec 7) : RoundTrip.Statement (.bxexp p d a) := by
  intro h tail
  exact word_back (op_rrf ..) (by decide) (by decide) h rfl (fun x => fields_bxexp _ _ _ x) tail

theorem RoundTrip.bxarr (p : Pre) (d a : BitVec 7) : RoundTrip.Statement (.bxarr p d a) := by
  intro h tail
  exact word_back (op_rrf ..) (by decide) (by decide) h rfl (fun x => fields_bxarr _ _ _ x) tail

theorem RoundTrip.bxwait (p : Pre) (par : Bool) (q : BitVec 2) (a : BitVec 7) : RoundTrip.Statement (.bxwait p par q a) := by
  intro h tail
  exact word_back (op_rrf ..) (by decide) (by decide) h rfl (fun x => fields_bxwait _ _ _ _ x) tail

theorem RoundTrip.crwaitEmpty (p : Pre) (ring : BitVec 3) (ph : Bool) (a : BitVec 7) : RoundTrip.Statement (.crwaitEmpty p ring ph a) := by
  intro h tail
  exact word_back (op_rrf ..) (by decide) (by decide) h rfl (fun x => fields_crwaitEmpty _ _ _ _ x) tail

theorem RoundTrip.crwaitFull (p : Pre) (ring : BitVec 3) (ph : Bool) (a : BitVec 7) : RoundTrip.Statement (.crwaitFull p ring ph a) := by
  intro h tail
  exact word_back (op_rrf ..) (by decide) (by decide) h rfl (fun x => fields_crwaitFull _ _ _ _ x) tail

theorem RoundTrip.crfill (p : Pre) (ring : BitVec 3) (a : BitVec 7) : RoundTrip.Statement (.crfill p ring a) := by
  intro h tail
  exact word_back (op_rrf ..) (by decide) (by decide) h rfl (fun x => fields_crfill _ _ _ x) tail

theorem RoundTrip.crfree (p : Pre) (ring : BitVec 3) (a : BitVec 7) : RoundTrip.Statement (.crfree p ring a) := by
  intro h tail
  exact word_back (op_rrf ..) (by decide) (by decide) h rfl (fun x => fields_crfree _ _ _ x) tail

theorem RoundTrip.crtakeEmpty (p : Pre) (ring : BitVec 3) (q : BitVec 2) (ph : Bool) (a : BitVec 7) : RoundTrip.Statement (.crtakeEmpty p ring q ph a) := by
  intro h tail
  exact word_back (op_rrf ..) (by decide) (by decide) h rfl (fun x => fields_crtakeEmpty _ _ _ _ _ x) tail

theorem RoundTrip.crtakeFull (p : Pre) (ring : BitVec 3) (q : BitVec 2) (ph : Bool) (a : BitVec 7) : RoundTrip.Statement (.crtakeFull p ring q ph a) := by
  intro h tail
  exact word_back (op_rrf ..) (by decide) (by decide) h rfl (fun x => fields_crtakeFull _ _ _ _ _ x) tail

theorem RoundTrip.cpy (p : Pre) (a e b o : BitVec 7) (ds : Bool) : RoundTrip.Statement (.cpy p a e b o ds) := by
  intro h tail
  exact long_back (op_rrr ..) (by decide) (by decide) h rfl (fields_cpy _ _ _ _ _ _) tail

theorem RoundTrip.cpyp (p : Pre) (d a e b o : BitVec 7) (ds : Bool) : RoundTrip.Statement (.cpyp p d a e b o ds) := by
  intro h tail
  exact long_back (op_rrr ..) (by decide) (by decide) h rfl (fields_cpyp _ _ _ _ _ _ _) tail

theorem RoundTrip.cwait (p : Pre) (par : Bool) (d a : BitVec 7) : RoundTrip.Statement (.cwait p par d a) := by
  intro h tail
  exact word_back (op_rrf ..) (by decide) (by decide) h rfl (fun x => fields_cwait _ _ _ _ x) tail

theorem RoundTrip.cstat (p : Pre) (d a : BitVec 7) : RoundTrip.Statement (.cstat p d a) := by
  intro h tail
  exact word_back (op_rrf ..) (by decide) (by decide) h rfl (fun x => fields_cstat _ _ _ x) tail

theorem RoundTrip.cstatIdx (p : Pre) (d a : BitVec 7) : RoundTrip.Statement (.cstatIdx p d a) := by
  intro h tail
  exact word_back (op_rrf ..) (by decide) (by decide) h rfl (fun x => fields_cstatIdx _ _ _ x) tail

theorem RoundTrip.cstatClr (p : Pre) (d a : BitVec 7) : RoundTrip.Statement (.cstatClr p d a) := by
  intro h tail
  exact word_back (op_rrf ..) (by decide) (by decide) h rfl (fun x => fields_cstatClr _ _ _ x) tail

theorem RoundTrip.hedit (p : Pre) (a e b o : BitVec 7) (ds : Bool) : RoundTrip.Statement (.hedit p a e b o ds) := by
  intro h tail
  exact long_back (op_rrr ..) (by decide) (by decide) h rfl (fields_hedit _ _ _ _ _ _) tail

theorem RoundTrip.bankcmd (p : Pre) (d a e b : BitVec 7) : RoundTrip.Statement (.bankcmd p d a e b) := by
  intro h tail
  exact long_back (op_rrr ..) (by decide) (by decide) h rfl (fields_bankcmd _ _ _ _ _) tail

theorem RoundTrip.icinv (p : Pre) : RoundTrip.Statement (.icinv p) := by
  intro h tail
  exact word_back (op_rrf ..) (by decide) (by decide) h rfl (fun x => fields_icinv _ x) tail

theorem RoundTrip.icinvDev (p : Pre) : RoundTrip.Statement (.icinvDev p) := by
  intro h tail
  exact word_back (op_rrf ..) (by decide) (by decide) h rfl (fun x => fields_icinvDev _ x) tail

theorem RoundTrip.isync (p : Pre) : RoundTrip.Statement (.isync p) := by
  intro h tail
  exact word_back (op_rrf ..) (by decide) (by decide) h rfl (fun x => fields_isync _ x) tail

theorem RoundTrip.dcwb (p : Pre) (d a : BitVec 7) : RoundTrip.Statement (.dcwb p d a) := by
  intro h tail
  exact word_back (op_rrf ..) (by decide) (by decide) h rfl (fun x => fields_dcwb _ _ _ x) tail

theorem RoundTrip.dcinv (p : Pre) (d a : BitVec 7) : RoundTrip.Statement (.dcinv p d a) := by
  intro h tail
  exact word_back (op_rrf ..) (by decide) (by decide) h rfl (fun x => fields_dcinv _ _ _ x) tail

theorem RoundTrip.vadd (p : Pre) (d a b : BitVec 7) (n : Bool) : RoundTrip.Statement (.vadd p d a b n) := by
  intro h tail
  exact word_back (op_rrr ..) (by decide) (by decide) h rfl (fun x => fields_vadd _ _ _ _ _ x) tail

theorem RoundTrip.vsub (p : Pre) (d a b : BitVec 7) (n : Bool) : RoundTrip.Statement (.vsub p d a b n) := by
  intro h tail
  exact word_back (op_rrr ..) (by decide) (by decide) h rfl (fun x => fields_vsub _ _ _ _ _ x) tail

theorem RoundTrip.vmul (p : Pre) (d a b : BitVec 7) (n : Bool) : RoundTrip.Statement (.vmul p d a b n) := by
  intro h tail
  exact word_back (op_rrr ..) (by decide) (by decide) h rfl (fun x => fields_vmul _ _ _ _ _ x) tail

theorem RoundTrip.vmulh (p : Pre) (d a b : BitVec 7) (n : Bool) : RoundTrip.Statement (.vmulh p d a b n) := by
  intro h tail
  exact word_back (op_rrr ..) (by decide) (by decide) h rfl (fun x => fields_vmulh _ _ _ _ _ x) tail

theorem RoundTrip.vmad (p : Pre) (d a b : BitVec 7) (n : Bool) : RoundTrip.Statement (.vmad p d a b n) := by
  intro h tail
  exact word_back (op_rrr ..) (by decide) (by decide) h rfl (fun x => fields_vmad _ _ _ _ _ x) tail

theorem RoundTrip.vand (p : Pre) (d a b : BitVec 7) (n : Bool) : RoundTrip.Statement (.vand p d a b n) := by
  intro h tail
  exact word_back (op_rrr ..) (by decide) (by decide) h rfl (fun x => fields_vand _ _ _ _ _ x) tail

theorem RoundTrip.vor (p : Pre) (d a b : BitVec 7) (n : Bool) : RoundTrip.Statement (.vor p d a b n) := by
  intro h tail
  exact word_back (op_rrr ..) (by decide) (by decide) h rfl (fun x => fields_vor _ _ _ _ _ x) tail

theorem RoundTrip.vxor (p : Pre) (d a b : BitVec 7) (n : Bool) : RoundTrip.Statement (.vxor p d a b n) := by
  intro h tail
  exact word_back (op_rrr ..) (by decide) (by decide) h rfl (fun x => fields_vxor _ _ _ _ _ x) tail

theorem RoundTrip.vshl (p : Pre) (d a b : BitVec 7) (n : Bool) : RoundTrip.Statement (.vshl p d a b n) := by
  intro h tail
  exact word_back (op_rrr ..) (by decide) (by decide) h rfl (fun x => fields_vshl _ _ _ _ _ x) tail

theorem RoundTrip.vshr (p : Pre) (d a b : BitVec 7) (n : Bool) : RoundTrip.Statement (.vshr p d a b n) := by
  intro h tail
  exact word_back (op_rrr ..) (by decide) (by decide) h rfl (fun x => fields_vshr _ _ _ _ _ x) tail

theorem RoundTrip.vsra (p : Pre) (d a b : BitVec 7) (n : Bool) : RoundTrip.Statement (.vsra p d a b n) := by
  intro h tail
  exact word_back (op_rrr ..) (by decide) (by decide) h rfl (fun x => fields_vsra _ _ _ _ _ x) tail

theorem RoundTrip.vfshl (p : Pre) (d a b : BitVec 7) (ck : BitVec 2) (c : BitVec 7) (imm : BitVec 6) : RoundTrip.Statement (.vfshl p d a b ck c imm) := by
  intro h tail
  exact long_back (op_rrr ..) (by decide) (by decide) h rfl (fields_vfshl _ _ _ _ _ _ _) tail

theorem RoundTrip.vfshr (p : Pre) (d a b : BitVec 7) (ck : BitVec 2) (c : BitVec 7) (imm : BitVec 6) : RoundTrip.Statement (.vfshr p d a b ck c imm) := by
  intro h tail
  exact long_back (op_rrr ..) (by decide) (by decide) h rfl (fields_vfshr _ _ _ _ _ _ _) tail

theorem RoundTrip.vmin (p : Pre) (d a b : BitVec 7) (n : Bool) : RoundTrip.Statement (.vmin p d a b n) := by
  intro h tail
  exact word_back (op_rrr ..) (by decide) (by decide) h rfl (fun x => fields_vmin _ _ _ _ _ x) tail

theorem RoundTrip.vmax (p : Pre) (d a b : BitVec 7) (n : Bool) : RoundTrip.Statement (.vmax p d a b n) := by
  intro h tail
  exact word_back (op_rrr ..) (by decide) (by decide) h rfl (fun x => fields_vmax _ _ _ _ _ x) tail

theorem RoundTrip.vabs (p : Pre) (d a : BitVec 7) : RoundTrip.Statement (.vabs p d a) := by
  intro h tail
  exact word_back (op_rrf ..) (by decide) (by decide) h rfl (fun x => fields_vabs _ _ _ x) tail

theorem RoundTrip.vclz (p : Pre) (d a : BitVec 7) : RoundTrip.Statement (.vclz p d a) := by
  intro h tail
  exact word_back (op_rrf ..) (by decide) (by decide) h rfl (fun x => fields_vclz _ _ _ x) tail

theorem RoundTrip.vpop (p : Pre) (d a : BitVec 7) : RoundTrip.Statement (.vpop p d a) := by
  intro h tail
  exact word_back (op_rrf ..) (by decide) (by decide) h rfl (fun x => fields_vpop _ _ _ x) tail

theorem RoundTrip.vbrev (p : Pre) (d a : BitVec 7) : RoundTrip.Statement (.vbrev p d a) := by
  intro h tail
  exact word_back (op_rrf ..) (by decide) (by decide) h rfl (fun x => fields_vbrev _ _ _ x) tail

theorem RoundTrip.vmov (p : Pre) (d a : BitVec 7) : RoundTrip.Statement (.vmov p d a) := by
  intro h tail
  exact word_back (op_rrf ..) (by decide) (by decide) h rfl (fun x => fields_vmov _ _ _ x) tail

theorem RoundTrip.vbcast (p : Pre) (d a : BitVec 7) : RoundTrip.Statement (.vbcast p d a) := by
  intro h tail
  exact word_back (op_rrf ..) (by decide) (by decide) h rfl (fun x => fields_vbcast _ _ _ x) tail

theorem RoundTrip.vlane (p : Pre) (d : BitVec 7) : RoundTrip.Statement (.vlane p d) := by
  intro h tail
  exact word_back (op_rrf ..) (by decide) (by decide) h rfl (fun x => fields_vlane _ _ x) tail

theorem RoundTrip.vcmp (p : Pre) (pd : BitVec 3) (a b : BitVec 7) (bk : Bool) (cc : Cc) (u : Bool) : RoundTrip.Statement (.vcmp p pd a b bk cc u) := by
  intro h tail
  exact long_back (op_rrr ..) (by decide) (by decide) h rfl (fields_vcmp _ _ _ _ _ _ _) tail

theorem RoundTrip.vsel (p : Pre) (d a b : BitVec 7) (bk : Bool) (gd : BitVec 4) : RoundTrip.Statement (.vsel p d a b bk gd) := by
  intro h tail
  exact long_back (op_rrr ..) (by decide) (by decide) h rfl (fields_vsel _ _ _ _ _ _) tail

theorem RoundTrip.vmovi (p : Pre) (d : BitVec 7) (imm : Word) : RoundTrip.Statement (.vmovi p d imm) := by
  intro h tail
  exact long_back (op_i15 ..) (by decide) (by decide) h rfl (fields_vmovi _ _ _) tail

theorem RoundTrip.vfadd (p : Pre) (d a b : BitVec 7) (n : Bool) : RoundTrip.Statement (.vfadd p d a b n) := by
  intro h tail
  exact word_back (op_rrr ..) (by decide) (by decide) h rfl (fun x => fields_vfadd _ _ _ _ _ x) tail

theorem RoundTrip.vfsub (p : Pre) (d a b : BitVec 7) (n : Bool) : RoundTrip.Statement (.vfsub p d a b n) := by
  intro h tail
  exact word_back (op_rrr ..) (by decide) (by decide) h rfl (fun x => fields_vfsub _ _ _ _ _ x) tail

theorem RoundTrip.vfmul (p : Pre) (d a b : BitVec 7) (n : Bool) : RoundTrip.Statement (.vfmul p d a b n) := by
  intro h tail
  exact word_back (op_rrr ..) (by decide) (by decide) h rfl (fun x => fields_vfmul _ _ _ _ _ x) tail

theorem RoundTrip.vfma (p : Pre) (d a b : BitVec 7) (n : Bool) : RoundTrip.Statement (.vfma p d a b n) := by
  intro h tail
  exact word_back (op_rrr ..) (by decide) (by decide) h rfl (fun x => fields_vfma _ _ _ _ _ x) tail

theorem RoundTrip.vfmin (p : Pre) (d a b : BitVec 7) (n : Bool) : RoundTrip.Statement (.vfmin p d a b n) := by
  intro h tail
  exact word_back (op_rrr ..) (by decide) (by decide) h rfl (fun x => fields_vfmin _ _ _ _ _ x) tail

theorem RoundTrip.vfmax (p : Pre) (d a b : BitVec 7) (n : Bool) : RoundTrip.Statement (.vfmax p d a b n) := by
  intro h tail
  exact word_back (op_rrr ..) (by decide) (by decide) h rfl (fun x => fields_vfmax _ _ _ _ _ x) tail

theorem RoundTrip.vfcmp (p : Pre) (pd : BitVec 3) (a b : BitVec 7) (bk : Bool) (cc : Cc) (tot : Bool) : RoundTrip.Statement (.vfcmp p pd a b bk cc tot) := by
  intro h tail
  exact long_back (op_rrr ..) (by decide) (by decide) h rfl (fields_vfcmp _ _ _ _ _ _ _) tail

theorem RoundTrip.vfdiv (p : Pre) (d a b : BitVec 7) (n : Bool) : RoundTrip.Statement (.vfdiv p d a b n) := by
  intro h tail
  exact word_back (op_rrr ..) (by decide) (by decide) h rfl (fun x => fields_vfdiv _ _ _ _ _ x) tail

theorem RoundTrip.vfsqrt (p : Pre) (d a : BitVec 7) : RoundTrip.Statement (.vfsqrt p d a) := by
  intro h tail
  exact word_back (op_rrf ..) (by decide) (by decide) h rfl (fun x => fields_vfsqrt _ _ _ x) tail

theorem RoundTrip.vrcp (p : Pre) (d a : BitVec 7) : RoundTrip.Statement (.vrcp p d a) := by
  intro h tail
  exact word_back (op_rrf ..) (by decide) (by decide) h rfl (fun x => fields_vrcp _ _ _ x) tail

theorem RoundTrip.vrsq (p : Pre) (d a : BitVec 7) : RoundTrip.Statement (.vrsq p d a) := by
  intro h tail
  exact word_back (op_rrf ..) (by decide) (by decide) h rfl (fun x => fields_vrsq _ _ _ x) tail

theorem RoundTrip.vlog2 (p : Pre) (d a : BitVec 7) : RoundTrip.Statement (.vlog2 p d a) := by
  intro h tail
  exact word_back (op_rrf ..) (by decide) (by decide) h rfl (fun x => fields_vlog2 _ _ _ x) tail

theorem RoundTrip.vexp2 (p : Pre) (d a b : BitVec 7) (bk : Bool) (c : BitVec 7) (ck : Bool) : RoundTrip.Statement (.vexp2 p d a b bk c ck) := by
  intro h tail
  exact long_back (op_rrr ..) (by decide) (by decide) h rfl (fields_vexp2 _ _ _ _ _ _ _) tail

theorem RoundTrip.vhadd (p : Pre) (d a b : BitVec 7) (n : Bool) : RoundTrip.Statement (.vhadd p d a b n) := by
  intro h tail
  exact word_back (op_rrr ..) (by decide) (by decide) h rfl (fun x => fields_vhadd _ _ _ _ _ x) tail

theorem RoundTrip.vhmul (p : Pre) (d a b : BitVec 7) (n : Bool) : RoundTrip.Statement (.vhmul p d a b n) := by
  intro h tail
  exact word_back (op_rrr ..) (by decide) (by decide) h rfl (fun x => fields_vhmul _ _ _ _ _ x) tail

theorem RoundTrip.vhfma (p : Pre) (d a b : BitVec 7) (n : Bool) : RoundTrip.Statement (.vhfma p d a b n) := by
  intro h tail
  exact word_back (op_rrr ..) (by decide) (by decide) h rfl (fun x => fields_vhfma _ _ _ _ _ x) tail

theorem RoundTrip.vred (p : Pre) (d a : BitVec 7) (w ds : Bool) (op : RedOp) : RoundTrip.Statement (.vred p d a w ds op) := by
  intro h tail
  exact word_back (op_rrf ..) (by decide) (by decide) h rfl (fun x => fields_vred _ _ _ _ _ _ x) tail

theorem RoundTrip.vscan (p : Pre) (d a : BitVec 7) (w ex : Bool) (op : RedOp) : RoundTrip.Statement (.vscan p d a w ex op) := by
  intro h tail
  exact word_back (op_rrf ..) (by decide) (by decide) h rfl (fun x => fields_vscan _ _ _ _ _ _ x) tail

theorem RoundTrip.vcvt (p : Pre) (d a : BitVec 7) (sfmt dfmt : BitVec 8) (mode : BitVec 3) (sat : Bool) (sel : BitVec 3) : RoundTrip.Statement (.vcvt p d a sfmt dfmt mode sat sel) := by
  intro h tail
  exact long_back (op_rrf ..) (by decide) (by decide) h rfl (fields_vcvt _ _ _ _ _ _ _ _) tail

theorem RoundTrip.vcvtef (p : Pre) (d a e : BitVec 7) (dfmt : BitVec 8) (mode : BitVec 3) (sat : Bool) (pd : BitVec 3) : RoundTrip.Statement (.vcvtef p d a e dfmt mode sat pd) := by
  intro h tail
  exact long_back (op_rrr ..) (by decide) (by decide) h rfl (fields_vcvtef _ _ _ _ _ _ _ _) tail

theorem RoundTrip.vpack (p : Pre) (d a : BitVec 7) (fmt : BitVec 8) (mode : BitVec 3) (sat : Bool) : RoundTrip.Statement (.vpack p d a fmt mode sat) := by
  intro h tail
  exact long_back (op_rrf ..) (by decide) (by decide) h rfl (fields_vpack _ _ _ _ _ _) tail

theorem RoundTrip.vunpk (p : Pre) (d a : BitVec 7) (fmt : BitVec 8) : RoundTrip.Statement (.vunpk p d a fmt) := by
  intro h tail
  exact long_back (op_rrf ..) (by decide) (by decide) h rfl (fields_vunpk _ _ _ _) tail

theorem RoundTrip.vsclap (p : Pre) (d a b : BitVec 7) (n : Bool) : RoundTrip.Statement (.vsclap p d a b n) := by
  intro h tail
  exact word_back (op_rrr ..) (by decide) (by decide) h rfl (fun x => fields_vsclap _ _ _ _ _ x) tail

theorem RoundTrip.vcmprs (p : Pre) (d a f : BitVec 7) (fk w : Bool) (mask : BitVec 4) (sc : BitVec 7) : RoundTrip.Statement (.vcmprs p d a f fk w mask sc) := by
  intro h tail
  exact long_back (op_rrr ..) (by decide) (by decide) h rfl (fields_vcmprs _ _ _ _ _ _ _ _) tail

theorem RoundTrip.vexpnd (p : Pre) (d a f : BitVec 7) (fk w : Bool) (mask : BitVec 4) (sc : BitVec 7) : RoundTrip.Statement (.vexpnd p d a f fk w mask sc) := by
  intro h tail
  exact long_back (op_rrr ..) (by decide) (by decide) h rfl (fields_vexpnd _ _ _ _ _ _ _ _) tail

theorem RoundTrip.vdecode (p : Pre) (d a c : BitVec 7) (te : Bool) (nreg : BitVec 7) (w : Bool) : RoundTrip.Statement (.vdecode p d a c te nreg w) := by
  intro h tail
  exact long_back (op_rrr ..) (by decide) (by decide) h rfl (fields_vdecode _ _ _ _ _ _ _) tail

theorem RoundTrip.vdstat (p : Pre) (d : BitVec 7) : RoundTrip.Statement (.vdstat p d) := by
  intro h tail
  exact long_back (op_rrr ..) (by decide) (by decide) h rfl (fields_vdstat _ _) tail

theorem RoundTrip.vdstatClr (p : Pre) (d : BitVec 7) : RoundTrip.Statement (.vdstatClr p d) := by
  intro h tail
  exact long_back (op_rrr ..) (by decide) (by decide) h rfl (fields_vdstatClr _ _) tail

theorem RoundTrip.oclaim (p : Pre) (q : BitVec 2) (k : BitVec 7) : RoundTrip.Statement (.oclaim p q k) := by
  intro h tail
  exact word_back (op_rrf ..) (by decide) (by decide) h rfl (fun x => fields_oclaim _ _ _ x) tail

theorem RoundTrip.orelease (p : Pre) (k : BitVec 7) : RoundTrip.Statement (.orelease p k) := by
  intro h tail
  exact word_back (op_rrf ..) (by decide) (by decide) h rfl (fun x => fields_orelease _ _ x) tail

theorem RoundTrip.oqry (p : Pre) (d k : BitVec 7) : RoundTrip.Statement (.oqry p d k) := by
  intro h tail
  exact word_back (op_rrf ..) (by decide) (by decide) h rfl (fun x => fields_oqry _ _ _ x) tail

theorem RoundTrip.oload (p : Pre) (k a e o : BitVec 7) (dfmt : BitVec 8) (ds tr scw : Bool) : RoundTrip.Statement (.oload p k a e o dfmt ds tr scw) := by
  intro h tail
  exact long_back (op_rrr ..) (by decide) (by decide) h rfl (fields_oload _ _ _ _ _ _ _ _ _) tail

theorem RoundTrip.ofill (p : Pre) (k a : BitVec 7) (fmt : BitVec 8) (fs : Bool) (row : BitVec 6) (woff : BitVec 5) (nreg : BitVec 6) (sc w : Bool) : RoundTrip.Statement (.ofill p k a fmt fs row woff nreg sc w) := by
  intro h tail
  exact long_back (op_rrf ..) (by decide) (by decide) h rfl (fields_ofill _ _ _ _ _ _ _ _ _ _) tail

theorem RoundTrip.mma (p : Pre) (d a b : BitVec 7) (fs : Bool) (pi : BitVec 7) (arow : BitVec 6) (w : Bool) : RoundTrip.Statement (.mma p d a b fs pi arow w) := by
  intro h tail
  exact long_back (op_rrr ..) (by decide) (by decide) h rfl (fields_mma _ _ _ _ _ _ _ _) tail

theorem RoundTrip.mmas (p : Pre) (d a b : BitVec 7) (fs : Bool) (pi : BitVec 7) (arow : BitVec 6) (w : Bool) : RoundTrip.Statement (.mmas p d a b fs pi arow w) := by
  intro h tail
  exact long_back (op_rrr ..) (by decide) (by decide) h rfl (fields_mmas _ _ _ _ _ _ _ _) tail

theorem RoundTrip.accz (p : Pre) (d : BitVec 7) (fs w : Bool) : RoundTrip.Statement (.accz p d fs w) := by
  intro h tail
  exact long_back (op_rrf ..) (by decide) (by decide) h rfl (fields_accz _ _ _ _) tail

theorem RoundTrip.accrd (p : Pre) (d a : BitVec 7) (fs : Bool) (col : BitVec 6) (nreg : BitVec 7) (w : Bool) : RoundTrip.Statement (.accrd p d a fs col nreg w) := by
  intro h tail
  exact long_back (op_rrf ..) (by decide) (by decide) h rfl (fields_accrd _ _ _ _ _ _ _) tail

theorem RoundTrip.accwr (p : Pre) (d a : BitVec 7) (fs : Bool) (col : BitVec 6) (nreg : BitVec 7) (w : Bool) : RoundTrip.Statement (.accwr p d a fs col nreg w) := by
  intro h tail
  exact long_back (op_rrf ..) (by decide) (by decide) h rfl (fields_accwr _ _ _ _ _ _ _) tail

theorem RoundTrip.accst (p : Pre) (d a : BitVec 7) (fmt : BitVec 8) (fs : Bool) (col : BitVec 6) (mode : BitVec 3) (sat scw : Bool) (row : BitVec 6) (ord : BitVec 2) (scp : BitVec 3) : RoundTrip.Statement (.accst p d a fmt fs col mode sat scw row ord scp) := by
  intro h tail
  exact long_back (op_rrf ..) (by decide) (by decide) h rfl (fields_accst _ _ _ _ _ _ _ _ _ _ _ _) tail

theorem RoundTrip.ocmp (p : Pre) (d a b : BitVec 7) (bk fs : Bool) (cc : Cc) (tie tot : Bool) (fmt : BitVec 8) (seg : BitVec 5) (w : Bool) : RoundTrip.Statement (.ocmp p d a b bk fs cc tie tot fmt seg w) := by
  intro h tail
  exact long_back (op_rrr ..) (by decide) (by decide) h rfl (fields_ocmp _ _ _ _ _ _ _ _ _ _ _ _) tail

theorem RoundTrip.btcnt (p : Pre) (d a : BitVec 7) (fs w : Bool) : RoundTrip.Statement (.btcnt p d a fs w) := by
  intro h tail
  exact long_back (op_rrr ..) (by decide) (by decide) h rfl (fields_btcnt _ _ _ _ _) tail

theorem RoundTrip.btcolc (p : Pre) (d a : BitVec 7) (fs w : Bool) : RoundTrip.Statement (.btcolc p d a fs w) := by
  intro h tail
  exact long_back (op_rrr ..) (by decide) (by decide) h rfl (fields_btcolc _ _ _ _ _) tail

theorem RoundTrip.btand (p : Pre) (d a b : BitVec 7) (fs : Bool) : RoundTrip.Statement (.btand p d a b fs) := by
  intro h tail
  exact long_back (op_rrr ..) (by decide) (by decide) h rfl (fields_btand _ _ _ _ _) tail

theorem RoundTrip.btor (p : Pre) (d a b : BitVec 7) (fs : Bool) : RoundTrip.Statement (.btor p d a b fs) := by
  intro h tail
  exact long_back (op_rrr ..) (by decide) (by decide) h rfl (fields_btor _ _ _ _ _) tail

theorem RoundTrip.btxor (p : Pre) (d a b : BitVec 7) (fs : Bool) : RoundTrip.Statement (.btxor p d a b fs) := by
  intro h tail
  exact long_back (op_rrr ..) (by decide) (by decide) h rfl (fields_btxor _ _ _ _ _) tail

theorem RoundTrip.btnot (p : Pre) (d a : BitVec 7) (fs : Bool) : RoundTrip.Statement (.btnot p d a fs) := by
  intro h tail
  exact long_back (op_rrr ..) (by decide) (by decide) h rfl (fields_btnot _ _ _ _) tail

theorem RoundTrip.btt (p : Pre) (d a : BitVec 7) (fs : Bool) : RoundTrip.Statement (.btt p d a fs) := by
  intro h tail
  exact long_back (op_rrr ..) (by decide) (by decide) h rfl (fields_btt _ _ _ _) tail

theorem RoundTrip.btcomp (p : Pre) (d a b : BitVec 7) (fs : Bool) : RoundTrip.Statement (.btcomp p d a b fs) := by
  intro h tail
  exact long_back (op_rrr ..) (by decide) (by decide) h rfl (fields_btcomp _ _ _ _ _) tail

theorem RoundTrip.btclos (p : Pre) (d a x : BitVec 7) (fs : Bool) : RoundTrip.Statement (.btclos p d a x fs) := by
  intro h tail
  exact long_back (op_rrr ..) (by decide) (by decide) h rfl (fields_btclos _ _ _ _ _) tail

theorem RoundTrip.bteye (p : Pre) (d : BitVec 7) (fs : Bool) : RoundTrip.Statement (.bteye p d fs) := by
  intro h tail
  exact long_back (op_rrr ..) (by decide) (by decide) h rfl (fields_bteye _ _ _) tail

theorem RoundTrip.btfirst (p : Pre) (d a : BitVec 7) (fs w : Bool) : RoundTrip.Statement (.btfirst p d a fs w) := by
  intro h tail
  exact long_back (op_rrr ..) (by decide) (by decide) h rfl (fields_btfirst _ _ _ _ _) tail

theorem RoundTrip.btrowRd (p : Pre) (d a : BitVec 7) (fs w : Bool) : RoundTrip.Statement (.btrowRd p d a fs w) := by
  intro h tail
  exact long_back (op_rrr ..) (by decide) (by decide) h rfl (fields_btrowRd _ _ _ _ _) tail

theorem RoundTrip.btrowWr (p : Pre) (d a : BitVec 7) (fs w : Bool) : RoundTrip.Statement (.btrowWr p d a fs w) := by
  intro h tail
  exact long_back (op_rrr ..) (by decide) (by decide) h rfl (fields_btrowWr _ _ _ _ _) tail

theorem RoundTrip.btld (p : Pre) (d a : BitVec 7) (fs sp : Bool) (ord : BitVec 2) (scp : BitVec 3) : RoundTrip.Statement (.btld p d a fs sp ord scp) := by
  intro h tail
  exact long_back (op_rrr ..) (by decide) (by decide) h rfl (fields_btld _ _ _ _ _ _ _) tail

theorem RoundTrip.btst (p : Pre) (d a : BitVec 7) (fs sp : Bool) (ord : BitVec 2) (scp : BitVec 3) : RoundTrip.Statement (.btst p d a fs sp ord scp) := by
  intro h tail
  exact long_back (op_rrr ..) (by decide) (by decide) h rfl (fields_btst _ _ _ _ _ _ _) tail

theorem RoundTrip.trap (p : Pre) (code : BitVec 14) : RoundTrip.Statement (.trap p code) := by
  intro h tail
  exact word_back (op_rrf ..) (by decide) (by decide) h rfl (fun x => fields_trap _ _ x) tail

theorem RoundTrip.tret (p : Pre) : RoundTrip.Statement (.tret p) := by
  intro h tail
  exact word_back (op_rrf ..) (by decide) (by decide) h rfl (fun x => fields_tret _ x) tail

theorem RoundTrip.tretKill (p : Pre) : RoundTrip.Statement (.tretKill p) := by
  intro h tail
  exact word_back (op_rrf ..) (by decide) (by decide) h rfl (fun x => fields_tretKill _ x) tail

theorem RoundTrip.tretIgn (p : Pre) : RoundTrip.Statement (.tretIgn p) := by
  intro h tail
  exact word_back (op_rrf ..) (by decide) (by decide) h rfl (fun x => fields_tretIgn _ x) tail

theorem RoundTrip.trd (p : Pre) (d r : BitVec 7) : RoundTrip.Statement (.trd p d r) := by
  intro h tail
  exact word_back (op_rrf ..) (by decide) (by decide) h rfl (fun x => fields_trd _ _ _ x) tail

theorem RoundTrip.twr (p : Pre) (r a : BitVec 7) : RoundTrip.Statement (.twr p r a) := by
  intro h tail
  exact word_back (op_rrf ..) (by decide) (by decide) h rfl (fun x => fields_twr _ _ _ x) tail

theorem RoundTrip.flash (p : Pre) (a : BitVec 7) : RoundTrip.Statement (.flash p a) := by
  intro h tail
  exact word_back (op_rrf ..) (by decide) (by decide) h rfl (fun x => fields_flash _ _ x) tail

theorem RoundTrip.flashNone (p : Pre) : RoundTrip.Statement (.flashNone p) := by
  intro h tail
  exact word_back (op_rrf ..) (by decide) (by decide) h rfl (fun x => fields_flashNone _ x) tail

theorem RoundTrip.dbgbrk (p : Pre) (code : BitVec 14) : RoundTrip.Statement (.dbgbrk p code) := by
  intro h tail
  exact word_back (op_rrf ..) (by decide) (by decide) h rfl (fun x => fields_dbgbrk _ _ x) tail

theorem RoundTrip.dmbw (p : Pre) (i : BitVec 3) (a : BitVec 7) : RoundTrip.Statement (.dmbw p i a) := by
  intro h tail
  exact word_back (op_rrf ..) (by decide) (by decide) h rfl (fun x => fields_dmbw _ _ _ x) tail

theorem RoundTrip.dmbwPost (p : Pre) (i : BitVec 3) (a : BitVec 7) : RoundTrip.Statement (.dmbwPost p i a) := by
  intro h tail
  exact word_back (op_rrf ..) (by decide) (by decide) h rfl (fun x => fields_dmbwPost _ _ _ x) tail

theorem RoundTrip.dmbr (p : Pre) (d i : BitVec 7) : RoundTrip.Statement (.dmbr p d i) := by
  intro h tail
  exact word_back (op_rrf ..) (by decide) (by decide) h rfl (fun x => fields_dmbr _ _ _ x) tail

theorem RoundTrip.cntrd (p : Pre) (d : BitVec 7) (n : BitVec 7) : RoundTrip.Statement (.cntrd p d n) := by
  intro h tail
  exact word_back (op_rrf ..) (by decide) (by decide) h rfl (fun x => fields_cntrd _ _ _ x) tail

theorem RoundTrip.tsrd (p : Pre) (d : BitVec 7) : RoundTrip.Statement (.tsrd p d) := by
  intro h tail
  exact word_back (op_rrf ..) (by decide) (by decide) h rfl (fun x => fields_tsrd _ _ x) tail

theorem RoundTrip.tickrd (p : Pre) (d : BitVec 7) : RoundTrip.Statement (.tickrd p d) := by
  intro h tail
  exact word_back (op_rrf ..) (by decide) (by decide) h rfl (fun x => fields_tickrd _ _ x) tail

theorem RoundTrip.featq (p : Pre) (d n : BitVec 7) : RoundTrip.Statement (.featq p d n) := by
  intro h tail
  exact word_back (op_rrf ..) (by decide) (by decide) h rfl (fun x => fields_featq _ _ _ x) tail

theorem RoundTrip.nop (p : Pre) : RoundTrip.Statement (.nop p) := by
  intro h tail
  exact word_back (op_rrf ..) (by decide) (by decide) h rfl (fun x => fields_nop _ x) tail

theorem RoundTrip.extensionOneWord (w : Word) : RoundTrip.Statement (.extensionOneWord w) := by
  intro h tail
  have hw : w.extractLsb' 28 4 = 0xE#4 := of_decide_eq_true h
  have hn : (fOP w).toNat / 8 = 14 := by
    have := congrArg BitVec.toNat hw
    simp only [BitVec.extractLsb'_toNat, Nat.shiftRight_eq_div_pow] at this
    simp only [fOP, BitVec.extractLsb'_toNat, Nat.shiftRight_eq_div_pow]
    simp at this
    omega
  have : (fOP w).toNat = 112 ∨ (fOP w).toNat = 113 ∨ (fOP w).toNat = 114 ∨ (fOP w).toNat = 115 ∨ (fOP w).toNat = 116 ∨ (fOP w).toNat = 117 ∨ (fOP w).toNat = 118 ∨ (fOP w).toNat = 119 := by
    omega
  rcases this with hk | hk | hk | hk | hk | hk | hk | hk
  all_goals
    have ho := BitVec.eq_of_toNat_eq (x := fOP w) (y := BitVec.ofNat 7 (fOP w).toNat) (by simp)
    rw [hk] at ho
    exact word_back ho (by decide) (by decide) h rfl (fun x => by unfold decodeFields; rw [ho]; rfl) tail

theorem RoundTrip.extensionLong (w : Word) (x : Word) : RoundTrip.Statement (.extensionLong w x) := by
  intro h tail
  have hw : w.extractLsb' 28 4 = 0xF#4 := of_decide_eq_true h
  have hn : (fOP w).toNat / 8 = 15 := by
    have := congrArg BitVec.toNat hw
    simp only [BitVec.extractLsb'_toNat, Nat.shiftRight_eq_div_pow] at this
    simp only [fOP, BitVec.extractLsb'_toNat, Nat.shiftRight_eq_div_pow]
    simp at this
    omega
  have : (fOP w).toNat = 120 ∨ (fOP w).toNat = 121 ∨ (fOP w).toNat = 122 ∨ (fOP w).toNat = 123 ∨ (fOP w).toNat = 124 ∨ (fOP w).toNat = 125 ∨ (fOP w).toNat = 126 ∨ (fOP w).toNat = 127 := by
    omega
  rcases this with hk | hk | hk | hk | hk | hk | hk | hk
  all_goals
    have ho := BitVec.eq_of_toNat_eq (x := fOP w) (y := BitVec.ofNat 7 (fOP w).toNat) (by simp)
    rw [hk] at ho
    exact long_back ho (by decide) (by decide) h rfl (by unfold decodeFields; rw [ho]; rfl) tail

theorem RoundTrip.clauseHeader (w : Word) : RoundTrip.Statement (.clauseHeader w) := by
  exact ⟨w, rfl⟩

theorem RoundTrip.illegalEncoding (w : Word) : RoundTrip.Statement (.illegalEncoding w) := by
  exact ⟨w, rfl⟩

theorem RoundTrip.finbyNop (len : BitVec 4) (arg : BitVec 16) : RoundTrip.Statement (.finbyNop len arg) := by
  intro h
  have h' : 1 ≤ len.toNat ∧ len.toNat ≤ 4 := by simpa [commandOk] using h
  refine command_back (i := .finbyNop len arg) rfl ?_ (by simpa [cmdLenOk] using h') rfl
  simp only [cmdFields, cmd_cmdWord, len_cmdWord, arg_cmdWord, BitVec.reduceToNat, BitVec.ofNat_eq_ofNat]

theorem RoundTrip.launch (num : BitVec 8) (desc par rec : Addr) (x y z : Word) : RoundTrip.Statement (.launch num desc par rec x y z) := by
  intro h
  refine command_back rfl ?_ (by decide) h
  simp (disch := decide) only [cmdFields, cmd_cmdWord, arg_cmdWord, words64, List.cons_append, List.nil_append, List.getD_cons_zero, List.getD_cons_succ, join64, hi_slice, lo_slice, full_slice, lo_bit, bool_bit, Nat.reduceSub, BitVec.reduceToNat, BitVec.ofNat_eq_ofNat]

theorem RoundTrip.launchi (num : BitVec 8) (desc par rec grid : Addr) : RoundTrip.Statement (.launchi num desc par rec grid) := by
  intro h
  refine command_back rfl ?_ (by decide) h
  simp (disch := decide) only [cmdFields, cmd_cmdWord, arg_cmdWord, words64, List.cons_append, List.nil_append, List.getD_cons_zero, List.getD_cons_succ, join64, hi_slice, lo_slice, full_slice, lo_bit, bool_bit, Nat.reduceSub, BitVec.reduceToNat, BitVec.ofNat_eq_ofNat]

theorem RoundTrip.edge (src dst : BitVec 8) : RoundTrip.Statement (.edge src dst) := by
  intro h
  refine command_back rfl ?_ (by decide) h
  simp (disch := decide) only [cmdFields, cmd_cmdWord, arg_cmdWord, words64, List.cons_append, List.nil_append, List.getD_cons_zero, List.getD_cons_succ, join64, hi_slice, lo_slice, full_slice, lo_bit, bool_bit, Nat.reduceSub, BitVec.reduceToNat, BitVec.ofNat_eq_ofNat]

theorem RoundTrip.gbegin (rec : Addr) : RoundTrip.Statement (.gbegin rec) := by
  intro h
  refine command_back rfl ?_ (by decide) h
  simp (disch := decide) only [cmdFields, cmd_cmdWord, arg_cmdWord, words64, List.cons_append, List.nil_append, List.getD_cons_zero, List.getD_cons_succ, join64, hi_slice, lo_slice, full_slice, lo_bit, bool_bit, Nat.reduceSub, BitVec.reduceToNat, BitVec.ofNat_eq_ofNat]

theorem RoundTrip.gend : RoundTrip.Statement (.gend) := by
  intro h
  refine command_back rfl ?_ (by decide) h
  simp (disch := decide) only [cmdFields, cmd_cmdWord, arg_cmdWord, words64, List.cons_append, List.nil_append, List.getD_cons_zero, List.getD_cons_succ, join64, hi_slice, lo_slice, full_slice, lo_bit, bool_bit, Nat.reduceSub, BitVec.reduceToNat, BitVec.ofNat_eq_ofNat]

theorem RoundTrip.pbegin (rec : Addr) : RoundTrip.Statement (.pbegin rec) := by
  intro h
  refine command_back rfl ?_ (by decide) h
  simp (disch := decide) only [cmdFields, cmd_cmdWord, arg_cmdWord, words64, List.cons_append, List.nil_append, List.getD_cons_zero, List.getD_cons_succ, join64, hi_slice, lo_slice, full_slice, lo_bit, bool_bit, Nat.reduceSub, BitVec.reduceToNat, BitVec.ofNat_eq_ofNat]

theorem RoundTrip.pend : RoundTrip.Statement (.pend) := by
  intro h
  refine command_back rfl ?_ (by decide) h
  simp (disch := decide) only [cmdFields, cmd_cmdWord, arg_cmdWord, words64, List.cons_append, List.nil_append, List.getD_cons_zero, List.getD_cons_succ, join64, hi_slice, lo_slice, full_slice, lo_bit, bool_bit, Nat.reduceSub, BitVec.reduceToNat, BitVec.ofNat_eq_ofNat]

theorem RoundTrip.loop (count : Word) (target : Addr) : RoundTrip.Statement (.loop count target) := by
  intro h
  refine command_back rfl ?_ (by decide) h
  simp (disch := decide) only [cmdFields, cmd_cmdWord, arg_cmdWord, words64, List.cons_append, List.nil_append, List.getD_cons_zero, List.getD_cons_succ, join64, hi_slice, lo_slice, full_slice, lo_bit, bool_bit, Nat.reduceSub, BitVec.reduceToNat, BitVec.ofNat_eq_ofNat]

theorem RoundTrip.waitmem (cond : BitVec 3) (value : Word) (addr : Addr) (mask timeout : Word) : RoundTrip.Statement (.waitmem cond value addr mask timeout) := by
  intro h
  refine command_back rfl ?_ (by decide) h
  simp (disch := decide) only [cmdFields, cmd_cmdWord, arg_cmdWord, words64, List.cons_append, List.nil_append, List.getD_cons_zero, List.getD_cons_succ, join64, hi_slice, lo_slice, full_slice, lo_bit, bool_bit, Nat.reduceSub, BitVec.reduceToNat, BitVec.ofNat_eq_ofNat]

theorem RoundTrip.cond (cond : BitVec 3) (value : Word) (addr : Addr) (mask : Word) (els : Addr) : RoundTrip.Statement (.cond cond value addr mask els) := by
  intro h
  refine command_back rfl ?_ (by decide) h
  simp (disch := decide) only [cmdFields, cmd_cmdWord, arg_cmdWord, words64, List.cons_append, List.nil_append, List.getD_cons_zero, List.getD_cons_succ, join64, hi_slice, lo_slice, full_slice, lo_bit, bool_bit, Nat.reduceSub, BitVec.reduceToNat, BitVec.ofNat_eq_ofNat]

theorem RoundTrip.waitctr (rec : Addr) : RoundTrip.Statement (.waitctr rec) := by
  intro h
  refine command_back rfl ?_ (by decide) h
  simp (disch := decide) only [cmdFields, cmd_cmdWord, arg_cmdWord, words64, List.cons_append, List.nil_append, List.getD_cons_zero, List.getD_cons_succ, join64, hi_slice, lo_slice, full_slice, lo_bit, bool_bit, Nat.reduceSub, BitVec.reduceToNat, BitVec.ofNat_eq_ofNat]

theorem RoundTrip.finbyFence (scope : BitVec 3) : RoundTrip.Statement (.finbyFence scope) := by
  intro h
  refine command_back rfl ?_ (by decide) h
  simp (disch := decide) only [cmdFields, cmd_cmdWord, arg_cmdWord, words64, List.cons_append, List.nil_append, List.getD_cons_zero, List.getD_cons_succ, join64, hi_slice, lo_slice, full_slice, lo_bit, bool_bit, Nat.reduceSub, BitVec.reduceToNat, BitVec.ofNat_eq_ofNat]

theorem RoundTrip.cancel (rec : Addr) : RoundTrip.Statement (.cancel rec) := by
  intro h
  refine command_back rfl ?_ (by decide) h
  simp (disch := decide) only [cmdFields, cmd_cmdWord, arg_cmdWord, words64, List.cons_append, List.nil_append, List.getD_cons_zero, List.getD_cons_succ, join64, hi_slice, lo_slice, full_slice, lo_bit, bool_bit, Nat.reduceSub, BitVec.reduceToNat, BitVec.ofNat_eq_ofNat]

theorem RoundTrip.signal (intr : Bool) (vector : BitVec 8) (addr value : Addr) : RoundTrip.Statement (.signal intr vector addr value) := by
  intro h
  refine command_back rfl ?_ (by decide) h
  simp (disch := decide) only [cmdFields, cmd_cmdWord, arg_cmdWord, words64, List.cons_append, List.nil_append, List.getD_cons_zero, List.getD_cons_succ, join64, hi_slice, lo_slice, full_slice, lo_bit, bool_bit, Nat.reduceSub, BitVec.reduceToNat, BitVec.ofNat_eq_ofNat]

theorem RoundTrip.link (next : Addr) : RoundTrip.Statement (.link next) := by
  intro h
  refine command_back rfl ?_ (by decide) h
  simp (disch := decide) only [cmdFields, cmd_cmdWord, arg_cmdWord, words64, List.cons_append, List.nil_append, List.getD_cons_zero, List.getD_cons_succ, join64, hi_slice, lo_slice, full_slice, lo_bit, bool_bit, Nat.reduceSub, BitVec.reduceToNat, BitVec.ofNat_eq_ofNat]

theorem RoundTrip.endStream : RoundTrip.Statement (.endStream) := by
  intro h
  refine command_back rfl ?_ (by decide) h
  simp (disch := decide) only [cmdFields, cmd_cmdWord, arg_cmdWord, words64, List.cons_append, List.nil_append, List.getD_cons_zero, List.getD_cons_succ, join64, hi_slice, lo_slice, full_slice, lo_bit, bool_bit, Nat.reduceSub, BitVec.reduceToNat, BitVec.ofNat_eq_ofNat]

theorem RoundTrip.bknop : RoundTrip.Statement (.bknop) := by
  refine bank_back rfl ?_
  simp (disch := decide) only [decodeBank, hi_slice, lo_slice, full_slice, hi_bit, lo_bit, bool_bit, Nat.reduceSub, BitVec.reduceToNat, Option.bind_some]
  exact if_pos rfl

theorem RoundTrip.bkcfg (wfmt xfmt : BitVec 8) (wscl : Bool) (gw gs go : BitVec 3) : RoundTrip.Statement (.bkcfg wfmt xfmt wscl gw gs go) := by
  refine bank_back rfl ?_
  simp (disch := decide) only [decodeBank, hi_slice, lo_slice, full_slice, hi_bit, lo_bit, bool_bit, Nat.reduceSub, BitVec.reduceToNat, Option.bind_some]
  exact if_pos rfl

theorem RoundTrip.bkldv (gx : BitVec 3) (len boff : BitVec 16) : RoundTrip.Statement (.bkldv gx len boff) := by
  refine bank_back rfl ?_
  simp (disch := decide) only [decodeBank, hi_slice, lo_slice, full_slice, hi_bit, lo_bit, bool_bit, Nat.reduceSub, BitVec.reduceToNat, Option.bind_some]
  exact if_pos rfl

theorem RoundTrip.bkmac (a : BitVec 3) (xoff n : BitVec 16) : RoundTrip.Statement (.bkmac a xoff n) := by
  refine bank_back rfl ?_
  simp (disch := decide) only [decodeBank, hi_slice, lo_slice, full_slice, hi_bit, lo_bit, bool_bit, Nat.reduceSub, BitVec.reduceToNat, Option.bind_some]
  exact if_pos rfl

theorem RoundTrip.bkscl (a : BitVec 3) (f : Word) : RoundTrip.Statement (.bkscl a f) := by
  refine bank_back rfl ?_
  simp (disch := decide) only [decodeBank, hi_slice, lo_slice, full_slice, hi_bit, lo_bit, bool_bit, Nat.reduceSub, BitVec.reduceToNat, Option.bind_some]
  exact if_pos rfl

theorem RoundTrip.bksum (a b : BitVec 3) : RoundTrip.Statement (.bksum a b) := by
  refine bank_back rfl ?_
  simp (disch := decide) only [decodeBank, hi_slice, lo_slice, full_slice, hi_bit, lo_bit, bool_bit, Nat.reduceSub, BitVec.reduceToNat, Option.bind_some]
  exact if_pos rfl

theorem RoundTrip.bkst (a : BitVec 3) (n : BitVec 4) : RoundTrip.Statement (.bkst a n) := by
  refine bank_back rfl ?_
  simp (disch := decide) only [decodeBank, hi_slice, lo_slice, full_slice, hi_bit, lo_bit, bool_bit, Nat.reduceSub, BitVec.reduceToNat, Option.bind_some]
  exact if_pos rfl

theorem RoundTrip.bkloop (c : BitVec 2) (set : Bool) (v : Word) : RoundTrip.Statement (.bkloop c set v) := by
  refine bank_back rfl ?_
  simp (disch := decide) only [decodeBank, hi_slice, lo_slice, full_slice, hi_bit, lo_bit, bool_bit, Nat.reduceSub, BitVec.reduceToNat, Option.bind_some]
  exact if_pos rfl

theorem RoundTrip.bkwait : RoundTrip.Statement (.bkwait) := by
  refine bank_back rfl ?_
  simp (disch := decide) only [decodeBank, hi_slice, lo_slice, full_slice, hi_bit, lo_bit, bool_bit, Nat.reduceSub, BitVec.reduceToNat, Option.bind_some]
  exact if_pos rfl

theorem RoundTrip.bkend : RoundTrip.Statement (.bkend) := by
  refine bank_back rfl ?_
  simp (disch := decide) only [decodeBank, hi_slice, lo_slice, full_slice, hi_bit, lo_bit, bool_bit, Nat.reduceSub, BitVec.reduceToNat, Option.bind_some]
  exact if_pos rfl

theorem RoundTrip.waitmemReread (vd slot : Nat) : RoundTrip.Statement (.waitmemReread vd slot) := by
  rfl

theorem RoundTrip.waitmemTimeout (vd slot : Nat) : RoundTrip.Statement (.waitmemTimeout vd slot) := by
  rfl

theorem RoundTrip.launchIssue (l : Nat) : RoundTrip.Statement (.launchIssue l) := by
  rfl

theorem RoundTrip.levelDone (l : Nat) : RoundTrip.Statement (.levelDone l) := by
  rfl

theorem RoundTrip.killIntervalExpiry (gang : Nat) : RoundTrip.Statement (.killIntervalExpiry gang) := by
  rfl

theorem RoundTrip.blockAdmit (l die : Nat) : RoundTrip.Statement (.blockAdmit l die) := by
  rfl

theorem RoundTrip.stealMessage (n : Nat) : RoundTrip.Statement (.stealMessage n) := by
  rfl

theorem RoundTrip.stealReply (n : Nat) : RoundTrip.Statement (.stealReply n) := by
  rfl

theorem RoundTrip.taskTake (core : Nat) : RoundTrip.Statement (.taskTake core) := by
  rfl

theorem RoundTrip.taskSteal (core : Nat) : RoundTrip.Statement (.taskSteal core) := by
  rfl

theorem RoundTrip.deadlockTrap (gang : Nat) : RoundTrip.Statement (.deadlockTrap gang) := by
  rfl

theorem RoundTrip.loadComplete (op : Nat) (lanes : Mask) : RoundTrip.Statement (.loadComplete op lanes) := by
  rfl

theorem RoundTrip.storePerformed (op : Nat) : RoundTrip.Statement (.storePerformed op) := by
  rfl

theorem RoundTrip.atomicComplete (op : Nat) : RoundTrip.Statement (.atomicComplete op) := by
  rfl

theorem RoundTrip.tileStepComplete (op : Nat) : RoundTrip.Statement (.tileStepComplete op) := by
  rfl

theorem RoundTrip.heldReleaseApply (op : Nat) : RoundTrip.Statement (.heldReleaseApply op) := by
  rfl

theorem RoundTrip.joinRecheck (gang strand : Nat) : RoundTrip.Statement (.joinRecheck gang strand) := by
  rfl

theorem RoundTrip.sleepWake (gang strand : Nat) : RoundTrip.Statement (.sleepWake gang strand) := by
  rfl

theorem RoundTrip.cwaitDeadline (gang strand : Nat) : RoundTrip.Statement (.cwaitDeadline gang strand) := by
  rfl

theorem RoundTrip.xacqGrant (gang : Nat) : RoundTrip.Statement (.xacqGrant gang) := by
  rfl

theorem RoundTrip.copyExecute (core : Nat) : RoundTrip.Statement (.copyExecute core) := by
  rfl

theorem RoundTrip.heditExecute (core : Nat) : RoundTrip.Statement (.heditExecute core) := by
  rfl

theorem RoundTrip.oloadExecute (core : Nat) : RoundTrip.Statement (.oloadExecute core) := by
  rfl

theorem RoundTrip.bankProgramStart (ch : Nat) : RoundTrip.Statement (.bankProgramStart ch) := by
  rfl

theorem RoundTrip.bankTransferComplete (ch i : Nat) : RoundTrip.Statement (.bankTransferComplete ch i) := by
  rfl

theorem RoundTrip.bankStepLimit (ch : Nat) : RoundTrip.Statement (.bankStepLimit ch) := by
  rfl

theorem RoundTrip.matrixOpStart (core : Nat) : RoundTrip.Statement (.matrixOpStart core) := by
  rfl

theorem RoundTrip.matrixOpComplete (op : Nat) : RoundTrip.Statement (.matrixOpComplete op) := by
  rfl

theorem RoundTrip.decodeEnd (gang strand : Nat) : RoundTrip.Statement (.decodeEnd gang strand) := by
  rfl

theorem RoundTrip.decodeCycleLimit (gang strand values : Nat) : RoundTrip.Statement (.decodeCycleLimit gang strand values) := by
  rfl

theorem RoundTrip.congestionSignal (core : Nat) : RoundTrip.Statement (.congestionSignal core) := by
  rfl

theorem RoundTrip.throttleRecovery (core : Nat) : RoundTrip.Statement (.throttleRecovery core) := by
  rfl

theorem RoundTrip.grantSliceExpiry (u : GrantUnit) (n : Nat) : RoundTrip.Statement (.grantSliceExpiry u n) := by
  rfl

theorem RoundTrip.preemptionRequest (block : Nat) : RoundTrip.Statement (.preemptionRequest block) := by
  rfl

theorem RoundTrip.preemptRunonEnd (block : Nat) : RoundTrip.Statement (.preemptRunonEnd block) := by
  rfl

theorem RoundTrip.blockResume (block core : Nat) : RoundTrip.Statement (.blockResume block core) := by
  rfl

theorem RoundTrip.migration (vd : Nat) : RoundTrip.Statement (.migration vd) := by
  rfl

theorem RoundTrip.faultTimeout (vd rec : Nat) : RoundTrip.Statement (.faultTimeout vd rec) := by
  rfl

theorem RoundTrip.pfans (vd : Nat) (value : Addr) : RoundTrip.Statement (.pfans vd value) := by
  rfl

theorem RoundTrip.tlbi (vd : Nat) : RoundTrip.Statement (.tlbi vd) := by
  rfl

theorem RoundTrip.tlbInvalidationDone (vd : Nat) : RoundTrip.Statement (.tlbInvalidationDone vd) := by
  rfl

theorem RoundTrip.rst (vd : Nat) : RoundTrip.Statement (.rst vd) := by
  rfl

theorem RoundTrip.pageClear (page : Nat) : RoundTrip.Statement (.pageClear page) := by
  rfl

theorem RoundTrip.strm (vd slot : Nat) (addr : Addr) : RoundTrip.Statement (.strm vd slot addr) := by
  rfl

theorem RoundTrip.tlogo (vd : Nat) : RoundTrip.Statement (.tlogo vd) := by
  rfl

theorem RoundTrip.rlogo (vd : Nat) : RoundTrip.Statement (.rlogo vd) := by
  rfl

theorem RoundTrip.blogo (vd page : Nat) : RoundTrip.Statement (.blogo vd page) := by
  rfl

theorem RoundTrip.registerWrite (vd window off : Nat) (value : Addr) : RoundTrip.Statement (.registerWrite vd window off value) := by
  rfl

theorem RoundTrip.hostLoad (vd : Nat) (off : HostAddr) (size : Nat) : RoundTrip.Statement (.hostLoad vd off size) := by
  rfl

theorem RoundTrip.hostStore (vd : Nat) (off : HostAddr) (size : Nat) (value : Addr) : RoundTrip.Statement (.hostStore vd off size value) := by
  rfl

theorem RoundTrip.interruptDelivery (vd : Nat) : RoundTrip.Statement (.interruptDelivery vd) := by
  rfl

theorem RoundTrip.budgetPeriod : RoundTrip.Statement (.budgetPeriod) := by
  rfl

theorem RoundTrip.governorPeriod : RoundTrip.Statement (.governorPeriod) := by
  rfl

theorem RoundTrip.patrolScrub : RoundTrip.Statement .patrolScrub := by
  rfl

theorem RoundTrip.laneRemap (link : LaneOf) (n : Nat) : RoundTrip.Statement (.laneRemap link n) := by
  rfl

theorem RoundTrip.flitReplay (link : Nat) : RoundTrip.Statement (.flitReplay link) := by
  rfl

theorem RoundTrip.linkDown (link : Nat) : RoundTrip.Statement (.linkDown link) := by
  rfl

theorem RoundTrip.cxlLinkDown (port : Nat) : RoundTrip.Statement (.cxlLinkDown port) := by
  rfl

theorem RoundTrip.powerGood : RoundTrip.Statement (.powerGood) := by
  rfl

theorem RoundTrip.diePowerState (die st : Nat) : RoundTrip.Statement (.diePowerState die st) := by
  rfl

theorem RoundTrip.liveUpdate (part : Nat) : RoundTrip.Statement (.liveUpdate part) := by
  rfl

theorem RoundTrip.updateFallback (part : Nat) : RoundTrip.Statement (.updateFallback part) := by
  rfl

theorem RoundTrip.rePlan (part : Nat) (res : Change) : RoundTrip.Statement (.rePlan part res) := by
  rfl

theorem RoundTrip.partitionCreate (n : Nat) (parent : Ancestry) (res : Resources) (devices managers : List Nat) : RoundTrip.Statement (.partitionCreate n parent res devices managers) := by
  rfl

theorem RoundTrip.keySlotLoad (slot : KeyLoad) : RoundTrip.Statement (.keySlotLoad slot) := by
  rfl

theorem RoundTrip.budgetControlWrite (by_ : Option Nat) (part k : Nat) (value : Addr) : RoundTrip.Statement (.budgetControlWrite by_ part k value) := by
  rfl

theorem RoundTrip.faultQueueRead (stack : Nat) : RoundTrip.Statement (.faultQueueRead stack) := by
  rfl

theorem RoundTrip.telemetryRead : RoundTrip.Statement (.telemetryRead) := by
  rfl

theorem RoundTrip.getVersion (viaHost : Bool) : RoundTrip.Statement (.getVersion viaHost) := by
  rfl

theorem RoundTrip.getCapabilities (viaHost : Bool) : RoundTrip.Statement (.getCapabilities viaHost) := by
  rfl

theorem RoundTrip.negotiateAlgorithms (viaHost : Bool) : RoundTrip.Statement (.negotiateAlgorithms viaHost) := by
  rfl

theorem RoundTrip.getDigests (viaHost : Bool) : RoundTrip.Statement (.getDigests viaHost) := by
  rfl

theorem RoundTrip.getCertificate (viaHost : Bool) : RoundTrip.Statement (.getCertificate viaHost) := by
  rfl

theorem RoundTrip.challenge (viaHost : Bool) : RoundTrip.Statement (.challenge viaHost) := by
  rfl

theorem RoundTrip.getMeasurements (viaHost : Bool) : RoundTrip.Statement (.getMeasurements viaHost) := by
  rfl

theorem RoundTrip.remoteElement (link dpa : Nat) (data : ElemData) : RoundTrip.Statement (.remoteElement link dpa data) := by
  rfl

theorem RoundTrip.remoteElementPerformed (cmd : Nat) (elem : Nat) : RoundTrip.Statement (.remoteElementPerformed cmd elem) := by
  rfl

theorem RoundTrip.fabricWindow (n : Nat) (base size : Nat) (links : List Nat) (remote : Nat) : RoundTrip.Statement (.fabricWindow n base size links remote) := by
  rfl

theorem RoundTrip.badPageRequest (page : Nat) : RoundTrip.Statement (.badPageRequest page) := by
  rfl

end Sys2Proof.Laws
end

