-- ==== Sys2Proof/Laws/Writes.lean ====
section
/-! SUPPORT. What an instruction leaves whose whole effect is one write: a pair, a V register, a condition, a predicate. -/

namespace Sys2Proof.Machine

theorem State.countIssue_moved (s : State) (i : Instr) : s.t.Moved (s.countIssue i).t := by
  rcases s.countIssue_t i with h | h <;> rw [h]
  · rfl
  · exact s.t.moved_age

/-- An instruction without an effect of its own leaves what `OnlyWentOn` says. -/
theorem State.retired_onlyWentOn (s : State) (i : Instr) : s.OnlyWentOn i ((s.countIssue i).retired i) := by
  have he := State.retired_elsewhere i (s.countIssue_elsewhere i)
  exact ⟨he, he.sameBytes, by simp, State.retired_wentOn i (by simp) (by simp),
    (s.countIssue_moved i).trans (State.retired_moved _ i)⟩

theorem Strand.Moved.set_sregs {t u v : Strand} {m : SMap Word} (h : t.Moved u) (k : Strand.Moved { u with sregs := m } v) :
    Strand.Moved { t with sregs := m } v := by
  unfold Strand.Moved at h k ⊢
  rw [k, h]

theorem Strand.Moved.reset_sregs {t u v : Strand} {m n : SMap Word} (h : Strand.Moved { t with sregs := n } u)
    (k : Strand.Moved { u with sregs := m } v) : Strand.Moved { t with sregs := m } v := by
  unfold Strand.Moved at h k ⊢
  rw [k, h]

theorem Strand.Moved.set_qregs {t u v : Strand} {m : BitVec 4} (h : t.Moved u) (k : Strand.Moved { u with qregs := m } v) :
    Strand.Moved { t with qregs := m } v := by
  unfold Strand.Moved at h k ⊢
  rw [k, h]

theorem Strand.Moved.qregs_of {t u v : Strand} (m : BitVec 4) (hu : Strand.Moved { t with qregs := m } u) (h : u.Moved v) :
    Strand.Moved { t with qregs := m } v := by
  unfold Strand.Moved at hu h ⊢
  rw [h, hu]

theorem Strand.moved_qregs {u v : Strand} (h : u.Moved v) : v.qregs = u.qregs := by
  unfold Strand.Moved at h; rw [h]

theorem Strand.setQ_moved (t : Strand) (n : Nat) (b : Bool) : Strand.Moved { t with qregs := (t.setQ n b).qregs } (t.setQ n b) := by
  have h := Strand.setQ_only t n b
  generalize t.setQ n b = u at h ⊢
  rw [h]
  rfl

/-! ## S pairs -/

theorem transOf_settle_of_none {t : Strand} {r q : Nat} (h : transOf t r = none) : transOf (t.settle q) r = none := by
  unfold Strand.settle transOf at *
  split
  · simp only [List.find?_eq_none, List.mem_filter, and_imp] at h ⊢
    exact fun x hx _ => h x hx
  · exact h

theorem State.writePair_eq (s : State) (r : BitVec 7) (v : Addr) : (s.writePair r v).t =
    (s.t.setS r.toNat (v.extractLsb' 0 32)).setS (r.toNat + 1) (v.extractLsb' 32 32) := rfl

theorem append_halves (v : Addr) : v.extractLsb' 32 32 ++ v.extractLsb' 0 32 = v := by
  apply BitVec.eq_of_getLsbD_eq
  intro i hi
  simp only [BitVec.getLsbD_append, BitVec.getLsbD_extractLsb']
  by_cases h : i < 32
  · simp [h]
  · simp [h, show i - 32 < 32 by omega, show 32 + (i - 32) = i by omega]

/-- An instruction whose effect is one write to an S pair leaves what `WritesPair` says. -/
theorem State.retired_writesPair (s : State) (i : Instr) (d : BitVec 7) (v : Addr) :
    s.WritesPair i (((s.countIssue i).writePair d v).retired i) d v := by
  generalize hu : (s.countIssue i).writePair d v = u
  have ht : u.t = ((s.countIssue i).t.setS d.toNat (v.extractLsb' 0 32)).setS (d.toNat + 1) (v.extractLsb' 32 32) := by
    rw [← hu]; rfl
  have he : s.Elsewhere u := by rw [← hu]; exact (s.countIssue_elsewhere i).of_focus rfl
  have hr := u.retired_moved i
  have hregs : (u.retired i).t.sregs = smSet 0 (smSet 0 s.t.sregs d.toNat (v.extractLsb' 0 32)) (d.toNat + 1) (v.extractLsb' 32 32) := by
    rw [Strand.moved_sregs hr, ht]; simp
  have hm : Strand.Moved { s.t with
      sregs := smSet 0 (smSet 0 s.t.sregs d.toNat (v.extractLsb' 0 32)) (d.toNat + 1) (v.extractLsb' 32 32) } u.t := by
    have h1 := Strand.setS_moved (s.countIssue i).t d.toNat (v.extractLsb' 0 32)
    have h2 := Strand.setS_moved ((s.countIssue i).t.setS d.toNat (v.extractLsb' 0 32)) (d.toNat + 1) (v.extractLsb' 32 32)
    rw [← ht] at h2
    have h3 := Strand.Moved.reset_sregs ((s.countIssue_moved i).set_sregs h1) h2
    simpa using h3
  have none1 : transOf (u.retired i).t (128 + d.toNat) = none := by
    refine State.retired_transOf_none i ?_
    rw [ht]
    have h1 : transOf ((s.countIssue i).t.setS d.toNat (v.extractLsb' 0 32)) (128 + d.toNat) = none := by
      unfold transOf; rw [Strand.setS_trans]; exact transOf_settle_same _ _
    unfold transOf; rw [Strand.setS_trans]
    exact transOf_settle_of_none h1
  have none2 : transOf (u.retired i).t (128 + (d.toNat + 1)) = none := by
    refine State.retired_transOf_none i ?_
    rw [ht]
    unfold transOf; rw [Strand.setS_trans]; exact transOf_settle_same _ _
  refine ⟨State.retired_elsewhere i he, (State.retired_elsewhere i he).sameBytes, ?_, ?_, hm.sregs_of _ hr, ?_, ?_⟩
  · rw [State.retired_g, ← hu]; simp
  · exact State.retired_wentOn i (by rw [ht]; simp) (by rw [ht]; simp)
  · have e1 : (u.retired i).readS d.toNat = v.extractLsb' 0 32 := by
      unfold State.readS Strand.readS; rw [none1, hregs]
      show smGet 0 _ _ = _
      rw [smGet_smSet_other 0 _ _ (show d.toNat + 1 ≠ d.toNat by omega), smGet_smSet_same]
    have e2 : (u.retired i).readS (d.toNat + 1) = v.extractLsb' 32 32 := by
      unfold State.readS Strand.readS; rw [none2, hregs]; simp
    rw [State.readPair, e1, e2]
    exact append_halves v
  · intro r h1 h2
    rw [hregs, smGet_smSet_other 0 _ _ (Ne.symm h2), smGet_smSet_other 0 _ _ (Ne.symm h1)]

/-! ## Conditions -/

theorem qbit (q : BitVec 4) (n m : Nat) (hn : n < 4) (hm : m < 4) (b : Bool) :
    (if b then q ||| (1#4 <<< n) else q &&& ~~~(1#4 <<< n)).getLsbD m = if m = n then b else q.getLsbD m := by
  have : ∀ (q : BitVec 4) (b : Bool), ∀ n < 4, ∀ m < 4,
      (if b then q ||| (1#4 <<< n) else q &&& ~~~(1#4 <<< n)).getLsbD m = if m = n then b else q.getLsbD m := by decide
  exact this q b n hn m hm

/-- An instruction whose effect is one write to a Q register leaves what `WritesQ` says. -/
theorem State.retired_writesQ (s : State) (i : Instr) (q : BitVec 2) (b : Bool) :
    s.WritesQ i (((s.countIssue i).writeQ q b).retired i) q b := by
  generalize hu : (s.countIssue i).writeQ q b = u
  have ht : u.t = (s.countIssue i).t.setQ q.toNat b := by rw [← hu]; rfl
  have he : s.Elsewhere u := by rw [← hu]; exact (s.countIssue_elsewhere i).of_focus rfl
  have hr := u.retired_moved i
  have hq : (u.retired i).t.qregs = u.t.qregs := Strand.moved_qregs hr
  have hm : Strand.Moved { s.t with qregs := u.t.qregs } u.t := by
    have h1 := Strand.setQ_moved (s.countIssue i).t q.toNat b
    rw [← ht] at h1
    exact (s.countIssue_moved i).set_qregs h1
  have bit : ∀ m, m < 4 → (u.retired i).readQ m = if m = q.toNat then b else s.readQ m := by
    intro m hm
    unfold State.readQ
    rw [hq, ht, Strand.setQ_qregs, qbit _ _ _ q.isLt hm, State.countIssue_t_qregs]
  refine ⟨State.retired_elsewhere i he, (State.retired_elsewhere i he).sameBytes, ?_, ?_, ?_, ?_, ?_⟩
  · rw [State.retired_g, ← hu]; simp
  · exact State.retired_wentOn i (by rw [ht]; simp) (by rw [ht]; simp)
  · rw [hq]
    exact hm.qregs_of _ hr
  · rw [bit _ q.isLt]; simp
  · intro n hn hne
    rw [bit n hn]; simp [hne]

/-! ## V registers -/

/-- Words written to lanes of one V register, in order. -/
theorem Gang.foldl_writeV (d : Nat) (l : List (Nat × Word)) (g : Gang) :
    l.foldl (fun g p => g.writeV d p.1 p.2) g =
      { g with vregs := l.foldl (fun m p => smSet 0 m (64 * d + p.1) p.2) g.vregs } := by
  induction l generalizing g with
  | nil => rfl
  | cons p r ih => rw [List.foldl_cons, ih]; rfl

theorem State.setV_g (s : State) (r : Nat) (l : List (Nat × Word)) :
    (s.setV r l).g = l.foldl (fun g p => g.writeV r p.1 p.2) s.g := rfl

theorem State.setV_t (s : State) (r : Nat) (l : List (Nat × Word)) :
    (s.setV r l).t = if l = [] then s.t else (s.t.settle r).note r := rfl

theorem smGet_foldl_other (d : Nat) (l : List (Nat × Word)) (m : SMap Word) (a : Nat)
    (h : ∀ p ∈ l, 64 * d + p.1 ≠ a) : smGet 0 (l.foldl (fun m p => smSet 0 m (64 * d + p.1) p.2) m) a = smGet 0 m a := by
  induction l generalizing m with
  | nil => rfl
  | cons p r ih =>
    rw [List.foldl_cons, ih _ fun q hq => h q (List.mem_cons_of_mem _ hq),
      smGet_smSet_other 0 m p.2 (h p List.mem_cons_self)]

theorem smGet_foldl_mem (d : Nat) (f : Nat → Word) (ls : List Nat) (m : SMap Word) (l : Nat) (h : l ∈ ls) :
    smGet 0 ((ls.map fun l => (l, f l)).foldl (fun m p => smSet 0 m (64 * d + p.1) p.2) m) (64 * d + l) = f l := by
  induction ls generalizing m with
  | nil => cases h
  | cons k r ih =>
    rw [List.map_cons, List.foldl_cons]
    by_cases hr : l ∈ r
    · exact ih _ hr
    · have hk : k = l := by simpa [hr, eq_comm] using h
      subst hk
      rw [smGet_foldl_other d _ _ _ ?_, smGet_smSet_same]
      intro p hp
      obtain ⟨x, hx, rfl⟩ := List.mem_map.mp hp
      have : x ≠ k := fun e => hr (e ▸ hx)
      show 64 * d + x ≠ 64 * d + k
      omega

theorem mem_lanesBelow {n l : Nat} {m : Mask} (h : l ∈ lanesBelow n m) : l < n ∧ m.getLsbD l = true := by
  induction n with
  | zero => cases h
  | succ n ih =>
    rw [lanesBelow, List.mem_append] at h
    rcases h with h | h
    · exact ⟨by have := (ih h).1; omega, (ih h).2⟩
    · by_cases hb : m.getLsbD n = true
      · rw [if_pos hb] at h
        have : l = n := by simpa using h
        subst this
        exact ⟨by omega, hb⟩
      · rw [if_neg hb] at h; cases h

/-- A lane of a mask's list is one of its bits. -/
theorem mem_lanesOf {l : Nat} {m : Mask} (h : l ∈ lanesOf m) : l < 64 ∧ m.getLsbD l = true := by
  unfold lanesOf at h; exact mem_lanesBelow h

theorem lanesOf_mem {l : Nat} {m : Mask} (hl : l < 64) (h : m.getLsbD l = true) : l ∈ lanesOf m := by
  have key : ∀ n, l < n → l ∈ lanesBelow n m := by
    intro n
    induction n with
    | zero => intro h; omega
    | succ n ih =>
      intro hn
      rw [lanesBelow, List.mem_append]
      by_cases hln : l < n
      · exact .inl (ih hln)
      · have : l = n := by omega
        subst this
        right; simp [h]
  unfold lanesOf; exact key 64 hl

/-- An instruction whose effect is one write to a V register in the active lanes leaves what `WritesV` says. -/
theorem State.retired_writesV (s : State) (i : Instr) (p : Pre) (d : BitVec 7) (f : Nat → Word) :
    s.WritesV i (((s.countIssue i).mapV p d f).retired i) p d f := by
  generalize hu : (s.countIssue i).mapV p d f = u
  have he : s.Elsewhere u := by
    rw [← hu]; exact (s.countIssue_elsewhere i).of_focus (State.mapV_only _ _ _ _)
  have hr := u.retired_moved i
  cases hp : p.t with
  | true =>
    have e : u = { s.countIssue i with
        t := (s.countIssue i).t.bypass d.toNat ((lanesOf s.t.active).map fun l => (l, f l)) } := by
      rw [← hu]; simp [State.mapV, State.writeV, hp]
    have hg : u.g = s.g := by rw [e]; simp
    have ht : u.t = (s.countIssue i).t.bypass d.toNat ((lanesOf s.t.active).map fun l => (l, f l)) := by rw [e]
    refine ⟨State.retired_elsewhere i he, (State.retired_elsewhere i he).sameBytes, ?_, ?_, ?_, ?_, ?_⟩
    · rw [State.retired_g, hg]
    · exact State.retired_wentOn i (by rw [ht]; simp) (by rw [ht]; simp)
    · refine ((s.countIssue_moved i).trans ?_).trans hr
      rw [ht]; rfl
    · intro h; rw [hp] at h; cases h
    · intro _
      refine ⟨by rw [State.retired_g, hg], State.retired_trans_mem i ?_⟩
      rw [ht]; exact List.mem_cons_self
  | false =>
    have e : u = (s.countIssue i).setV d.toNat ((lanesOf s.t.active).map fun l => (l, f l)) := by
      rw [← hu]; simp [State.mapV, State.writeV, hp]
    have hg : u.g = { s.g with
        vregs := List.foldl (fun m (p : Nat × Word) => smSet 0 m (64 * d.toNat + p.1) p.2) s.g.vregs
          ((lanesOf s.t.active).map fun l => (l, f l)) } := by
      rw [e, State.setV_g, Gang.foldl_writeV, State.countIssue_g]
    have ht : u.t = (s.countIssue i).t ∧ lanesOf s.t.active = [] ∨
        u.t = ((s.countIssue i).t.settle d.toNat).note d.toNat := by
      rw [e, State.setV_t]
      by_cases hl : lanesOf s.t.active = []
      · exact .inl ⟨by simp [hl], hl⟩
      · exact .inr (if_neg (by simpa using hl))
    have hpc : u.t.pc = s.t.pc ∧ u.t.clause = s.t.clause := by
      rcases ht with ht | ht
      · rw [ht.1]; simp
      · rw [ht]; simp
    refine ⟨State.retired_elsewhere i he, (State.retired_elsewhere i he).sameBytes, ?_, ?_, ?_, ?_, ?_⟩
    · rw [State.retired_g, hg]
    · exact State.retired_wentOn i hpc.1 hpc.2
    · refine ((s.countIssue_moved i).trans ?_).trans hr
      rcases ht with ht | ht
      · rw [ht.1]; rfl
      · rw [ht]
        unfold Strand.Moved
        rw [Strand.note_only, Strand.settle_only]
    · intro _
      refine ⟨fun l hl => ?_, fun r l hl hne => ?_⟩
      · have ht : u.t = ((s.countIssue i).t.settle d.toNat).note d.toNat := by
          rcases ht with ht | ht
          · rw [ht.2] at hl; cases hl
          · exact ht
        have hnone : transOf (u.retired i).t d.toNat = none := by
          refine State.retired_transOf_none i ?_
          rw [ht]; unfold transOf; rw [Strand.note_trans]; exact transOf_settle_same _ _
        unfold State.readV
        rw [hnone]
        show smGet 0 (u.retired i).g.vregs _ = _
        rw [State.retired_g, hg]
        exact smGet_foldl_mem d.toNat f _ _ l hl
      · show smGet 0 (u.retired i).g.vregs _ = smGet 0 s.g.vregs _
        rw [State.retired_g, hg]
        refine smGet_foldl_other d.toNat _ _ _ fun q hq => ?_
        obtain ⟨x, hx, rfl⟩ := List.mem_map.mp hq
        have hx64 := (mem_lanesOf hx).1
        show 64 * d.toNat + x ≠ 64 * r + l
        rcases hne with hne | hne
        · omega
        · intro heq
          have : x = l := by omega
          exact hne (this ▸ hx)
    · intro h; rw [hp] at h; cases h

/-! ## Predicates -/

/-- An instruction whose effect is one write to a predicate leaves what `WritesP` says. -/
theorem State.retired_writesP (s : State) (i : Instr) (n : BitVec 3) (v : Mask) :
    s.WritesP i (((s.countIssue i).writeP n.toNat v).retired i) n v.getLsbD := by
  generalize hu : (s.countIssue i).writeP n.toNat v = u
  have he : s.Elsewhere u := by rw [← hu]; exact (s.countIssue_elsewhere i).of_focus rfl
  have hr := u.retired_moved i
  have hg : u.g = { s.g with
      pregs := smSet 0 s.g.pregs n.toNat ((s.g.readP n.toNat &&& ~~~s.t.active) ||| (v &&& s.t.active)) } := by
    rw [← hu]; simp [State.writeP]
  have ht : u.t = (s.countIssue i).t.note (192 + n.toNat) := by rw [← hu]; rfl
  have hread : ∀ m, (u.retired i).g.readP m =
      if m ≠ 7 ∧ m = n.toNat then (s.g.readP n.toNat &&& ~~~s.t.active) ||| (v &&& s.t.active) else s.g.readP m := by
    intro m
    rw [State.retired_g, hg]
    unfold Gang.readP
    by_cases h7 : m = 7
    · simp [h7]
    · by_cases hm : m = n.toNat
      · subst hm
        simp only [h7, if_false, ne_eq, not_false_eq_true, and_self, if_true]
        exact smGet_smSet_same _ _ _ _
      · simp only [h7, hm, if_false, and_false]
        exact smGet_smSet_other _ _ _ (Ne.symm hm)
  refine ⟨State.retired_elsewhere i he, (State.retired_elsewhere i he).sameBytes, ?_, ?_, ?_, ?_, ?_, ?_, ?_⟩
  · rw [State.retired_g, hg]
  · exact State.retired_wentOn i (by rw [ht]; simp) (by rw [ht]; simp)
  · refine ((s.countIssue_moved i).trans ?_).trans hr
    rw [ht]
    unfold Strand.Moved
    rw [Strand.note_only]
  · intro hn l hl
    have h7 : n.toNat ≠ 7 := fun h => hn (BitVec.eq_of_toNat_eq h)
    rw [hread]
    simp [h7, (mem_lanesOf hl).2]
  · intro l hl hne
    have : s.t.active.getLsbD l = false := by
      cases h : s.t.active.getLsbD l with
      | false => rfl
      | true => exact absurd (lanesOf_mem hl h) hne
    rw [hread]
    split
    · simp only [BitVec.getLsbD_or, BitVec.getLsbD_and, BitVec.getLsbD_not, this, hl]
      simp
    · rfl
  · rw [hread]; simp [Gang.readP]
  · intro m hm
    rw [hread]; simp [hm]

end Sys2Proof.Machine
end

