-- ==== Sys2Proof/Tests/Slice0.lean ====
section
/-! SUPPORT. Tests: words that the spec writes out, terms that WellFormed refuses, single steps whose results the spec's
examples or tables give, and for each claim a state and operands that meet its hypotheses. -/

set_option maxRecDepth 4000

namespace Sys2Proof.Tests

set_option Elab.async false

open Sys2Proof Sys2Proof.Machine

/-! ## Words that the spec writes out (spec 07-18, 20, 22) -/

/-- What a word and the one after it decode to. -/
def dec (w x : Word) : Option Instr := (decode w x).toOption

/-- What a command decodes to. -/
def cmd (ws : List Word) : Option Instr := (decodeFinby ws).toOption

/-- The stream-fault code of a command that does not decode. -/
def cmdError (ws : List Word) : Option Nat :=
  match decodeFinby ws with
  | .ok _ => none
  | .error c => some c

/-- The prefix T = 0, G = 0. -/
def p0 : Pre := ⟨false, 0⟩

theorem test_decode_scalar :
    dec 0x02010308 0 = some (.sadd p0 2 3 4 false) ∧ dec 0x020103F7 0 = some (.sadd p0 2 3 0x7B true) ∧
      dec 0x10030607 0 = some (.sshl p0 6 6 3 true) ∧ dec 0x1A10840A 0 = some (.scmp p0 .lt 1 4 5 false) ∧
      dec 0x1C020590 0 = some (.ssel p0 4 5 9) ∧ dec 0x2003A468 0 = some (.smovi p0 7 0x2468) ∧
      dec 0x2203D678 0 = some (.slui p0 7 0x5678) ∧ dec 0x1E000083 0 = some (.srdid p0 0 3) := by decide +kernel

theorem test_decode_control :
    dec 0x28000009 0 = some (.joinat p0 9) ∧ dec 0x26040005 0 = some (.brl p0 1 5) ∧
      dec 0x241C0004 0 = some (.bra p0 7 4) ∧ dec 0x2C0009FD 0 = some (.loopb p0 9 0xFD) ∧
      dec 0x2E1D1402 0 = some (.bindCall p0 58 20) ∧ dec 0x2E003A00 0 = some (.bret p0 58) ∧
      dec 0x2E000003 0 = some (.regrp p0) := by decide +kernel

theorem test_decode_strands :
    dec 0x32050203 0 = some (.voteBal p0 false 10 2) ∧ dec 0x32000180 0 = some (.voteAny p0 true 0 1) ∧
      dec 0x34020500 0x18000041 = some (.shfl p0 4 5 0 false .xor false false 0 true 1) ∧
      dec 0x34030700 0x0A200041 = some (.shfl p0 6 7 0 false .up false true 8 true 1) ∧
      dec 0x36008001 0 = some (.setfmtImm p0 2) ∧ dec 0x36000305 0 = some (.seedsr p0 3) ∧
      dec 0x38000002 0 = some (.xacqBt p0) ∧ dec 0x3A008000 0x80000020 = some (.fork p0 1 0 0 true false 0x20) := by
  decide +kernel

theorem test_decode_memory :
    dec 0x4A048407 0x2100A005 = some (.stu p0 ⟨9, 4, 3, true, false, 2, 0, 0, 5⟩ 1 20) ∧
      dec 0x40050600 0xB0043FF8 = some (.ld p0 ⟨10, 6, 0, false, true, 3, 0, 0, 0x3FF8⟩ true) ∧
      dec 0x4E040A09 0x2FE1C60E = some (.atom p0 ⟨8, 10, 4, true, false, 2, 3, 4, 0⟩ 15 false .cas 12 14) ∧
      dec 0x4C010607 0x27000040 = some (.sts p0 ⟨2, 6, 3, true, false, 2, 0, 0, 0x40⟩ 7) ∧
      dec 0x440E0A19 0x40000300 = some (.lds p0 ⟨28, 10, 12, true, false, 4, 0, 0, 0x300⟩) := by decide +kernel

theorem test_decode_tiles_and_barriers :
    dec 0x52048401 0x10000000 = some (.tld p0 9 4 1 1 false false 0 0) ∧
      dec 0x54048401 0 = some (.tst p0 9 4 1 false false 0 0) ∧
      dec 0x58000405 0x00010000 = some (.tperm p0 4 1 false 0 0) ∧ dec 0x5A010C00 0 = some (.bara p0 2 12 false) ∧
      dec 0x5A010F01 0 = some (.bars p0 2 15 false) ∧ dec 0x5C0A9400 0 = some (.bxinit p0 21 20) ∧
      dec 0x5C031403 0 = some (.bxwait p0 true 2 20) ∧ dec 0x5E008601 0 = some (.crwaitFull p0 0 true 6) := by
  decide +kernel

theorem test_decode_engines :
    dec 0x60000264 0x04400000 = some (.cpy p0 2 50 4 32 false) ∧ dec 0x620F1A00 0 = some (.cwait p0 false 30 26) ∧
      dec 0x64000428 0x06500000 = some (.hedit p0 4 20 6 40 false) ∧
      dec 0x66061434 0x16000000 = some (.bankcmd p0 12 20 26 22) := by decide +kernel

theorem test_decode_vector :
    dec 0x70008102 0 = some (.vadd p0 1 1 1 false) ∧ dec 0x8603040A 0x20000008 = some (.vfshl p0 6 4 5 2 0 8) ∧
      dec 0x8C048006 0 = some (.vlane p0 9) ∧ dec 0x9A02050D 0 = some (.vfma p0 4 5 6 true) ∧
      dec 0x92020000 0x3F800000 = some (.vmovi p0 4 0x3F800000) ∧
      dec 0x8E01040A 0x20000000 = some (.vcmp p0 2 4 5 false .lt false) ∧
      dec 0x9002050C 0x09000000 = some (.vsel p0 4 5 6 false 9) ∧
      dec 0xA6050B19 0x0D800000 = some (.vexp2 p0 10 11 12 true 13 true) := by decide +kernel

theorem test_decode_reduce_and_convert :
    dec 0xAE020341 0 = some (.vred p0 4 3 false true .fadd) ∧ dec 0xAE028630 0 = some (.vscan p0 5 6 false true .add) ∧
      dec 0xB0010100 0x32100000 = some (.vcvt p0 2 1 0 0x64 1 false 0) ∧
      dec 0xB2010106 0x32010000 = some (.vcvtef p0 2 1 3 0x64 0 false 1) ∧
      dec 0xB4040064 0 = some (.vpack p0 8 0 0x64 0 false) ∧
      dec 0xB8038800 0x01120000 = some (.vcmprs p0 7 8 0 false false 1 9) ∧
      dec 0xBA040000 0x00200000 = some (.vdstat p0 8) := by decide +kernel

theorem test_decode_matrix :
    dec 0xC0008200 0 = some (.oclaim p0 1 2) ∧ dec 0xC2011434 0x28010000 = some (.oload p0 2 20 26 40 1 false false false) ∧
      dec 0xC4018801 0x00080000 = some (.ofill p0 3 8 1 false 0 0 32 false false) ∧
      dec 0xC6008207 0x40000000 = some (.mmas p0 1 2 3 false 64 0 false) ∧
      dec 0xC8040000 0x20040000 = some (.accrd p0 8 0 false 0 4 false) ∧
      dec 0xC8000A02 0x60000000 = some (.accst p0 0 10 2 false 0 0 false false 0 0 0) ∧
      dec 0xCA000102 0x2C000000 = some (.ocmp p0 0 1 1 false false .lt true true 0 0 false) ∧
      dec 0xCC008000 0x20140000 = some (.btclos p0 1 0 5 false) ∧ dec 0xCC010C00 0x3A000000 = some (.btst p0 2 12 false true 0 0) := by
  decide +kernel

theorem test_decode_system :
    dec 0xD0004200 0 = some (.trap p0 0x42) ∧ dec 0xD0000003 0 = some (.tretIgn p0) ∧
      dec 0xD000BC05 0 = some (.twr p0 1 60) ∧ dec 0xD2002800 0 = some (.flash p0 40) ∧
      dec 0xD4000100 0 = some (.dbgbrk p0 1) ∧ dec 0xD4038A02 0 = some (.dmbwPost p0 7 10) ∧
      dec 0xD4060803 0 = some (.dmbr p0 12 8) ∧ dec 0xD60A0002 0 = some (.tickrd p0 20) ∧
      dec 0xD6040103 0 = some (.featq p0 8 1) := by decide +kernel

theorem test_decode_bank_program :
    decodeBank 0x0000000080000A01 = some (.bkcfg 0x0A 0 false 0 0 1) ∧ decodeBank 0x0000000001000202 = some (.bkldv 2 256 0) ∧
      decodeBank 0x0000000200010007 = some (.bkloop 0 true 2) ∧ decodeBank 0x0000004000000003 = some (.bkmac 0 0 64) ∧
      decodeBank 0x0000FFFE00000007 = some (.bkloop 0 false 0xFFFE) ∧ decodeBank 9 = some .bkend ∧
      decodeBank 0x0000000000000100 = none := by decide +kernel

/-- CMD 0x01 LAUNCH of three 16-byte units, its ARG the launch number 7 (R19, R20): descriptor, parameters, record, grid. -/
theorem test_decode_stream :
    cmd [0x00070301, 0, 0x1000, 0, 0x2000, 0, 0x3000, 0, 4, 2, 1, 0] = some (.launch 7 0x1000 0x2000 0x3000 4 2 1) ∧
      cmdError [0x00000111, 0, 0, 0] = some 1 ∧ cmdError [0x00000205, 0, 0, 0, 0, 0, 0, 0] = some 2 ∧
      cmdError [0x0000010F, 0, 0x1010, 0] = some 3 := by decide +kernel

/-! ## Ill-formed terms: one for each kind of check -/

/-- S64, an odd pair, V128 as S, P7 as a destination, a GD of 4 on a scalar guard, T on an instruction that may not have it
(R105, R108, R110). -/
theorem test_wf_refuses_registers :
    ¬ (Instr.sadd p0 64 0 0 false).WellFormed ∧ ¬ (Instr.sadd p0 0 64 0 false).WellFormed ∧
      ¬ (Instr.sadd p0 0 0 64 false).WellFormed ∧ ¬ (Instr.bret p0 57).WellFormed ∧
      ¬ (Instr.vcmp p0 7 0 0 false .eq false).WellFormed ∧ ¬ (Instr.ssel p0 0 0 4).WellFormed ∧
      ¬ (Instr.voteBal ⟨true, 0⟩ false 0 0).WellFormed ∧ ¬ (Instr.voteAny p0 false 0 8).WellFormed ∧
      ¬ (Instr.vred p0 64 0 false true .add).WellFormed := by
  simp only [Instr.WellFormed]; decide +kernel

/-- SZ, ORD, SCP, X, operation and compare-register fields of lane accesses (R123). -/
theorem test_wf_refuses_lane_fields :
    ¬ (Instr.ld p0 ⟨0, 0, 0, false, false, 5, 0, 0, 0⟩ false).WellFormed ∧
      ¬ (Instr.ld p0 ⟨0, 0, 0, false, false, 2, 2, 0, 0⟩ false).WellFormed ∧
      ¬ (Instr.st p0 ⟨0, 0, 0, false, false, 2, 1, 0, 0⟩ 7).WellFormed ∧
      ¬ (Instr.ld p0 ⟨0, 0, 0, false, false, 2, 0, 1, 0⟩ false).WellFormed ∧
      ¬ (Instr.ld p0 ⟨0, 0, 3, false, false, 2, 0, 0, 0⟩ false).WellFormed ∧
      ¬ (Instr.ld p0 ⟨0, 1, 0, false, false, 2, 0, 0, 0⟩ false).WellFormed ∧
      ¬ (Instr.ldc p0 ⟨0, 0, 0, false, false, 2, 1, 0, 0⟩ false).WellFormed ∧
      ¬ (Instr.atom p0 ⟨0, 0, 0, false, false, 1, 0, 0, 0⟩ 7 false .add 0 0).WellFormed ∧
      ¬ (Instr.atom p0 ⟨0, 0, 0, false, false, 2, 0, 0, 0⟩ 7 false .add 0 1).WellFormed ∧
      ¬ (Instr.ld ⟨true, 0⟩ ⟨0, 0, 0, false, false, 2, 0, 0, 0⟩ false).WellFormed := by
  simp only [Instr.WellFormed]; decide +kernel

/-- SCMP conditions, LOOPB's sign, DBGBRK and handler register numbers, counters, feature words, handles, tiles and counts
(R130, R141, R227, R231, R248, R271). -/
theorem test_wf_refuses_values :
    ¬ (Instr.scmp p0 .un 0 0 0 false).WellFormed ∧ ¬ (Instr.scmp p0 .eq 0 0 0 true).WellFormed ∧
      ¬ (Instr.loopb p0 0 1).WellFormed ∧ ¬ (Instr.trd p0 0 14).WellFormed ∧ ¬ (Instr.trd p0 1 1).WellFormed ∧
      ¬ (Instr.cntrd p0 0 64).WellFormed ∧ ¬ (Instr.cntrd p0 1 0).WellFormed ∧ ¬ (Instr.oclaim p0 0 32).WellFormed ∧
      ¬ (Instr.accz p0 4 false false).WellFormed ∧ ¬ (Instr.btand p0 8 0 0 false).WellFormed ∧
      ¬ (Instr.dmbr p0 0 9).WellFormed ∧ ¬ (Instr.nop ⟨false, 1⟩).WellFormed := by
  simp only [Instr.WellFormed]; decide +kernel

/-! ## A small world, and states that meet the hypotheses of the claims -/

/-- A range entry (R329): addresses 0x10000 to 0x20000, readable, writable, executable and bank-visible, key 0, at 0x4000 of
pseudo-channel 1. -/
def entry : Nat := 0x10000 + 2 ^ 64 * 0x20000 + 2 ^ 128 * 0x4000 + 2 ^ 192 * 0x4F + 2 ^ 224 * 1

/-- A tiled range entry (R329): 16 tiles of 8 × 8 elements of 8 bits in the payload slots from 0x20000, their headers from
0x21000, at 0x14000 of pseudo-channel 1. -/
def tiledEntry : Nat :=
  0x20000 + 2 ^ 64 * 0x30000 + 2 ^ 128 * 0x14000 + 2 ^ 192 * 0x100F + 2 ^ 224 * 1 + 2 ^ 256 * 0x1000 + 2 ^ 384 * 0x133 +
    2 ^ 416 * 15

/-- The canonical address of an address of those ranges (R328, R336). -/
def canonical (va : Nat) : Nat := 2 ^ 39 + 2 ^ 30 + 0x4000 + (va - 0x10000)

/-- Bytes of memory put at a canonical address. -/
def put (s : State) (c : Nat) (bs : List Byte) : State :=
  { s with mem := smSetAll 0 s.mem ((List.range bs.length).map fun i => (c + i, bs.getD i 0)) }

/-- The one partition. -/
def part : Part := newPart 0 none ⟨[0, 1], [⟨0, 9, 0, 0, 2 ^ 30⟩], [0], [0], [], []⟩ 0

/-- A block of 4 KiB of scratchpad with ring 0 of two stages. -/
def blk : Block := ⟨1, 5, 0, 0, 0, 4096, false, [], [], [(0, ⟨2, [], [], []⟩)], [], [], false, none⟩

/-- A gang of 16 lanes of it. -/
def gang : Gang := { Gang.init with id := 1, block := 1, launch := 5, xmax := 2 }

/-- The world: one device with those ranges, its table at 2^39. -/
def world : State :=
  put { State.reset with
    powered := true, tick := 1000, cycle := 50, nextId := 100, blocks := [blk], parts := [part]
    vdevs := [{ VDev.init with rtab := 2 ^ 39, rcnt := 2 }] } (2 ^ 39) (natBytes 64 entry ++ natBytes 64 tiledEntry)

/-- A strand that stands at an instruction, the last of its clause. -/
def strand (i : Instr) : Strand :=
  { Strand.init with active := 0xFFFF, pc := 0x1004, clause := some ⟨0x1000, BitVec.ofNat 32 ((wordsOf i) * 2 ^ 28), encode i⟩ }

/-- The world with a strand focused. -/
def on (t : Strand) : State := { world with focused := true, g := gang, t := t }

/-- The world with a strand that stands at an instruction. -/
def stand (i : Instr) : State := on (strand i)

theorem witness_issues : (stand (.sadd p0 1 2 3 false)).Issues (.sadd p0 1 2 3 false) := ⟨rfl, by decide +kernel⟩

theorem witness_ScalarResults :
    (∃ i s p d v, scalarRow s i = some (p, d, v) ∧ s.Issues i ∧ p.t = false) ∧
      ∃ i s p d v, scalarRow s i = some (p, d, v) ∧ s.Issues i ∧ p.t = true :=
  ⟨⟨.sadd p0 1 2 3 false, stand (.sadd p0 1 2 3 false), _, _, _, rfl, ⟨rfl, by decide +kernel⟩, rfl⟩,
    .sadd ⟨true, 0⟩ 1 2 3 false, stand (.sadd ⟨true, 0⟩ 1 2 3 false), _, _, _, rfl, ⟨rfl, by decide +kernel⟩, rfl⟩

/-! ### Conditions, pairs, reductions, shuffles, choices, packed elements -/

/-- A strand with half of the gang's lanes: its gang is not whole. -/
def halved (i : Instr) : State := on { strand i with active := 0xFF }

theorem witness_VectorResults : ∃ (i : Instr) (s : State) (p : Pre) (d : BitVec 7) (v : Nat → Word),
    vectorRow s i = some (p, d, v) ∧ s.Issues i :=
  ⟨.vadd p0 1 2 3 false, stand (.vadd p0 1 2 3 false), _, _, _, rfl, by decide +kernel⟩

theorem witness_ConditionResults :
    (∃ (i : Instr) (s : State) (q : BitVec 2) (b : Bool), conditionRow s i = some (q, true, b) ∧ s.Issues i ∧
      s.isWhole = true) ∧
    ∃ (i : Instr) (s : State) (q : BitVec 2) (b : Bool), conditionRow s i = some (q, false, b) ∧ s.Issues i :=
  ⟨⟨.voteAny p0 true 1 2, stand (.voteAny p0 true 1 2), _, _, rfl, by decide +kernel⟩,
    .scmp p0 .lt 1 2 3 false, stand (.scmp p0 .lt 1 2 3 false), _, _, rfl, by decide +kernel⟩

theorem witness_PredicateResults : ∃ (i : Instr) (s : State) (n : BitVec 3) (b : Nat → Bool),
    predicateRow s i = some (n, b) ∧ s.Issues i :=
  ⟨.vcmp p0 1 2 3 false .lt true, stand (.vcmp p0 1 2 3 false .lt true), _, _, rfl, by decide +kernel⟩

theorem witness_PairResults : ∃ (i : Instr) (s : State) (d : BitVec 7) (v : Addr),
    pairRow s i = some (d, true, v) ∧ s.Issues i ∧ s.isWhole = true :=
  ⟨.voteBal p0 true 4 2, stand (.voteBal p0 true 4 2), _, _, rfl, by decide +kernel⟩

theorem witness_CrossLaneResults :
    (∃ (i : Instr) (s : State) (p : Pre) (d : BitVec 7) (v : Nat → Word), crossLaneRow s i = some (true, p, d, v) ∧
      s.Issues i ∧ s.isWhole = true) ∧
    ∃ (s : State) (p : Pre) (d a : BitVec 7) (op : RedOp), s.Issues (.vred p d a true true op) ∧ s.isWhole = true :=
  ⟨⟨.shfl p0 1 2 3 false .xor true false 0 true 63, stand (.shfl p0 1 2 3 false .xor true false 0 true 63), _, _, _, rfl,
      by decide +kernel⟩,
    stand (.vred p0 1 2 true true .add), p0, 1, 2, .add, by decide +kernel⟩

theorem witness_WholeFormsNeedTheWholeGang : ∃ (i : Instr) (s : State), wholeForm i = true ∧ s.Issues i ∧ s.isWhole = false :=
  ⟨.voteAll p0 true 1 2, halved (.voteAll p0 true 1 2), by decide +kernel⟩

/-- Lanes 15 and 16 of a gang of 16, a guard that holds and one that does not, and a word of the major. -/
theorem witness_SrdvAndSselChoose :
    (∃ (s : State) (p : Pre) (d a : BitVec 7) (l : BitVec 6), s.Issues (.srdv p d a l) ∧ l.toNat < s.g.width ∧ l = 15) ∧
    (∃ (s : State) (p : Pre) (d a : BitVec 7) (l : BitVec 6), s.Issues (.srdv p d a l) ∧ s.g.width ≤ l.toNat ∧ l = 16) ∧
    (∃ (s : State) (p : Pre) (d a : BitVec 7) (gd : BitVec 4), s.Issues (.ssel p d a gd) ∧ s.scalarGuardHolds gd = true) ∧
    (∃ (s : State) (p : Pre) (d a : BitVec 7) (gd : BitVec 4), s.Issues (.ssel p d a gd) ∧ s.scalarGuardHolds gd = false) ∧
    ∃ (w x : Word) (i : Instr), fOP w = 0x0E ∧ decode w x = .ok i :=
  ⟨⟨stand (.srdv p0 1 2 15), p0, 1, 2, 15, by decide +kernel⟩, ⟨stand (.srdv p0 1 2 16), p0, 1, 2, 16, by decide +kernel⟩,
    ⟨stand (.ssel p0 1 2 7), p0, 1, 2, 7, by decide +kernel⟩, ⟨stand (.ssel p0 1 2 15), p0, 1, 2, 15, by decide +kernel⟩,
    0x1C000000, 0, .ssel p0 0 0 0, by decide +kernel, rfl⟩

/-- FMTR f16, bf16 and f32. -/
theorem witness_PackedResults :
    (∃ (s : State) (p : Pre) (d a b : BitVec 7), s.Issues (.vhadd p d a b false) ∧ s.t.fmtr = 1) ∧
    (∃ (s : State) (p : Pre) (d a b : BitVec 7), s.Issues (.vhmul p d a b false) ∧ s.t.fmtr = 2) ∧
    ∃ (s : State) (p : Pre) (d a b : BitVec 7), s.Issues (.vhfma p d a b false) ∧ s.t.fmtr ≠ 1 ∧ s.t.fmtr ≠ 2 :=
  ⟨⟨stand (.vhadd p0 1 2 3 false), p0, 1, 2, 3, by decide +kernel⟩,
    ⟨on { strand (.vhmul p0 1 2 3 false) with fmtr := 2 }, p0, 1, 2, 3, by decide +kernel⟩,
    on { strand (.vhfma p0 1 2 3 false) with fmtr := 0 }, p0, 1, 2, 3, by decide +kernel⟩

/-! ### Conversions, compress and expand, mode registers -/

/-- 250.0 in every lane of V2: outside a binary8 format of three significant bits. -/
def tooLarge (i : Instr) (cvmr : Word) : State :=
  { on { strand i with cvmr := cvmr } with
    g := { gang with vregs := (List.range 16).map fun l => (2 * 64 + l, 0x437A0000#32) } }

/-- VCVT of 250.0 to a binary8 format with and without TRP, and VPACK of it. -/
theorem witness_ConversionResults :
    (∃ (s : State) (c : CvtMode), (Instr.vcvt p0 1 2 0 0x64 0 false 0).WellFormed ∧ s.Issues (.vcvt p0 1 2 0 0x64 0 false 0) ∧
      cvtMode s.t.cvmr (.fam 8 4 true false) 0 false = some c ∧
      s.noEvent c (.fam 8 4 true false) fun l => [fmtValue (.ieee 8 23) (s.readV 2 l).toNat]) ∧
    (∃ (s : State) (c : CvtMode), s.Issues (.vcvt p0 1 2 0 0x64 0 false 0) ∧
      cvtMode s.t.cvmr (.fam 8 4 true false) 0 false = some c ∧
      ¬ s.noEvent c (.fam 8 4 true false) fun l => [fmtValue (.ieee 8 23) (s.readV 2 l).toNat]) ∧
    (∃ (s : State) (c : CvtMode), (Instr.vpack p0 1 4 0x64 0 false).WellFormed ∧ s.Issues (.vpack p0 1 4 0x64 0 false) ∧
      cvtMode s.t.cvmr (.fam 8 4 true false) 0 false = some c ∧
      s.noEvent c (.fam 8 4 true false) (packValues s (.fam 8 4 true false) 4)) ∧
    ∃ (s : State) (c : CvtMode), s.Issues (.vpack p0 1 2 0x64 0 false) ∧
      cvtMode s.t.cvmr (.fam 8 4 true false) 0 false = some c ∧
      ¬ s.noEvent c (.fam 8 4 true false) (packValues s (.fam 8 4 true false) 2) :=
  ⟨⟨tooLarge (.vcvt p0 1 2 0 0x64 0 false 0) 0, _, by simp only [Instr.WellFormed]; decide +kernel, by decide +kernel, rfl,
      Or.inl rfl⟩,
    ⟨tooLarge (.vcvt p0 1 2 0 0x64 0 false 0) 0x2000, _, by decide +kernel, rfl, by unfold State.noEvent; decide +kernel⟩,
    ⟨tooLarge (.vpack p0 1 4 0x64 0 false) 0x2000, _, by simp only [Instr.WellFormed]; decide +kernel, by decide +kernel, rfl,
      by unfold State.noEvent; decide +kernel⟩,
    tooLarge (.vpack p0 1 2 0x64 0 false) 0x2000, _, by decide +kernel, rfl, by unfold State.noEvent; decide +kernel⟩

theorem witness_TandemAndUnpackResults :
    (∃ (s : State) (c : CvtMode), (Instr.vcvtef p0 1 2 3 0x64 0 false 1).WellFormed ∧
      s.Issues (.vcvtef p0 1 2 3 0x64 0 false 1) ∧ fmtOf 0x64 = some (.fam 8 4 true false) ∧
      cvtMode s.t.cvmr (.fam 8 4 true false) 0 false = some c ∧
      s.noEvent c (.fam 8 4 true false) fun l => [val32 (s.readV 2 l)]) ∧
    ∃ (s : State) (f : Fmt), s.Issues (.vunpk p0 4 2 0x64) ∧ fmtOf 0x64 = some f ∧ f.width ≠ 32 :=
  ⟨⟨tooLarge (.vcvtef p0 1 2 3 0x64 0 false 1) 0, _, by simp only [Instr.WellFormed]; decide +kernel, by decide +kernel, rfl,
      rfl, Or.inl rfl⟩,
    stand (.vunpk p0 4 2 0x64), _, by decide +kernel, rfl, by decide +kernel⟩

theorem witness_CompressAndExpandResults :
    (∃ (i : Instr) (s : State) (d sc : BitVec 7) (m : Mask) (v : Nat → Word),
      movedRow s i = some (d, sc, true, m, v) ∧ i.WellFormed ∧ s.Issues i ∧ s.isWhole = true) ∧
    ∃ (i : Instr) (s : State) (d sc : BitVec 7) (m : Mask) (v : Nat → Word),
      movedRow s i = some (d, sc, false, m, v) ∧ i.WellFormed ∧ s.Issues i :=
  ⟨⟨.vcmprs p0 1 2 3 true true 0 4, stand (.vcmprs p0 1 2 3 true true 0 4), _, _, _, _, rfl,
      by simp only [Instr.WellFormed]; decide +kernel, by decide +kernel⟩,
    .vexpnd p0 1 2 3 true false 8 4, stand (.vexpnd p0 1 2 3 true false 8 4), _, _, _, _, rfl,
      by simp only [Instr.WellFormed]; decide +kernel, by decide +kernel⟩

/-- A code that is a format and one that is reserved; rounding fields 4 and 5. -/
theorem witness_ModeRegisterWrites :
    (∃ s : State, s.Issues (.setfmtImm p0 0x0E) ∧ (fmtOf 0x0E).isSome) ∧
    (∃ s : State, s.Issues (.setfmt p0 4) ∧ fmtOf ((s.readS 4).extractLsb' 0 8) = none) ∧
    (∃ s : State, s.Issues (.setcvm p0 4) ∧ bits (s.readS 4).toNat 24 3 = 4 ∧ bits (s.readS 4).toNat 0 3 = 0 ∧
      bits (s.readS 4).toNat 8 3 = 0 ∧ bits (s.readS 4).toNat 16 3 = 0) ∧
    (∃ s : State, s.Issues (.setcvm p0 4) ∧ 5 ≤ bits (s.readS 4).toNat 24 3) ∧
    ∃ s : State, (Instr.vdstatClr p0 4).WellFormed ∧ s.Issues (.vdstatClr p0 4) :=
  ⟨⟨stand (.setfmtImm p0 0x0E), by decide +kernel⟩,
    ⟨on { strand (.setfmt p0 4) with sregs := [(4, 0x0F)] }, by decide +kernel⟩,
    ⟨on { strand (.setcvm p0 4) with sregs := [(4, 0x04000000)] }, by decide +kernel⟩,
    ⟨on { strand (.setcvm p0 4) with sregs := [(4, 0x05000000)] }, by decide +kernel⟩,
    stand (.vdstatClr p0 4), by simp only [Instr.WellFormed]; decide +kernel⟩

theorem witness_SeedsSetLaneStates : ∃ s : State, s.Issues (.seedsrV p0 4) := ⟨stand (.seedsrV p0 4), by decide +kernel⟩

/-! ### Control flow -/

/-- A strand that stands at an instruction with some of its S registers set. -/
def withS (i : Instr) (rs : SMap Word) : State := on { strand i with sregs := rs }

theorem witness_BranchesGoWhereTheirGuardSays :
    (∃ s : State, s.Issues (.bra p0 7 4) ∧ s.scalarGuardHolds 7 = true) ∧
    (∃ s : State, s.Issues (.bra p0 15 4) ∧ s.scalarGuardHolds 15 = false) ∧
    (∃ s : State, s.Issues (.bcall p0 7 4) ∧ s.scalarGuardHolds 7 = true) ∧
    (∃ s : State, s.Issues (.bcall p0 0 4) ∧ s.scalarGuardHolds 0 = false) ∧
    (∃ s : State, s.Issues (.loopb p0 4 0xFF) ∧ s.readS 4 = 1) ∧ (∃ s : State, s.Issues (.loopb p0 4 0x80) ∧ s.readS 4 ≠ 1) ∧
    ∃ (w x : Word) (i : Instr), fOP w = 0x16 ∧ decode w x = .ok i :=
  ⟨⟨stand (.bra p0 7 4), by decide +kernel⟩, ⟨stand (.bra p0 15 4), by decide +kernel⟩,
    ⟨stand (.bcall p0 7 4), by decide +kernel⟩, ⟨stand (.bcall p0 0 4), by decide +kernel⟩,
    ⟨withS (.loopb p0 4 0xFF) [(4, 1)], by decide +kernel⟩, ⟨stand (.loopb p0 4 0x80), by decide +kernel⟩,
    0x2C0001FF, 0, .loopb p0 1 0xFF, by decide +kernel, rfl⟩

/-- A target that is a multiple of 4 and one that is not. -/
theorem witness_IndirectTransfers :
    (∃ s : State, s.Issues (.bret p0 4) ∧ (s.readPair 4).toNat % 4 = 0) ∧
    (∃ s : State, s.Issues (.bind p0 4) ∧ (s.readPair 4).toNat % 4 ≠ 0) ∧
    (∃ s : State, s.Issues (.bindCall p0 4 4) ∧ (s.readPair 4).toNat % 4 = 0) ∧
    ∃ s : State, s.Issues (.bindCall p0 6 4) ∧ (s.readPair 4).toNat % 4 ≠ 0 :=
  ⟨⟨withS (.bret p0 4) [(4, 0x2000)], by decide +kernel⟩, ⟨withS (.bind p0 4) [(4, 0x2003)], by decide +kernel⟩,
    ⟨withS (.bindCall p0 4 4) [(4, 0x2000)], by decide +kernel⟩, ⟨withS (.bindCall p0 6 4) [(4, 0x2001)], by decide +kernel⟩⟩

/-- All lanes taken, none, and some, with an entry free and with none free. -/
theorem witness_BrlSplitsTheStrand :
    (∃ s : State, s.Issues (.brl p0 7 4) ∧ s.laneGuard 7 = s.t.active) ∧
    (∃ s : State, s.Issues (.brl p0 1 4) ∧ s.laneGuard 1 = 0 ∧ s.laneGuard 1 ≠ s.t.active) ∧
    ∃ s : State, s.Issues (.brl p0 1 4) ∧ s.laneGuard 1 ≠ 0 ∧ s.laneGuard 1 ≠ s.t.active ∧
      ∃ n, n < 64 ∧ n ∉ s.t.idx :: s.g.strands.map fun u => u.idx :=
  ⟨⟨stand (.brl p0 7 4), by decide +kernel⟩, ⟨stand (.brl p0 1 4), by decide +kernel⟩,
    { stand (.brl p0 1 4) with g := { gang with pregs := [(1, 0xF)] } }, by decide +kernel, by decide +kernel, by decide +kernel,
      1, by decide +kernel, by decide +kernel⟩

/-- Stacks of 15 and of 16, and a gang that is one strand. -/
theorem witness_JoinStackGrowsAndClears :
    (∃ s : State, s.Issues (.joinat p0 4) ∧ s.t.joins.length = 15) ∧
    (∃ s : State, s.Issues (.joinat p0 4) ∧ s.t.joins.length = 16) ∧ ∃ s : State, s.Issues (.regrp p0) ∧ s.isWhole = true :=
  ⟨⟨on { strand (.joinat p0 4) with joins := List.replicate 15 ⟨0, 1, 0, false⟩ }, by decide +kernel⟩,
    ⟨on { strand (.joinat p0 4) with joins := List.replicate 16 ⟨0, 1, 0, false⟩ }, by decide +kernel⟩,
    stand (.regrp p0), by decide +kernel⟩

/-- The tick now, and one later. -/
theorem witness_SleepWaitsForItsTick :
    (∃ s : State, s.Issues (.sleep p0 4) ∧ (s.readPair 4).toNat = s.tick) ∧
    ∃ s : State, s.Issues (.sleepRel p0 4) ∧ s.tick < s.tick + (s.readS 4).toNat :=
  ⟨⟨withS (.sleep p0 4) [(4, 1000)], by decide +kernel⟩, withS (.sleepRel p0 4) [(4, 1)], by decide +kernel⟩

/-- A gang with a second strand, and one whose last lanes exit. -/
theorem witness_ExitRemovesLanes :
    (∃ s : State, s.Issues (.exit p0) ∧ (∀ h ∈ s.gangs, h.id ≠ s.g.id) ∧ ∃ v ∈ s.g.strands, v.active &&& ~~~s.t.active ≠ 0) ∧
    ∃ s : State, s.Issues (.exit p0) ∧ (∀ h ∈ s.gangs, h.id ≠ s.g.id) ∧ s.g.strands = [] ∧ s.outstanding s.g.id = false :=
  ⟨⟨{ halved (.exit p0) with g := { gang with strands := [{ Strand.init with idx := 1, active := 0xFF00 }] } },
      by decide +kernel⟩,
    stand (.exit p0), by decide +kernel⟩

theorem witness_InstructionsThatOnlyGoOn : ∃ s : State, s.Issues (.dcwb p0 1 2) := ⟨stand (.dcwb p0 1 2), by decide +kernel⟩

/-! ### Extended blocks, fork and join -/

/-- A block that fits, one that is held, and one that does not fit. -/
theorem witness_AcquiredBlocksReadZero :
    (∃ s : State, s.Issues (.xacqAcc p0 0) ∧ ¬ (s.g.holdsBlock 1 = true ∨ (∃ x ∈ s.g.xreqs, x.what = 1) ∨
      s.g.xmax ≤ s.g.nheld + s.g.xreqs.length) ∧ s.blockFits s.whole = true) ∧
    (∃ s : State, s.Issues (.xacqV p0) ∧ s.g.holdsBlock 0 = true) ∧
    ∃ s : State, s.Issues (.xacqBt p0) ∧ ¬ (s.g.holdsBlock 5 = true ∨ (∃ x ∈ s.g.xreqs, x.what = 5) ∨
      s.g.xmax ≤ s.g.nheld + s.g.xreqs.length) ∧ s.blockFits s.whole = false :=
  ⟨⟨stand (.xacqAcc p0 0), by decide +kernel⟩,
    ⟨{ stand (.xacqV p0) with g := { gang with heldV := true } }, by decide +kernel⟩,
    { stand (.xacqBt p0) with gangs := (List.range 5).map fun k =>
      { gang with id := k + 2, heldV := true, heldAcc := 15, heldBt := true, strands := [{ Strand.init with active := 1 }] } }, by decide +kernel⟩

theorem witness_ReleasedBlocksAreGone :
    (∃ s : State, s.Issues (.xrelV p0) ∧ s.g.holdsBlock 0 = false) ∧
    (∃ s : State, s.Issues (.xrelAcc p0 3) ∧ s.g.holdsBlock 4 = true ∧ s.blockBusy s.g.id 4 = false ∧
      s.requestsOn s.g.core = []) ∧
    ∃ s : State, s.Issues (.xrelV p0) ∧ s.g.holdsBlock 0 = true ∧ s.blockBusy s.g.id 0 = true :=
  ⟨⟨stand (.xrelV p0), by decide +kernel⟩,
    ⟨{ stand (.xrelAcc p0 3) with g := { gang with heldAcc := 8 } }, by decide +kernel⟩,
    { stand (.xrelV p0) with
      g := { gang with heldV := true }
      ops := [⟨7, 1, 0, [], 1, none, none, [], 0, 1, 1, .load 64 2 [(0, 0x10000, [])]⟩] }, by decide +kernel⟩

/-- An entry that is not aligned, one pushed, a deque of 256 and a cancelled launch. -/
theorem witness_ForkPushesARecord :
    (∃ s : State, s.Issues (.fork p0 1 2 8 false true 0) ∧ (s.readPair 8).toNat % 4 ≠ 0) ∧
    (∃ s : State, s.Issues (.fork p0 1 2 8 false false 4) ∧ (targetOf s 4).toNat % 4 = 0 ∧ s.NothingOut ∧
      (s.deque.filter fun k => k.core == s.g.core).length = 255 ∧ s.launchCancelled s.g.launch = false) ∧
    (∃ s : State, s.Issues (.fork p0 1 2 8 false false 4) ∧ (targetOf s 4).toNat % 4 = 0 ∧ s.NothingOut ∧
      (s.deque.filter fun k => k.core == s.g.core).length = 256) ∧
    ∃ s : State, s.Issues (.fork p0 1 2 8 false false 4) ∧ (targetOf s 4).toNat % 4 = 0 ∧ s.NothingOut ∧
      s.launchCancelled s.g.launch = true :=
  let full n := List.replicate n (⟨0, false, 0x1000, [], 5, 1, 0, 16, 0, 1⟩ : Task)
  ⟨⟨withS (.fork p0 1 2 8 false true 0) [(8, 6)], by decide +kernel⟩,
    ⟨{ stand (.fork p0 1 2 8 false false 4) with deque := full 255 }, by unfold State.NothingOut; decide +kernel⟩,
    ⟨{ stand (.fork p0 1 2 8 false false 4) with deque := full 256 }, by unfold State.NothingOut; decide +kernel⟩,
    { stand (.fork p0 1 2 8 false false 4) with
      levels := [⟨5, .launch, 0, 0, none, none, 1, 0, 0, 0, 0, 0, false, true⟩] },
    by unfold State.NothingOut; decide +kernel⟩

/-- S4:S5 at the range's first address and at its last word; the scratchpad's last word and one past it. -/
theorem witness_JoinWaitsForZero :
    (∃ s : State, s.Issues (.join p0 4 4) ∧ s.NothingOut ∧ (s.readPair 4).toNat % 4 ≠ 0) ∧
    (∃ (s : State) (hits : List Hit), s.Issues (.join p0 4 4) ∧ s.NothingOut ∧ goodAddr (s.readPair 4).toNat 4 ∧
      s.sound ∧ (s.countIssue (.join p0 4 4)).Reaches true false
        (laneBytes (lowLane s.t.active) (s.readPair 4).toNat 4) hits) ∧
    (∃ (s : State) (b : Block), s.Issues (.joinSp p0 0 4) ∧ s.NothingOut ∧ s.g.dbgc.extractLsb' 0 8 = 0 ∧
      s.blockOf s.g.block = some b ∧ (s.readS 4).toNat + 4 = b.spadBytes) ∧
    ∃ (s : State) (b : Block), s.Issues (.joinSp p0 0 4) ∧ s.NothingOut ∧ s.g.dbgc.extractLsb' 0 8 = 0 ∧
      s.blockOf s.g.block = some b ∧ (s.readS 4).toNat = b.spadBytes :=
  let s := withS (.join p0 4 4) [(4, 0x1FFFC)]
  ⟨⟨withS (.join p0 4 4) [(4, 0x10001)], by unfold State.NothingOut; decide +kernel⟩,
    ⟨s, ((s.countIssue (.join p0 4 4)).reach ⟨true, false, false⟩ (laneBytes (lowLane s.t.active) (s.readPair 4).toNat 4)).hits,
      by unfold State.NothingOut State.Reaches State.sound goodAddr; decide +kernel⟩,
    ⟨withS (.joinSp p0 0 4) [(4, 4092)], blk, by unfold State.NothingOut; decide +kernel⟩,
    withS (.joinSp p0 0 4) [(4, 4096)], blk, by unfold State.NothingOut; decide +kernel⟩

/-! ### Lane loads, stores, atomics and fences -/

/-- A lane access of words: S8:S9 with an offset of 4·lane from V4. -/
def word (d : BitVec 7) (ord : BitVec 2) : LaneMem := ⟨d, 8, 4, true, false, 2, ord, if ord = 0 then 0 else 2, 0⟩

/-- The gang with 4·lane in V4. -/
def spread : Gang := { gang with vregs := (List.range 16).filterMap fun l => if l = 0 then none else some (4 * 64 + l, BitVec.ofNat 32 (4 * l)) }

/-- A strand of it that stands at a lane access from an address. -/
def access (i : Instr) (va : Word) : State := { withS i [(8, va)] with g := spread }

theorem witness_LoadsAreIssued :
    (∃ (s : State) (hits : List Hit), let m := word 12 1
      s.Issues (.ld p0 m false) ∧ m.scp.toNat ≤ 4 ∧
      (∀ l ∈ lanesOf s.t.active, s.laneAddr m m.disp.toInt l % 4 = 0 ∧ goodAddr (s.laneAddr m m.disp.toInt l) 1) ∧
      (s.countIssue (.ld p0 m false)).Reaches true false
        ((lanesOf s.t.active).flatMap fun l => laneBytes l (s.laneAddr m m.disp.toInt l) 4) hits) ∧
    (∃ (s : State) (hits : List Hit), let m := word 12 0
      s.Issues (.ldu p0 m false) ∧ s.laneAddr m m.disp.toInt 0 = 0x10001 ∧
      (∀ l ∈ lanesOf s.t.active, goodAddr (s.laneAddr m m.disp.toInt l) 1) ∧
      (s.countIssue (.ldu p0 m false)).Reaches true false
        ((lanesOf s.t.active).flatMap fun l => laneBytes l (s.laneAddr m m.disp.toInt l) 4) hits) ∧
    ∃ s : State, let m := word 12 0
      s.Issues (.lds p0 m) ∧ s.g.dbgc.extractLsb' 0 8 = 0 ∧ s.spadOffset m m.disp.toInt 15 + 4 = s.spadSize ∧
      ∀ l ∈ lanesOf s.t.active, s.goodOff (s.spadOffset m m.disp.toInt l) 4 :=
  let s := access (.ld p0 (word 12 1) false) 0x10000
  let u := access (.ldu p0 (word 12 0) false) 0x10001
  ⟨⟨s, ((s.countIssue (.ld p0 (word 12 1) false)).reach ⟨true, false, false⟩
        ((lanesOf s.t.active).flatMap fun l => laneBytes l (s.laneAddr (word 12 1) (word 12 1).disp.toInt l) 4)).hits,
      by unfold State.Reaches goodAddr; decide +kernel⟩,
    ⟨u, ((u.countIssue (.ldu p0 (word 12 0) false)).reach ⟨true, false, false⟩
        ((lanesOf u.t.active).flatMap fun l => laneBytes l (u.laneAddr (word 12 0) (word 12 0).disp.toInt l) 4)).hits,
      by unfold State.Reaches goodAddr; decide +kernel⟩,
    access (.lds p0 (word 12 0)) 4032, by unfold State.goodOff; decide +kernel⟩

theorem witness_StoresAreIssued :
    (∃ (s : State) (hits : List Hit), let m := word 12 2
      s.Issues (.st p0 m 1) ∧ lanesOf (s.laneGuard 1) = [0, 1] ∧
      (∀ l ∈ lanesOf (s.laneGuard 1), s.laneAddr m m.disp.toInt l % 4 = 0 ∧ goodAddr (s.laneAddr m m.disp.toInt l) 1) ∧
      (s.countIssue (.st p0 m 1)).Reaches false true
        ((lanesOf (s.laneGuard 1)).flatMap fun l => laneBytes l (s.laneAddr m m.disp.toInt l) 4) hits) ∧
    (∃ (s : State) (hits : List Hit), let m := word 12 0
      s.Issues (.stu p0 m 1 5) ∧ (s.readV 5 0).toNat % 16 = 0 ∧ s.readV 5 1 = 2 ∧
      (s.countIssue (.stu p0 m 1 5)).Reaches false true [⟨1, 1, s.laneAddr m 0 1 + 1⟩] hits) ∧
    ∃ s : State, let m := word 12 0
      s.Issues (.sts p0 m 1) ∧ s.g.dbgc.extractLsb' 0 8 = 0 ∧ lanesOf (s.laneGuard 1) ≠ [] ∧
      ∀ l ∈ lanesOf (s.laneGuard 1), s.goodOff (s.spadOffset m m.disp.toInt l) 4 :=
  let two := { spread with pregs := [(1, 3)] }
  let s : State := { access (.st p0 (word 12 2) 1) 0x10000 with g := two }
  let u : State := { access (.stu p0 (word 12 0) 1 5) 0x10000 with g := { two with vregs := two.vregs ++ [(5 * 64 + 1, 2)] } }
  ⟨⟨s, ((s.countIssue (.st p0 (word 12 2) 1)).reach ⟨false, true, false⟩
        ((lanesOf (s.laneGuard 1)).flatMap fun l => laneBytes l (s.laneAddr (word 12 2) (word 12 2).disp.toInt l) 4)).hits,
      by unfold State.Reaches goodAddr; decide +kernel⟩,
    ⟨u, ((u.countIssue (.stu p0 (word 12 0) 1 5)).reach ⟨false, true, false⟩ [⟨1, 1, u.laneAddr (word 12 0) 0 1 + 1⟩]).hits,
      by unfold State.Reaches; decide +kernel⟩,
    { access (.sts p0 (word 12 0) 1) 0 with g := two }, by unfold State.goodOff; decide +kernel⟩

theorem witness_AtomicsAreIssued :
    (∃ (s : State) (hits : List Hit), let m := word 12 3
      s.Issues (.atom p0 m 7 false .add 6 0) ∧ m.scp.toNat ≤ 4 ∧ lanesOf (s.laneGuard 7) ≠ [] ∧
      (∀ l ∈ lanesOf (s.laneGuard 7), goodAddr (s.laneAddr m 0 l) 4) ∧
      (s.countIssue (.atom p0 m 7 false .add 6 0)).Reaches true true
        ((lanesOf (s.laneGuard 7)).flatMap fun l => laneBytes l (s.laneAddr m 0 l) 4) hits) ∧
    ∃ s : State, let m := word 12 0
      s.Issues (.atom p0 m 7 true .cas 6 5) ∧ s.g.dbgc.extractLsb' 0 8 = 0 ∧ lanesOf (s.laneGuard 7) ≠ [] ∧
      ∀ l ∈ lanesOf (s.laneGuard 7), s.goodOff (s.spadOffset m 0 l) 4 :=
  let s := access (.atom p0 (word 12 3) 7 false .add 6 0) 0x10000
  ⟨⟨s, ((s.countIssue (.atom p0 (word 12 3) 7 false .add 6 0)).reach ⟨true, true, false⟩
        ((lanesOf (s.laneGuard 7)).flatMap fun l => laneBytes l (s.laneAddr (word 12 3) 0 l) 4)).hits,
      by unfold State.Reaches goodAddr; decide +kernel⟩,
    access (.atom p0 (word 12 0) 7 true .cas 6 5) 0, by unfold State.goodOff; decide +kernel⟩

theorem witness_MisalignedLanesTrap : ∃ (s : State) (mask bad : Mask), let m := word 12 0
    alignedRow s (.ld p0 m false) = some (m, mask) ∧ s.Issues (.ld p0 m false) ∧ m.scp.toNat ≤ 4 ∧ bad = 0xFFFF ∧
      ∀ l, l < 64 → bad.getLsbD l = (mask.getLsbD l && decide (s.laneAddr m m.disp.toInt l % 4 ≠ 0)) :=
  ⟨access (.ld p0 (word 12 0) false) 0x10001, 0xFFFF, 0xFFFF, rfl, by decide +kernel⟩

/-- A scope of 4 and one of 5; a strand with a store outstanding and one with nothing. -/
theorem witness_FencesOrderTheirStrand :
    (∃ s : State, s.Issues (.fence p0 2 5)) ∧
    (∃ s : State, s.Issues (.fence p0 2 4) ∧ s.ops ≠ [] ∧
      (∀ o ∈ s.ops, o.id ∈ s.t.issued → (∃ d sz l, o.kind = .load d sz l) ∨ ∃ l, o.kind = .store l) ∧
      ∀ m ∈ s.mops, m.id ∉ s.t.issued) ∧
    ∃ s : State, s.Issues (.fence p0 1 4) ∧ s.NothingOut := by
  refine ⟨⟨stand (.fence p0 2 5), by decide +kernel⟩,
    ⟨{ on { strand (.fence p0 2 4) with issued := [7] } with
        ops := [⟨7, 1, 0, [], 1, none, none, [], 0, 1, 1, .store [(⟨true, 0, 0⟩, 1)]⟩] }, by decide +kernel, by simp, ?_,
      by decide +kernel⟩,
    stand (.fence p0 1 4), by unfold State.NothingOut; decide +kernel⟩
  intro o ho _
  simp only [List.mem_singleton] at ho
  subst ho
  exact Or.inr ⟨_, rfl⟩

/-! ### Operations that complete -/

/-- The world with its gang, one strand of it, and one operation outstanding. -/
def outstanding (k : OpKind) : State :=
  { world with
    gangs := [{ gang with strands := [{ Strand.init with active := 0xFFFF, issued := [7] }] }]
    ops := [⟨7, 1, 0, [], 1, none, none, [], 0x1000, 0xFFFF, 1, k⟩] }

/-- That operation. -/
def theOp (k : OpKind) : Op := ⟨7, 1, 0, [], 1, none, none, [], 0x1000, 0xFFFF, 1, k⟩

/-- Four bytes of memory from a canonical address, and four of scratchpad. -/
def four (spad : Bool) (a : Nat) : List ByteRef := (List.range 4).map fun k => ⟨spad, a + k, 0⟩

theorem witness_StoresWriteTheirBytes :
    (∃ (s : State) (o : Op) (bs : List (ByteRef × Byte)), s.MayEnd o ∧ o.kind = .store bs ∧
      (∀ x ∈ bs, x.1.spad = false ∧ x.1.key = 0 ∧ s.isPoisoned x.1.addr = false) ∧ (bs.map fun x => x.1.addr).Nodup) ∧
    (∃ (s : State) (o : Op) (bs : List (ByteRef × Byte)) (b : Block), s.MayEnd o ∧ o.kind = .store bs ∧
      (∀ x ∈ bs, x.1.spad = true) ∧ (bs.map fun x => x.1.addr).Nodup ∧ s.blockOf o.block = some b) ∧
    ∃ (s : State) (o : Op), s.focused = false ∧ o ∈ s.ops ∧ (∀ p ∈ s.ops, p.id = o.id → p = o) ∧ s.mayEnd o = false :=
  let m := (four false (canonical 0x10000)).map fun r => (r, (1 : Byte))
  let p := (four true 0).map fun r => (r, (1 : Byte))
  ⟨⟨outstanding (.store m), theOp (.store m), m, by unfold State.MayEnd State.Stands; decide +kernel, rfl, by decide +kernel⟩,
    ⟨outstanding (.store p), theOp (.store p), p, blk, by unfold State.MayEnd State.Stands; decide +kernel, rfl,
      by decide +kernel⟩,
    { outstanding (.store m) with
      ops := [theOp (.store m), { theOp (.store m) with id := 8, before := [7] }] },
    { theOp (.store m) with id := 8, before := [7] }, by decide +kernel⟩

/-- All of a load's lanes, and one of two. -/
theorem witness_LoadsWriteTheirRegisters :
    (∃ (s : State) (o : Op) (ls : List (Nat × Nat × List ByteRef)) (g : Gang), s.MayEnd o ∧ o.kind = .load 12 2 ls ∧
      s.sound ∧ (ls.map fun x => x.1).Nodup ∧ (∀ x ∈ ls, x.1 < 64) ∧ s.gangOf o.gang = some g ∧
      ls.filter (fun x => !((3 : Mask).getLsbD x.1)) = [] ∧ ls.filter (fun x => !((2 : Mask).getLsbD x.1)) ≠ []) :=
  let ls := [(0, 0x10000, four false (canonical 0x10000)), (1, 0x10004, four false (canonical 0x10004))]
  ⟨outstanding (.load 12 2 ls), theOp (.load 12 2 ls), ls, _, by unfold State.MayEnd State.Stands; decide +kernel, rfl,
    by unfold State.sound; decide +kernel, by decide +kernel, by decide +kernel, rfl, by decide +kernel, by decide +kernel⟩

theorem witness_AtomicsReplaceTheirValue :
    ∃ (s : State) (o : Op) (refs : List ByteRef) (g : Gang), s.MayEnd o ∧
      o.kind = .atom .add 12 2 [(3, 0x10000, refs, 5, 0)] ∧ s.sound ∧ refs.length = 4 ∧
      (∀ r ∈ refs, r.spad = false ∧ r.key = 0) ∧ (refs.map fun r => r.addr).Nodup ∧ s.gangOf o.gang = some g :=
  let k := OpKind.atom .add 12 2 [(3, 0x10000, four false (canonical 0x10000), 5, 0)]
  ⟨outstanding k, theOp k, four false (canonical 0x10000), _, by unfold State.MayEnd State.Stands; decide +kernel, rfl,
    by unfold State.sound; decide +kernel, by decide +kernel, by decide +kernel, by decide +kernel, rfl⟩

/-- A step with a register to write; a held arrival of a waiting strand, in its turn and after one that comes after it, and a
held fill. -/
theorem witness_StepsAndHeldReleasesEnd :
    (∃ (s : State) (o : Op) (g : Gang), s.MayEnd o ∧ o.kind = .tile [(12, 0, 5)] [] [] ∧ s.gangOf o.gang = some g) ∧
    (∃ (s u : State) (o : Op) (ph : Bool), s.MayEnd o ∧ o.kind = .held (.bar 0 16 16 true) ∧
      s.heldInTurn o (.bar 0 16 16 true) = true ∧ s.applyRelease o.block (.bar 0 16 16 true) o.interval = some (u, ph)) ∧
    (∃ (s : State) (o : Op), s.MayEnd o ∧ o.kind = .held (.bar 0 16 16 true) ∧
      s.heldInTurn o (.bar 0 16 16 true) = false) ∧
    ∃ (s u : State) (o : Op) (ph : Bool), s.MayEnd o ∧ o.kind = .held (.crfill 0 1) ∧ s.heldInTurn o (.crfill 0 1) = true ∧
      s.applyRelease o.block (.crfill 0 1) o.interval = some (u, ph) :=
  ⟨⟨outstanding (.tile [(12, 0, 5)] [] []), theOp (.tile [(12, 0, 5)] [] []), _,
      by unfold State.MayEnd State.Stands; decide +kernel, rfl, rfl⟩,
    ⟨outstanding (.held (.bar 0 16 16 true)), _, theOp (.held (.bar 0 16 16 true)), _,
      by unfold State.MayEnd State.Stands; decide +kernel, rfl, by decide +kernel, rfl⟩,
    ⟨{ outstanding (.held (.bar 0 16 16 true)) with cycleMarks := [.bar 1 0 [2]] }, theOp (.held (.bar 0 16 16 true)),
      by unfold State.MayEnd State.Stands; decide +kernel, rfl, by decide +kernel⟩,
    outstanding (.held (.crfill 0 1)), _, theOp (.held (.crfill 0 1)), _,
    by unfold State.MayEnd State.Stands; decide +kernel, rfl, by decide +kernel, rfl⟩

/-! ### Barriers and chainrings -/

/-- The world with other contents of its block, and a strand that stands at an instruction. -/
def inBlock (b : Block) (i : Instr) (rs : SMap Word) : State := { withS i rs with blocks := [b] }

/-- Counts 0, 2,048 and 2,049; a count that disagrees and one that is passed; an arrival that completes and one that waits; a strand
whose phase has gone by. -/
theorem witness_NamedBarriersCountLanes :
    (∃ s : State, s.Issues (.bara p0 15 4 true) ∧ s.isWhole = true ∧ s.NothingOut ∧ s.blockOf s.g.block = some blk ∧
      (s.readS 4).toNat = 0) ∧
    (∃ s : State, s.Issues (.bars p0 15 4 true) ∧ s.isWhole = true ∧ s.t.wait = .none ∧ s.t.barPhase = none ∧ s.NothingOut ∧
      (s.readS 4).toNat = 2049) ∧
    (∃ (s : State) (b : Block), s.Issues (.bara p0 15 4 false) ∧ s.NothingOut ∧ s.blockOf s.g.block = some b ∧
      (s.readS 4).toNat = 2048 ∧ s.badArrival (b.bar 15) 2048) ∧
    (∃ s : State, s.Issues (.bars p0 15 4 false) ∧ s.NothingOut ∧ (s.readS 4).toNat = 16 ∧ ¬ s.badArrival (blk.bar 15) 16) ∧
    (∃ s : State, s.Issues (.bara p0 15 4 false) ∧ s.NothingOut ∧ (s.readS 4).toNat = 2048 ∧
      ¬ s.badArrival (blk.bar 15) 2048) ∧
    (∃ s : State, s.Issues (.barw p0 15 true) ∧ s.isWhole = true ∧ s.t.wait = .none ∧ s.blockOf s.g.block = some blk) ∧
    (∃ (s : State) (b : Block), s.Issues (.bars p0 15 4 false) ∧ s.NothingOut ∧ s.t.wait = .bar 15 false true ∧
      s.t.barPhase = some (.phase 15 false) ∧      s.blockOf s.g.block = some b ∧ (b.bar 15).ph ≠ false) ∧
    ∃ (s : State) (b : Block), s.Issues (.barw p0 15 true) ∧ s.isWhole = true ∧ s.NothingOut ∧
      s.t.wait = .bar 15 false false ∧ s.blockOf s.g.block = some b ∧ (b.bar 15).ph ≠ false :=
  let began := { blk with bars := [(15, ⟨1, 64, false, 0, 0⟩)] }
  let ended := { blk with bars := [(15, ⟨0, 64, true, 1, 1⟩)] }
  ⟨⟨stand (.bara p0 15 4 true), by unfold State.NothingOut; decide +kernel⟩,
    ⟨withS (.bars p0 15 4 true) [(4, 2049)], by unfold State.NothingOut; decide +kernel⟩,
    ⟨inBlock began (.bara p0 15 4 false) [(4, 2048)], began, by unfold State.NothingOut State.badArrival; decide +kernel⟩,
    ⟨withS (.bars p0 15 4 false) [(4, 16)], by unfold State.NothingOut State.badArrival; decide +kernel⟩,
    ⟨withS (.bara p0 15 4 false) [(4, 2048)], by unfold State.NothingOut State.badArrival; decide +kernel⟩,
    ⟨stand (.barw p0 15 true), by decide +kernel⟩,
    ⟨{ inBlock ended (.bars p0 15 4 false) [] with t := { strand (.bars p0 15 4 false) with
        wait := .bar 15 false true, barPhase := some (.phase 15 false) } },
      ended, by unfold State.NothingOut; decide +kernel⟩,
    { inBlock ended (.barw p0 15 true) [] with t := { strand (.barw p0 15 true) with wait := .bar 15 false false } },
    ended, by unfold State.NothingOut; decide +kernel⟩

/-- The last barrier of the scratchpad, one byte past it, and one whose 32 bytes reach past the end; EXP 1 with an addition
that fits and one that does not; both parities. -/
theorem witness_ByteBarriersCountBytes :
    (∃ s : State, s.Issues (.bxinit p0 5 4) ∧ s.NothingOut ∧ s.g.dbgc.extractLsb' 0 8 = 0 ∧
      s.blockOf s.g.block = some blk ∧ (s.readS 4).toNat + 32 = blk.spadBytes) ∧
    (∃ s : State, s.Issues (.bxarr p0 5 4) ∧ s.NothingOut ∧ s.g.dbgc.extractLsb' 0 8 = 0 ∧ (s.readS 4).toNat % 32 = 1) ∧
    (∃ s : State, s.Issues (.bxwait p0 true 1 4) ∧ s.NothingOut ∧ s.g.dbgc.extractLsb' 0 8 = 0 ∧
      (s.readS 4).toNat = blk.spadBytes) ∧
    (∃ s : State, s.Issues (.bxexp p0 5 4) ∧ s.NothingOut ∧ s.g.dbgc.extractLsb' 0 8 = 0 ∧
      (s.blockOf s.g.block).map (fun b => bxWord b 0 0) = some 1 ∧ 1 + (s.readS 5).toNat = 2 ^ 32 - 1) ∧
    (∃ s : State, s.Issues (.bxexp p0 5 4) ∧ s.NothingOut ∧ s.g.dbgc.extractLsb' 0 8 = 0 ∧
      (s.blockOf s.g.block).map (fun b => bxWord b 0 0) = some 1 ∧ 1 + (s.readS 5).toNat = 2 ^ 32) ∧
    ∃ s : State, s.Issues (.bxwait p0 false 1 4) ∧ s.NothingOut ∧ s.g.dbgc.extractLsb' 0 8 = 0 ∧
      (s.blockOf s.g.block).map (fun b => bxWord b 0 2 % 2) = some 0 :=
  let one := { blk with scratch := [(0, 1)] }
  ⟨⟨withS (.bxinit p0 5 4) [(4, 4064)], by unfold State.NothingOut; decide +kernel⟩,
    ⟨withS (.bxarr p0 5 4) [(4, 4033)], by unfold State.NothingOut; decide +kernel⟩,
    ⟨withS (.bxwait p0 true 1 4) [(4, 4096)], by unfold State.NothingOut; decide +kernel⟩,
    ⟨inBlock one (.bxexp p0 5 4) [(5, 0xFFFFFFFE)], by unfold State.NothingOut; decide +kernel⟩,
    ⟨inBlock one (.bxexp p0 5 4) [(5, 0xFFFFFFFF)], by unfold State.NothingOut; decide +kernel⟩,
    stand (.bxwait p0 false 1 4), by unfold State.NothingOut; decide +kernel⟩

/-- Ring 0 of two stages: stage 1 empty and full, stage 2, and a ring that is not there. -/
theorem witness_ChainringsPassStages :
    (∃ (s : State) (r : Ring), s.Issues (.crfill p0 0 4) ∧ s.NothingOut ∧ s.blockOf s.g.block = some blk ∧
      s.ringAt 0 = some r ∧ (s.readS 4).toNat + 1 = r.stages ∧ smGet false r.full 1 = false) ∧
    (∃ (s : State) (b : Block) (r : Ring), s.Issues (.crfree p0 0 4) ∧ s.NothingOut ∧ s.blockOf s.g.block = some b ∧
      s.ringAt 0 = some r ∧ (s.readS 4).toNat < r.stages ∧ smGet false r.full 1 = true) ∧
    (∃ (s : State) (r : Ring), s.Issues (.crwaitEmpty p0 0 true 4) ∧ s.NothingOut ∧ s.ringAt 0 = some r ∧
      (s.readS 4).toNat = r.stages) ∧
    (∃ s : State, s.Issues (.crtakeFull p0 7 1 false 4) ∧ s.NothingOut ∧ s.ringAt 7 = none) ∧
    ∃ (s : State) (r : Ring), s.Issues (.crtakeEmpty p0 0 1 true 4) ∧ s.NothingOut ∧ s.ringAt 0 = some r ∧
      (s.readS 4).toNat < r.stages :=
  let filled := { blk with rings := [(0, ⟨2, [(1, true)], [], []⟩)] }
  ⟨⟨withS (.crfill p0 0 4) [(4, 1)], ⟨2, [], [], []⟩, by unfold State.NothingOut; decide +kernel⟩,
    ⟨inBlock filled (.crfree p0 0 4) [(4, 1)], filled, ⟨2, [(1, true)], [], []⟩, by unfold State.NothingOut; decide +kernel⟩,
    ⟨withS (.crwaitEmpty p0 0 true 4) [(4, 2)], ⟨2, [], [], []⟩, by unfold State.NothingOut; decide +kernel⟩,
    ⟨stand (.crtakeFull p0 7 1 false 4), by unfold State.NothingOut; decide +kernel⟩,
    stand (.crtakeEmpty p0 0 1 true 4), ⟨2, [], [], []⟩, by unfold State.NothingOut; decide +kernel⟩

/-! ### Engine commands, promises, caches and the mailbox -/

/-- A descriptor of 64 f32 elements at 0x10000, a source with a box of 4, or a destination (R181). -/
def descriptor (dst : Bool) : Nat := 0x10000 + 64 * 2 ^ 128 + 2 ^ 256 + if dst then 0 else 4 * 2 ^ 384

/-- Scratchpad bytes of a number at an offset. -/
def bytesOf (off v n : Nat) : SMap Byte := smSetAll 0 [] ((List.range n).map fun i => (off + i, BitVec.ofNat 8 (v / 256 ^ i)))

/-- The block with a source's descriptor at 0x400 and a destination's at 0x440. -/
def withDescs : Block := { blk with scratch := bytesOf 0x400 (descriptor false + 2 ^ 512 * descriptor true) 128 }

/-- CPY, or CPYP, with those descriptors and the barrier at 0x800. -/
def copying (i : Instr) : State := inBlock withDescs i [(8, 0x400), (10, 0x440), (12, 0x800)]

/-- A queue of 64 commands, and CPYP with an empty one. -/
theorem witness_CopiesAreQueued :
    (∃ (i : Instr) (s : State), copyRow i = some (false, 0, 8, 12, 10, 16, true) ∧ s.Issues i ∧ s.copiesAhead = 64) ∧
    ∃ (i : Instr) (s : State), let u := s.countIssue i
      let x1 := [u.descSource 8 true, u.descSource 10 true]
      let u1 := u.paid (u.sourceAsk (u.imageBad 0x800 32) x1) []
      let b1 := u1.fetchedBytes x1 []
      let src := sideOf (b1.getD 0 [])
      let dst := sideOf (b1.getD 1 [])
      let u2 := u1.paid (u1.basesAsk [src, dst]) []
      let shaped := [src.shaped (u2.sideRange src), dst.shaped (u2.sideRange dst)]
      let x3 := shaped.flatMap fun z => indexSource z (src.boxOf z.idim)
      copyRow i = some (true, 20, 8, 12, 10, 16, true) ∧ s.Issues i ∧ s.copiesAhead < 64 ∧ s.NothingOut ∧ s.sound ∧
      u.Passes (u.sourceAsk (u.imageBad 0x800 32) x1) [] ∧ u1.Passes (u1.basesAsk [src, dst]) [] ∧
      copyFails (b1.getD 0 []) (b1.getD 1 []) (u2.sideRange src) (u2.sideRange dst) = none ∧
      u2.Passes (u2.sourceAsk (shaped.flatMap u2.sideBad) x3) [] :=
  ⟨⟨.cpy p0 8 12 10 16 true,
      { copying (.cpy p0 8 12 10 16 true) with
        copies := List.replicate 64
          ⟨0, 0, 0, 1, 1, 0, [], 1, 0, .hedit (sideOf []) [], 0, 0, [], [], none, [], false, false, false, []⟩ },
      rfl, by decide +kernel⟩,
    .cpyp p0 20 8 12 10 16 true, copying (.cpyp p0 20 8 12 10 16 true), rfl,
    by unfold State.NothingOut State.sound State.Passes; decide +kernel⟩

/-- A tiled descriptor over two tiles of the tiled range, with a box of one (R181), and an edit block that doubles (R188). -/
def tiledDesc : Nat := 0x20000 + 0x64 * 2 ^ 64 + 2 ^ 74 + 2 ^ 75 + 8 * 2 ^ 128 + 16 * 2 ^ 160 + 8 * 2 ^ 384 + 8 * 2 ^ 400
def doubling : Nat := 1 + 2 ^ 64 * 0x40000000

/-- The block with that descriptor at 0x400 and that edit block at 0x440. -/
def withEdit : Block := { blk with scratch := bytesOf 0x400 (tiledDesc + 2 ^ 512 * doubling) 128 }

/-- The gang with its handle 3 bound to slot 5. -/
def bound : Gang := { gang with handles := [(3, 5)] }

/-- A bank command in channel 0's queue. -/
def queuedBank (id : Nat) : BankCmd := bankCmd 0 id 0 1 1 0x800 1 0x10000 (List.replicate 8 0)

/-- BANKCMD of channel 0, its program and arguments at 0x10000. -/
def banking (set : Word) : State := withS (.bankcmd p0 6 8 12 8) [(6, set), (8, 0x10000), (12, 0x800)]

/-- The tiled range's entry as it is read. -/
def tiled : RangeEntry :=
  { base := 0x20000, limit := 0x30000, offset := 0x14000, r := true, w := true, x := true, bv := false, rd := 0, lsel := 0,
    tiled := true, tgt1 := false, key := 0, pcf := 1, pcn := 0, pcs := 0, hoff := 0x1000, poff := 0, lrows := 3, lcols := 3,
    ew := 8, nt := 16 }

theorem witness_EditsAreQueued :
    ∃ (s : State) (h2 : List Hit) (r : RangeEntry) (steps : List EditStep), let i := Instr.hedit p0 8 12 10 16 true
      let u := s.countIssue i
      let x1 := [u.descSource 8 true, u.descSource 10 true]
      let u1 := u.paid (u.sourceAsk (u.imageBad 0x800 32) x1) []
      let b1 := u1.fetchedBytes x1 []
      let src := sideOf (b1.getD 0 [])
      let u2 := u1.paid (u1.basesAsk [src]) h2
      let x3 := indexSource (src.shaped (some r)) (src.boxOf src.idim)
      (s.Issues i ∧ s.copiesAhead < 64 ∧ s.NothingOut ∧ s.sound ∧ u.Passes (u.sourceAsk (u.imageBad 0x800 32) x1) [] ∧
        u1.Passes (u1.basesAsk [src]) h2 ∧ heditFails (b1.getD 0 []) (u2.sideRange src) = none ∧
        u2.sideRange src = some r ∧ editSteps (b1.getD 1 []) = some steps ∧ wholeTiles src r (s.originOf 16) = true ∧
        (∀ x ∈ steps, x.bad = false) ∧ u2.Passes (u2.sourceAsk (u2.sideBad (src.shaped (some r))) x3) []) :=
  ⟨{ copying (.hedit p0 8 12 10 16 true) with blocks := [withEdit] },
    (world.reach ⟨false, false, false⟩ [⟨0, 0, 0x20000⟩]).hits, tiled, (editSteps (natBytes 64 doubling)).getD [],
    by unfold State.NothingOut State.sound State.Passes; decide +kernel⟩

theorem witness_SlotLoadsAreQueued :
    ∃ s : State, let i := Instr.oload p0 3 8 12 16 0x64 true false true
      let u := s.countIssue i
      let x1 := [u.descSource 8 true]
      let u1 := u.paid (u.sourceAsk (u.imageBad 0x800 32) x1) []
      let b1 := u1.fetchedBytes x1 []
      let src := sideOf (b1.getD 0 [])
      let u2 := u1.paid (u1.basesAsk [src]) []
      let z := src.shaped (u2.sideRange src)
      let x3 := indexSource z (src.boxOf z.idim)
      s.Issues i ∧ s.copiesAhead < 64 ∧ s.NothingOut ∧ s.sound ∧ u.Passes (u.sourceAsk (u.imageBad 0x800 32) x1) [] ∧
        u1.Passes (u1.basesAsk [src]) [] ∧ descFails false (b1.getD 0 []) (u2.sideRange src) = [] ∧ s.g.boundTo 3 = some 5 ∧
        oloadBad src 0x64 false true = false ∧ u2.Passes (u2.sourceAsk (u2.sideBad z) x3) [] :=
  ⟨{ copying (.oload p0 3 8 12 16 0x64 true false true) with g := bound },
    by unfold State.NothingOut State.sound State.Passes; decide +kernel⟩

/-- Fifteen bank commands of channel 0, and the one that stands behind them. -/
def fifteen : State := { banking 0x200 with banks := (List.range 15).map queuedBank }

/-- That command reads its arguments. -/
def fetching : State := fifteen.countIssue (.bankcmd p0 6 8 12 8)

/-- What it reaches of them. -/
def argumentHits : List Hit :=
  (fetching.reach ⟨true, false, false⟩ (fetching.sourceAsk (fetching.imageBad 0x800 32) [⟨false, 0x10000, 64, 64⟩]).bytes).hits

/-- A channel set of none; one channel whose queue holds 16 commands, and 15. -/
theorem witness_BankCommandsAreQueued :
    (∃ s : State, s.Issues (.bankcmd p0 6 8 12 8) ∧ channelSet (s.readS 6) = none) ∧
    (∃ s : State, s.Issues (.bankcmd p0 6 8 12 8) ∧ channelSet (s.readS 6) = some [0] ∧
      (s.banks.filter fun x => x.ch == 0).length = 16) ∧
    ∃ (s : State) (h1 : List Hit), let u := s.countIssue (.bankcmd p0 6 8 12 8)
      s.Issues (.bankcmd p0 6 8 12 8) ∧ channelSet (s.readS 6) = some [0] ∧ (s.banks.filter fun x => x.ch == 0).length = 15 ∧
        (s.readPair 8).toNat % 64 = 0 ∧ s.NothingOut ∧ s.sound ∧
        (s.part (s.vdev s.g.vd).part).map (fun q => q.res.bankChannels) = some [0] ∧
        u.Passes (u.sourceAsk (u.imageBad 0x800 32) [⟨false, (s.readPair 8).toNat, 64, 64⟩]) h1 :=
  ⟨⟨banking 0, by decide +kernel⟩,
    ⟨{ banking 0x200 with banks := (List.range 16).map queuedBank }, by decide +kernel⟩,
    fifteen, argumentHits, by unfold State.NothingOut State.sound State.Passes; decide +kernel⟩

/-- A strand that waits for the barrier at 0x800 with a promise in S6:S7. -/
def promised (promise : Nat) (wait : Wait) : State :=
  on { strand (.cwait p0 false 6 4) with
    sregs := [(4, 0x800), (6, BitVec.ofNat 32 promise), (7, BitVec.ofNat 32 (promise / 2 ^ 32))], wait := wait }

/-- A promise of another epoch, one whose tick has come, one whose tick is next, and a barrier that has left its parity; a
status at the scratchpad's last barrier. -/
theorem witness_PromisesAndStatusAreRead :
    (∃ s : State, s.Issues (.cwait p0 false 6 4) ∧ s.NothingOut ∧ s.g.dbgc.extractLsb' 0 8 = 0 ∧
      s.blockOf s.g.block = some blk ∧ s.t.wait = .none ∧ (s.readPair 6).toNat / 2 ^ 60 ≠ (s.vdev s.g.vd).epoch % 16) ∧
    (∃ s : State, s.Issues (.cwait p0 false 6 4) ∧ s.NothingOut ∧
      (s.readPair 6).toNat / 2 ^ 60 = (s.vdev s.g.vd).epoch % 16 ∧ bxWord blk 0x800 2 % 2 = 0 ∧
      (s.readPair 6).toNat % 2 ^ 60 = s.tick) ∧
    (∃ s : State, s.Issues (.cwait p0 false 6 4) ∧ s.NothingOut ∧ s.t.wait = .again 49 ∧ bxWord blk 0x800 2 % 2 = 0 ∧
      (s.readPair 6).toNat % 2 ^ 60 = s.tick + 1) ∧
    (∃ (s : State) (b : Block), s.Issues (.cwait p0 false 6 4) ∧ s.NothingOut ∧ s.blockOf s.g.block = some b ∧
      (s.readPair 6).toNat / 2 ^ 60 = (s.vdev s.g.vd).epoch % 16 ∧ bxWord b 0x800 2 % 2 ≠ 0) ∧
    (∃ s : State, s.Issues (.cstatIdx p0 6 4) ∧ s.NothingOut ∧ (s.readS 4).toNat + 32 = blk.spadBytes) ∧
    ∃ s : State, s.Issues (.cstatClr p0 6 4) ∧ s.NothingOut ∧ s.g.dbgc.extractLsb' 0 8 = 0 ∧
      s.blockOf s.g.block = some blk :=
  let flipped := { blk with scratch := [(0x808, 1)] }
  ⟨⟨promised (2 ^ 60) .none, by unfold State.NothingOut; decide +kernel⟩,
    ⟨promised 1000 .none, by unfold State.NothingOut; decide +kernel⟩,
    ⟨promised 1001 (.again 49), by unfold State.NothingOut; decide +kernel⟩,
    ⟨{ promised 1000 .none with blocks := [flipped] }, flipped, by unfold State.NothingOut; decide +kernel⟩,
    ⟨withS (.cstatIdx p0 6 4) [(4, 4064)], by unfold State.NothingOut; decide +kernel⟩,
    stand (.cstatClr p0 6 4), by unfold State.NothingOut; decide +kernel⟩

/-- An ISYNC with a word after it in its clause, at the range's start. -/
def syncing : State :=
  on { strand (.isync p0) with pc := 0x10004, clause := some ⟨0x10000, 0x20000000, encode (.isync p0) ++ [0]⟩ }

theorem witness_CachesAndMailboxes :
    (∃ s : State, s.Issues (.icinvDev p0) ∧ s.NothingOut) ∧
    (∃ (s : State) (c : Clause), s.Issues (.isync p0) ∧ s.t.clause = some c ∧
      ((s.countIssue (.isync p0)).fetchWords s.g.vd (s.t.pc + 4) (c.cnt - (s.t.wordIndex + 1))).toOption = some [0]) ∧
    (∃ s : State, s.Issues (.dmbwPost p0 7 4) ∧ s.NothingOut) ∧ ∃ s : State, s.Issues (.dmbr p0 4 8) ∧ s.NothingOut :=
  ⟨⟨stand (.icinvDev p0), by unfold State.NothingOut; decide +kernel⟩,
    ⟨syncing, ⟨0x10000, 0x20000000, encode (.isync p0) ++ [0]⟩, by decide +kernel⟩,
    ⟨stand (.dmbwPost p0 7 4), by unfold State.NothingOut; decide +kernel⟩,
    stand (.dmbr p0 4 8), by unfold State.NothingOut; decide +kernel⟩

/-! ### Tile instructions -/

/-- A strand whose S4:S5 names tile 0 of that range, S6 the scratchpad image at 0x400; the tile's header names a binary8
format, and in the second state nothing. -/
def atTile (i : Instr) : State := put (withS i [(4, 0x20000), (6, 0x400)]) (canonical 0x21000) [0x64, 0x33]
def atBadTile (i : Instr) : State := withS i [(4, 0x20000), (6, 0x400)]

/-- A tile instruction's access to a tile's bytes. -/
def tileAsk (s : State) (e : RangeEntry) (n : Nat) (r w scl : Bool) : Ask :=
  ⟨[], (s.tileSpan e n scl).map fun v => ⟨lowLane s.t.active, 0, v⟩, r, w, false, true, true, []⟩

/-- A tile is reached when its bytes are. -/
theorem reaches_tile {s : State} {va n : Nat} {e : RangeEntry} {r w scl : Bool}
    (h : (tileOf (s.lookAt va) va = some (e, n) ∧ e.rd = 0 ∧ s.poison = [] ∧ s.softErrors = []) ∧
      s.Passes (tileAsk s e n r w scl) (s.reach ⟨r, w, false⟩ (tileAsk s e n r w scl).bytes).hits) :
    s.TileReached va e n r w scl :=
  ⟨h.1.1, h.1.2.1, h.1.2.2, _, h.2⟩

/-- A good header and one that fails its check; an image that ends with the scratchpad. -/
theorem witness_TilesAreRead :
    (∃ (s : State) (c : CvtMode), let i := Instr.tld p0 6 4 0x64 0 false false 0 0
      (s.Issues i ∧ fmtOf 0x64 = some (.fam 8 4 true false) ∧ cvtMode s.t.cvmr (.fam 8 4 true false) 0 false = some c ∧
        (s.readS 6).toNat % 32 = 0 ∧ (s.readS 6).toNat + 64 ≤ s.spadSize ∧ headerBad tiled (s.tileHeader tiled 0) = false ∧
        c.trp = false) ∧ s.NothingOut ∧ (s.countIssue i).TileReached (s.readPair 4).toNat tiled 0 true false false) ∧
    (∃ s : State, let i := Instr.tld p0 6 4 0x64 0 false false 0 0
      s.Issues i ∧ headerBad tiled (s.tileHeader tiled 0) = true ∧
        (s.countIssue i).TileReached (s.readPair 4).toNat tiled 0 true false false) ∧
    (∃ s : State, let i := Instr.thq p0 8 4 false 0 0
      (s.Issues i ∧ headerBad tiled (s.tileHeader tiled 0) = false) ∧ s.NothingOut ∧
        (s.countIssue i).TileReached (s.readPair 4).toNat tiled 0 true false false) ∧
    ∃ s : State, let i := Instr.thq p0 8 4 false 0 0
      (s.Issues i ∧ headerBad tiled (s.tileHeader tiled 0) = true) ∧ s.NothingOut ∧
        (s.countIssue i).TileReached (s.readPair 4).toNat tiled 0 true false false :=
  ⟨⟨atTile (.tld p0 6 4 0x64 0 false false 0 0), ⟨.rne, .satf, false, false⟩, by decide +kernel,
      by unfold State.NothingOut; decide +kernel, reaches_tile (by unfold State.Passes; decide +kernel)⟩,
    ⟨atBadTile (.tld p0 6 4 0x64 0 false false 0 0), by decide +kernel, by decide +kernel,
      reaches_tile (by unfold State.Passes; decide +kernel)⟩,
    ⟨atTile (.thq p0 8 4 false 0 0), by decide +kernel, by unfold State.NothingOut; decide +kernel,
      reaches_tile (by unfold State.Passes; decide +kernel)⟩,
    atBadTile (.thq p0 8 4 false 0 0), by decide +kernel, by unfold State.NothingOut; decide +kernel,
    reaches_tile (by unfold State.Passes; decide +kernel)⟩

/-- A format of the range's element width and operands that an edit refuses; good and bad headers. -/
theorem witness_TilesAreRewritten :
    (∃ s : State, let i := Instr.tst p0 6 4 0x64 false false 0 0
      (s.Issues i ∧ fmtOf 0x64 = some (.fam 8 4 true false) ∧ tiled.ew = 8 ∧ (s.readS 6).toNat + 64 ≤ s.spadSize) ∧ s.NothingOut ∧
        (s.countIssue i).TileReached (s.readPair 4).toNat tiled 0 false true false) ∧
    (∃ s : State, let i := Instr.tmat p0 4 false 0 0
      (s.Issues i ∧ headerBad tiled (s.tileHeader tiled 0) = false) ∧ s.NothingOut ∧
        (s.countIssue i).TileReached (s.readPair 4).toNat tiled 0 true true false) ∧
    (∃ s : State, let i := Instr.tmat p0 4 false 0 0
      (s.Issues i ∧ headerBad tiled (s.tileHeader tiled 0) = true) ∧ s.NothingOut ∧
        (s.countIssue i).TileReached (s.readPair 4).toNat tiled 0 true true false) ∧
    (∃ (s : State) (ed : Edit), let i := Instr.tclamp p0 4 8 9 false 0 0
      editRow s i = some (4, ed, false, 0, 0) ∧ s.Issues i ∧ ed.bad true = true) ∧
    (∃ (s : State) (ed : Edit), let i := Instr.tperm p0 4 7 false 0 0
      editRow s i = some (4, ed, false, 0, 0) ∧ (s.Issues i ∧ ed.bad (tiled.lrows == tiled.lcols) = false ∧
        headerBad tiled (s.tileHeader tiled 0) = false) ∧ s.NothingOut ∧
        (s.countIssue i).TileReached (s.readPair 4).toNat tiled 0 true true false) ∧
    ∃ (s : State) (ed : Edit), let i := Instr.tclamp p0 4 8 9 false 0 0
      editRow s i = some (4, ed, false, 0, 0) ∧ (s.Issues i ∧ ed.bad (tiled.lrows == tiled.lcols) = false ∧
        headerBad tiled (s.tileHeader tiled 0) = true) ∧ s.NothingOut ∧
        (s.countIssue i).TileReached (s.readPair 4).toNat tiled 0 true true false :=
  ⟨⟨atTile (.tst p0 6 4 0x64 false false 0 0), by decide +kernel, by unfold State.NothingOut; decide +kernel,
      reaches_tile (by unfold State.Passes; decide +kernel)⟩,
    ⟨atTile (.tmat p0 4 false 0 0), by decide +kernel, by unfold State.NothingOut; decide +kernel,
      reaches_tile (by unfold State.Passes; decide +kernel)⟩,
    ⟨atBadTile (.tmat p0 4 false 0 0), by decide +kernel, by unfold State.NothingOut; decide +kernel,
      reaches_tile (by unfold State.Passes; decide +kernel)⟩,
    ⟨withS (.tclamp p0 4 8 9 false 0 0) [(8, 0x3F800000)], _, rfl, by decide +kernel⟩,
    ⟨atTile (.tperm p0 4 7 false 0 0), _, rfl, by decide +kernel, by unfold State.NothingOut; decide +kernel,
      reaches_tile (by unfold State.Passes; decide +kernel)⟩,
    atBadTile (.tclamp p0 4 8 9 false 0 0), _, rfl, by decide +kernel, by unfold State.NothingOut; decide +kernel,
    reaches_tile (by unfold State.Passes; decide +kernel)⟩

/-! ### Slots and the matrix queue -/

/-- Slot 5 held by the gang through its handle 3. -/
def slot : Slot := { freshSlot 0 5 1 with ftag := 0x64 }

/-- A strand of a gang that holds that slot. -/
def holding (i : Instr) : State := { stand i with g := bound, slots := [slot] }

/-- An operation of the device's queue. -/
def queued (n : Nat) (i : Instr) : MOp :=
  ⟨n, [], none, [], 0, false, 0, 0, 1, 0, 1, none, 0x1000, 0xFFFF, i, [], 0, [], false⟩

/-- A handle bound, no slot free, slot 0 free; a slot that is used and one that is not. -/
theorem witness_SlotsAreClaimedAndReleased :
    (∃ s : State, s.Issues (.oclaim p0 1 3) ∧ s.g.boundTo 3 ≠ none) ∧
    (∃ s : State, s.Issues (.oclaim p0 1 3) ∧ s.g.boundTo 3 = none ∧ ∀ n, ¬ s.slotFree n) ∧
    (∃ s : State, s.Issues (.oclaim p0 1 31) ∧ s.g.boundTo 31 = none ∧ s.slotFree 0 ∧ ∀ m, m < 0 → ¬ s.slotFree m) ∧
    (∃ s : State, s.Issues (.orelease p0 3) ∧ s.g.boundTo 3 = some 5 ∧ s.slotBusy s.g.core 5 = true) ∧
    (∃ s : State, s.Issues (.orelease p0 3) ∧ s.g.boundTo 3 = some 5 ∧ s.slotBusy s.g.core 5 = false) ∧
    ∃ s : State, s.Issues (.oqry p0 4 3) := by
  refine ⟨⟨holding (.oclaim p0 1 3), by decide +kernel⟩,
    ⟨{ stand (.oclaim p0 1 3) with slots := (List.range 32).map fun n => freshSlot 0 n 2 }, by decide +kernel,
      by decide +kernel, fun n hn => hn.2 (freshSlot 0 n 2) ?_ ⟨rfl, rfl⟩⟩,
    ⟨stand (.oclaim p0 1 31), by decide +kernel, by decide +kernel, ⟨by decide, by decide +kernel⟩, by omega⟩,
    ⟨{ holding (.orelease p0 3) with mops := [queued 7 (.mma p0 0 3 3 false 0 0 false)] }, by decide +kernel⟩,
    ⟨holding (.orelease p0 3), by decide +kernel⟩, stand (.oqry p0 4 3), by decide +kernel⟩
  exact List.mem_map.2 ⟨n, List.mem_range.2 hn.1, rfl⟩

/-- A strand of a gang that holds every accumulator tile and the bit tiles besides its slot of binary8 elements. -/
def matrix (i : Instr) : State :=
  { stand i with g := { bound with heldAcc := 15, heldBt := true }, slots := [{ slot with planTag := 0x64 }] }

/-- A queue of 31 and of 32 operations; the `.whole` form; operands taken and refused. -/
theorem witness_MatrixOperationsAreQueued :
    (∃ s : State, matrixRow (.accz p0 3 true true) = some (true, true) ∧ s.Issues (.accz p0 3 true true) ∧ s.matrixAhead = 31 ∧
      s.isWhole = true) ∧
    (∃ s : State, matrixRow (.btclos p0 7 3 5 false) = some (false, false) ∧ s.Issues (.btclos p0 7 3 5 false) ∧
      s.matrixAhead = 32) ∧
    (∃ s : State, let i := Instr.ofill p0 3 4 0x64 false 0 0 1 false true
      s.Issues i ∧ s.matrixAhead < 32 ∧ s.isWhole = true ∧ fmtOf 0x64 ≠ none) ∧
    (∃ s : State, let i := Instr.ofill p0 3 4 0x0F false 0 0 1 false false
      s.Issues i ∧ s.matrixAhead < 32 ∧ fmtOf 0x0F = none) ∧
    (∃ s : State, let i := Instr.mma p0 0 3 3 false 64 0 true
      s.Issues i ∧ s.matrixAhead < 32 ∧ s.isWhole = true ∧ s.mmaBad 3 3 64 false = false) ∧
    (∃ s : State, let i := Instr.mmas p0 0 3 3 false 64 0 false
      s.Issues i ∧ s.matrixAhead < 32 ∧ s.mmaBad 3 3 64 true = true) ∧
    (∃ s : State, let i := Instr.ocmp p0 0 1 3 true false .lt true true 0 0 true
      s.Issues i ∧ s.matrixAhead < 32 ∧ s.isWhole = true) ∧
    ∃ s : State, let i := Instr.ocmp p0 0 1 3 true false .un false false 0x0C 0 false
      s.Issues i ∧ s.matrixAhead < 32 :=
  let fill n := (List.range n).map fun k => queued (k + 200) (.bteye p0 0 false)
  ⟨⟨{ matrix (.accz p0 3 true true) with mops := fill 31 }, by decide +kernel⟩,
    ⟨{ matrix (.btclos p0 7 3 5 false) with mops := fill 32 }, by decide +kernel⟩,
    ⟨matrix (.ofill p0 3 4 0x64 false 0 0 1 false true), by decide +kernel⟩,
    ⟨matrix (.ofill p0 3 4 0x0F false 0 0 1 false false), by decide +kernel⟩,
    ⟨matrix (.mma p0 0 3 3 false 64 0 true), by decide +kernel⟩,
    ⟨matrix (.mmas p0 0 3 3 false 64 0 false), by decide +kernel⟩,
    ⟨matrix (.ocmp p0 0 1 3 true false .lt true true 0 0 true), by decide +kernel⟩,
    matrix (.ocmp p0 0 1 3 true false .un false false 0x0C 0 false), by decide +kernel⟩

/-- A matrix operation whose S4:S5 names tile 0, or the last 512 bytes of the scratchpad or of the linear range. -/
def imaging (i : Instr) (a : Word) : State := { matrix i with t := { strand i with sregs := [(4, a)] } }

theorem witness_MatrixMemoryOperationsAreQueued :
    (∃ (s : State) (hits : List Hit), let i := Instr.btst p0 0 4 false false 2 0
      (s.Issues i ∧ s.matrixAhead < 32) ∧ goodAddr (s.readPair 4).toNat 64 ∧
      (s.countIssue i).Reaches false true (laneBytes (lowLane s.t.active) (s.readPair 4).toNat 512) hits) ∧
    (∃ s : State, let i := Instr.btld p0 0 4 false true 1 2
      s.Issues i ∧ s.matrixAhead < 32 ∧ (s.readS 4).toNat % 64 = 0 ∧ (s.readS 4).toNat + 512 = s.spadSize ∧
      s.g.dbgc.extractLsb' 0 8 = 0) ∧
    (∃ s : State, let i := Instr.accst p0 0 4 0x64 false 56 0 false false 8 2 0
      (s.Issues i ∧ s.matrixAhead < 32 ∧ s.accstBad 0x64 56 8 0 false false (some (tiled, 0)) = false) ∧
      (s.countIssue i).TileReached (s.readPair 4).toNat tiled 0 false true false) ∧
    ∃ s : State, let i := Instr.accst p0 0 4 0x64 false 57 0 false false 8 0 0
      (s.Issues i ∧ s.matrixAhead < 32 ∧ s.accstBad 0x64 57 8 0 false false (some (tiled, 0)) = true) ∧
      (s.countIssue i).TileReached (s.readPair 4).toNat tiled 0 false true false :=
  let s := imaging (.btst p0 0 4 false false 2 0) 0x1FE00
  ⟨⟨s, ((s.countIssue (.btst p0 0 4 false false 2 0)).reach ⟨false, true, false⟩ (laneBytes 0 0x1FE00 512)).hits,
      by decide +kernel, by unfold goodAddr; decide +kernel, by unfold State.Reaches; decide +kernel⟩,
    ⟨imaging (.btld p0 0 4 false true 1 2) 3584, by decide +kernel⟩,
    ⟨imaging (.accst p0 0 4 0x64 false 56 0 false false 8 2 0) 0x20000, by decide +kernel, reaches_tile (by unfold State.Passes; decide +kernel)⟩,
    imaging (.accst p0 0 4 0x64 false 57 0 false false 8 0 0) 0x20000, by decide +kernel, reaches_tile (by unfold State.Passes; decide +kernel)⟩

/-! ### Traps -/

/-- An own-register write, a block that is not held, a handle that is not bound, and an expired transient. -/
theorem witness_RegisterFieldsAreChecked :
    (∃ s : State, (Instr.twr p0 1 4).stream = .strand ∧ s.focused = true ∧ s.t.handler = false ∧
      ∃ r ∈ (Instr.sadd p0 62 1 1 false).writes, handlerReg r = true) ∧
    (∃ s : State, (Instr.vadd p0 64 1 2 false).stream = .strand ∧ s.focused = true ∧
      ∃ r ∈ (Instr.vadd p0 64 1 2 false).reads ++ (Instr.vadd p0 64 1 2 false).writes, s.g.lacks r = true) ∧
    (∃ s : State, let i := Instr.mma p0 0 3 3 false 64 0 false
      (i.stream = .strand ∧ s.focused = true ∧ ¬ (s.t.handler = false ∧ ∃ r ∈ i.writes, handlerReg r = true)) ∧
      (¬ ∃ r ∈ i.reads ++ i.writes, s.g.lacks r = true) ∧ ∃ r ∈ i.reads ++ i.writes, s.g.unbound r = true) ∧
    ∃ s : State, let i := Instr.smov p0 4 5
      (i.stream = .strand ∧ s.focused = true ∧ ¬ (s.t.handler = false ∧ ∃ r ∈ i.writes, handlerReg r = true)) ∧
      (¬ ∃ r ∈ i.reads ++ i.writes, s.g.lacks r = true) ∧ (¬ ∃ r ∈ i.reads ++ i.writes, s.g.unbound r = true) ∧
      expiredRead s.t i = some 133 :=
  ⟨⟨stand (.sadd p0 62 1 1 false), by decide +kernel⟩, ⟨stand (.vadd p0 64 1 2 false), by decide +kernel⟩,
    ⟨{ stand (.mma p0 0 3 3 false 64 0 false) with g := { gang with heldAcc := 15 } }, by decide +kernel⟩,
    on { strand (.smov p0 4 5) with trans := [⟨133, .expired, [], 9⟩] }, by decide +kernel⟩

/-- A gang with a vector table at 0x10000, whose entry for software traps names a handler at 0x10800. -/
def handled (i : Instr) : State :=
  put { stand i with g := { gang with tvec := 0x10000 } } (canonical (0x10000 + 8 * Cause.software.code)) [0, 8, 1]

theorem witness_TrapsEnterTheirHandler : ∃ s : State, s.focused = true ∧ s.t.handler = false ∧ s.g.tvec ≠ 0 ∧
    (s.vaRead s.g.vd ((s.g.tvec.toNat + 8 * Cause.software.code) % 2 ^ 64) 8).toOption = some (natBytes 8 0x10800) :=
  ⟨handled (.trap p0 0), by decide +kernel⟩

theorem witness_TrapsWithoutAHandler :
    (∃ s : State, s.Alone ∧ s.t.handler = true) ∧
    (∃ s : State, s.Alone ∧ s.t.handler = false ∧ s.g.tvec = 0 ∧ ¬ Cause.software.goesOn ∧ s.outstanding s.g.id = true) :=
  ⟨⟨on { strand (.trap p0 0) with handler := true }, by unfold State.Alone; decide +kernel⟩,
    { stand (.trap p0 0) with ops := [theOp (.load 1 2 [])] }, by unfold State.Alone Cause.goesOn; decide +kernel⟩

theorem witness_WordsThatRaiseTheirTrap :
    (∃ s : State, s.Issues (.trap p0 0x3FFF)) ∧ (∃ s : State, s.Issues (.dbgbrk p0 0x3FFF)) ∧ ∃ s : State, s.focused = true :=
  ⟨⟨stand (.trap p0 0x3FFF), by decide +kernel⟩, ⟨stand (.dbgbrk p0 0x3FFF), by decide +kernel⟩,
    stand (.illegalEncoding 0), by decide +kernel⟩

/-- A strand at the header at 0x10000 of a clause of one word, SADD or an ST. -/
def heading (hdr w : Word) : State :=
  put (on { Strand.init with active := 0xFFFF, pc := 0x10000 }) (canonical 0x10000)
    (natBytes 4 hdr.toNat ++ natBytes 4 w.toNat)

/-- The header of a clause of one SADD. -/
def oneWord : State := heading 0x10000000 ((encode (.sadd p0 1 2 3 false)).headD 0)

/-- A budget that defers the fetch; a bad header; a header whose clause is entered, one whose WAIT is not met, one of a role that
is not admitted, one at a breakpoint, and one whose words do not suit its class. -/
theorem witness_HeadersBeginClauses :
    (∃ s : State, s.focused = true ∧ s.boundary = none ∧ s.fetchHeld 1 = some 100000) ∧
    (∃ s : State, s.focused = true ∧ s.boundary = none ∧ s.fetchHeld 0 = none ∧ hdrBad 0 = true) ∧
    (∃ s : State, s.focused = true ∧ s.boundary = none ∧ s.fetchHeld 1 = none ∧ hdrBad 0x10000000 = false ∧
      (s.codeAt (s.t.pc + 4) 1).toOption = some (encode (.sadd p0 1 2 3 false)) ∧
      wordsBad (eclOf 0x10000000) (encode (.sadd p0 1 2 3 false)) = false ∧ s.t.handler = false ∧
      roleAdmits s.g.role (eclOf 0x10000000) = true ∧ s.waitMet s.g.id 0x10000000 = true ∧ s.execSlot s.t.pc = none ∧
      memClass 0x10000000 (encode (.sadd p0 1 2 3 false)) = false ∧ s.preempting s.g.block = false ∧ s.sound) ∧
    (∃ s : State, s.focused = true ∧ s.boundary = none ∧ s.fetchHeld 1 = none ∧ hdrBad 0x10004000 = false ∧
      (s.codeAt (s.t.pc + 4) 1).toOption = some (encode (.sadd p0 1 2 3 false)) ∧
      roleAdmits s.g.role (eclOf 0x10004000) = true ∧ s.waitMet s.g.id 0x10004000 = false) ∧
    (∃ s : State, s.focused = true ∧ s.boundary = none ∧ s.fetchHeld 1 = none ∧ hdrBad 0x12000000 = false ∧
      s.t.handler = false ∧ roleAdmits s.g.role (eclOf 0x12000000) = false ∧
      wordsBad (eclOf 0x12000000) (encode (.sadd p0 1 2 3 false)) = false ∧
      (s.codeAt (s.t.pc + 4) 1).toOption = some (encode (.sadd p0 1 2 3 false))) ∧
    (∃ s : State, s.focused = true ∧ s.boundary = none ∧ s.fetchHeld 1 = none ∧ s.waitMet s.g.id 0x10000000 = true ∧
      (s.codeAt (s.t.pc + 4) 1).toOption = some (encode (.sadd p0 1 2 3 false)) ∧ s.t.entered = false ∧
      s.execSlot s.t.pc = some 2) ∧
    ∃ s : State, s.focused = true ∧ s.boundary = none ∧ s.fetchHeld 1 = none ∧
      wordsBad (eclOf 0x10000000) ((encode (.fork p0 1 2 8 false true 0)).take 1) = true ∧
      (s.codeAt (s.t.pc + 4) 1).toOption = some ((encode (.fork p0 1 2 8 false true 0)).take 1) :=
  ⟨⟨{ oneWord with parts := [{ part with budgets := [(0, ⟨0, false, true, []⟩)] }] }, by decide +kernel⟩,
    ⟨heading 0 0, by decide +kernel⟩, ⟨oneWord, by unfold State.sound; decide +kernel⟩,
    ⟨{ heading 0x10004000 ((encode (.sadd p0 1 2 3 false)).headD 0) with ops := [{ theOp (.load 1 2 []) with flag := some 1 }] },
      by decide +kernel⟩,
    ⟨{ heading 0x12000000 ((encode (.sadd p0 1 2 3 false)).headD 0) with g := { gang with role := 2 } }, by decide +kernel⟩,
    ⟨{ oneWord with g := { gang with dbgc := 0x10, dbga := [(2, 0x10000)] } }, by decide +kernel⟩,
    heading 0x10000000 ((encode (.fork p0 1 2 8 false true 0)).headD 0), by decide +kernel⟩


/-- A strand in its handler that returns to a word of the clause that the trap left. -/
def inHandler (i : Instr) (active mask : Mask) : Strand :=
  { strand i with
    handler := true, active := active, tclh := 0x2000, tepc := 0x2004, tmask := mask
    held := some ⟨0x2000, 0x20000000, encode (.smov p0 4 5) ++ encode (.smov p0 5 4)⟩ }

/-- Outside a handler; no lane gone, every lane gone with a sibling left and with none, and some lanes gone. -/
theorem witness_TrapsReturn :
    (∃ s : State, s.Issues (.tret p0) ∧ s.t.handler = false) ∧
    (∃ s : State, s.Issues (.tretIgn p0) ∧ s.t.handler = true ∧ s.t.resumePlace.isSome ∧
      ∀ c ∈ s.t.resumePlace, extensionAt false c.1.words c.2 = false) ∧
    (∃ s : State, s.Issues (.tretKill p0) ∧ s.t.handler = true ∧ s.t.tmask &&& s.t.active = 0 ∧
      ∀ c ∈ s.t.resumePlace, extensionAt false c.1.words c.2 = false) ∧
    (∃ s : State, s.Issues (.tretKill p0) ∧ s.t.handler = true ∧ s.t.tmask &&& s.t.active = s.t.active ∧ s.t.active ≠ 0 ∧
      s.Alone ∧ s.g.strands = [] ∧ s.outstanding s.g.id = false ∧
      ∀ c ∈ s.t.resumePlace, extensionAt false c.1.words c.2 = false) ∧
    ∃ s : State, s.Issues (.tretKill p0) ∧ s.t.handler = true ∧ s.t.tmask &&& s.t.active ≠ 0 ∧
      s.t.tmask &&& s.t.active ≠ s.t.active ∧ s.Alone ∧ ∀ c ∈ s.t.resumePlace, extensionAt false c.1.words c.2 = false :=
  ⟨⟨stand (.tret p0), by decide +kernel⟩, ⟨on (inHandler (.tretIgn p0) 0xFFFF 0xFFFF), by decide +kernel⟩,
    ⟨on (inHandler (.tretKill p0) 0xFF 0xFF00), by decide +kernel⟩,
    ⟨on (inHandler (.tretKill p0) 0xFFFF 0xFFFF), by unfold State.Alone; decide +kernel⟩,
    on (inHandler (.tretKill p0) 0xFFFF 1), by unfold State.Alone; decide +kernel⟩

/-- DBGA3 and TMASK read; TINFO written outside the handler and inside it; TVEC and DBGC values taken and refused; recipe
pointers that are and are not multiples of 64. -/
theorem witness_HandlerRegistersAreReadAndWritten :
    (∃ s : State, s.Issues (.trd p0 4 13)) ∧ (∃ s : State, s.Issues (.twr p0 4 4) ∧ s.t.handler = false) ∧
    (∃ s : State, s.Issues (.twr p0 4 4) ∧ s.t.handler = true) ∧
    (∃ s : State, s.Issues (.twr p0 8 4) ∧ (s.readPair 4).toNat % 512 ≠ 0) ∧
    (∃ s : State, s.Issues (.twr p0 8 4) ∧ (s.readPair 4).toNat = 512) ∧
    (∃ s : State, s.Issues (.twr p0 9 4) ∧ (s.readS 4).getLsbD 11 = true ∧ (s.readS 4).toNat / 4 ^ 3 % 4 = 1) ∧
    (∃ s : State, s.Issues (.twr p0 9 4) ∧ ∀ k, k < 4 → (s.readS 4).toNat / 4 ^ k % 4 ≠ 1) ∧
    (∃ s : State, s.Issues (.flash p0 4) ∧ (s.readPair 4).toNat = 32) ∧
    (∃ s : State, s.Issues (.flash p0 4) ∧ (s.readPair 4).toNat = 64) ∧ (∃ s : State, s.Issues (.flashNone p0)) ∧
    ∃ (w x : Word) (i : Instr), fOP w = 0x69 ∧ decode w x = .ok i :=
  ⟨⟨stand (.trd p0 4 13), by decide +kernel⟩, ⟨stand (.twr p0 4 4), by decide +kernel⟩,
    ⟨on { strand (.twr p0 4 4) with handler := true }, by decide +kernel⟩,
    ⟨withS (.twr p0 8 4) [(4, 511)], by decide +kernel⟩, ⟨withS (.twr p0 8 4) [(4, 512)], by decide +kernel⟩,
    ⟨withS (.twr p0 9 4) [(4, 0x840)], by decide +kernel⟩, ⟨withS (.twr p0 9 4) [(4, 0x8C0)], by decide +kernel⟩,
    ⟨withS (.flash p0 4) [(4, 32)], by decide +kernel⟩, ⟨withS (.flash p0 4) [(4, 64)], by decide +kernel⟩,
    ⟨stand (.flashNone p0), by decide +kernel⟩, 0xD2000001, 0, .flashNone p0, by decide +kernel, rfl⟩

/-- The guest timestamp, the last counter of timing, the counter after it and one past the last. -/
theorem witness_CountersAreRead :
    (∃ s : State, s.Issues (.cntrd p0 4 0)) ∧ (∃ s : State, s.Issues (.cntrd p0 4 10)) ∧
      (∃ s : State, s.Issues (.cntrd p0 4 11)) ∧ ∃ s : State, s.Issues (.cntrd p0 4 63) :=
  ⟨⟨stand (.cntrd p0 4 0), by decide +kernel⟩, ⟨stand (.cntrd p0 4 10), by decide +kernel⟩,
    ⟨stand (.cntrd p0 4 11), by decide +kernel⟩, stand (.cntrd p0 4 63), by decide +kernel⟩

/-! ### Decodes, and matrix operations that end -/

/-- VDECODE into V12 from the chunk at S4, at most four registers a lane, with its count to S6. -/
def decoding (te : Bool) : Instr := .vdecode p0 12 4 6 te 4 false

/-- A strand in such a decode of the chunk at an offset, with scratchpad contents, in its gang and focused. -/
def inDecode (te : Bool) (off : Word) (chunk : SMap Byte) : State :=
  { world with
    blocks := [{ blk with scratch := chunk }]
    gangs := [{ gang with strands := [{ strand (decoding te) with wait := .decode (off.toNat % 2 ^ 20) 0, sregs := [(4, off)] }] }] }
def decoder (te : Bool) (off : Word) (chunk : SMap Byte) : State := (inDecode te off chunk).focus 1 0

/-- 4,096 cycles after the first. -/
def late (s : State) : State := { s with cycle := 4096 }

/-- What the decoder of a strand sees of its chunk. -/
def chunkEnd (f : State) (off : Nat) (stop : Option Nat) : DecodeEnd :=
  decodeChunk (fun k => (f.spadRead off (f.spadSize - off)).getD k 0) (f.spadSize - off) ((lanesOf f.t.active).length * 4) stop

/-- A run of four sevens (R219, R220). -/
def run : SMap Byte := [(0, 4), (2, 2), (4, 3), (5, 7)]

/-- Chunks at offsets that are and are not multiples of 4, the decoder of the pipes free and busy; a chunk that runs past the scratchpad, a header of no values with TE
and without, and a run of four values, whole and cut after three cycles' worth. -/
theorem witness_DecodesEnd :
    (∃ s : State, s.Issues (decoding false) ∧ (s.readS 4).toNat = 2) ∧
    (∃ s : State, s.Issues (.vdecode p0 12 4 6 true 4 true) ∧ s.isWhole = true ∧ (s.readS 4).toNat % 4 = 0 ∧
      s.decoderBusy = false) ∧
    (∃ s : State, s.Issues (decoding false) ∧ (s.readS 4).toNat % 4 = 0 ∧ s.decoderBusy = true) ∧
    (∃ s f : State, s.strandAt f 1 0 ∧ (f.t.wait = .decode 4092 0 ∧ f.t.active ≠ 0 ∧ f.instrHere = some (decoding false)) ∧
      f.NothingOut ∧ f.cycle - 0 ≤ 4096 ∧ chunkEnd f 4092 none = .outside 4) ∧
    (∃ s f : State, s.strandAt f 1 0 ∧ (f.t.wait = .decode 0 0 ∧ f.t.active ≠ 0 ∧ f.instrHere = some (decoding true)) ∧
      f.NothingOut ∧ f.cycle - 0 ≤ 4096 ∧ chunkEnd f 0 none = .ended 1 [] 0) ∧
    (∃ s f : State, s.strandAt f 1 0 ∧ (f.t.wait = .decode 0 0 ∧ f.t.active ≠ 0 ∧ f.instrHere = some (decoding true)) ∧
      f.NothingOut ∧ f.cycle - 0 ≤ 4096 ∧ chunkEnd f 0 none = .ended 0 [7, 7, 7, 7] 9) ∧
    ∃ s f : State, s.strandAt f 1 0 ∧ (f.t.wait = .decode 0 0 ∧ f.t.active ≠ 0 ∧ f.instrHere = some (decoding false)) ∧
      f.NothingOut ∧ 4096 ≤ f.cycle - 0 ∧ ∃ code vals cons, chunkEnd f 0 (some 3) = .ended code vals cons ∧ code ≠ 0 ∧ vals.length = 3 :=
  ⟨⟨withS (decoding false) [(4, 2)], by decide +kernel⟩, ⟨stand (.vdecode p0 12 4 6 true 4 true), by decide +kernel⟩,
    ⟨{ stand (decoding false) with gangs := [{ gang with id := 2, strands := [{ strand (decoding true) with wait := .decode 0 0 }] }] },
      by decide +kernel⟩,
    ⟨inDecode false 4092 [(4092, 1), (4094, 2)], decoder false 4092 [(4092, 1), (4094, 2)], ⟨rfl, by decide +kernel⟩,
      by decide +kernel, by unfold State.NothingOut; decide +kernel, by decide +kernel, by decide +kernel⟩,
    ⟨inDecode true 0 [], decoder true 0 [], ⟨rfl, by decide +kernel⟩, by decide +kernel,
      by unfold State.NothingOut; decide +kernel, by decide +kernel, by decide +kernel⟩,
    ⟨inDecode true 0 run, decoder true 0 run, ⟨rfl, by decide +kernel⟩, by decide +kernel,
      by unfold State.NothingOut; decide +kernel, by decide +kernel, by decide +kernel⟩,
    late (inDecode false 0 run), (late (inDecode false 0 run)).focus 1 0, ⟨rfl, by decide +kernel⟩, by decide +kernel,
    by unfold State.NothingOut; decide +kernel, by decide +kernel, 3, [7, 7, 7], 4, by decide +kernel⟩

/-- The world with an operation at the head of the device's queue. -/
def atArray (m : MOp) : State :=
  { world with
    gangs := [{ bound with
      heldAcc := 15, heldBt := true, strands := [{ Strand.init with active := 0xFFFF, issued := [m.id] }]
      bt := [(0, 2), (1, 4)] }]
    slots := [{ slot with planTag := 0x64 }], mops := [m] }

/-- Nothing to start; an operation to start, and one that an exhausted budget defers. -/
theorem witness_TheArrayStartsItsNextOperation :
    (∃ s : State, s.unfocus.nextMop 0 = none) ∧
    (∃ (s : State) (m : MOp), s.unfocus.nextMop 0 = some m ∧ s.unfocus.arrayBusy 0 = false ∧
      s.unfocus.heldBack m.vd (dieOf 0) 1 = false) ∧
    (∃ (s : State) (m : MOp), s.unfocus.nextMop 0 = some m ∧ s.unfocus.arrayBusy 0 = false ∧
      s.unfocus.heldBack m.vd (dieOf 0) 1 = true ∧ s.unfocus.preempting m.block = false ∧ m.deferred = false) ∧
    ∃ (s : State) (m : MOp), s.unfocus.nextMop 0 = some m ∧ s.unfocus.arrayBusy 0 = false ∧
      s.unfocus.heldBack m.vd (dieOf 0) 1 = true ∧ s.unfocus.preempting m.block = false ∧ m.deferred = true :=
  let m := queued 7 (.btand p0 0 1 2 false)
  let spent : Part := { part with budgets := [(1, ⟨0, false, true, []⟩)] }
  ⟨⟨world, by decide +kernel⟩, ⟨atArray m, m, by decide +kernel⟩, ⟨{ atArray m with parts := [spent] }, m, by decide +kernel⟩,
    { atArray { m with deferred := true } with parts := [spent] }, { m with deferred := true }, by decide +kernel⟩

/-- An operation that the array has started, and its queue. -/
def ending (i : Instr) : MOp := { queued 7 i with started := true }
def atEnd (i : Instr) : State := atArray (ending i)

/-- Its gang. -/
def endGang (i : Instr) : Option Gang := (atEnd i).unfocus.gangOf 1

/-- The closure of an empty relation, which no squaring adds to. -/
def closing : State :=
  { atEnd (.btclos p0 3 0 5 false) with
    gangs := [{ bound with heldBt := true, strands := [{ Strand.init with active := 0xFFFF, issued := [7] }] }] }

theorem empty_closed {g : Gang} (h : g.bt = []) (i j : Nat) :
    closeSteps (g.bit 0) 1 i j = closeSteps (g.bit 0) 0 i j := by
  simp [closeSteps, closeStep, Gang.bit, Gang.btRow, h, smGet]

/-- Operations of each kind of result; a closure of a relation that two squarings close, and of the empty one; a multiply of slots that
are held; fills of data and of scales whose
words end with their row. -/
theorem witness_MatrixOperationsWriteTheirResults :
    (∃ (s : State) (m : MOp) (g : Gang), s.unfocus.MopReady m g ∧ (mopV g m m.instr).isSome) ∧
    (∃ (s : State) (m : MOp) (g : Gang), s.unfocus.MopReady m g ∧ (mopAcc s.unfocus g m m.instr).isSome) ∧
    (∃ (s : State) (m : MOp) (g : Gang), s.unfocus.MopReady m g ∧ (mopBits s.unfocus g m m.instr).isSome) ∧
    (∃ (s : State) (m : MOp) (g : Gang), s.unfocus.MopReady m g ∧ m.instr = .btclos p0 3 0 5 false ∧
      closeSteps (g.bit 0) 1 0 2 ≠ closeSteps (g.bit 0) 0 0 2) ∧
    (∃ (s : State) (m : MOp) (g : Gang), s.unfocus.MopReady m g ∧ m.instr = .btclos p0 3 0 5 false ∧
      ∀ i j, i < 64 → j < 64 → closeSteps (g.bit 0) 1 i j = closeSteps (g.bit 0) 0 i j) ∧
    (∃ (s : State) (m : MOp) (g : Gang), s.unfocus.MopReady m g ∧ m.instr = .mma p0 0 3 3 false 64 0 false ∧
      s.unfocus.slotAt g 3 ≠ none) ∧
    (∃ (s : State) (m : MOp) (g : Gang) (x : Slot), s.unfocus.MopReady m g ∧
      m.instr = .ofill p0 3 4 0x64 false 48 28 4 false false ∧ s.unfocus.slotAt g 3 = some x) ∧
    ∃ (s : State) (m : MOp) (g : Gang) (x : Slot), s.unfocus.MopReady m g ∧
      m.instr = .ofill p0 3 4 0x64 false 48 0 2 true false ∧ s.unfocus.slotAt g 3 = some x := by
  refine ⟨⟨atEnd (.btrowRd p0 12 0 false false), ending (.btrowRd p0 12 0 false false), _, ⟨rfl, ?_, rfl, ?_⟩, rfl⟩,
    ⟨atEnd (.mmas p0 0 3 3 false 64 0 false), ending (.mmas p0 0 3 3 false 64 0 false), _, ⟨rfl, ?_, rfl, ?_⟩, rfl⟩,
    ⟨atEnd (.ocmp p0 3 1 3 true false .lt true true 0 0 false), ending (.ocmp p0 3 1 3 true false .lt true true 0 0 false), _,
      ⟨rfl, ?_, rfl, ?_⟩, rfl⟩,
    ⟨atEnd (.btclos p0 3 0 5 false), ending (.btclos p0 3 0 5 false), _, ⟨rfl, ?_, rfl, ?_⟩, rfl, ?_⟩,
    ⟨closing, ending (.btclos p0 3 0 5 false), _, ⟨rfl, ?_, rfl, ?_⟩, rfl, ?_⟩,
    ⟨atEnd (.mma p0 0 3 3 false 64 0 false), ending (.mma p0 0 3 3 false 64 0 false), _, ⟨rfl, ?_, rfl, ?_⟩, rfl, ?_⟩,
    ⟨atEnd (.ofill p0 3 4 0x64 false 48 28 4 false false), ending (.ofill p0 3 4 0x64 false 48 28 4 false false), _, _,
      ⟨rfl, ?_, rfl, ?_⟩, rfl, rfl⟩,
    atEnd (.ofill p0 3 4 0x64 false 48 0 2 true false), ending (.ofill p0 3 4 0x64 false 48 0 2 true false), _, _,
    ⟨rfl, ?_, rfl, ?_⟩, rfl, rfl⟩ <;>
  first | exact fun i j _ _ => empty_closed rfl i j | decide +kernel

theorem witness_BitTileImagesMove :
    (∃ (s : State) (m : MOp) (g : Gang), s.unfocus.MopReady m g ∧ s.unfocus.blockOf m.block = some blk ∧
      m.refs = spadAt 3584 512 ∧ m.instr = .btld p0 0 4 false true 0 0) ∧
    ∃ (s : State) (m : MOp) (g : Gang), s.unfocus.MopReady m g ∧ s.unfocus.blockOf m.block = some blk ∧
      m.refs = spadAt 3584 512 ∧ m.instr = .btst p0 0 4 false true 0 0 := by
  refine ⟨⟨atArray { ending (.btld p0 0 4 false true 0 0) with refs := spadAt 3584 512 },
      { ending (.btld p0 0 4 false true 0 0) with refs := spadAt 3584 512 }, _, ⟨rfl, ?_, rfl, ?_⟩, rfl, rfl, rfl⟩,
    atArray { ending (.btst p0 0 4 false true 0 0) with refs := spadAt 3584 512 },
    { ending (.btst p0 0 4 false true 0 0) with refs := spadAt 3584 512 }, _, ⟨rfl, ?_, rfl, ?_⟩, rfl, rfl, rfl⟩ <;>
  decide +kernel

/-! ### Bank engines -/

/-- A command that the engine of channel 1 executes: weights and activations binary8 formats, weights from 0x10000, an
argument array that names 0x10000, and one transfer outstanding or none. -/
def bankRun (xs : List (Nat × Xfer)) : BankCmd :=
  { bankCmd 1 7 0 1 1 0x800 1 0x10000 (List.replicate 8 0x10000) with
    started := true, prog := [0, 9], wfmt := 0x64, xfmt := 0x64, wbase := 0x10000, op := 0x1FFE0, transfers := xs }

/-- The world in which that engine runs it. -/
def inBank (b : BankCmd) : State := { world with banks := [b], curBank := some 1 }

/-- The state in which its words act. -/
def bankWorld (b : BankCmd) : State := { (inBank b).unfocus with curBank := none }

theorem runs_bank (b : BankCmd)
    (h : (inBank b).runningBank 1 = some b ∧ b.steps < 2 ^ 26 ∧ (bankWorld b).bankDeferred b = false) :
    (inBank b).RunsBank (bankWorld b) b :=
  ⟨1, rfl, h.1, h.2.1, rfl, h.2.2⟩

/-- The value of a computation that ends well, and the code of one that does not. -/
theorem ok_of {α : Type} {x : Except Nat α} {a : α} (h : x.toOption = some a) : x = .ok a := by
  cases x <;> simp_all [Except.toOption]
def codeOf {α : Type} : Except Nat α → Option Nat
  | .error c => some c
  | .ok _ => none
theorem error_of {α : Type} {x : Except Nat α} {c : Nat} (h : codeOf x = some c) : x = .error c := by
  cases x <;> simp_all [codeOf]

/-- Words that go on at the bounds of their fields, words that end the program, words that wait, and a BKMAC whose activations end
with the buffer. -/
theorem witness_BankWordsRun :
    (∃ (s u : State) (b : BankCmd), s.RunsBank u b ∧ (bankWord b (.bkcfg 0x64 0x64 true 0 1 2)).isSome ∧
      (bankWord b (.bkloop 0 true 5)).isSome ∧ (bankWord b .bkwait).isSome) ∧
    (∃ (s u : State) (b : BankCmd) (hits : List Hit), s.RunsBank u b ∧ (16320 : Nat) + 64 = 16384 ∧
      u.bankHits b 0x10000 64 false = some hits ∧ u.BankAdmits b (hits.map fun h => h.va) (fun v => v.hitCells hits) false) ∧
    (∃ (s u : State) (b : BankCmd) (hits : List Hit), s.RunsBank u b ∧ u.bankHits b b.op (4 * 8) true = some hits ∧
      u.BankAdmits b (hits.map fun h => h.va) (fun v => v.hitCells hits) true) ∧
    (∃ (s u : State) (b : BankCmd), s.RunsBank u b ∧ bankEnds u b (.bkldv 7 64 16384) ∧ bankEnds u b (.bkst 1 8) ∧
      bankEnds u b (.bkcfg 0x0F 0x64 false 0 0 0) ∧ bankEnds u b (.bkloop 0 false 0xFFFF) ∧ bankEnds u b .bkend) ∧
    (∃ (s u : State) (b : BankCmd), s.RunsBank u b ∧ b.transfers ≠ []) ∧
    ∃ (s u : State) (b : BankCmd) (wf xf : Fmt) (w : Weights) (sc : List Byte × List ByteRef × Nat), s.RunsBank u b ∧
      fmtOf b.wfmt = some wf ∧ fmtOf b.xfmt = some xf ∧ (16383 + 1) * xf.width / 8 = 16384 ∧ u.weights b wf 1 = some w ∧
      u.weightScales b 1 = some sc ∧ w.code = 0 ∧ sc.2.2 = 0 ∧ u.sound ∧ u.weightsBusy b 1 = false ∧
      u.BankAdmits b [b.wbase.toNat] (fun _ => cellsOf (w.refs ++ sc.2.1)) false :=
  ⟨⟨_, _, bankRun [], runs_bank _ (by decide +kernel), by decide +kernel⟩,
    ⟨_, bankWorld (bankRun []), bankRun [], ((bankWorld (bankRun [])).bankHits (bankRun []) 0x10000 64 false).getD [],
      runs_bank _ (by decide +kernel), rfl, by decide +kernel, by unfold State.BankAdmits; decide +kernel⟩,
    ⟨_, bankWorld (bankRun []), bankRun [], ((bankWorld (bankRun [])).bankHits (bankRun []) 0x1FFE0 32 true).getD [],
      runs_bank _ (by decide +kernel), by decide +kernel, by unfold State.BankAdmits; decide +kernel⟩,
    ⟨_, _, bankRun [], runs_bank _ (by decide +kernel), Or.inr (Or.inr (Or.inl (by decide +kernel))),
      Or.inr (Or.inl (by decide +kernel)), Or.inl (by decide +kernel), Or.inr (Or.inr (by decide +kernel)), rfl⟩,
    ⟨_, _, bankRun [(0, .load 0x10000 0 64)], runs_bank _ (by decide +kernel), by decide +kernel⟩,
    _, _, bankRun [], _, _, _, _, runs_bank _ (by decide +kernel), rfl, rfl, by decide +kernel, rfl, rfl, by decide +kernel,
    by decide +kernel, by unfold State.sound; decide +kernel, by decide +kernel, by unfold State.BankAdmits; decide +kernel⟩

/-- A program at 0x10000 that begins with BKCFG, one that does not, and one that is not reached; a load and a store that
complete; an engine at its step limit and one before it. -/
theorem witness_BankEnginesTakeCommands :
    (∃ (s : State) (b : BankCmd) (ws : List Addr), s.unfocus.headBank 1 = some b ∧ b.started = false ∧
      s.unfocus.loadProgram b 256 0 = .ok ws ∧ (ws.headD 0).toNat % 256 = 1) ∧
    (∃ (s : State) (b : BankCmd) (ws : List Addr), s.unfocus.headBank 1 = some b ∧ b.started = false ∧
      s.unfocus.loadProgram b 256 0 = .ok ws ∧ (ws.headD 0).toNat % 256 ≠ 1) ∧
    (∃ (s : State) (b : BankCmd), s.unfocus.headBank 1 = some b ∧ b.started = false ∧ s.unfocus.loadProgram b 256 0 = .error 0x0A) ∧
    (∃ (s : State) (b : BankCmd), s.unfocus.headBank 1 = some b ∧ b.started = true) ∧
    (∃ (s : State) (b : BankCmd),
      s.unfocus.banks.find? (fun c => c.ch == 1 && c.transfers.any fun y => y.1 == 0) = some b ∧
      b.transfers.find? (fun y => y.1 == 0) = some (0, .load 0x10000 0 64) ∧ s.unfocus.sound ∧
      (s.unfocus.bankHits { b with transfers := [] } 0x10000 64 false).isSome) ∧
    (∃ (s : State) (b : BankCmd) (hits : List Hit),
      s.unfocus.banks.find? (fun c => c.ch == 1 && c.transfers.any fun y => y.1 == 0) = some b ∧
      b.transfers.find? (fun y => y.1 == 0) = some (0, .store 0x1FFE0 [1, 2]) ∧ hits.length = 8 ∧
      s.unfocus.bankHits { b with transfers := [] } 0x1FFE0 8 true = some hits ∧
      (∀ h ∈ hits, h.ref.spad = false ∧ h.ref.key = 0) ∧ (hits.map fun h => h.ref.addr).Nodup) ∧
    (∃ (s : State) (b : BankCmd), s.unfocus.runningBank 1 = some b ∧ b.steps < 2 ^ 26) ∧
    ∃ (s : State) (b : BankCmd), s.unfocus.runningBank 1 = some b ∧ b.steps = 2 ^ 26 :=
  let fresh := { bankRun [] with started := false, prog := [] }
  let program := natBytes 8 0x80000A01 ++ natBytes 8 9
  ⟨⟨put (inBank fresh) (canonical 0x10000) program, fresh, [0x80000A01, 9], by decide +kernel, rfl, ok_of (by decide +kernel), by decide +kernel⟩,
    ⟨put (inBank fresh) (canonical 0x10000) (natBytes 8 9), fresh, [9], by decide +kernel, rfl, ok_of (by decide +kernel), by decide +kernel⟩,
    ⟨inBank { fresh with progAddr := 0x40000 }, { fresh with progAddr := 0x40000 }, by decide +kernel, rfl, error_of (by decide +kernel)⟩,
    ⟨inBank (bankRun []), bankRun [], by decide +kernel⟩,
    ⟨inBank (bankRun [(0, .load 0x10000 0 64)]), bankRun [(0, .load 0x10000 0 64)], by unfold State.sound; decide +kernel⟩,
    ⟨inBank (bankRun [(0, .store 0x1FFE0 [1, 2])]), bankRun [(0, .store 0x1FFE0 [1, 2])], 
      ((inBank (bankRun [])).bankHits (bankRun []) 0x1FFE0 8 true).getD [], by decide +kernel⟩,
    ⟨inBank { bankRun [] with steps := 2 ^ 26 - 1 }, { bankRun [] with steps := 2 ^ 26 - 1 }, by decide +kernel⟩,
    inBank { bankRun [] with steps := 2 ^ 26 }, { bankRun [] with steps := 2 ^ 26 }, by decide +kernel⟩

/-! ### Command streams -/

/-- A level of the job in slot 0: the job itself 40, a phase 41, a graph 42. -/
def levelOf (id : Nat) (kind : LevelKind) (parent : Option Nat) (record : Option Addr) : Level :=
  ⟨id, kind, 0, 0, parent, record, 1, 0, 0, 0, 0, 0, false, false⟩

/-- The job at 0x11000 of its stream, with an open phase and graph as given. -/
def jobIn (phase graph : Option Nat) : Job :=
  ⟨0, 0, 0x11000, 0x11000, [], 40, phase, graph, graph.isSome, [], .none, false, false⟩

/-- The world in which that job's next command runs. -/
def streaming (j : Job) : State :=
  { world with
    jobs := [j], curJob := some (0, 0)
    levels := [levelOf 40 .job none none, levelOf 41 .phase (some 40) (some 0x12000), levelOf 42 .graph (some 41) (some 0x12020)] }

/-- A launch of the graph. -/
def launchIn (level num : Nat) : Launch :=
  ⟨level, num, 0x13000, 0x13400, [1, 1, 1], none, 0x10F00, [], false, 0, 16, 1, 0, false, 0, 0, [], [], 0⟩

theorem runs_job (j : Job) (h : j.vd = 0 ∧ j.slot = 0 ∧ j.faulted = false ∧ j.ended = false) :
    (streaming j).RunsJob (streaming j) j := by
  obtain ⟨h1, h2, h3, h4⟩ := h
  exact ⟨rfl, ⟨0, 0, rfl, by simp [State.jobAt, streaming, h1, h2]⟩, h3, h4⟩

/-- Commands that go on, LOOPs at 8 counters, WAITMEM that holds and that does not; commands that fault their stream; FENCE with
its launches done and not done. -/
theorem witness_StreamsMoveOrFault :
    (∃ (s u : State) (j : Job), s.RunsJob u j ∧ (streamWord u j (.finbyNop 1 0)).isSome ∧
      (streamWord u j (.waitmem 0 0 0x14000 0xFFFFFFFF 5)).isSome ∧ (streamWord u j (.waitmem 0 1 0x14000 0xFFFFFFFF 5)).isSome ∧
      (streamWord u j (.cond 7 1 0x14000 1 0x11040)).isSome ∧ (streamWord u j (.waitctr 0x14000)).isSome ∧
      (streamWord u j (.loop 0 0x11000)).isSome ∧ (streamWord u j (.link 0x11000)).isSome) ∧
    (∃ (s u : State) (j : Job), s.RunsJob u j ∧ j.loops.length = 7 ∧ (streamWord u j (.loop 2 0x11000)).isSome) ∧
    (∃ (s u : State) (j : Job), s.RunsJob u j ∧ j.loops.length = 8 ∧ streamBad u j (.loop 2 0x11000) = some 7) ∧
    (∃ (s u : State) (j : Job), s.RunsJob u j ∧ streamBad u j (.edge 1 2) = some 6 ∧ streamBad u j .pend = some 7 ∧
      streamBad u j (.pbegin 0x12000) = some 8 ∧ streamBad u j (.gbegin 0x40000) = some 4 ∧
      streamBad u j (.waitctr 0x40000) = some 4) ∧
    (∃ (s u : State) (j : Job), s.RunsJob u j ∧ j.inGraph = true ∧ (streamWord u j (.edge 1 2)).isSome ∧
      streamBad u j (.loop 2 0x11000) = some 7) ∧
    (∃ (s u : State) (j : Job), s.RunsJob u j ∧ j.inGraph = false ∧ ¬ u.streamQuiet j) ∧
    ∃ (s u : State) (j : Job), s.RunsJob u j ∧ j.inGraph = false ∧ u.streamQuiet j := by
  refine ⟨⟨_, _, jobIn none none, runs_job _ (by decide), by decide +kernel⟩,
    ⟨_, _, { jobIn none none with loops := (List.range 7).map fun k => (BitVec.ofNat 64 (16 * k), 1) }, runs_job _ (by decide),
      by decide +kernel⟩,
    ⟨_, _, { jobIn none none with loops := (List.range 8).map fun k => (BitVec.ofNat 64 (16 * k), 1) }, runs_job _ (by decide),
      by decide +kernel⟩,
    ⟨_, _, jobIn none none, runs_job _ (by decide), by decide +kernel⟩,
    ⟨_, _, jobIn (some 41) (some 42), runs_job _ (by decide), by decide +kernel⟩,
    ⟨_, _, jobIn none none, runs_job _ (by decide), by decide +kernel, by unfold State.streamQuiet; decide +kernel⟩,
    { world with jobs := [jobIn none none], curJob := some (0, 0) }, _, jobIn none none, ⟨rfl, ⟨0, 0, rfl, rfl⟩, rfl, rfl⟩, rfl, ?_⟩
  unfold State.streamQuiet
  decide +kernel

/-- Each command outside its levels and inside them. -/
theorem witness_StreamsOpenAndCloseLevels :
    (∃ (s u : State) (j : Job), s.RunsJob u j ∧ streamBad u j (.pbegin 0x14000) = none ∧
      streamBad u j (.gbegin 0x14000) = none ∧ streamBad u j (.launch 7 0x13000 0x13400 0x14000 1 1 1) = none ∧
      streamBad u j .endStream = none ∧ streamBad u j (.cancel 0x15000) = none ∧ j.phase = none ∧ j.graph = none ∧ u.NoCancel ∧
      ∀ l ∈ u.levels, l.vd = j.vd → l.record = some 0x15000 → 3 ≤ l.state) ∧
    (∃ (s u : State) (j : Job), s.RunsJob u j ∧ streamBad u j (.gbegin 0x14000) = none ∧
      streamBad u j .pend = none ∧ streamBad u j (.launchi 7 0x13000 0x13400 0x14000 0x13800) = none ∧ j.phase = some 41 ∧
      j.graph = none ∧ u.NoCancel ∧ (u.level 41).isSome ∧ ∀ l ∈ u.level 41, l.record ≠ none) ∧
    (∃ (s u : State) (j : Job), s.RunsJob u j ∧ streamBad u j (.launch 7 0x13000 0x13400 0x14000 1 1 1) = none ∧
      streamBad u j (.launchi 7 0x13000 0x13400 0x14000 0x13800) = none ∧ j.graph = some 42 ∧ u.NoCancel) ∧
    (∃ (s u : State) (j : Job), s.RunsJob u j ∧ streamBad u j .gend = none ∧ j.graph = some 42 ∧ (u.level 42).isSome ∧
      j.edges ≠ [] ∧ (∀ e ∈ j.edges, (∃ l ∈ u.launchesOf 42, l.num = e.1) ∧ ∃ l ∈ u.launchesOf 42, l.num = e.2.1) ∧
      cyclic ((u.launchesOf 42).map fun l => l.num) j.edges = false) ∧
    (∃ (s u : State) (j : Job) (refs : List ByteRef), s.RunsJob u j ∧ streamBad u j (.signal true 3 0x14000 9) = none ∧
      (u.vaRefs (u.vdev j.vd) 0x14000 8 ⟨false, true, false⟩ false).toOption = some refs ∧ refs.length = 8 ∧ u.sound ∧
      (∀ r ∈ refs, r.key = 0) ∧ (refs.map fun r => r.addr).Nodup) ∧
    (∃ (s u : State) (j : Job) (bs : List Byte), s.RunsJob u j ∧ streamBad u j (.cancel 0x15000) = none ∧
      (∀ l ∈ u.levels, l.vd = j.vd → l.record = some 0x15000 → 3 ≤ l.state) ∧
      (u.vaRead j.vd 0x15000 4).toOption = some bs ∧ leNat bs % 16 = 0) ∧
    (∃ (s u : State) (j : Job) (bs : List Byte), s.RunsJob u j ∧ streamBad u j (.cancel 0x15000) = none ∧
      (∀ l ∈ u.levels, l.vd = j.vd → l.record = some 0x15000 → 3 ≤ l.state) ∧
      (u.vaRead j.vd 0x15000 4).toOption = some bs ∧ leNat bs % 16 ≠ 0) ∧
    ∃ (s u : State) (j : Job) (l : Level), s.RunsJob u j ∧ streamBad u j (.cancel 0x12020) = none ∧
      u.levels.find? (fun l => l.vd == j.vd && l.record == some 0x12020 && decide (l.state < 3)) = some l ∧
      u.level l.id = some l ∧ l.state = 1 ∧ ∀ m ∈ u.levels, m.parent ≠ some l.id := by
  let edged : Job := { jobIn (some 41) (some 42) with edges := [(1, 2, 0x10FF0)] }
  refine ⟨⟨_, _, jobIn none none, runs_job _ (by decide), ?_⟩, ⟨_, _, jobIn (some 41) none, runs_job _ (by decide), ?_⟩,
    ⟨_, _, jobIn (some 41) (some 42), runs_job _ (by decide), ?_⟩,
    ⟨{ streaming edged with
        levels := (streaming edged).levels ++ [levelOf 43 .launch (some 42) none, levelOf 44 .launch (some 42) none]
        launches := [launchIn 43 1, launchIn 44 2] }, _, edged, ⟨rfl, ⟨0, 0, rfl, rfl⟩, rfl, rfl⟩, ?_⟩,
    ⟨_, _, jobIn none none, ((streaming (jobIn none none)).vaRefs ((streaming (jobIn none none)).vdev 0) 0x14000 8
        ⟨false, true, false⟩ false).toOption.getD [], runs_job _ (by decide), ?_⟩,
    ⟨_, _, jobIn none none, [0, 0, 0, 0], runs_job _ (by decide), ?_⟩,
    ⟨put (streaming (jobIn none none)) (canonical 0x15000) [3], _, jobIn none none, [3, 0, 0, 0],
      ⟨rfl, ⟨0, 0, rfl, rfl⟩, rfl, rfl⟩, ?_⟩,
    _, _, jobIn none none, levelOf 42 .graph (some 41) (some 0x12020), runs_job _ (by decide), ?_⟩ <;>
  (try unfold State.NoCancel) <;> (try unfold State.sound) <;> decide +kernel

/-- A WAITMEM that waits at 0x14000 for a word, one whose address is not reached, and a timeout now and one tick on. -/
theorem witness_WaitmemReadsAgain :
    (∃ (s : State) (j : Job), s.unfocus.jobAt 0 0 = some j ∧ j.wait = .mem 0 0 0x14000 1 (some 1000) ∧
      s.unfocus.memMeets 0 0 0 0x14000 1 = some true ∧ 1000 ≤ s.unfocus.tick ∧ (s.unfocus.vdev j.vd).paused = false) ∧
    (∃ (s : State) (j : Job), s.unfocus.jobAt 0 0 = some j ∧ j.wait = .mem 0 1 0x14000 1 (some 1001) ∧
      s.unfocus.memMeets 0 0 1 0x14000 1 = some false ∧ s.unfocus.tick < 1001) ∧
    ∃ (s : State) (j : Job), s.unfocus.jobAt 0 0 = some j ∧ j.wait = .mem 0 1 0x40000 1 none ∧
      s.unfocus.memMeets 0 0 1 0x40000 1 = none :=
  let waiting (w : JobWait) : Job := { jobIn none none with wait := w }
  ⟨⟨streaming (waiting (.mem 0 0 0x14000 1 (some 1000))), waiting (.mem 0 0 0x14000 1 (some 1000)), by decide +kernel⟩,
    ⟨streaming (waiting (.mem 0 1 0x14000 1 (some 1001))), waiting (.mem 0 1 0x14000 1 (some 1001)), by decide +kernel⟩,
    streaming (waiting (.mem 0 1 0x40000 1 none)), waiting (.mem 0 1 0x40000 1 none), by decide +kernel⟩

/-! ### Levels, launches, blocks and tasks -/

/-- A kernel descriptor: entry 0x10000, gangs of 16 lanes, one a block, 4 KiB of scratchpad (R26). -/
def kernel : Nat := 0x10000 + 2 ^ 64 + 2 ^ 72 + 4096 * 2 ^ 96

/-- The job with its graph closed and one launch in it, and a descriptor. -/
def launching (d : Nat) : State :=
  put { streaming (jobIn (some 41) none) with
    levels := [levelOf 40 .job none none, levelOf 41 .phase (some 40) none, { levelOf 42 .graph (some 41) none with closed := true },
      levelOf 43 .launch (some 42) none]
    launches := [launchIn 43 1] } (canonical 0x13000) (natBytes 64 d)

/-- A launch whose turn it is, with a descriptor that passes its checks and one that does not; one whose turn it is not. -/
theorem witness_LaunchesIssue :
    (∃ s : State, s.unfocus.issueTurn 43 = none) ∧
    (∃ (s : State) (k : Launch) (m : Level) (j : Job), s.unfocus.issueTurn 43 = some (k, m) ∧
      (s.unfocus.readLaunch m.vd k).toOption = none ∧ s.unfocus.jobAt m.vd m.slot = some j) ∧
    ∃ (s : State) (k : Launch) (m : Level), s.unfocus.issueTurn 43 = some (k, m) ∧
      (s.unfocus.readLaunch m.vd k).toOption.isSome :=
  ⟨⟨streaming (jobIn none none), by decide +kernel⟩,
    ⟨launching 0, launchIn 43 1, levelOf 43 .launch (some 42) none, jobIn (some 41) none, by decide +kernel⟩,
    launching kernel, launchIn 43 1, levelOf 43 .launch (some 42) none, by decide +kernel⟩

/-- The launch once issued, with its blocks unplaced as given. -/
def issued (left : SMap (List Nat)) : Launch :=
  { launchIn 43 1 with issued := true, entry := 0x10000, spad := 4096, unplaced := left }

/-- The world with that launch running and some of it left. -/
def running (left : SMap (List Nat)) : State :=
  { launching kernel with
    blocks := [], launches := [issued left]
    levels := [levelOf 40 .job none none, levelOf 41 .phase (some 40) none, { levelOf 42 .graph (some 41) none with closed := true },
      { levelOf 43 .launch (some 42) none with state := 2 }] }

theorem witness_LevelsEnd :
    (∃ (s : State) (m : Level), s.unfocus.level 43 = some m ∧ s.unfocus.levelReady m = false) ∧
    (∃ (s : State) (m : Level), s.unfocus.level 43 = some m ∧ s.unfocus.levelReady m = true ∧ m.kind ≠ .job ∧ m.canc = 0) ∧
    ∃ (s : State) (m : Level), s.unfocus.level 40 = some m ∧ s.unfocus.levelReady m = true ∧ m.kind = .job :=
  ⟨⟨running [(0, [1])], { levelOf 43 .launch (some 42) none with state := 2 }, by decide +kernel⟩,
    ⟨running [], { levelOf 43 .launch (some 42) none with state := 2 }, by decide +kernel⟩,
    { streaming { jobIn none none with ended := true } with levels := [{ levelOf 40 .job none none with state := 2, closed := true }] },
    { levelOf 40 .job none none with state := 2, closed := true }, by decide +kernel⟩

/-- A gang whose kill interval of 100 µs has passed, and one a tick before it. -/
theorem witness_CancelledUnitsAreKilled :
    (∃ (s : State) (g : Gang), s.unfocus.gangs.find? (fun h => h.id == 1) = some g ∧ g.cancelled = true ∧ g.strands ≠ [] ∧
      g.cancelTick + 1000 * 100 = s.unfocus.tick ∧ smGet 100 (s.unfocus.vdev g.vd).killi 0 = 100) ∧
    ∃ (s : State) (g : Gang), s.unfocus.gangs.find? (fun h => h.id == 1) = some g ∧ g.cancelled = true ∧
      s.unfocus.tick < g.cancelTick + 1000 * 100 :=
  let g (at_ : Nat) : Gang := { gang with cancelled := true, cancelTick := at_, strands := [{ Strand.init with active := 1 }] }
  ⟨⟨{ world with tick := 101000, gangs := [g 1000] }, g 1000, by decide +kernel⟩,
    { world with tick := 101000, gangs := [g 1001] }, g 1001, by decide +kernel⟩

theorem witness_BlocksAreAdmitted :
    (∃ s : State, s.unfocus.admittable 43 0 = none) ∧
    ∃ (s : State) (k : Launch) (i core : Nat) (fs : List Nat), s.unfocus.admittable 43 0 = some (k, 0, i, core, fs) :=
  ⟨⟨running [], by decide +kernel⟩,
    running [(0, [0])], issued [(0, [0])], 0, 0, (((running [(0, [0])]).admittable 43 0).map fun x => x.2.2.2.2).getD [], by
      decide +kernel⟩

/-- A task record of that launch, forked by a block. -/
def task (core block : Nat) : Task := ⟨core, false, 0x10000, [1, 2, 3, 4, 5, 6], 43, block, 0, 16, 0, 1⟩

/-- A record whose block is there, one whose block is gone; one to steal from a core that has no room for it, one that its
owner takes first; a deque that a fork of the cycle has reached; and no record. -/
theorem witness_TasksAreTakenAndStolen :
    (∃ s : State, s.unfocus.takeable 0 = none ∧ s.unfocus.stealable 0 = none) ∧
    (∃ (s : State) (k : Task) (l : Launch) (f : Nat) (b : Block), s.unfocus.takeable 0 = some (k, l, f) ∧
      s.unfocus.later (dequeMark 0) [0] = false ∧ s.unfocus.joinedBlock 0 k = some b) ∧
    (∃ (s : State) (k : Task) (l : Launch) (f : Nat), s.unfocus.takeable 0 = some (k, l, f) ∧
      s.unfocus.later (dequeMark 0) [0] = false ∧ s.unfocus.joinedBlock 0 k = none) ∧
    (∃ s : State, s.unfocus.later (dequeMark 0) [0] = true) ∧
    (∃ s : State, (s.unfocus.stealable 1).isSome ∧ s.unfocus.stealOutOfTurn 1 = true) ∧
    ∃ (s : State) (k : Task) (l : Launch) (f : Nat), s.unfocus.stealable 1 = some (k, l, f) ∧
      s.unfocus.stealOutOfTurn 1 = false :=
  let here : State := { running [] with blocks := [blk], deque := [task 0 1] }
  let gone : State := { running [] with deque := [task 0 9] }
  let full : State := { gone with gangs := (List.range 64).map fun n => { gang with id := n + 200 } }
  ⟨⟨running [], by decide +kernel⟩,
    ⟨here, task 0 1, issued [], ((here.takeable 0).map fun x => x.2.2).getD 0, blk, by decide +kernel⟩,
    ⟨gone, task 0 9, issued [], ((gone.takeable 0).map fun x => x.2.2).getD 0, by decide +kernel⟩,
    ⟨{ here with cycleMarks := [.deque 0 [2, 5, 0]] }, by decide +kernel⟩, ⟨gone, by decide +kernel⟩,
    full, task 0 9, issued [], ((full.stealable 1).map fun x => x.2.2).getD 0, by decide +kernel⟩

/-- A victim of three blocks, whose message has arrived and whose message arrives later, and a grant of two. -/
theorem witness_DistributorsStealBlocks :
    (∃ (s : State) (x : Steal) (k : Launch), s.unfocus.launchOf x.launch = some k ∧ x.grant = none ∧
      s.unfocus.steals.find? (fun y => y.id == 5 && y.grant.isNone) = some x ∧ s.unfocus.stealNext x = true) ∧
    (∃ (s : State) (x : Steal) (k : Launch), s.unfocus.launchOf x.launch = some k ∧ x.grant = none ∧
      s.unfocus.steals.find? (fun y => y.id == 5 && y.grant.isNone) = some x ∧ s.unfocus.stealNext x = false) ∧
    ∃ (s : State) (x : Steal) (k : Launch), s.unfocus.launchOf x.launch = some k ∧ x.grant = some [1, 2] ∧
      s.unfocus.steals.find? (fun y => y.id == 5 && y.grant.isSome) = some x :=
  ⟨⟨{ running [(1, [0, 1, 2])] with steals := [⟨5, 43, 0, 1, [], 999, none⟩] }, ⟨5, 43, 0, 1, [], 999, none⟩,
      issued [(1, [0, 1, 2])], by decide +kernel⟩,
    ⟨{ running [(1, [0, 1, 2])] with steals := [⟨5, 43, 0, 1, [], 1000, none⟩] }, ⟨5, 43, 0, 1, [], 1000, none⟩,
      issued [(1, [0, 1, 2])], by decide +kernel⟩,
    { running [(1, [0])] with steals := [⟨5, 43, 0, 1, [], 0, some [1, 2]⟩] }, ⟨5, 43, 0, 1, [], 0, some [1, 2]⟩, issued [(1, [0])],
    by decide +kernel⟩

/-! ### Strands that wait -/

/-- The world with one strand of its gang as given, and the same with that strand focused. -/
def alone (t : Strand) : State := { world with gangs := [{ gang with strands := [t] }] }
def stood (t : Strand) : State := (alone t).focus 1 0

/-- A tick before the time and the time; a gang of parked strands and one of a strand that does not park; JOIN before
and after its word has changed and 1,024 cycles on; CWAIT that waits. -/
theorem witness_WaitingStrandsWake :
    (∃ s f : State, s.strandAt f 1 0 ∧ f.t.wait = .sleep 1001 ∧ f.tick < 1001) ∧
    (∃ s f : State, s.strandAt f 1 0 ∧ f.t.wait = .sleep 1000 ∧ 1000 ≤ f.tick) ∧
    (∃ (s f : State) (g : Gang) (t : Strand), s.unfocus.gangs.find? (fun h => h.id == 1) = some g ∧
      lowest g.strands = some t ∧ g.deadlocked = true ∧ s.unfocus.strandAt f 1 t.idx) ∧
    (∃ (s : State) (g : Gang), s.unfocus.gangs.find? (fun h => h.id == 1) = some g ∧ g.deadlocked = false) ∧
    (∃ s f : State, s.strandAt f 1 0 ∧ f.t.wait = .join [(⟨true, 4, 0⟩, 0)] 49 ∧ f.joinDue = false) ∧
    (∃ s f : State, s.strandAt f 1 0 ∧ f.t.wait = .join [(⟨true, 4, 0⟩, 1)] 49 ∧
      (∃ x ∈ [((⟨true, 4, 0⟩ : ByteRef), (1 : Byte))], f.byteOf f.g.block x.1 ≠ x.2) ∧ f.instrHere = some (.joinSp p0 0 4)) ∧
    (∃ s f : State, s.strandAt f 1 0 ∧ f.t.wait = .join [] 49 ∧ 49 + 1024 ≤ f.cycle ∧ f.instrHere = some (.join p0 0 4)) ∧
    ∃ s f : State, s.strandAt f 1 0 ∧ f.t.wait = .again 49 ∧ f.instrHere = some (.cwait p0 false 6 4) :=
  let w (i : Instr) (x : Wait) : Strand := { strand i with wait := x }
  ⟨⟨alone (w (.sleep p0 4) (.sleep 1001)), stood (w (.sleep p0 4) (.sleep 1001)), ⟨rfl, by decide +kernel⟩, by decide +kernel⟩,
    ⟨alone (w (.sleep p0 4) (.sleep 1000)), stood (w (.sleep p0 4) (.sleep 1000)), ⟨rfl, by decide +kernel⟩, by decide +kernel⟩,
    ⟨alone (w (.regrp p0) .parked), stood (w (.regrp p0) .parked), { gang with strands := [w (.regrp p0) .parked] },
      w (.regrp p0) .parked, by decide +kernel, by decide +kernel, by decide +kernel, by rfl, by decide +kernel⟩,
    ⟨alone (w (.sleep p0 4) .none), { gang with strands := [w (.sleep p0 4) .none] }, by decide +kernel⟩,
    ⟨alone (w (.joinSp p0 0 4) (.join [(⟨true, 4, 0⟩, 0)] 49)), stood (w (.joinSp p0 0 4) (.join [(⟨true, 4, 0⟩, 0)] 49)),
      ⟨rfl, by decide +kernel⟩, by decide +kernel⟩,
    ⟨alone (w (.joinSp p0 0 4) (.join [(⟨true, 4, 0⟩, 1)] 49)), stood (w (.joinSp p0 0 4) (.join [(⟨true, 4, 0⟩, 1)] 49)),
      ⟨rfl, by decide +kernel⟩, by decide +kernel⟩,
    ⟨late (alone (w (.join p0 0 4) (.join [] 49))), (late (alone (w (.join p0 0 4) (.join [] 49)))).focus 1 0,
      ⟨rfl, by decide +kernel⟩, by decide +kernel⟩,
    alone (w (.cwait p0 false 6 4) (.again 49)), stood (w (.cwait p0 false 6 4) (.again 49)), ⟨rfl, by decide +kernel⟩,
    by decide +kernel⟩

/-- A request for ACC3 that fits. -/
theorem witness_RequestsAreGranted :
    ∃ (s f : State) (g : Gang), s.unfocus.gangs.find? (fun h => h.id == 1) = some g ∧
      s.unfocus.requestsOn g.core = [(1, ⟨4, 0, 9⟩)] ∧ s.unfocus.strandAt f 1 0 ∧ s.unfocus.blockFits g = true :=
  let g : Gang := { gang with xreqs := [⟨4, 0, 9⟩], strands := [{ strand (.xacqAcc p0 3) with wait := .xacq }] }
  ⟨{ world with gangs := [g] }, ({ world with gangs := [g] } : State).focus 1 0, g, by decide +kernel, by decide +kernel,
    ⟨rfl, by decide +kernel⟩, by decide +kernel⟩

/-! ### The copy engine -/

/-- A copy of one byte from 0x10 of the scratchpad to 0x20. -/
def side (base : Nat) (box : List Nat) : Side :=
  ⟨base, 0x64, true, false, 0, 0, false, 0, false, 0, false, false, 0, [4, 0, 0, 0], [1, 0, 0, 0], box, 0, [], 0, 0, 0⟩
def oneByte : CopyCmd :=
  ⟨7, 0, 0, 1, 1, 0x800, [3, 0, 0, 0], 1, 1, .cpy false (side 0x10 [1, 0, 0, 0]) (side 0x20 [0, 0, 0, 0]), 0, 0, [], [], none,
    [], false, false, false, []⟩

/-- The world with one command in the engine's queue. -/
def copied (c : CopyCmd) : State := { world with copies := [c], slots := [slot] }

/-- A command that waits on a page fault, one that a budget defers, and one of each kind; an OLOAD that has come to its end,
with a slot that an earlier operation still reads and with one that none reads. -/
theorem witness_CopyEnginesTakeCommands :
    (∃ (s : State) (c : CopyCmd), s.unfocus.headCopy 0 = some c ∧ c.waiting ≠ none) ∧
    (∃ (s : State) (c : CopyCmd), s.unfocus.headCopy 0 = some c ∧ c.waiting = none ∧ c.pos < c.total ∧
      c.unitStart c.pos = true ∧ c.due ≤ c.arrived ∧ s.unfocus.preempting c.block = false ∧
      s.unfocus.verdict c.vd [⟨dieOf c.core, 3, 1, false⟩] = .defer 100000) ∧
    (∃ (s : State) (c : CopyCmd), s.unfocus.headCopy 0 = some c ∧ c.waiting = none ∧
      c.kind = .cpy false (side 0x10 [1, 0, 0, 0]) (side 0x20 [0, 0, 0, 0])) ∧
    (∃ (s : State) (c : CopyCmd), s.unfocus.headCopy 0 = some c ∧ c.waiting = none ∧ c.kind = .hedit (side 0 []) []) ∧
    (∃ (s : State) (c : CopyCmd) (k : Slot) (m : MOp), s.unfocus.headCopy 0 = some c ∧ c.waiting = none ∧
      c.kind = .oload (side 0 []) 5 0x64 false false 0 ∧ c.total ≤ c.pos ∧ s.unfocus.slotOf c.core 5 = some k ∧
      k.incoming = none ∧ m ∈ s.unfocus.slotOps c.core 5 namesHandle ∧ m.id < c.id) ∧
    ∃ (s : State) (c : CopyCmd) (k : Slot), s.unfocus.headCopy 0 = some c ∧ c.waiting = none ∧
      c.kind = .oload (side 0 []) 5 0x64 false false 0 ∧ c.total ≤ c.pos ∧ s.unfocus.slotOf c.core 5 = some k ∧
      k.incoming = none ∧ ∀ m ∈ s.unfocus.slotOps c.core 5 namesHandle, c.id ≤ m.id :=
  let load : CopyCmd := { oneByte with kind := .oload (side 0 []) 5 0x64 false false 0, pos := 1 }
  ⟨⟨copied { oneByte with waiting := some (3, 0) }, { oneByte with waiting := some (3, 0) }, by decide +kernel⟩,
    ⟨{ copied oneByte with parts := [{ part with budgets := [(3, ⟨0, false, true, []⟩)] }] }, oneByte, by decide +kernel⟩,
    ⟨copied oneByte, oneByte, by decide +kernel⟩,
    ⟨copied { oneByte with kind := .hedit (side 0 []) [] }, { oneByte with kind := .hedit (side 0 []) [] }, by decide +kernel⟩,
    ⟨{ copied load with
        gangs := [{ bound with strands := [{ Strand.init with active := 1 }] }], mops := [queued 6 (.mma p0 0 3 3 false 1 0 false)] },
      load, slot, queued 6 (.mma p0 0 3 3 false 1 0 false), by decide +kernel⟩,
    copied load, load, slot, by decide +kernel⟩

theorem witness_CopiesMoveTheirElement :
    ∃ (s : State) (c : CopyCmd) (src dst : Side), s.unfocus.headCopy 0 = some c ∧ c.kind = .cpy false src dst ∧
      c.waiting = none ∧ c.failed = [] ∧ c.pos = 0 ∧ c.outs = [] ∧ c.remote = [] ∧ c.wrote = [] ∧
      s.unfocus.verdict c.vd [⟨dieOf c.core, 3, 1, false⟩] = .admitted ∧
      s.unfocus.blockOf c.block = some blk ∧ (∀ g ∈ s.unfocus.gangs, g.id = c.gang → g.strands ≠ []) ∧ src.spad = true ∧
      dst.spad = true ∧ src.fmt = dst.fmt ∧ fmtOf src.fmt = some (.fam 8 4 true false) ∧ src.count = 1 ∧
      rmodeOf (BitVec.ofNat 3 dst.rnd) ≠ none ∧ c.origin.length = 4 ∧ src.inBounds c.origin = true ∧
      dst.inBounds [0, 0, 0, 0] = true ∧ src.bitPos c.origin = 8 * 0x13 ∧ dst.base + 1 ≤ c.barrier :=
  ⟨copied oneByte, oneByte, side 0x10 [1, 0, 0, 0], side 0x20 [0, 0, 0, 0], by decide +kernel⟩

/-- Bytes of device 0 and of host memory, an access that leaves host memory, and last, other and unknown reports. -/
theorem witness_OutsideAccessesReachMemory :
    (∃ (s : State) (refs : List ByteRef), s.unfocus.hostRefs 0 ⟨false, 0x4000⟩ 8 = some refs ∧ refs.length = 8 ∧
      (refs = (List.range 8).map fun i => ⟨false, canonOf (0x4000 + i), (smGet noKey s.unfocus.lineKey (canonOf (0x4000 + i) / 128)).key⟩) ∧
      (refs.map fun r => r.addr).Nodup ∧ s.unfocus.sound) ∧
    (∃ (s : State) (refs : List ByteRef), s.unfocus.hostRefs 0 ⟨true, 2 ^ 52 - 8⟩ 8 = some refs) ∧
    (∃ s : State, s.unfocus.hostRefs 0 ⟨true, 2 ^ 52 - 7⟩ 8 = none ∧ ¬ (2 ^ 52 - 7 + 7 < 2 ^ 52)) ∧
    (∃ (s : State) (c : CopyCmd), s.unfocus.copies.find? (fun x => x.id == 7) = some c ∧ ∀ x ∈ c.remote, x.1 ≠ 3) ∧
    (∃ (s : State) (c : CopyCmd), s.unfocus.copies.find? (fun x => x.id == 7) = some c ∧ (∃ x ∈ c.remote, x.1 = 1) ∧
      ({ c with remote := c.remote.filter fun x => x.1 != 1 } : CopyCmd).over = false) ∧
    ∃ (s : State) (c : CopyCmd), s.unfocus.copies.find? (fun x => x.id == 7) = some c ∧ (∃ x ∈ c.remote, x.1 = 1) ∧
      ({ c with remote := c.remote.filter fun x => x.1 != 1 } : CopyCmd).over = true :=
  let sent (l : List (Nat × Nat)) : CopyCmd := { oneByte with pos := 1, remote := l }
  ⟨⟨world, (world.hostRefs 0 ⟨false, 0x4000⟩ 8).getD [], by unfold State.sound; decide +kernel⟩,
    ⟨world, (world.hostRefs 0 ⟨true, 2 ^ 52 - 8⟩ 8).getD [], by decide +kernel⟩, ⟨world, by decide +kernel⟩,
    ⟨copied (sent [(1, 0)]), sent [(1, 0)], by decide +kernel⟩,
    ⟨copied (sent [(1, 0), (2, 0)]), sent [(1, 0), (2, 0)], by decide +kernel⟩,
    copied (sent [(1, 0)]), sent [(1, 0)], by decide +kernel⟩

/-! ### Throttle, units, page faults, TLB invalidation -/

/-- A signal 999 and 1,000 ticks after the last; levels 1, 7 and 8; 9,999 and 10,000 ticks after the last step. -/
theorem witness_ThrottleLevelsStep :
    (∃ s : State, (smGet freshThrottle s.unfocus.throttles 0).lastSignal = some 1 ∧ s.unfocus.tick < 1 + 1000) ∧
    (∃ s : State, (smGet freshThrottle s.unfocus.throttles 0) = ⟨1, some 0, 0⟩ ∧ 0 + 1000 ≤ s.unfocus.tick) ∧
    (∃ s : State, (smGet freshThrottle s.unfocus.throttles 0) = ⟨7, none, 0⟩ ∧ 0 + 10000 ≤ s.unfocus.tick) ∧
    ∃ s : State, (smGet freshThrottle s.unfocus.throttles 0) = ⟨7, none, 1⟩ ∧ s.unfocus.tick < 1 + 10000 :=
  ⟨⟨{ world with throttles := [(0, ⟨4, some 1, 1⟩)] }, by decide +kernel⟩,
    ⟨{ world with throttles := [(0, ⟨1, some 0, 0⟩)] }, by decide +kernel⟩,
    ⟨{ world with tick := 10000, throttles := [(0, ⟨7, none, 0⟩)] }, by decide +kernel⟩,
    { world with tick := 10000, throttles := [(0, ⟨7, none, 1⟩)] }, by decide +kernel⟩

/-- Two operations of devices 0 and 1 in the array of core 0, granted to device 0 up to a tick. -/
def shared (ends : Nat) : State :=
  { world with
    grants := [⟨.matrix, 0, 0, ends⟩], vdevs := world.vdevs ++ [{ VDev.init with id := 1 }]
    mops := [queued 6 (.bteye p0 0 false), { queued 7 (.bteye p0 0 false) with vd := 1 }] }

/-- An array with no work; one that no device holds; one whose slice ends now and one whose slice ends a tick later; a bank
engine with a transfer outstanding. -/
theorem witness_UnitsPassOn :
    (∃ s : State, s.unfocus.workers .matrix 0 = [] ∧ s.unfocus.sliceOver .matrix 0 = false) ∧
    (∃ s : State, s.unfocus.grantedTo .matrix 0 = none ∧ s.unfocus.workers .matrix 0 ≠ []) ∧
    (∃ s : State, s.unfocus.bankHeld .matrix 0 = false ∧ s.unfocus.sliceOver .matrix 0 = true ∧
      s.unfocus.grants.find? (fun g => g.unit == .matrix && g.num == 0) = some ⟨.matrix, 0, 0, 1000⟩ ∧ 1000 ≤ s.unfocus.tick ∧
      ∃ w ∈ s.unfocus.claimants .matrix 0, w ≠ 0) ∧
    (∃ s : State, s.unfocus.bankHeld .matrix 0 = false ∧
      s.unfocus.grants.find? (fun g => g.unit == .matrix && g.num == 0) = some ⟨.matrix, 0, 0, 1001⟩ ∧ s.unfocus.tick < 1001 ∧
      0 ∈ s.unfocus.claimants .matrix 0) ∧
    ∃ s : State, s.unfocus.bankHeld .bank 1 = true ∧ s.unfocus.grantedTo .bank 1 ≠ none :=
  ⟨⟨world, by decide +kernel⟩, ⟨{ shared 0 with grants := [] }, by decide +kernel⟩, ⟨shared 1000, by decide +kernel⟩,
    ⟨shared 1001, by decide +kernel⟩,
    { inBank (bankRun [(0, .load 0x10000 0 64)]) with grants := [⟨.bank, 1, 0, 5⟩] }, by decide +kernel⟩

/-- A record with a strand that stalls on it, an answer that names none, and a timeout now and a tick later. -/
theorem witness_PageFaultsAreAnswered :
    (∃ s : State, ∀ r ∈ s.unfocus.pfrecs, ¬ (r.vd = 0 ∧ r.id = 0xFFFFFFFF)) ∧
    (∃ (s : State) (g : Gang) (x : Strand), (∃ r ∈ s.unfocus.pfrecs, r.vd = 0 ∧ r.id = 3) ∧ s.unfocus.gangs = [g] ∧ g.vd = 0 ∧
      g.strands = [x] ∧ x.wait = .fault 3 1 0x30000 0) ∧
    (∃ (s : State) (r : PfRec), s.unfocus.pfrecs.find? (fun x => x.vd == 0 && x.id == 3) = some r ∧
      r.tick + 1000 * (s.unfocus.vdev 0).pfto = s.unfocus.tick) ∧
    ∃ (s : State) (r : PfRec), s.unfocus.pfrecs.find? (fun x => x.vd == 0 && x.id == 3) = some r ∧
      s.unfocus.tick + 1 = r.tick + 1000 * (s.unfocus.vdev 0).pfto :=
  let x : Strand := { strand (.ld p0 (word 12 0) false) with wait := .fault 3 1 0x30000 0 }
  ⟨⟨world, by decide +kernel⟩,
    ⟨{ alone x with pfrecs := [⟨3, 0, 0x30, 0, 1000⟩] }, { gang with strands := [x] }, x, by decide +kernel⟩,
    ⟨{ world with tick := 10001000, pfrecs := [⟨3, 0, 0x30, 0, 1000⟩] }, ⟨3, 0, 0x30, 0, 1000⟩, by decide +kernel⟩,
    { world with tick := 10000999, pfrecs := [⟨3, 0, 0x30, 0, 1000⟩] }, ⟨3, 0, 0x30, 0, 1000⟩, by decide +kernel⟩

theorem witness_TlbInvalidationsFinish :
    (∃ s : State, (s.unfocus.vdev 0).busy = none) ∧
    (∃ s : State, (s.unfocus.vdev 0).busy = some 9 ∧ s.unfocus.flushed 0 9 = true) ∧
    ∃ s : State, (s.unfocus.vdev 0).busy = some 9 ∧ s.unfocus.flushed 0 9 = false :=
  let busy (s : State) : State := { s with vdevs := [{ VDev.init with busy := some 9 }] }
  ⟨⟨world, by decide +kernel⟩, ⟨busy world, by decide +kernel⟩, busy (outstanding (.load 1 2 [])), by decide +kernel⟩

/-! ### Pre-emption -/

/-- The world with its gang's strands and its block's pre-emption as given. -/
def inBlocks (ts : List Strand) (since : Option Nat) : State :=
  { world with blocks := [{ blk with preemptFrom := since }], gangs := [{ gang with strands := ts }] }

theorem witness_PreemptionIsRequested :
    (∃ s : State, ∀ b, s.unfocus.blockOf 1 = some b → b.saved = true ∨ b.preemptFrom ≠ none) ∧
    ∃ (s : State) (b : Block), s.unfocus.blockOf 1 = some b ∧ b.saved = false ∧ b.preemptFrom = none := by
  refine ⟨⟨inBlocks [] (some 9), fun b h => Or.inr ?_⟩, inBlocks [strand (.yield p0)] none, blk, by decide +kernel⟩
  have : (inBlocks [] (some 9)).unfocus.blockOf 1 = some { blk with preemptFrom := some 9 } := by decide +kernel
  rw [this] at h
  cases h
  simp

/-- 8,191 cycles and 8,192 after the request, with a strand that goes on. -/
theorem witness_BlocksAreSaved :
    (∃ (s : State) (b : Block), s.unfocus.blockOf 1 = some b ∧ b.preemptFrom = some 9 ∧ s.unfocus.runonOver b 9 = false ∧
      s.unfocus.cycle = 9 + 8191) ∧
    ∃ (s : State) (b : Block) (g : Gang), s.unfocus.blockOf 1 = some b ∧ b.preemptFrom = some 9 ∧ s.unfocus.runonOver b 9 = true ∧
      s.unfocus.cycle = 9 + 8192 ∧ s.unfocus.gangs = [g] ∧ g.block = 1 ∧ s.unfocus.issuedLeft g = false ∧
      ∀ x ∈ g.strands, x.clean = false ∧ x.wait = .none ∧ ∀ o, x.wait ≠ .heldBar o :=
  ⟨⟨{ inBlocks [strand (.yield p0)] (some 9) with cycle := 8200 }, { blk with preemptFrom := some 9 }, by decide +kernel⟩,
    { inBlocks [strand (.yield p0)] (some 9) with cycle := 8201 }, { blk with preemptFrom := some 9 },
    { gang with strands := [strand (.yield p0)] }, by decide +kernel, by decide +kernel, by decide +kernel, by decide +kernel,
    by decide +kernel, by decide +kernel, by decide +kernel, by simp [strand, Strand.init]⟩

/-- A saved block and a core of its partition, and one that is not. -/
theorem witness_BlocksResume :
    (∃ (s : State) (b : Block), s.unfocus.blockOf 1 = some b ∧ s.unfocus.resumeAt b 2 = none) ∧
    ∃ (s : State) (b : Block) (fs : List Nat) (g : Gang), s.unfocus.blockOf 1 = some b ∧ s.unfocus.resumeAt b 1 = some fs ∧
      s.unfocus.gangs = [g] ∧ g.block = 1 ∧ b.id = 1 ∧ g.handles = [] ∧ ∀ x ∈ g.strands, x.clause = none :=
  let b : Block := { blk with saved := true }
  let g : Gang := { gang with saved := true, strands := [{ Strand.init with active := 0xFFFF, wait := .stopped }] }
  let s : State := { world with blocks := [b], gangs := [g] }
  ⟨⟨s, b, by decide +kernel⟩, s, b, (s.resumeAt b 1).getD [], g, by decide +kernel⟩

/-! ### The host's side of a device -/

/-- A device that acts through its partition's page, and one that does not. -/
theorem witness_RegisterWritesChangeTheirFields :
    (∃ s : State, s.unfocus.windowActs 0 (0x204 / 4096) = true ∧ 0x204 % 4096 = 0x204) ∧
    ∃ s : State, s.unfocus.windowActs 0 (0x5204 / 4096) = false :=
  ⟨⟨world, by decide +kernel⟩, world, by decide +kernel⟩

/-- Slots 3 and 4 and one that is taken; a device in reset, one paused and one that runs; a page that the device acts through and
one of another partition. -/
theorem witness_HostEventsAct :
    (∃ (s : State) (p : Part), s.unfocus.part 0 = some p ∧ s.unfocus.windowActs 0 0 = true) ∧
    (∃ (s : State) (p : Part), s.unfocus.part 1 = some p ∧ s.unfocus.windowActs 0 1 = false ∧
      p.num ≠ (s.unfocus.vdev 0).part ∧ p.parent ≠ some (s.unfocus.vdev 0).part) ∧
    (∃ s : State, s.unfocus.jobAt 0 3 = none ∧ (s.unfocus.vdev 0).resetting = false ∧ (s.unfocus.vdev 0).paused = false) ∧
    (∃ s : State, s.unfocus.jobAt 0 0 ≠ none) ∧ ∃ s : State, (s.unfocus.vdev 0).paused = true :=
  ⟨⟨world, part, by decide +kernel⟩,
    ⟨{ world with parts := [part, { part with num := 1 }] }, { part with num := 1 }, by decide +kernel⟩,
    ⟨world, by decide +kernel⟩, ⟨streaming (jobIn none none), by decide +kernel⟩,
    { world with vdevs := [{ VDev.init with paused := true }] }, by decide +kernel⟩

/-- A reset that has its device quiet, one that begins, and a page that is marked and one that is not. -/
theorem witness_ResetsClearTheirDevice :
    (∃ s : State, (s.unfocus.vdev 0).resetting = true ∧ s.unfocus.quiet 0 = true) ∧
    (∃ s : State, (s.unfocus.vdev 0).resetting = false ∧ s.unfocus.gangs.Pairwise (fun g h => g.id ≠ h.id) ∧
      s.unfocus.gangs ≠ []) ∧
    (∃ s : State, ∀ p ∈ s.unfocus.pendingClear, p.1 ≠ 5) ∧
    ∃ s : State, s.unfocus.pendingClear.find? (fun p => p.1 == 5) = some (5, [0, 1]) ∧ s.unfocus.poison = [] :=
  ⟨⟨{ world with vdevs := [{ VDev.init with resetting := true }] }, by decide +kernel⟩,
    ⟨outstanding (.load 1 2 []), by decide +kernel⟩, ⟨world, by decide +kernel⟩,
    { world with pendingClear := [(5, [0, 1])] }, by decide +kernel⟩

/-! ### Bring-up, power, partitions, management -/

theorem witness_BringUp :
    (∃ s : State, s.unfocus.powered = true) ∧ (∃ s : State, s.unfocus.fwA.valid = false ∧ s.unfocus.fwB.valid = false) ∧
    ∃ s : State, s.unfocus.powered = false ∧ s.unfocus.fwA.valid = false ∧ s.unfocus.fwB.valid = true :=
  ⟨⟨world, by decide +kernel⟩, ⟨{ State.reset with fwA := ⟨false, 0⟩, fwB := ⟨false, 0⟩ }, by decide +kernel⟩,
    { State.reset with fwA := ⟨false, 0⟩ }, by decide +kernel⟩

/-- Die 0, which a partition lists, to D2; die 3, which none lists, to D3 and out of it. -/
theorem witness_DiesChangePower :
    (∃ s : State, s.unfocus.dieFree 0 = false) ∧ (∃ s : State, s.unfocus.dieFree 3 = true ∧ (s.unfocus.die 3).power = 0) ∧
    ∃ s : State, (s.unfocus.die 3).power = 3 :=
  ⟨⟨world, by decide +kernel⟩, ⟨{ world with parts := [] }, by decide +kernel⟩,
    { world with dies := [(3, ⟨24, 3, 8⟩)] }, by decide +kernel⟩

/-- The tick of a period and the tick before it. -/
theorem witness_PeriodsPass :
    (∃ s : State, s.unfocus.budgetAt < s.unfocus.tick / 100000 * 100000 ∧ s.unfocus.tick = 100000 ∧
      s.unfocus.governorAt < s.unfocus.tick / 10000 * 10000) ∧
    ∃ s : State, s.unfocus.tick / 100000 * 100000 ≤ s.unfocus.budgetAt ∧ s.unfocus.tick = 99999 ∧
      s.unfocus.tick / 10000 * 10000 ≤ s.unfocus.governorAt :=
  ⟨⟨{ world with tick := 100000 }, by decide +kernel⟩, { world with tick := 99999, governorAt := 90000 }, by decide +kernel⟩

/-- A list of 4,095 pages and one of 4,096; links that are up and down. -/
theorem witness_RepairsAreCounted :
    (∃ s : State, 7 ∈ s.unfocus.cxlDown ∧ 7 ∈ s.unfocus.linksDown ∧ 7 ∈ s.unfocus.badList) ∧
    (∃ s : State, 7 ∉ s.unfocus.cxlDown ∧ 7 ∉ s.unfocus.linksDown ∧ (∀ c ∈ s.unfocus.copies, c.performed = false) ∧
      7 ∉ s.unfocus.badList ∧ s.unfocus.badList.length = 4095) ∧
    ∃ s : State, 7 ∉ s.unfocus.badList ∧ s.unfocus.badList.length = 4096 :=
  ⟨⟨{ world with cxlDown := [7], linksDown := [7], badList := [7] }, by decide +kernel⟩,
    ⟨{ world with badList := List.replicate 4095 8 }, by decide +kernel⟩,
    { world with badList := List.replicate 4096 8 }, by decide +kernel⟩

/-- A child of partition 0 that fits, of a manager that may ask for it, and one that does not fit; a top-level partition; a change of
plan that fits and one that does not; a failed core with a spare and past the spares; a budget that its
manager may write and one that it may not. -/
theorem witness_PartitionsArePlanned :
    (∃ (s : State) (res : Resources), s.unfocus.part 1 = none ∧ s.unfocus.planFits 1 (some 0) res = true ∧
      (s.unfocus.vdev 0).mgr = true ∧ (s.unfocus.vdev 0).part = 0) ∧
    (∃ (s : State) (res : Resources), s.unfocus.part 1 = none ∧ s.unfocus.planFits 1 none res = true) ∧
    (∃ (s : State) (res : Resources), s.unfocus.part 1 = none ∧ s.unfocus.planFits 1 (some 0) res = false) ∧
    (∃ (s : State) (res : Resources) (p : Part), s.unfocus.part 0 = some p ∧ s.unfocus.onCores (s.unfocus.devicesOf 0) = [] ∧
      s.unfocus.planFits 0 p.parent res = true ∧ p.parent = none ∧
      s.unfocus.spareFor ([1].filter res.cores.contains) = some [(0, 1)]) ∧
    (∃ (s : State) (p : Part), s.unfocus.part 0 = some p ∧ s.unfocus.onCores (s.unfocus.devicesOf 0) = [] ∧
      s.unfocus.spareFor ([1].filter p.res.cores.contains) = none) ∧
    (∃ (s : State) (res : Resources) (p : Part), s.unfocus.part 0 = some p ∧ s.unfocus.onCores (s.unfocus.devicesOf 0) = [] ∧
      s.unfocus.planFits 0 p.parent res = false) ∧
    (∃ (s : State) (p : Part), s.unfocus.part 0 = some p ∧ s.unfocus.onCores (s.unfocus.devicesOf 0) ≠ []) ∧
    ∃ (s : State) (p : Part), s.unfocus.part 1 = some p ∧ (s.unfocus.vdev 0).mgr = true ∧
      p.parent = some (s.unfocus.vdev 0).part :=
  let empty : State := { world with blocks := [] }
  let child : Part := newPart 1 (some 0) ⟨[1], [], [], [], [], []⟩ 0
  ⟨⟨{ empty with vdevs := [{ VDev.init with mgr := true }] }, ⟨[1], [], [], [], [], []⟩, by decide +kernel⟩,
    ⟨empty, ⟨[2], [], [], [], [], []⟩, by decide +kernel⟩, ⟨empty, ⟨[2], [], [], [], [], []⟩, by decide +kernel⟩,
    ⟨empty, ⟨[0, 1], [], [], [], [], []⟩, part, by decide +kernel⟩,
    ⟨{ empty with coreSpares := [(0, 4)] }, part, by decide +kernel⟩, ⟨empty, ⟨[256], [], [], [], [], []⟩, part, by decide +kernel⟩,
    ⟨{ world with gangs := [gang] }, part, by decide +kernel⟩,
    { world with parts := [part, child], vdevs := [{ VDev.init with mgr := true }] }, child, by decide +kernel⟩

/-- A device with a block on a core and one without; an image that verifies and one that does not; ten seconds after a switch
and a tick before. -/
theorem witness_DevicesMoveAndUpdate :
    (∃ s : State, s.unfocus.onCores [0] = []) ∧ (∃ s : State, s.unfocus.onCores [0] ≠ []) ∧
    (∃ (s : State) (p : Part), s.unfocus.part 0 = some p ∧ s.unfocus.fwActive = 0 ∧ s.unfocus.fwB.valid = true ∧
      p.firmware ≠ 1 ∧ s.unfocus.onCores (s.unfocus.devicesOf 0) = []) ∧
    (∃ (s : State) (p : Part), s.unfocus.part 0 = some p ∧ s.unfocus.fwActive = 0 ∧ s.unfocus.fwB.valid = false) ∧
    (∃ (s : State) (p : Part), s.unfocus.part 0 = some p ∧ p.switchedAt = some 1 ∧ s.unfocus.tick + 1 = 1 + 10 ^ 10 ∧
      s.unfocus.onCores (s.unfocus.devicesOf 0) = []) ∧
    ∃ (s : State) (p : Part), s.unfocus.part 0 = some p ∧ p.switchedAt = some 1 ∧ 1 + 10 ^ 10 = s.unfocus.tick :=
  let empty : State := { world with blocks := [] }
  let switched : Part := { part with firmware := 1, switchedAt := some 1 }
  ⟨⟨empty, by decide +kernel⟩, ⟨world, by decide +kernel⟩, ⟨empty, part, by decide +kernel⟩,
    ⟨{ empty with fwB := ⟨false, 0⟩ }, part, by decide +kernel⟩,
    ⟨{ empty with parts := [switched], tick := 10 ^ 10 }, switched, by decide +kernel⟩,
    { empty with parts := [switched], tick := 10 ^ 10 + 1 }, switched, by decide +kernel⟩

/-! ### Management, memory, decoding and steps -/

/-- Key slots 2,047 and 2,048; fabric windows at both ends of their region, beyond it and numbered 16. -/
theorem witness_ManagementAnswers :
    (∃ n : Nat, n < 2048 ∧ n + 1 = 2048) ∧ (∃ n : Nat, 2048 ≤ n ∧ n = 2048) ∧
    (∃ n base size : Nat, n < 16 ∧ n + 1 = 16 ∧ base = 2 ^ 48 ∧ base + size = 2 ^ 52) ∧
    (∃ n base size : Nat, n < 16 ∧ base + 1 = 2 ^ 48 ∧ base + size ≤ 2 ^ 52) ∧
    (∃ base size : Nat, 2 ^ 48 ≤ base ∧ base + size = 2 ^ 52 + 1) ∧ ∃ i v, i = Instr.getDigests v ∧ v = true :=
  ⟨⟨2047, by decide⟩, ⟨2048, by decide⟩, ⟨15, 2 ^ 48, 2 ^ 52 - 2 ^ 48, by decide⟩, ⟨15, 2 ^ 48 - 1, 1, by decide⟩,
    ⟨2 ^ 48, 2 ^ 52 - 2 ^ 48 + 1, by decide⟩, _, true, rfl, rfl⟩

/-- A poisoned sector beside a clean one, the next byte, and a byte of the next line. -/
theorem witness_MemoryReadsWhatWasWritten :
    ∃ (s : State) (c a d : Nat), s.poison ≠ [] ∧ (∀ x ∈ s.poison, x ≠ c / 32) ∧ a = c + 1 ∧ d / 128 ≠ c / 128 ∧ d = c + 2 :=
  ⟨{ world with poison := [2] }, 126, 127, 128, by decide⟩

/-- A word of a strand with its registers at their bounds, one of a bank program, a command; words that decode and a major that is
unassigned. -/
theorem witness_EncodingsRoundTrip :
    (∃ i : Instr, i.stream = .strand ∧ i.WellFormed) ∧ (∃ i : Instr, i.stream = .bank) ∧
    (∃ i : Instr, i.stream = .job ∧ commandOk i = true) ∧ (∃ w x i, decode w x = .ok i) ∧ (∃ w i, decodeBank w = some i) ∧
    ∃ w, majorClass (fOP w).toNat = none ∧ (fOP w).toNat < 0x70 :=
  ⟨⟨.sadd ⟨true, 0⟩ 63 63 127 true, rfl, by simp only [Instr.WellFormed]; decide +kernel⟩, ⟨.bkend, rfl⟩,
    ⟨.finbyNop 1 0, rfl, by decide +kernel⟩, ⟨0xD8000000, 0, _, rfl⟩, ⟨0x1006, _, rfl⟩, 0x3E000000, by decide +kernel⟩

/-- Memory that holds a table, a code range and a record, in a state whose agenda names a strand. -/
theorem witness_MemoryKeepsItsForm :
    ∃ s : State, Memory.wf s.mem = true ∧ s.mem ≠ [] ∧ ∃ t, step s = .next t :=
  let s : State := { alone (strand (.sadd p0 1 2 3 false)) with agenda := [.strand 1 0] }
  ⟨s, by decide +kernel, by decide +kernel, by
    have h : (match step s with
      | .next _ => true
      | _ => false) = true := by decide +kernel
    revert h
    cases step s <;> simp⟩

/-- A state whose agenda names a strand, and its turn. -/
def named (s : State) : State := { s with agenda := [.strand 1 0] }
theorem takes_named (s : State) : (named s).Takes { named s with agenda := [] } (.strand 1 0) (.strand 1 0) := Or.inl ⟨[], rfl, rfl⟩

/-- A step whose agenda names a strand, at an instruction that has not waited and at one that has, at a word that is none, at a
header, and at a boundary with a cancel owed; one whose agenda is empty and whose cycle has a strand planned. -/
theorem witness_StepRunsTheDecodedInstruction :
    (∃ (s u : State) (d : Due) (c : Clause), s.Takes u (.strand 1 0) d ∧ ((u.focus 1 0).focused = true ∧ (u.focus 1 0).turnOpen = true ∧
      (u.focus 1 0).t.owed = none ∧ (u.focus 1 0).t.cancelOwed = false ∧ (u.focus 1 0).t.clause = some c ∧ c.words ≠ []) ∧
      (u.focus 1 0).flagsAgain = false ∧ (u.focus 1 0).execSlot (u.focus 1 0).t.pc = none ∧
      (u.focus 1 0).inTurn (u.focus 1 0).t.instruction = true ∧
      (decode ((u.focus 1 0).t.wordAt 0) ((u.focus 1 0).t.wordAt 1)).toOption = some (.sadd p0 1 2 3 false)) ∧
    (∃ (s u : State) (d : Due) (c : Clause), s.Takes u (.strand 1 0) d ∧ ((u.focus 1 0).focused = true ∧ (u.focus 1 0).turnOpen = true ∧
      (u.focus 1 0).t.owed = none ∧ (u.focus 1 0).t.cancelOwed = false ∧ (u.focus 1 0).t.clause = some c ∧ c.words ≠ []) ∧
      (u.focus 1 0).t.waited = true) ∧
    (∃ (s u : State) (d : Due) (c : Clause), s.Takes u (.strand 1 0) d ∧ ((u.focus 1 0).focused = true ∧ (u.focus 1 0).turnOpen = true ∧
      (u.focus 1 0).t.owed = none ∧ (u.focus 1 0).t.cancelOwed = false ∧ (u.focus 1 0).t.clause = some c ∧ c.words ≠ []) ∧
      (u.focus 1 0).flagsAgain = false ∧ (u.focus 1 0).execSlot (u.focus 1 0).t.pc = none ∧
      (u.focus 1 0).inTurn (u.focus 1 0).t.instruction = true ∧
      (decode ((u.focus 1 0).t.wordAt 0) ((u.focus 1 0).t.wordAt 1)).toOption = none) ∧
    (∃ (s u : State) (d : Due), s.Takes u (.strand 1 0) d ∧ (u.focus 1 0).focused = true ∧ (u.focus 1 0).turnOpen = true ∧
      (u.focus 1 0).t.owed = none ∧ (u.focus 1 0).cancelHere = false ∧ (u.focus 1 0).t.clause = none ∧
      (u.focus 1 0).boundary ≠ none) ∧
    (∃ (s u : State) (d : Due) (w : Word), s.Takes u (.strand 1 0) d ∧ (u.focus 1 0).focused = true ∧ (u.focus 1 0).turnOpen = true ∧
      (u.focus 1 0).t.owed = none ∧ (u.focus 1 0).t.cancelOwed = false ∧ (u.focus 1 0).t.clause = none ∧ (u.focus 1 0).boundary = none ∧
      ((u.focus 1 0).codeAt (u.focus 1 0).t.pc 1).toOption = some [w]) ∧
    ∃ (s u : State) (x : Turn), s.Takes u x (.strand 1 0) ∧ s.agenda = [] :=
  let good := alone (strand (.sadd p0 1 2 3 false))
  let again := alone { strand (.sleep p0 4) with wait := .again 49 }
  let bad := alone { strand (.sadd p0 1 2 3 false) with clause := some ⟨0x1000, 0x10000000, [0x3E000000]⟩ }
  let head := put (alone { Strand.init with active := 0xFFFF, pc := 0x10000 }) (canonical 0x10000) [0, 0, 0, 0x10]
  let owing := alone { Strand.init with active := 0xFFFF, pc := 0x10000, pending := [⟨.conversionError, 1, 0, 0⟩] }
  ⟨⟨named good, _, _, _, takes_named good, ⟨by decide +kernel, by decide +kernel, by decide +kernel, by decide +kernel, rfl,
        by decide +kernel⟩, by decide +kernel⟩,
    ⟨named again, _, _, _, takes_named again, ⟨by decide +kernel, by decide +kernel, by decide +kernel, by decide +kernel, rfl,
        by decide +kernel⟩, by decide +kernel⟩,
    ⟨named bad, _, _, _, takes_named bad, ⟨by decide +kernel, by decide +kernel, by decide +kernel, by decide +kernel, rfl,
        by decide +kernel⟩, by decide +kernel⟩,
    ⟨named owing, _, _, takes_named owing, by decide +kernel⟩,
    ⟨named head, _, _, 0x10000000, takes_named head, by decide +kernel⟩,
    { good with dueNow := [.strand 1 0] }, { good with dueNow := [] }, .clock, Or.inr ⟨[], rfl, Or.inl rfl, rfl, rfl⟩, rfl⟩

/-- A bank engine's word, a command of a stream, and an event. -/
theorem witness_StepRunsWordsCommandsAndEvents :
    (∃ (s v : State) (b : BankCmd), s.Takes v (.bank 1) (.bank 1) ∧ v.unfocus.runningBank 1 = some b ∧ b.prog[b.pos]? = some 9 ∧
      decodeBank 9 = some .bkend) ∧
    (∃ (s v : State) (j : Job) (ws : List Word), s.Takes v (.job 0 0) (.job 0 0) ∧ v.unfocus.jobAt 0 0 = some j ∧
      v.unfocus.jobOpen j = true ∧ ¬ (j.pc = j.seg ∧ j.pc.toNat % 64 ≠ 0) ∧ (v.unfocus.commandWords j).toOption = some ws ∧
      (decodeFinby ws).toOption.isSome = true) ∧
    ∃ (s : State) (i : Instr) (r : List Turn), s.agenda = .event i :: r ∧ encode i = [] :=
  let banks : State := { world with banks := [{ bankRun [] with pos := 1 }], agenda := [.bank 1] }
  let jobs : State := put { streaming (jobIn none none) with curJob := none, agenda := [.job 0 0] } (canonical 0x11000)
    [0, 1, 0, 0]
  ⟨⟨banks, { banks with agenda := [] }, { bankRun [] with pos := 1 }, Or.inl ⟨[], rfl, rfl⟩, by decide +kernel, by decide +kernel,
      by decide +kernel⟩,
    ⟨jobs, { jobs with agenda := [] }, jobIn none none, [0x100, 0, 0, 0], Or.inl ⟨[], rfl, rfl⟩, by decide +kernel,
      by decide +kernel, by decide +kernel, by decide +kernel, by decide +kernel⟩,
    { world with agenda := [.event .patrolScrub] }, .patrolScrub, [], rfl, rfl⟩

/-- The invariant of `MemoryKeepsItsForm` holds of the machine right after reset. -/
theorem witness_reset_wf : Memory.wf State.reset.mem = true := by decide

/-- Counters of LOOPs that are and are not used up, seven of others; a WAITMEM, COND and WAITCTR that hold and do not; launches
done and not done; a JOIN whose word is zero and a CWAIT whose barrier has left its parity; a record at its time. -/
theorem witness_CommandsAndRechecksComplete :
    (∃ (s u : State) (j : Job), s.RunsJob u j ∧ j.inGraph = true) ∧
    (∃ (s u : State) (j : Job), s.RunsJob u j ∧ j.inGraph = false ∧ j.loops.find? (fun l => l.1 == j.pc) = some (j.pc, 0 + 1)) ∧
    (∃ (s u : State) (j : Job), s.RunsJob u j ∧ j.inGraph = false ∧ j.loops.find? (fun l => l.1 == j.pc) = some (j.pc, 0)) ∧
    (∃ (s u : State) (j : Job), s.RunsJob u j ∧ j.inGraph = false ∧ (∀ l ∈ j.loops, l.1 ≠ j.pc) ∧ j.loops.length = 7) ∧
    (∃ (s u : State) (j : Job), s.RunsJob u j ∧ j.inGraph = false ∧ j.wait = .none ∧
      u.memMeets j.vd 0 0 0x14000 1 = some true ∧ u.memMeets j.vd 0 1 0x14000 1 = some false ∧
      ((u.vaRead j.vd 0x14000 4).toOption.map fun bs => decide (leNat bs % 16 < 3)) = some true ∧ ¬ u.streamQuiet j) ∧
    (∃ (s u : State) (j : Job), s.RunsJob u j ∧ j.inGraph = false ∧
      ((u.vaRead j.vd 0x15000 4).toOption.map fun bs => decide (3 ≤ leNat bs % 16)) = some true ∧ u.streamQuiet j) ∧
    (∃ (s : State) (j : Job), s.unfocus.jobAt 0 0 = some j ∧ j.wait = .mem 0 0 0x14000 1 (some 1000) ∧
      s.unfocus.memMeets 0 0 0 0x14000 1 = some true ∧ 1000 ≤ s.unfocus.tick ∧ (s.unfocus.vdev j.vd).paused = false) ∧
    (∃ s f : State, s.strandAt f 1 0 ∧ f.t.wait = .join [] 49 ∧ 49 + 1024 ≤ f.cycle ∧ f.instrHere = some (.joinSp p0 0 4) ∧
      f.Issues (.joinSp p0 0 4) ∧ f.NothingOut ∧ f.g.dbgc.extractLsb' 0 8 = 0 ∧ f.blockOf f.g.block = some blk ∧
      (f.readS 4).toNat % 2 ^ 20 = 0 ∧ leNat (smRead 0 blk.scratch 0 4) = 0) ∧
    (∃ s f : State, s.strandAt f 1 0 ∧ f.t.wait = .again 49 ∧ f.instrHere = some (.cwait p0 true 6 4) ∧
      f.Issues (.cwait p0 true 6 4) ∧ f.NothingOut ∧ f.g.dbgc.extractLsb' 0 8 = 0 ∧ f.blockOf f.g.block = some blk ∧
      (f.readS 4).toNat % 2 ^ 20 = 0 ∧ bxWord blk 0 2 % 2 ≠ 1) ∧
    ∃ (s : State) (r : PfRec), s.unfocus.pfrecs.find? (fun x => x.vd == 0 && x.id == 3) = some r ∧
      r.tick + 1000 * (s.unfocus.vdev 0).pfto = s.unfocus.tick := by
  let j (l : List (Addr × Nat)) : Job := { jobIn none none with loops := l }
  let w (i : Instr) (x : Wait) : State := late (alone { strand i with wait := x })
  let done : State := { world with jobs := [j []], curJob := some (0, 0) }
  refine ⟨⟨_, _, jobIn (some 41) (some 42), runs_job _ (by decide), rfl⟩,
    ⟨_, _, j [(0x11000, 1)], runs_job _ (by decide), by decide⟩, ⟨_, _, j [(0x11000, 0)], runs_job _ (by decide), by decide⟩,
    ⟨_, _, j ((List.range 7).map fun k => (BitVec.ofNat 64 (16 * k), 1)), runs_job _ (by decide), by decide⟩,
    ⟨_, _, jobIn none none, runs_job _ (by decide), ?_⟩,
    ⟨put done (canonical 0x15000) [3], _, j [], ⟨rfl, ⟨0, 0, rfl, rfl⟩, rfl, rfl⟩, ?_⟩,
    ⟨streaming { jobIn none none with wait := .mem 0 0 0x14000 1 (some 1000) },
      { jobIn none none with wait := .mem 0 0 0x14000 1 (some 1000) }, by decide +kernel⟩,
    ⟨w (.joinSp p0 0 4) (.join [] 49), (w (.joinSp p0 0 4) (.join [] 49)).focus 1 0, ⟨rfl, by decide +kernel⟩, ?_⟩,
    ⟨w (.cwait p0 true 6 4) (.again 49), (w (.cwait p0 true 6 4) (.again 49)).focus 1 0, ⟨rfl, by decide +kernel⟩, ?_⟩,
    { world with tick := 10001000, pfrecs := [⟨3, 0, 0x30, 0, 1000⟩] }, ⟨3, 0, 0x30, 0, 1000⟩, by decide +kernel⟩ <;>
  (try unfold State.streamQuiet) <;> (try unfold State.NothingOut) <;> decide +kernel

end Sys2Proof.Tests
end

section
/-! SUPPORT. JOINAT, REGRP, SLEEP, YIELD, DCWB, DCINV and NOP: what an instruction that goes on leaves when it has changed
its strand alone, and the place of the strand's last issue. -/

namespace Sys2Proof.Machine

/-! ## Branch targets -/

/-- A word offset shifted into place and sign-extended is four times its value (R107). -/
theorem signExtend_shift_two (off : BitVec 18) :
    (off.signExtend 64 <<< 2 : Addr) = BitVec.ofInt 64 (4 * off.toInt) := by
  rw [BitVec.shiftLeft_eq_mul_twoPow, ← BitVec.ofInt_toInt (x := BitVec.signExtend 64 off),
    BitVec.toInt_signExtend_of_le (by decide), show BitVec.twoPow 64 2 = BitVec.ofInt 64 4 by decide, ← BitVec.ofInt_mul,
    Int.mul_comm]

theorem State.branchTarget_eq_targetOf (s : State) (off : BitVec 18) : s.branchTarget off = targetOf s off.toInt := by
  rw [State.branchTarget, targetOf, BitVec.ofInt_add, ← signExtend_shift_two, BitVec.ofInt_natCast, BitVec.ofNat_toNat,
    BitVec.setWidth_eq]

/-! ## The accounting of an issue -/

@[simp] theorem State.countIssue_t_since (s : State) (i : Instr) : (s.countIssue i).t.since = s.t.since := by
  rw [State.countIssue_t_only]

@[simp] theorem State.countIssue_t_waited (s : State) (i : Instr) : (s.countIssue i).t.waited = s.t.waited := by
  simp [Strand.waited]

@[simp] theorem State.countIssue_targetOf (s : State) (i : Instr) (off : Int) :
    targetOf (s.countIssue i) off = targetOf s off := by simp [targetOf]

@[simp] theorem State.countIssue_isWhole (s : State) (i : Instr) : (s.countIssue i).isWhole = s.isWhole := by
  simp [State.isWhole]

@[simp] theorem State.countIssue_trap (s : State) (i : Instr) (c : Cause) : (s.countIssue i).trap c = s.trapOf c := by
  simp [State.trap, State.trapOf, Strand.wordAt, Strand.wordIndex]

theorem State.tickOf_eq_plain (s : State) (n : Nat) : s.tickOf n = s.tick + (s.vdev n).plain.tickOff := rfl

/-- A device's clock is no counter of it, so an issue does not move it (R323, R354). -/
@[simp] theorem State.countIssue_tickOf (s : State) (i : Instr) (n : Nat) : (s.countIssue i).tickOf n = s.tickOf n := by
  simp only [State.tickOf_eq_plain, State.countIssue_vdev_plain, State.countIssue_tick]

/-! ## An effect on the strand alone -/

/-- A change of what `Moved` keeps commutes with a move. -/
theorem Strand.Moved.set_joins {t u : Strand} (h : t.Moved u) (js : List Join) :
    Strand.Moved { t with joins := js } { u with joins := js } := by
  unfold Strand.Moved at h ⊢
  rw [h]

/-- An instruction that goes on, its effect on its strand alone and not on where that stands, leaves the strand as its effect
did and everything else as it was. -/
theorem State.retired_withStrand (s : State) (i : Instr) {b v : Strand} (hpc : v.pc = s.t.pc) (hc : v.clause = s.t.clause)
    (hm : b.Moved v) :
    let t := State.retired { s.countIssue i with t := v } i
    s.Elsewhere t ∧ s.SameBytes t ∧ t.g = s.g ∧ s.WentOn i t ∧ b.Moved t.t :=
  have he := State.retired_elsewhere i ((s.countIssue_elsewhere i).of_focus (u := { s.countIssue i with t := v }) rfl)
  ⟨he, he.sameBytes, s.countIssue_g i, State.retired_wentOn i hpc hc, hm.trans (State.retired_moved _ i)⟩

/-- An instruction that waits at its word leaves what `WaitsAt` says. -/
theorem State.waitsAt_waitsFrom (s : State) (i : Instr) (w : Wait) (fresh : Bool) :
    s.WaitsAt (State.waitsFrom { s.countIssue i with t := { (s.countIssue i).t with wait := w } } fresh) w := by
  have he : s.Elsewhere (State.waitsFrom { s.countIssue i with t := { (s.countIssue i).t with wait := w } } fresh) :=
    (s.countIssue_elsewhere i).of_focus (by cases fresh <;> rfl)
  refine ⟨he, he.sameBytes, ?_⟩
  cases fresh <;>
    exact ⟨s.countIssue_g i, rfl, s.countIssue_t_pc i, s.countIssue_t_clause i, (s.countIssue_moved i).trans rfl⟩

/-! ## The last issue of a strand -/

@[simp] theorem Strand.soil_waited (t : Strand) (i : Instr) : (t.soil i).waited = t.waited := by simp [Strand.waited]

/-- A strand that was not waiting has had its last issue in this cycle, and is eligible since when its effect says (R104,
R304). -/
theorem State.retired_times {u : State} (i : Instr) {cycle since : Nat} (hw : u.t.waited = false) (hc : u.cycle = cycle)
    (hs : u.t.since = since) : (u.retired i).t.prev = some cycle ∧ (u.retired i).t.since = since := by
  subst hc hs
  simp only [State.retired, Strand.finish, Strand.soil_waited, hw]
  rw [Strand.advance_only, Strand.ripen_only, Strand.soil_only]
  exact ⟨rfl, rfl⟩

/-! ## JOINAT and REGRP -/

theorem execJoinat_pushes {s : State} {p : Pre} {off : BitVec 18} (h : s.Issues (.joinat p off))
    (hroom : s.t.joins.length < 16) :
    ∃ t, execJoinat p off s = .next t ∧ s.Elsewhere t ∧ s.SameBytes t ∧ t.g = s.g ∧ s.WentOn (.joinat p off) t ∧
      Strand.Moved { s.t with joins := ⟨targetOf s off.toInt, s.t.active, 0, false⟩ :: s.t.joins } t.t := by
  have hm := (s.countIssue_moved (.joinat p off)).set_joins (⟨targetOf s off.toInt, s.t.active, 0, false⟩ :: s.t.joins)
  refine ⟨_, issue_seq h (if_neg (by simpa using hroom)),
    s.retired_withStrand _ (s.countIssue_t_pc _) (s.countIssue_t_clause _) ?_⟩
  simpa [State.branchTarget_eq_targetOf] using hm

theorem execJoinat_full {s : State} {p : Pre} {off : BitVec 18} (h : s.Issues (.joinat p off))
    (hfull : 16 ≤ s.t.joins.length) : execJoinat p off s = .next (s.trapHere (s.trapOf .illegalState)) :=
  issue_error h ((if_pos (by simpa using hfull)).trans (by simp))

theorem execRegrp_whole {s : State} {p : Pre} (h : s.Issues (.regrp p)) (hwhole : s.isWhole = true) :
    ∃ t, execRegrp p s = .next t ∧ s.Elsewhere t ∧ s.SameBytes t ∧ t.g = s.g ∧ s.WentOn (.regrp p) t ∧
      Strand.Moved { s.t with joins := [] } t.t :=
  have hm := (s.countIssue_moved (.regrp p)).set_joins []
  ⟨_, issue_seq h (if_pos (by simpa using hwhole)),
    s.retired_withStrand _ (s.countIssue_t_pc _) (s.countIssue_t_clause _) hm⟩

theorem joinStackGrowsAndClears : Claims.JoinStackGrowsAndClears :=
  ⟨fun _ _ _ h => ⟨execJoinat_pushes h, execJoinat_full h⟩, fun _ _ h => execRegrp_whole h⟩

/-! ## SLEEP -/

/-- An instruction whose effect is to sleep until a tick goes on when the tick is reached, and else sleeps (R147). -/
theorem issue_sleepTo {i : Instr} {s : State} {tick : Nat} (f : State → Nat) (h : s.Issues i)
    (hf : f (s.countIssue i) = tick) :
    (tick ≤ s.tickOf s.g.vd →
      ∃ t, (issue i s fun u => .ok (u.sleepTo (f u))) = .next t ∧ s.OnlyWentOn i t) ∧
    (s.tickOf s.g.vd < tick →
      ∃ t, (issue i s fun u => .ok (u.sleepTo (f u))) = .next t ∧ s.WaitsAt t (.sleep tick)) := by
  constructor
  · intro hdue
    refine ⟨_, issue_seq h (congrArg _ ?_), s.retired_onlyWentOn i⟩
    rw [hf, State.sleepTo, if_pos (by simpa using hdue)]
  · intro hlater
    refine ⟨_, issue_stay h (congrArg _ ?_), s.waitsAt_waitsFrom i (.sleep tick) _⟩
    rw [hf, State.sleepTo, if_neg (by simpa using hlater)]

theorem sleepWaitsForItsTick : Claims.SleepWaitsForItsTick := by
  rintro i s tick (⟨p, a, rfl, rfl⟩ | ⟨p, a, rfl, rfl⟩) h
  · exact issue_sleepTo (fun u => (u.readPair a.toNat).toNat) h (by simp)
  · exact issue_sleepTo (fun u => u.tickOf u.g.vd + (u.readS a.toNat).toNat) h (by simp)

/-! ## Instructions that only go on -/

/-- An instruction without an effect goes on, this cycle being its strand's last issue, and its strand is eligible since
when it was. -/
theorem issueSeq_id_goesOn {i : Instr} {s : State} (h : s.Issues i) :
    ∃ t, issueSeq i s (fun u => u) = .next t ∧ s.OnlyWentOn i t ∧
      (s.t.waited = false → t.t.prev = some s.cycle ∧ t.t.since = s.t.since) :=
  ⟨_, issueSeq_next _ h, s.retired_onlyWentOn i, fun hw =>
    State.retired_times i ((s.countIssue_t_waited i).trans hw) (s.countIssue_cycle i) (s.countIssue_t_since i)⟩

/-- YIELD goes on, and this cycle is its strand's last issue and the one in which it became eligible (R146, R304). -/
theorem execYield_goesOn {s : State} {p : Pre} (h : s.Issues (.yield p)) :
    ∃ t, execYield p s = .next t ∧ s.OnlyWentOn (.yield p) t ∧
      (s.t.waited = false → t.t.prev = some s.cycle ∧ t.t.since = s.cycle) :=
  ⟨_, issueSeq_next _ h,
    s.retired_withStrand _ (s.countIssue_t_pc _) (s.countIssue_t_clause _) ((s.countIssue_moved _).trans rfl),
    fun hw => State.retired_times _ ((s.countIssue_t_waited _).trans hw) (s.countIssue_cycle _) (s.countIssue_cycle _)⟩

theorem instructionsThatOnlyGoOn : Claims.InstructionsThatOnlyGoOn := by
  intro i s hi h
  have keeps (he : exec i s = issueSeq i s fun s => s) (hy : ∀ p, i ≠ .yield p) :
      ∃ t, exec i s = .next t ∧ s.OnlyWentOn i t ∧
        (s.t.waited = false → t.t.prev = some s.cycle ∧ ((∃ p, i = .yield p) → t.t.since = s.cycle) ∧
          ((∀ p, i ≠ .yield p) → t.t.since = s.t.since)) := by
    obtain ⟨t, ht, hon, htimes⟩ := issueSeq_id_goesOn h
    exact ⟨t, he.trans ht, hon, fun hw =>
      ⟨(htimes hw).1, fun ⟨p, hp⟩ => absurd hp (hy p), fun _ => (htimes hw).2⟩⟩
  obtain ⟨p, rfl | rfl⟩ | ⟨p, d, a, rfl | rfl⟩ := hi
  case inl.inl =>
    obtain ⟨t, ht, hon, htimes⟩ := execYield_goesOn h
    exact ⟨t, ht, hon, fun hw => ⟨(htimes hw).1, fun _ => (htimes hw).2, fun hne => absurd rfl (hne p)⟩⟩
  case inl.inr => exact keeps rfl (by simp)
  case inr.inl => exact keeps rfl (by simp)
  case inr.inr => exact keeps rfl (by simp)

/-- Settles O16: JOINAT and REGRP change the join stack alone, SLEEP goes on or waits by its device's tick, and the others
only go on. -/
theorem joinStackSleepAndGoingOn : Obligations.JoinStackSleepAndGoingOn :=
  ⟨joinStackGrowsAndClears, sleepWaitsForItsTick, instructionsThatOnlyGoOn⟩

end Sys2Proof.Machine
end

section
/-! SUPPORT. VRED, VSCAN, SHFL, SRDV and SSEL: the `.whole` check, the lane values of scans and shuffles, and what a decoded
word says of its fields. -/

namespace Sys2Proof.Machine

/-! ## What decodes -/

/-- A word that decodes reads back as its instruction, which is well-formed and encodes to it (R111). -/
theorem decode_ok_inv {w x : Word} {i : Instr} (h : decode w x = .ok i) :
    decodeFields w x = some i ∧ i.WellFormed ∧ encode i = if isLongMajor (fOP w).toNat then [w, x] else [w] := by
  unfold decode at h
  split at h
  · cases h
  · split at h
    next => cases h
    next j hj =>
      by_cases hok : j.fieldsOk ∧ encode j = if isLongMajor (fOP w).toNat then [w, x] else [w]
      · rw [if_pos hok] at h
        cases h
        exact ⟨hj, hok⟩
      · rw [if_neg hok] at h
        cases h

/-- A word of SSEL's major that decodes is an SSEL with SUB 0 (R110). -/
theorem decode_ssel {w x : Word} {i : Instr} (hop : fOP w = 0x0E) (h : decode w x = .ok i) :
    i = .ssel (preOf w) (fD w) (fA w) (w.extractLsb' 4 4) ∧ w.extractLsb' 0 4 = 0 := by
  obtain ⟨hfields, -, henc⟩ := decode_ok_inv h
  obtain rfl : Instr.ssel (preOf w) (fD w) (fA w) (w.extractLsb' 4 4) = i :=
    Option.some.inj ((Laws.arm_0x0E hop).symm.trans hfields)
  have hw : rg 0x0E (preOf w) (fD w) (fA w) (w.extractLsb' 4 4) = w := by
    rw [hop] at henc
    exact List.head_eq_of_cons_eq henc
  refine ⟨rfl, ?_⟩
  rw [← hw, rg, Laws.lo_slice _ _ _ _ (by decide), Laws.full_slice]
  rfl

/-! ## Operands during the issue -/

@[simp] theorem State.countIssue_activeVals (s : State) (i : Instr) (a : BitVec 7) :
    (s.countIssue i).activeVals a = s.activeVals a := by simp [State.activeVals]

@[simp] theorem State.countIssue_vOperand (s : State) (i : Instr) (b : BitVec 7) (n : Bool) (l : Nat) :
    (s.countIssue i).vOperand b n l = vectorB s b n l := by simp [State.vOperand, vectorB]

@[simp] theorem State.countIssue_scalarGuardHolds (s : State) (i : Instr) (gd : BitVec 4) :
    (s.countIssue i).scalarGuardHolds gd = s.scalarGuardHolds gd := by simp [State.scalarGuardHolds]

/-! ## The `.whole` check -/

theorem State.countIssue_wholeTrap_none {s : State} (i : Instr) {w : Bool} (hw : w = true → s.isWhole = true) :
    (s.countIssue i).wholeTrap w = none := by
  cases w with
  | false => rfl
  | true => simp [State.wholeTrap, hw rfl]

theorem State.countIssue_wholeTrap_split {s : State} (i : Instr) (hs : s.isWhole = false) :
    (s.countIssue i).wholeTrap true = some (s.trapOf .illegalState) := by
  simp [State.wholeTrap, hs]

/-- An instruction with a `.whole` form goes on where the form does not ask for the whole gang or is met by it (R40). -/
theorem vote_next {i : Instr} {s : State} {w : Bool} (f : State → State) (h : s.Issues i)
    (hw : w = true → s.isWhole = true) : vote i w f s = .next ((f (s.countIssue i)).retired i) :=
  issue_seq h (by simp only [State.countIssue_wholeTrap_none i hw])

/-- An instruction whose effect begins with a `.whole` check that fails raises illegal-state (R40). -/
theorem issue_split {i : Instr} {s : State} {body : State → Except Trap (State × Next)} (h : s.Issues i)
    (hs : s.isWhole = false) (hbody : ∀ u tr, u.wholeTrap true = some tr → body u = .error tr) :
    issue i s body = .next (s.trapHere (s.trapOf .illegalState)) :=
  issue_error h (hbody _ _ (State.countIssue_wholeTrap_split i hs))

theorem vote_split {i : Instr} {s : State} (f : State → State) (h : s.Issues i) (hs : s.isWhole = false) :
    vote i true f s = .next (s.trapHere (s.trapOf .illegalState)) :=
  issue_split h hs fun u tr htr => by simp only [htr]

theorem State.packed_split {u : State} {tr : Trap} (p : Pre) (d sc : BitVec 7) (m : Mask) (vals : List (Nat × Word))
    (htr : u.wholeTrap true = some tr) : u.packed p d sc true m vals = .error tr := by
  unfold State.packed; simp only [htr]

theorem State.arrive_split {u : State} {tr : Trap} (name : BitVec 4) (a : BitVec 7) (wait : Bool)
    (k : State × Option Bool → State × Next) (htr : u.wholeTrap true = some tr) :
    u.arrive name a true wait k = .error tr := by
  unfold State.arrive; simp only [htr]

theorem wholeFormsNeedTheWholeGang : Claims.WholeFormsNeedTheWholeGang := by
  intro i s hw h hs
  unfold wholeForm at hw
  split at hw
  next => subst hw; unfold exec execVoteAny; exact vote_split _ h hs
  next => subst hw; unfold exec execVoteAll; exact vote_split _ h hs
  next => subst hw; unfold exec execVoteEq; exact vote_split _ h hs
  next => subst hw; unfold exec execVoteBal; exact vote_split _ h hs
  next => subst hw; unfold exec execShfl; exact issue_split h hs fun u tr htr => by simp only [htr]
  next => subst hw; unfold exec execVred; exact issue_split h hs fun u tr htr => by simp only [htr]
  next => subst hw; unfold exec execVscan; exact issue_split h hs fun u tr htr => by simp only [htr]
  next => subst hw; unfold exec execVcmprs; exact issue_split h hs fun u tr htr => State.packed_split _ _ _ _ _ htr
  next => subst hw; unfold exec execVexpnd; exact issue_split h hs fun u tr htr => State.packed_split _ _ _ _ _ htr
  next => subst hw; unfold exec execVdecode; exact issue_split h hs fun u tr htr => by simp only [htr]
  next => subst hw; unfold exec execBara; exact issue_split h hs fun u tr htr => State.arrive_split _ _ _ _ htr
  next => cases hw

/-! ## Scans -/

theorem lanesBelow_eq_filter (n : Nat) (m : Mask) : lanesBelow n m = (List.range n).filter m.getLsbD := by
  induction n with
  | zero => rfl
  | succ n ih =>
    rw [lanesBelow, ih, List.range_succ, List.filter_append]
    congr 1
    cases h : m.getLsbD n <;> simp [h]

theorem lanesOf_nodup (m : Mask) : (lanesOf m).Nodup := by
  unfold lanesOf
  rw [lanesBelow_eq_filter]
  exact List.nodup_range.filter _

theorem scanFrom_length (f : Word → Word → Word) (acc : Word) (l : List Word) :
    (scanFrom f acc l).length = l.length := by
  induction l generalizing acc with
  | nil => rfl
  | cons x r ih => simp [scanFrom, ih]

theorem scanFrom_getElem? (f : Word → Word → Word) (acc : Word) (l : List Word) {k : Nat} (hk : k < l.length) :
    (scanFrom f acc l)[k]? = some ((l.take (k + 1)).foldl f acc) := by
  induction l generalizing acc k with
  | nil => simp at hk
  | cons x r ih =>
    cases k with
    | zero => simp [scanFrom]
    | succ k => simpa [scanFrom] using ih (f acc x) (k := k) (by simpa using hk)

theorem scanOf_length (op : RedOp) (ex : Bool) (vals : List Word) : (scanOf op ex vals).length = vals.length := by
  cases vals with
  | nil => rfl
  | cons x r => cases ex <;> simp [scanOf, scanFrom_length]

/-- The running combinations from the first value on are the combinations of its beginnings. -/
theorem inclusive_getElem? (op : RedOp) (x : Word) (r : List Word) {k : Nat} (hk : k ≤ r.length) :
    (x :: scanFrom (redRun op) x r)[k]? = some (runOf op ((x :: r).take (k + 1))) := by
  cases k with
  | zero => rfl
  | succ k => simpa [runOf] using scanFrom_getElem? (redRun op) x r (k := k) hk

theorem scanOf_getElem? (op : RedOp) (ex : Bool) (vals : List Word) {k : Nat} (hk : k < vals.length) :
    (scanOf op ex vals)[k]? = some (scanAt op ex vals k) := by
  cases vals with
  | nil => simp at hk
  | cons x r =>
    have hr : k ≤ r.length := Nat.lt_succ_iff.mp hk
    cases ex with
    | false => exact inclusive_getElem? op x r hr
    | true =>
      cases k with
      | zero => rfl
      | succ k =>
        have h := inclusive_getElem? op x r (k := k) (by omega)
        simpa [scanOf, scanAt, List.getElem?_take, show k < r.length by omega] using h

/-- Lanes paired with a scan of as many values are the lanes with what the scan gives each lane's place. -/
theorem zip_scanOf (op : RedOp) (ex : Bool) {ls : List Nat} (hls : ls.Nodup) {vals : List Word}
    (hlen : vals.length = ls.length) :
    ls.zip (scanOf op ex vals) = ls.map fun l => (l, scanAt op ex vals (ls.idxOf l)) := by
  apply List.ext_getElem
  · simp [scanOf_length, hlen]
  · intro k hk _
    have hk' : k < ls.length := by simp at hk; omega
    have hval := scanOf_getElem? op ex vals (k := k) (by omega)
    obtain ⟨_, hval⟩ := List.getElem?_eq_some_iff.mp hval
    simp [hval, hls.idxOf_getElem]

theorem State.writeV_scan (s : State) (p : Pre) (d a : BitVec 7) (op : RedOp) (ex : Bool) :
    s.writeV p d ((lanesOf s.t.active).zip (scanOf op ex (s.activeVals a))) =
      s.mapV p d fun l => scanAt op ex (s.activeVals a) ((lanesOf s.t.active).idxOf l) := by
  rw [zip_scanOf op ex (lanesOf_nodup _) (by simp [State.activeVals])]
  rfl

/-! ## Shuffles -/

theorem shuffleFrom_eq_shflSource (s : State) (b : BitVec 7) (bk : Bool) (kind : ShflKind) (imm : Bool) (c : BitVec 6)
    (l : Nat) : shuffleFrom s b bk kind imm c l = shflSource kind l (if imm then c.toNat else (vectorB s b bk l).toNat) := by
  cases kind <;> rfl

theorem source_active_iff (src : Int) (m : Mask) :
    (0 ≤ src ∧ src < 64 ∧ m.getLsbD src.toNat) ↔ 0 ≤ src ∧ src.toNat ∈ lanesOf m := by
  constructor
  · rintro ⟨h0, h64, hbit⟩
    exact ⟨h0, lanesOf_mem (by omega) hbit⟩
  · rintro ⟨h0, hmem⟩
    obtain ⟨h64, hbit⟩ := mem_lanesOf hmem
    exact ⟨h0, by omega, hbit⟩

/-! ## What each instruction writes -/

section

variable {s : State} {p : Pre} {d a : BitVec 7} {w : Bool}

theorem execVred_writesV {op : RedOp} (h : s.Issues (.vred p d a w false op)) (hw : w = true → s.isWhole = true) :
    ∃ t, execVred p d a w false op s = .next t ∧
      s.WritesV (.vred p d a w false op) t p d fun _ => treeReduce (redRun op) 6 (s.activeVals a) :=
  ⟨_, vote_next _ h hw, by simpa using s.retired_writesV _ p d _⟩

theorem execVred_writesS {op : RedOp} (h : s.Issues (.vred p d a w true op)) (hw : w = true → s.isWhole = true) :
    ∃ t, execVred p d a w true op s = .next t ∧
      s.WritesS (.vred p d a w true op) t p d (treeReduce (redRun op) 6 (s.activeVals a)) :=
  ⟨_, vote_next _ h hw, by simpa using s.retired_writesS _ p d _⟩

theorem execVscan_writesV {ex : Bool} {op : RedOp} (h : s.Issues (.vscan p d a w ex op))
    (hw : w = true → s.isWhole = true) :
    ∃ t, execVscan p d a w ex op s = .next t ∧
      s.WritesV (.vscan p d a w ex op) t p d fun l => scanAt op ex (s.activeVals a) ((lanesOf s.t.active).idxOf l) := by
  refine ⟨_, vote_next _ h hw, ?_⟩
  rw [State.writeV_scan]
  simpa using s.retired_writesV _ p d _

theorem execShfl_writesV {b fr : BitVec 7} {bk fk imm : Bool} {kind : ShflKind} {c : BitVec 6}
    (h : s.Issues (.shfl p d a b bk kind w fk fr imm c)) (hw : w = true → s.isWhole = true) :
    ∃ t, execShfl p d a b bk kind w fk fr imm c s = .next t ∧
      s.WritesV (.shfl p d a b bk kind w fk fr imm c) t p d fun l =>
        let src := shuffleFrom s b bk kind imm c l
        if 0 ≤ src ∧ src.toNat ∈ lanesOf s.t.active then s.readV a.toNat src.toNat
        else if fk then s.readV fr.toNat l else 0 := by
  refine ⟨_, vote_next _ h hw, ?_⟩
  simpa [source_active_iff, shuffleFrom_eq_shflSource] using s.retired_writesV _ p d _

/-! ## SRDV and SSEL -/

theorem execSrdv_writesS {l : BitVec 6} (h : s.Issues (.srdv p d a l)) (hl : l.toNat < s.g.width) :
    ∃ t, execSrdv p d a l s = .next t ∧ s.WritesS (.srdv p d a l) t p d (s.readV a.toNat l.toNat) := by
  refine ⟨_, issue_seq h (if_neg (by simpa using hl)), ?_⟩
  simpa using s.retired_writesS _ p d _

theorem execSrdv_outside {l : BitVec 6} (h : s.Issues (.srdv p d a l)) (hl : s.g.width ≤ l.toNat) :
    execSrdv p d a l s = .next (s.trapHere (s.trapOf .illegalOperand)) :=
  issue_error h ((if_pos (by simpa using hl)).trans (by simp))

theorem execSsel_writesS {gd : BitVec 4} (h : s.Issues (.ssel p d a gd)) (hg : s.scalarGuardHolds gd = true) :
    ∃ t, execSsel p d a gd s = .next t ∧ s.WritesS (.ssel p d a gd) t p d (s.readS a.toNat) := by
  refine ⟨_, issueSeq_next _ h, ?_⟩
  simpa [hg] using s.retired_writesS _ p d _

theorem execSsel_onlyWentOn {gd : BitVec 4} (h : s.Issues (.ssel p d a gd)) (hg : s.scalarGuardHolds gd = false) :
    ∃ t, execSsel p d a gd s = .next t ∧ s.OnlyWentOn (.ssel p d a gd) t := by
  refine ⟨_, issueSeq_next _ h, ?_⟩
  simpa [hg] using s.retired_onlyWentOn _

end

/-! ## The statements -/

theorem crossLaneWrites : Claims.CrossLaneWrites := by
  refine ⟨fun i s w p d v hrow h hw => ?_, fun s p d a w op h hw => execVred_writesS h hw⟩
  unfold crossLaneRow at hrow
  split at hrow
  next => cases hrow; exact execVred_writesV h hw
  next => cases hrow; exact execVscan_writesV h hw
  next => cases hrow; exact execShfl_writesV h hw
  next => cases hrow

theorem srdvAndSselChoose : Claims.SrdvAndSselChoose :=
  ⟨fun _ _ _ _ _ h => ⟨execSrdv_writesS h, execSrdv_outside h⟩,
    fun _ _ _ _ _ h => ⟨execSsel_writesS h, execSsel_onlyWentOn h⟩, fun _ _ _ => decode_ssel⟩

/-- Settles O10: reductions, scans, shuffles, SRDV and SSEL write their row's value and nothing else, and a `.whole` form on
a split gang traps. -/
theorem crossLaneResults : Obligations.CrossLaneResults :=
  ⟨crossLaneWrites, wholeFormsNeedTheWholeGang, srdvAndSselChoose⟩

end Sys2Proof.Machine
end

section
/-! SUPPORT. The code that a device fetches, which the accounting of an issue does not move: translations are read from
memory, from a device's tables and from its partition's shares, and none of them is a counter or a budget. -/

namespace Sys2Proof.Machine

/-! ## Translations by a device's tables -/

theorem State.findRange_plain (s : State) (d : VDev) (va n i : Nat) :
    s.findRange d.plain va n i = s.findRange d va n i := by
  induction n generalizing i with
  | zero => rfl
  | succ n ih => simp only [State.findRange, ih]; rfl

theorem State.walk_plain (s : State) (d : VDev) (va fuel level table : Nat) :
    s.walk d.plain va fuel level table = s.walk d va fuel level table := by
  induction fuel generalizing level table with
  | zero => rfl
  | succ fuel ih => simp only [State.walk, ih]; rfl

/-- A device's counters are no part of its tables (R331, R354). -/
theorem State.look_plain (s : State) (d : VDev) (va : Nat) : s.look d.plain va = s.look d va := by
  simp only [State.look, State.findRange_plain, State.walk_plain]; rfl

/-! ## Shares -/

theorem State.xlateLook_plain (s : State) (d : VDev) (l : Look) (va : Nat) (need : Need) (engine : Bool) :
    s.xlateLook d.plain l va need engine = s.xlateLook d l va need engine := rfl

theorem State.part_plainParts (s : State) (n : Nat) :
    State.part { s with parts := s.parts.map Part.plain } n = (s.part n).map Part.plain := List.find?_map ..

theorem State.inShare_plainParts (s : State) (part dpa : Nat) :
    State.inShare { s with parts := s.parts.map Part.plain } part dpa = s.inShare part dpa := by
  unfold State.inShare
  rw [State.part_plainParts]
  cases s.part part with
  | none => rfl
  | some p => simp only [Option.map_some, List.any_map]; rfl

/-- Budgets are no part of a partition's keys and shares (R347, R350). -/
theorem State.xlateLook_plainParts (s : State) (d : VDev) (l : Look) (va : Nat) (need : Need) (engine : Bool) :
    State.xlateLook { s with parts := s.parts.map Part.plain } d l va need engine = s.xlateLook d l va need engine := by
  simp only [State.xlateLook, State.part_plainParts, State.inShare_plainParts]
  cases s.part d.part <;> rfl

section

variable {s t : State} (h : s.Elsewhere t)
include h

theorem State.Elsewhere.readDpa : t.readDpa = s.readDpa := by rw [h.1]; rfl

theorem State.Elsewhere.findRange (d : VDev) (va n i : Nat) : t.findRange d va n i = s.findRange d va n i := by
  induction n generalizing i with
  | zero => rfl
  | succ n ih => simp only [State.findRange, h.readDpa, ih]

theorem State.Elsewhere.walk (d : VDev) (va fuel level table : Nat) :
    t.walk d va fuel level table = s.walk d va fuel level table := by
  induction fuel generalizing level table with
  | zero => rfl
  | succ fuel ih => simp only [State.walk, h.readDpa, ih]

theorem State.Elsewhere.look (n va : Nat) : t.look (t.vdev n) va = s.look (s.vdev n) va := by
  rw [← State.look_plain, h.2.1, State.look_plain]
  simp only [State.look, h.findRange, h.walk]

/-- A translation at hand gives what it gave: the shares of partitions are no budgets (R347, R350). -/
theorem State.Elsewhere.xlateLook (n : Nat) (l : Look) (va : Nat) (need : Need) (engine : Bool) :
    t.xlateLook (t.vdev n) l va need engine = s.xlateLook (s.vdev n) l va need engine := by
  rw [← State.xlateLook_plain, h.2.1, State.xlateLook_plain, ← t.xlateLook_plainParts, ← s.xlateLook_plainParts, h.2.2,
    h.1]
  rfl

/-! ## Code -/

theorem State.Elsewhere.refsOf (n : Nat) (ls : List (Nat × Look)) (need : Need) (engine : Bool) (vas : List Nat) :
    t.refsOf (t.vdev n) ls need engine vas = s.refsOf (s.vdev n) ls need engine vas := by
  induction vas with
  | nil => rfl
  | cons va r ih => simp only [State.refsOf, State.refAt, h.xlateLook, ih]

theorem State.Elsewhere.lookBy : t.lookBy = s.lookBy := by rw [h.1]; rfl

theorem State.Elsewhere.bytesAt : t.bytesAt = s.bytesAt := by rw [h.1]; rfl

theorem State.Elsewhere.fetchWords (vd : Nat) (a : Addr) (n : Nat) : t.fetchWords vd a n = s.fetchWords vd a n := by
  simp only [State.fetchWords, State.codeRefs, State.looks, h.look, h.lookBy, h.refsOf, h.bytesAt]

end
end Sys2Proof.Machine
end

section
/-! SUPPORT. BRA, BCALL, LOOPB, BRET and BIND: what an instruction that sends its strand to an address leaves, an S pair or
register written first, and the loop that a taken LOOPB leaves in the loop buffers. -/

namespace Sys2Proof.Machine

/-! ## Addresses -/

/-- A word offset of any width, shifted into place and sign-extended, is four times its value (R107). -/
theorem signExtend_shift_two_of_le {n : Nat} (hn : n ≤ 64) (off : BitVec n) :
    (off.signExtend 64 <<< 2 : Addr) = BitVec.ofInt 64 (4 * off.toInt) := by
  rw [BitVec.shiftLeft_eq_mul_twoPow, ← BitVec.ofInt_toInt (x := BitVec.signExtend 64 off),
    BitVec.toInt_signExtend_of_le hn, show BitVec.twoPow 64 2 = BitVec.ofInt 64 4 by decide, ← BitVec.ofInt_mul,
    Int.mul_comm]

theorem State.pc_add_offset (s : State) {n : Nat} (hn : n ≤ 64) (off : BitVec n) :
    s.t.pc + (off.signExtend 64 <<< 2) = targetOf s off.toInt := by
  rw [targetOf, BitVec.ofInt_add, ← signExtend_shift_two_of_le hn, BitVec.ofInt_natCast, BitVec.ofNat_toNat,
    BitVec.setWidth_eq]

@[simp] theorem State.countIssue_nextClause (s : State) (i : Instr) : (s.countIssue i).nextClause = afterClause s := by
  simp only [State.nextClause, State.countIssue_t_clause, State.countIssue_t_pc, afterClause]
  cases s.t.clause <;> rfl

@[simp] theorem State.countIssue_branchTarget (s : State) (i : Instr) (off : BitVec 18) :
    (s.countIssue i).branchTarget off = targetOf s off.toInt := by
  rw [State.branchTarget_eq_targetOf, State.countIssue_targetOf]

/-! ## An instruction that sends its strand to an address -/

/-- The state that an instruction which continues at an address leaves, from the one that its effect leaves. -/
def State.jumped (u : State) (i : Instr) (a : Addr) : State :=
  { u with t := (u.t.soil i).finish (wordsOf i) u.cycle (u.g.dbgc.getLsbD 20) (.jump a) }

theorem issue_jumped {i : Instr} {s u : State} {a : Addr} {body : State → Except Trap (State × Next)} (h : s.Issues i)
    (hb : body (s.countIssue i) = .ok (u, .jump a)) : issue i s body = .next (u.jumped i a) := issue_jump h hb

theorem Strand.moved_jump (t : Strand) (a : Addr) : t.Moved (t.jump a) := by
  unfold Strand.Moved; rw [Strand.jump_only]

theorem Strand.finish_jump_moved (t : Strand) (len cycle : Nat) (step : Bool) (a : Addr) :
    t.Moved (t.finish len cycle step (.jump a)) := by
  refine t.moved_ripen.trans ?_
  unfold Strand.finish
  dsimp only
  generalize t.ripen = v
  refine Strand.Moved.trans (v := { v with
      wait := .none, prev := if t.waited then t.prev else some cycle, since := if t.waited then cycle + 1 else t.since,
      opens := cycle + 1, ignNext := false, uncheckedNext := false, entered := false,
      barPhase := if t.handler then t.barPhase else none }) rfl ?_
  exact (Strand.moved_jump _ a).trans rfl

theorem State.jumped_moved (u : State) (i : Instr) (a : Addr) : u.t.Moved (u.jumped i a).t :=
  (u.t.moved_soil i).trans (Strand.finish_jump_moved _ (wordsOf i) u.cycle (u.g.dbgc.getLsbD 20) a)

theorem State.jumped_wentTo (u : State) (i : Instr) (a : Addr) : State.WentTo a (u.jumped i a) := by
  refine ⟨rfl, ?_, rfl⟩
  simp [State.jumped, Strand.finish]

theorem State.jumped_sregs (u : State) (i : Instr) (a : Addr) : (u.jumped i a).t.sregs = u.t.sregs :=
  Strand.moved_sregs (u.jumped_moved i a)

theorem State.jumped_regs (u : State) (i : Instr) (a : Addr) :
    (u.jumped i a).t.trans.map (fun x => x.reg) = u.t.trans.map fun x => x.reg := by
  have hs : (u.t.soil i).trans = u.t.trans := by rw [Strand.soil_only]
  simp only [State.jumped, Strand.finish, Strand.jump]
  rw [Strand.expire_trans_reg, Strand.ripen_regs, hs]

/-- A register without a transient value reads as the register file holds it when its strand has gone to an address. -/
theorem State.jumped_readS {u : State} (i : Instr) (a : Addr) {r : Nat} (h : transOf u.t (128 + r) = none) :
    (u.jumped i a).readS r = smGet 0 u.t.sregs r := by
  have hnone : transOf (u.jumped i a).t (128 + r) = none := find_reg_of_regs _ _ (u.jumped_regs i a) _ h
  unfold State.readS Strand.readS
  rw [hnone, State.jumped_sregs]

/-- An instruction whose effect is on S registers at most sends its strand to its address and changes nothing else. -/
theorem State.jumped_transfers {s u : State} (i : Instr) (a : Addr) (he : s.Elsewhere u) (hg : u.g = s.g)
    (hm : Strand.Moved { s.t with sregs := u.t.sregs } u.t) : s.Transfers (u.jumped i a) a := by
  have he' : s.Elsewhere (u.jumped i a) := he.of_focus rfl
  exact ⟨he', he'.sameBytes, hg, u.jumped_wentTo i a, hm.sregs_of _ (u.jumped_moved i a)⟩

theorem State.countIssue_jumped (s : State) (i : Instr) (a : Addr) :
    s.Transfers ((s.countIssue i).jumped i a) a ∧ ((s.countIssue i).jumped i a).t.sregs = s.t.sregs :=
  ⟨State.jumped_transfers i a (s.countIssue_elsewhere i) (s.countIssue_g i) (s.countIssue_moved i).with_sregs,
    (State.jumped_sregs _ i a).trans (s.countIssue_t_sregs i)⟩

/-! ## BRA -/

theorem execBra_transfers {s : State} {p : Pre} {gd : BitVec 4} {off : BitVec 18} (h : s.Issues (.bra p gd off)) :
    ∃ t, execBra p gd off s = .next t ∧
      s.Transfers t (if s.scalarGuardHolds gd then targetOf s off.toInt else afterClause s) ∧ t.t.sregs = s.t.sregs := by
  refine ⟨_, issue_jumped h rfl, ?_⟩
  simpa using s.countIssue_jumped _ _

/-! ## A return address written on the way -/

theorem State.writePair_transOf_low (s : State) (d : BitVec 7) (v : Addr) :
    transOf (s.writePair d v).t (128 + d.toNat) = none := by
  have h : transOf (s.t.setS d.toNat (v.extractLsb' 0 32)) (128 + d.toNat) = none := by
    unfold transOf; rw [Strand.setS_trans]; exact transOf_settle_same _ _
  rw [State.writePair_eq]
  unfold transOf
  rw [Strand.setS_trans]
  exact transOf_settle_of_none h

theorem State.writePair_transOf_high (s : State) (d : BitVec 7) (v : Addr) :
    transOf (s.writePair d v).t (128 + (d.toNat + 1)) = none := by
  rw [State.writePair_eq]
  unfold transOf
  rw [Strand.setS_trans]
  exact transOf_settle_same _ _

theorem State.writePair_sregs (s : State) (d : BitVec 7) (v : Addr) : (s.writePair d v).t.sregs =
    smSet 0 (smSet 0 s.t.sregs d.toNat (v.extractLsb' 0 32)) (d.toNat + 1) (v.extractLsb' 32 32) := by
  rw [State.writePair_eq]; simp

theorem State.writePair_moved (s : State) (d : BitVec 7) (v : Addr) :
    Strand.Moved { s.t with sregs := (s.writePair d v).t.sregs } (s.writePair d v).t := by
  rw [State.writePair_sregs, State.writePair_eq]
  have h := Strand.setS_moved (s.t.setS d.toNat (v.extractLsb' 0 32)) (d.toNat + 1) (v.extractLsb' 32 32)
  simpa using (Strand.setS_moved s.t d.toNat (v.extractLsb' 0 32)).reset_sregs h

/-- An instruction that writes an address to an S pair and goes to another. -/
theorem State.writePair_jumped (s : State) (i : Instr) (d : BitVec 7) (v a : Addr) :
    let t := ((s.countIssue i).writePair d v).jumped i a
    s.Transfers t a ∧ t.readPair d.toNat = v ∧
      ∀ r, r ≠ d.toNat → r ≠ d.toNat + 1 → smGet 0 t.t.sregs r = smGet 0 s.t.sregs r := by
  have hregs := (s.countIssue i).writePair_sregs d v
  rw [State.countIssue_t_sregs] at hregs
  refine ⟨State.jumped_transfers i a ((s.countIssue_elsewhere i).of_focus rfl) (s.countIssue_g i)
    ((s.countIssue_moved i).set_sregs ((s.countIssue i).writePair_moved d v)), ?_, fun r h0 h1 => ?_⟩
  · rw [State.readPair, State.jumped_readS i a (State.writePair_transOf_low _ d v),
      State.jumped_readS i a (State.writePair_transOf_high _ d v), hregs, smGet_smSet_same,
      smGet_smSet_other 0 _ _ (Nat.succ_ne_self _), smGet_smSet_same]
    exact append_halves v
  · rw [State.jumped_sregs, hregs, smGet_smSet_other 0 _ _ (Ne.symm h1), smGet_smSet_other 0 _ _ (Ne.symm h0)]

theorem execBcall_taken {s : State} {p : Pre} {gd : BitVec 4} {off : BitVec 18} (h : s.Issues (.bcall p gd off))
    (hg : s.scalarGuardHolds gd = true) :
    ∃ t, execBcall p gd off s = .next t ∧ s.Transfers t (targetOf s off.toInt) ∧ t.readPair 58 = afterClause s ∧
      ∀ r, r ≠ 58 → r ≠ 59 → smGet 0 t.t.sregs r = smGet 0 s.t.sregs r := by
  refine ⟨_, issue_jumped h (if_pos (by simpa using hg)), ?_⟩
  simpa using s.writePair_jumped (.bcall p gd off) 58#7 (afterClause s) (targetOf s off.toInt)

theorem execBcall_untaken {s : State} {p : Pre} {gd : BitVec 4} {off : BitVec 18} (h : s.Issues (.bcall p gd off))
    (hg : s.scalarGuardHolds gd = false) :
    ∃ t, execBcall p gd off s = .next t ∧ s.Transfers t (afterClause s) ∧ t.t.sregs = s.t.sregs := by
  refine ⟨_, issue_jumped h (if_neg (by simpa using hg)), ?_⟩
  simpa using s.countIssue_jumped _ _

/-! ## LOOPB -/

/-- The loop that LOOPB closes is read from where the strand stands, in the code of its gang's device (R142). -/
theorem State.loopSpan_eq {s u : State} (he : s.Elsewhere u) (hg : u.g = s.g) (hpc : u.t.pc = s.t.pc) (target : Addr) :
    u.loopSpan target = s.loopSpan target := by
  simp only [State.loopSpan, hg, hpc, he.fetchWords]

/-- The loop buffers when the strand's pipes come to hold a loop, or as they are (R142, R161). -/
def State.bufsWith (s : State) : Option Span → SMap (Option Span)
  | none => s.loopBufs
  | some sp => s.pipeKeys.foldl (fun m k => smSet none m k (some sp)) s.loopBufs

theorem smGet_foldl_smSet {β : Type} [DecidableEq β] (d v : β) (ks : List Nat) (m : SMap β) (k : Nat) :
    smGet d (ks.foldl (fun m k => smSet d m k v) m) k = if k ∈ ks then v else smGet d m k := by
  induction ks generalizing m with
  | nil => simp
  | cons j r ih =>
    rw [List.foldl_cons, ih]
    by_cases hr : k ∈ r
    · simp [hr]
    · by_cases hj : k = j
      · subst hj; simp
      · simp [hr, hj, smGet_smSet_other d m v (Ne.symm hj)]

theorem State.smGet_bufsWith {s : State} {loop : Option Span} (h : loop ≠ none) (k : Nat) :
    smGet none (s.bufsWith loop) k = if k ∈ s.pipeKeys then loop else smGet none s.loopBufs k := by
  obtain ⟨sp, rfl⟩ := Option.ne_none_iff_exists'.mp h
  exact smGet_foldl_smSet ..

@[simp] theorem State.countIssue_bufsWith (s : State) (i : Instr) (loop : Option Span) :
    (s.countIssue i).bufsWith loop = s.bufsWith loop := by
  cases loop <;> simp [State.bufsWith, State.pipeKeys]

/-- The state that LOOPB's effect leaves: its register written, and the loop that its next pass runs from. -/
def State.looped (s : State) (a : Nat) (v : Word) (loop : Option Span) : State :=
  { s with loopBufs := s.bufsWith loop, t := { s.t.setS a v with pass := loop } }

theorem State.capture_setS (s : State) (a : Nat) (v : Word) (target : Addr) :
    State.capture { s with t := s.t.setS a v } target = s.looped a v (s.loopSpan target) := by
  have hspan : State.loopSpan { s with t := s.t.setS a v } target = s.loopSpan target :=
    State.loopSpan_eq (u := { s with t := s.t.setS a v }) ((State.Elsewhere.refl s).of_focus rfl) rfl (by simp) target
  have hkeys : State.pipeKeys { s with t := s.t.setS a v } = s.pipeKeys := by simp [State.pipeKeys]
  unfold State.capture
  rw [hspan]
  cases h : s.loopSpan target with
  | none => rfl
  | some sp => simp only [hkeys]; rfl

/-- The loop that a strand runs from given back, a strand whose S registers and loop have changed has only moved but for
the registers. -/
theorem Strand.Moved.reset_pass {t u v : Strand} {m : SMap Word} {x : Option Span}
    (hu : Strand.Moved { t with sregs := m } u) (hv : Strand.Moved { u with pass := x } v) :
    Strand.Moved { t with sregs := v.sregs } { v with pass := t.pass } := by
  unfold Strand.Moved at hu hv ⊢
  rw [hv, hu]

theorem Strand.moved_pass {t u : Strand} (h : t.Moved u) : u.pass = t.pass := by
  unfold Strand.Moved at h; rw [h]

/-- What LOOPB leaves of a state when it goes to an address with a loop to run from: its register counted down, the loop
standing in the buffers of its pipes, and no other effect (R141, R142). -/
def State.LoopsTo (s t : State) (a : Nat) (loop : Option Span) (dest : Addr) : Prop :=
  s.Transfers { t with loopBufs := s.loopBufs, t := { t.t with pass := s.t.pass } } dest ∧
    t.t.pass = loop ∧ (loop = none → t.loopBufs = s.loopBufs) ∧
    (loop ≠ none → ∀ k, smGet none t.loopBufs k = if k ∈ s.pipeKeys then loop else smGet none s.loopBufs k) ∧
    t.readS a = s.readS a - 1 ∧ ∀ r, r ≠ a → smGet 0 t.t.sregs r = smGet 0 s.t.sregs r

theorem State.looped_loopsTo (s : State) (i : Instr) (a : Nat) (loop : Option Span) (dest : Addr) :
    s.LoopsTo (((s.countIssue i).looped a (s.readS a - 1) loop).jumped i dest) a loop dest := by
  generalize hv : s.readS a - 1 = v
  have hj := ((s.countIssue i).looped a v loop).jumped_moved i dest
  have hbufs : (((s.countIssue i).looped a v loop).jumped i dest).loopBufs = s.bufsWith loop :=
    s.countIssue_bufsWith i loop
  have hregs : ((s.countIssue i).looped a v loop).t.sregs = smSet 0 s.t.sregs a v := by simp [State.looped]
  have hm : Strand.Moved { s.t with sregs := smSet 0 s.t.sregs a v } ((s.countIssue i).t.setS a v) := by
    simpa using (s.countIssue_moved i).set_sregs (Strand.setS_moved (s.countIssue i).t a v)
  have hnone : transOf ((s.countIssue i).looped a v loop).t (128 + a) = none := by
    show ((s.countIssue i).t.setS a v).trans.find? _ = none
    rw [Strand.setS_trans]
    exact transOf_settle_same _ _
  have he : s.Elsewhere { ((s.countIssue i).looped a v loop).jumped i dest with
      loopBufs := s.loopBufs, t := { (((s.countIssue i).looped a v loop).jumped i dest).t with pass := s.t.pass } } :=
    (s.countIssue_elsewhere i).of_focus (by rw [← s.countIssue_loopBufs i]; rfl)
  refine ⟨⟨he, he.sameBytes, s.countIssue_g i, State.jumped_wentTo _ i dest, ?_⟩, Strand.moved_pass hj, ?_, ?_, ?_, ?_⟩
  · exact Strand.Moved.reset_pass (v := (((s.countIssue i).looped a v loop).jumped i dest).t) hm hj
  · rintro rfl; exact hbufs
  · intro hl k; rw [hbufs, State.smGet_bufsWith hl]
  · rw [State.jumped_readS i dest hnone, hregs, smGet_smSet_same, hv]
  · intro r hr
    rw [State.jumped_sregs, hregs, smGet_smSet_other 0 _ _ (Ne.symm hr)]

theorem execLoopb_done {s : State} {p : Pre} {a : BitVec 7} {i8 : BitVec 8} (h : s.Issues (.loopb p a i8))
    (ha : s.readS a.toNat = 1) :
    ∃ t, execLoopb p a i8 s = .next t ∧ s.LoopsTo t a.toNat none (afterClause s) := by
  refine ⟨_, issue_jumped h (if_pos (by simp [ha])), ?_⟩
  rw [State.countIssue_nextClause, State.countIssue_readS]
  exact s.looped_loopsTo (.loopb p a i8) a.toNat none (afterClause s)

theorem word_sub_one_ne_zero {v : Word} (hv : v ≠ 1) : v - 1 ≠ 0 := fun h0 =>
  hv ((BitVec.sub_eq_iff_eq_add.mp h0).trans (BitVec.zero_add 1))

theorem execLoopb_taken {s : State} {p : Pre} {a : BitVec 7} {i8 : BitVec 8} (h : s.Issues (.loopb p a i8))
    (ha : s.readS a.toNat ≠ 1) :
    ∃ t, execLoopb p a i8 s = .next t ∧
      s.LoopsTo t a.toNat (s.loopSpan (targetOf s i8.toInt)) (targetOf s i8.toInt) := by
  refine ⟨_, issue_jumped h (if_neg (by rw [State.countIssue_readS]; exact word_sub_one_ne_zero ha)), ?_⟩
  rw [State.capture_setS, State.countIssue_readS, State.pc_add_offset _ (by decide), State.countIssue_targetOf,
    State.loopSpan_eq (s.countIssue_elsewhere _) (s.countIssue_g _) (s.countIssue_t_pc _)]
  exact s.looped_loopsTo (.loopb p a i8) a.toNat _ _

theorem execLoopb_loopsTo {s : State} {p : Pre} {a : BitVec 7} {i8 : BitVec 8} (h : s.Issues (.loopb p a i8)) :
    let taken := decide (s.readS a.toNat ≠ 1)
    ∃ t, execLoopb p a i8 s = .next t ∧
      s.LoopsTo t a.toNat (if taken then s.loopSpan (targetOf s i8.toInt) else none)
        (if taken then targetOf s i8.toInt else afterClause s) := by
  intro taken
  by_cases ha : s.readS a.toNat = 1
  · have htaken : taken = false := by simp [taken, ha]
    rw [htaken]
    exact execLoopb_done h ha
  · have htaken : taken = true := by simpa [taken] using ha
    rw [htaken]
    exact execLoopb_taken h ha

/-- A word of LOOPB's major that decodes is a LOOPB with D 0 and a negative offset (R141). -/
theorem decode_loopb {v x : Word} {i : Instr} (hop : fOP v = 0x16) (h : decode v x = .ok i) :
    i = .loopb (preOf v) (fA v) (fFN v) ∧ fD v = 0 ∧ -128 ≤ (fFN v).toInt ∧ (fFN v).toInt ≤ -1 := by
  obtain ⟨hfields, hwf, henc⟩ := decode_ok_inv h
  obtain rfl : Instr.loopb (preOf v) (fA v) (fFN v) = i := Option.some.inj ((Laws.arm_0x16 hop).symm.trans hfields)
  have hv : rrf 0x16 (preOf v) 0 (fA v) (fFN v) = v := by
    rw [hop] at henc
    exact List.head_eq_of_cons_eq henc
  have hneg : (fFN v).msb = true := by
    have hok : (!(preOf v).t && isS (fA v) && (fFN v).msb) = true := hwf
    exact (Bool.and_eq_true_iff.mp hok).2
  refine ⟨rfl, ?_, (fFN v).le_toInt, ?_⟩
  · rw [← hv, Laws.d_rrf]
  · have := BitVec.toInt_neg_of_msb_true hneg
    omega

theorem directTransfers : Claims.DirectTransfers := by
  refine ⟨fun _ _ _ _ h => execBra_transfers h, fun s p gd off h => ?_, fun _ _ _ _ h => execLoopb_loopsTo h,
    fun _ _ _ => decode_loopb⟩
  rcases Bool.eq_false_or_eq_true (s.scalarGuardHolds gd) with hg | hg
  · obtain ⟨t, ht, hdone⟩ := execBcall_taken h hg
    exact ⟨t, ht, fun _ => hdone, fun hn => absurd (hg.symm.trans hn) (by decide)⟩
  · obtain ⟨t, ht, hdone⟩ := execBcall_untaken h hg
    exact ⟨t, ht, fun hn => absurd (hg.symm.trans hn) (by decide), fun _ => hdone⟩

/-! ## BRET and BIND -/

theorem low_two_bits_eq_zero_iff (a : Addr) : a.extractLsb' 0 2 = 0 ↔ a.toNat % 4 = 0 := by
  rw [← BitVec.toNat_inj]
  simp [BitVec.extractLsb'_toNat]

theorem State.indirect_aligned {s : State} {a : BitVec 7} (ha : (s.readPair a.toNat).toNat % 4 = 0) :
    s.indirect a = .ok (s.readPair a.toNat) :=
  if_neg (not_not_intro ((low_two_bits_eq_zero_iff _).mpr ha))

theorem State.indirect_misaligned {s : State} {a : BitVec 7} (ha : (s.readPair a.toNat).toNat % 4 ≠ 0) :
    s.indirect a = .error { s.trap .misaligned with addr := s.readPair a.toNat } :=
  if_pos (mt (low_two_bits_eq_zero_iff _).mp ha)

/-- An instruction that goes to the address in an S pair, a multiple of 4, once its effect is done. -/
theorem issue_indirect {i : Instr} {s : State} {a : BitVec 7} (f : State → State) (h : s.Issues i)
    (ha : (s.readPair a.toNat).toNat % 4 = 0) :
    (issue i s fun u => (u.indirect a).map fun target => (f u, .jump target)) =
      .next ((f (s.countIssue i)).jumped i (s.readPair a.toNat)) := by
  refine issue_jumped h ?_
  rw [State.indirect_aligned (by simpa using ha), State.countIssue_readPair]
  rfl

theorem issue_indirect_misaligned {i : Instr} {s : State} {a : BitVec 7} (f : State → State) (h : s.Issues i)
    (ha : (s.readPair a.toNat).toNat % 4 ≠ 0) :
    (issue i s fun u => (u.indirect a).map fun target => (f u, .jump target)) =
      .next (s.trapHere { s.trapOf .misaligned with addr := s.readPair a.toNat }) := by
  refine issue_error h ?_
  rw [State.indirect_misaligned (by simpa using ha), State.countIssue_readPair, State.countIssue_trap]
  rfl

theorem execBindCall_transfers {s : State} {p : Pre} {d a : BitVec 7} (h : s.Issues (.bindCall p d a))
    (ha : (s.readPair a.toNat).toNat % 4 = 0) :
    ∃ t, execBindCall p d a s = .next t ∧ s.Transfers t (s.readPair a.toNat) ∧ t.readPair d.toNat = afterClause s ∧
      ∀ r, r ≠ d.toNat → r ≠ d.toNat + 1 → smGet 0 t.t.sregs r = smGet 0 s.t.sregs r := by
  refine ⟨_, issue_indirect (fun u => u.writePair d u.nextClause) h ha, ?_⟩
  rw [State.countIssue_nextClause]
  exact s.writePair_jumped _ d _ _

theorem indirectTransfers : Claims.IndirectTransfers := by
  refine ⟨fun i s a hi h => ?_, fun s p d a h => ⟨execBindCall_transfers h,
    issue_indirect_misaligned (fun u => u.writePair d u.nextClause) h⟩⟩
  have he : exec i s = issue i s fun u => (u.indirect a).map fun target => (u, .jump target) := by
    obtain ⟨p, rfl | rfl⟩ := hi <;> rfl
  exact ⟨fun ha => ⟨_, he.trans (issue_indirect id h ha), s.countIssue_jumped i _⟩,
    fun ha => he.trans (issue_indirect_misaligned id h ha)⟩

/-- Settles O14: BRA, BCALL and LOOPB go where their guard or counter says, BRET and BIND to the address in their pair or to
the misaligned trap. -/
theorem branchesGoWhereTheirGuardSays : Obligations.BranchesGoWhereTheirGuardSays :=
  ⟨directTransfers, indirectTransfers⟩

end Sys2Proof.Machine
end

section
/-! SUPPORT. The end of a matrix operation: what a table of results leaves, what becomes of the gang and of the slots that an
operation writes, and how it leaves its queue. -/

namespace Sys2Proof.Machine

/-! ## Several keys written in order -/

section

variable {β : Type} [DecidableEq β] {d v : β} {a : Nat} {l : List (Nat × β)}

theorem smGet_smSetAll_notMem (m : SMap β) (h : ∀ w, (a, w) ∉ l) : smGet d (smSetAll d m l) a = smGet d m a := by
  induction l generalizing m with
  | nil => rfl
  | cons p r ih =>
    have hne : p.1 ≠ a := fun e => h p.2 (by subst e; exact List.mem_cons_self)
    rw [smSetAll, ih _ fun w hw => h w (List.mem_cons_of_mem _ hw), smGet_smSet_other d m p.2 hne]

/-- A key to which one value alone is written reads as that value. -/
theorem smGet_smSetAll_mem (m : SMap β) (hv : (a, v) ∈ l) (h : ∀ w, (a, w) ∈ l → w = v) :
    smGet d (smSetAll d m l) a = v := by
  induction l generalizing m with
  | nil => cases hv
  | cons p r ih =>
    rw [smSetAll]
    by_cases hr : ∃ w, (a, w) ∈ r
    · obtain ⟨w, hw⟩ := hr
      have hwv : w = v := h w (List.mem_cons_of_mem _ hw)
      exact ih _ (hwv ▸ hw) fun w hw => h w (List.mem_cons_of_mem _ hw)
    · have hnot : ∀ w, (a, w) ∉ r := not_exists.mp hr
      have hp : (a, v) = p := by simpa [hnot] using hv
      subst hp
      rw [smGet_smSetAll_notMem _ hnot, smGet_smSet_same]

end

/-! ## The first element of a kind replaced -/

section

variable {β : Type} {p q : β → Bool} {x : β} {l : List β}

theorem find?_replaceFirst_same (hx : p x = true) (hl : (l.find? p).isSome) : (replaceFirst p x l).find? p = some x := by
  induction l with
  | nil => cases hl
  | cons y r ih =>
    by_cases hy : p y = true
    · simp [replaceFirst, hy, hx]
    · simp only [List.find?_cons, hy] at hl
      simp [replaceFirst, hy, ih hl]

theorem find?_replaceFirst_other (hx : q x = false) (hpq : ∀ y, p y = true → q y = false) :
    (replaceFirst p x l).find? q = l.find? q := by
  induction l with
  | nil => rfl
  | cons y r ih =>
    by_cases hy : p y = true
    · simp [replaceFirst, hy, hx, hpq y hy]
    · simp [replaceFirst, hy, List.find?_cons, ih]

end

/-! ## A gang that changes -/

@[simp] theorem State.unfocus_focused (s : State) : s.unfocus.focused = false := by
  unfold State.unfocus
  split
  next => rfl
  next h => exact Bool.eq_false_iff.mpr h

theorem State.gangOf_unfocused {s : State} (hs : s.focused = false) (n : Nat) :
    s.gangOf n = s.gangs.find? fun g => g.id == n := by simp [State.gangOf, hs]

theorem State.gangOf_id {s : State} (hs : s.focused = false) {n : Nat} {g : Gang} (hg : s.gangOf n = some g) : g.id = n := by
  rw [State.gangOf_unfocused hs] at hg
  simpa using List.find?_some hg

/-- One gang has become another, and nothing else has changed. -/
structure State.GangBecomes (u v : State) (n : Nat) (h : Gang) : Prop where
  frame : v = { u with gangs := v.gangs }
  gang : v.gangOf n = some h
  others : ∀ k, k ≠ n → v.gangOf k = u.gangOf k

theorem State.GangBecomes.focused {u v : State} {n : Nat} {h : Gang} (hv : u.GangBecomes v n h) : v.focused = u.focused := by
  rw [hv.frame]

theorem State.GangBecomes.refl {u : State} {n : Nat} {g : Gang} (hg : u.gangOf n = some g) : u.GangBecomes u n g :=
  ⟨rfl, hg, fun _ _ => rfl⟩

theorem State.GangBecomes.trans {u v w : State} {n : Nat} {h k : Gang} (hv : u.GangBecomes v n h)
    (hw : v.GangBecomes w n k) : u.GangBecomes w n k := by
  refine ⟨?_, hw.gang, fun j hj => (hw.others j hj).trans (hv.others j hj)⟩
  have e := hw.frame
  rw [hv.frame] at e
  exact e

theorem find?_map_gang {F : Gang → Gang} (hF : ∀ g, (F g).id = g.id) (gs : List Gang) (n k : Nat) :
    ((gs.map fun g => if g.id == n then F g else g).find? fun g => g.id == k) =
      (gs.find? fun g => g.id == k).map fun g => if k = n then F g else g := by
  have hid : ∀ g : Gang, (if g.id == n then F g else g).id = g.id := fun g => by split <;> simp [hF]
  simp only [List.find?_map, Function.comp_def, hid]
  cases hg : gs.find? fun g => g.id == k with
  | none => rfl
  | some g =>
    have : g.id = k := by simpa using List.find?_some hg
    simp [this]

/-- A change of a gang that keeps its number is what becomes of it. -/
theorem State.modGang_becomes {u : State} (hu : u.focused = false) {n : Nat} {g : Gang} (hg : u.gangOf n = some g)
    {F : Gang → Gang} (hF : ∀ g, (F g).id = g.id) : u.GangBecomes (u.modGang n F) n (F g) := by
  have e : u.modGang n F = { u with gangs := u.gangs.map fun g => if g.id == n then F g else g } := by
    simp [State.modGang, hu]
  have hv : (u.modGang n F).focused = false := by rw [e]; exact hu
  have hgang : ∀ k, (u.modGang n F).gangOf k = (u.gangOf k).map fun g => if k = n then F g else g := by
    intro k
    rw [State.gangOf_unfocused hv, State.gangOf_unfocused hu, e]
    exact find?_map_gang hF u.gangs n k
  refine ⟨by rw [e], ?_, fun k hk => ?_⟩
  · rw [hgang, hg]; simp
  · rw [hgang]; simp [hk]

/-- The strand that issued an operation depends on the strands of the gang alone. -/
theorem State.issuerOf_congr {u v : State} {n : Nat} {g h : Gang} (hu : u.gangOf n = some g) (hv : v.gangOf n = some h)
    (hs : h.strands = g.strands) (idx op : Nat) : v.issuerOf n idx op = u.issuerOf n idx op := by
  unfold State.issuerOf
  rw [hu, hv]
  simp only [hs]

theorem State.modIssuer_becomes {u : State} (hu : u.focused = false) {n : Nat} {g : Gang} (hg : u.gangOf n = some g)
    (idx op : Nat) (f : Strand → Strand) :
    u.GangBecomes (u.modIssuer n idx op f) n
      { g with strands := g.strands.map fun t => if u.issuerOf n idx op = some t.idx then f t else t } := by
  cases hi : u.issuerOf n idx op with
  | none =>
    have e : u.modIssuer n idx op f = u := by simp [State.modIssuer, hi]
    rw [e]
    simpa using State.GangBecomes.refl hg
  | some k =>
    have e : u.modIssuer n idx op f =
        u.modGang n fun g => { g with strands := g.strands.map fun t => if some k = some t.idx then f t else t } := by
      simp [State.modIssuer, hi, State.modStrand, hu, eq_comm (a := k)]
    rw [e]
    exact State.modGang_becomes hu hg fun _ => rfl

/-! ## Slots -/

/-- A handle's slot has become another, and every other slot reads as before. -/
def State.SlotBecomes (u v : State) (g : Gang) (k : Nat) (y : Slot) : Prop :=
  v.slotAt g k = some y ∧ ∀ c n, c ≠ g.core ∨ g.boundTo k ≠ some n → v.slotOf c n = u.slotOf c n

theorem State.SlotBecomes.trans {u v w : State} {g : Gang} {k : Nat} {y z : Slot} (hv : u.SlotBecomes v g k y)
    (hw : v.SlotBecomes w g k z) : u.SlotBecomes w g k z :=
  ⟨hw.1, fun c n h => (hw.2 c n h).trans (hv.2 c n h)⟩

theorem State.modSlot_only (s : State) (g : Gang) (k : Nat) (f : Slot → Slot) :
    s.modSlot g k f = { s with slots := (s.modSlot g k f).slots } := by
  unfold State.modSlot
  split <;> rfl

/-- A change of a slot that keeps its core and number is what becomes of it. -/
theorem State.modSlot_becomes {s : State} {g : Gang} {k : Nat} {x : Slot} (hx : s.slotAt g k = some x) {f : Slot → Slot}
    (hcore : (f x).core = x.core) (hnum : (f x).num = x.num) : s.SlotBecomes (s.modSlot g k f) g k (f x) := by
  have e : s.modSlot g k f = s.putSlot (f x) := by simp [State.modSlot, hx]
  unfold State.slotAt at hx
  obtain ⟨n, hn, hfind⟩ := Option.bind_eq_some_iff.mp hx
  have hkey : x.core = g.core ∧ x.num = n := by simpa [State.slotOf] using List.find?_some hfind
  rw [hkey.1] at hcore
  rw [hkey.2] at hnum
  rw [e]
  refine ⟨?_, fun c n' hne => ?_⟩
  · unfold State.slotAt State.slotOf State.putSlot
    rw [hn]
    simp only [Option.bind_some, hcore, hnum]
    exact find?_replaceFirst_same (by simp [hcore, hnum]) (by rw [State.slotOf] at hfind; rw [hfind]; rfl)
  · have hother : ¬ (g.core = c ∧ n = n') := by
      rintro ⟨rfl, rfl⟩
      simp [hn] at hne
    unfold State.slotOf State.putSlot
    simp only [hcore, hnum]
    refine find?_replaceFirst_other (by simpa [hcore, hnum] using hother) fun y hy => ?_
    obtain ⟨hc, hm⟩ : y.core = g.core ∧ y.num = n := by simpa using hy
    simpa [hc, hm] using hother

/-! ## An operation leaves its queue -/

/-- Whether an instruction is OFILL, the only one whose end changes what a slot is planned to hold (R229). -/
def fillsSlot : Instr → Bool
  | .ofill .. => true
  | _ => false

theorem State.replan_of_not_fill {s : State} {m : MOp} (g : Gang) (h : fillsSlot m.instr = false) : s.replan m g = s := by
  unfold State.replan
  split
  next hi => rw [hi] at h; cases h
  next => rfl

theorem State.replan_only (s : State) (m : MOp) (g : Gang) : s.replan m g = { s with slots := (s.replan m g).slots } := by
  unfold State.replan
  split
  · split
    · rfl
    · rw [State.modSlot_only]
  · rfl

theorem State.closeMop_only (v : State) (m : MOp) (g : Gang) : v.closeMop m g = { v with
    vdevs := (v.closeMop m g).vdevs, parts := (v.closeMop m g).parts, governorUsed := (v.closeMop m g).governorUsed
    mops := v.mops.filter (fun x => x.id != m.id), slots := (v.closeMop m g).slots } := by
  unfold State.closeMop
  dsimp only
  have hcount := v.count_only m.vd 3 (m.occupancy g)
  generalize v.count m.vd 3 (m.occupancy g) = a at *
  have hcharge := a.charge_only m.vd (dieOf m.core) 1 (m.occupancy g)
  generalize a.charge m.vd (dieOf m.core) 1 (m.occupancy g) = b at *
  have hreplan := State.replan_only { b with mops := b.mops.filter fun x => x.id != m.id } m g
  generalize State.replan { b with mops := b.mops.filter fun x => x.id != m.id } m g = c at *
  rw [hreplan, hcharge, hcount]

theorem State.closeMop_slots {v : State} {m : MOp} (g : Gang) (h : fillsSlot m.instr = false) :
    (v.closeMop m g).slots = v.slots := by
  unfold State.closeMop
  dsimp only
  rw [State.replan_of_not_fill g h]
  simp

/-- What an operation counts as it leaves its queue is no more than counters and budgets (R350, R354). -/
theorem State.closeMop_plain (v : State) (m : MOp) (g : Gang) :
    (∀ n, ((v.closeMop m g).vdev n).plain = (v.vdev n).plain) ∧
      (v.closeMop m g).parts.map Part.plain = v.parts.map Part.plain := by
  obtain ⟨-, hdev, hpart⟩ :=
    (v.count_elsewhere m.vd 3 (m.occupancy g)).trans (State.charge_elsewhere _ m.vd (dieOf m.core) 1 (m.occupancy g))
  unfold State.closeMop
  dsimp only
  rw [State.replan_only]
  exact ⟨hdev, hpart⟩

/-- An operation whose effect is on one gang, and perhaps on slots and the count of free values, ends as `MopEnds` says. -/
theorem State.closeMop_ends {u v : State} {m : MOp} {h : Gang} {sl : List Slot} {c : Nat} (g : Gang)
    (hv : State.GangBecomes { u with slots := sl, freeCount := c } v m.gang h) :
    u.MopEnds { v.closeMop m g with slots := u.slots, freeCount := u.freeCount } m h := by
  have e := v.closeMop_only m g
  obtain ⟨hdev, hpart⟩ := v.closeMop_plain m g
  generalize v.closeMop m g = t at *
  have hgang : ∀ n, t.gangOf n = v.gangOf n := by rw [e]; exact fun _ => rfl
  have hf := hv.frame
  refine ⟨?_, (hgang _).trans hv.gang, fun n hn => (hgang n).trans (hv.others n hn), ?_, fun n => ?_, ?_⟩
  · rw [e, hf]
  · rw [e, hf]
  · refine (hdev n).trans ?_
    rw [hf]; rfl
  · refine hpart.trans ?_
    rw [hf]

/-- A gang that has a strand left is not reaped. -/
theorem State.reap_of_strands {s : State} (hs : s.focused = false) {n : Nat} {h : Gang} (hg : s.gangOf n = some h)
    (hne : h.strands ≠ []) : s.reap n = s := by
  rw [State.gangOf_unfocused hs] at hg
  unfold State.reap
  rw [hg]
  exact if_pos hne

/-- A result that no OFILL has is that of another instruction. -/
theorem fillsSlot_eq_false {α : Type} {P : Instr → Option α}
    (hP : ∀ p k a fmt fs row woff nreg sc w, P (.ofill p k a fmt fs row woff nreg sc w) = none) {i : Instr} {r : α}
    (h : P i = some r) : fillsSlot i = false := by
  unfold fillsSlot
  split
  next => rw [hP] at h; cases h
  next => rfl

theorem State.MopReady.gang {u : State} {m : MOp} {g : Gang} (h : u.MopReady m g) : u.gangOf m.gang = some g := h.2.2.1

theorem State.MopReady.strands {u : State} {m : MOp} {g : Gang} (h : u.MopReady m g) : g.strands ≠ [] := h.2.2.2

/-- A matrix operation that may end is performed and leaves its queue (R229). -/
theorem exec_matrixOpComplete {s : State} {m : MOp} {g h : Gang} {sl : List Slot} {c : Nat}
    (hr : s.unfocus.MopReady m g)
    (hv : State.GangBecomes { s.unfocus with slots := sl, freeCount := c } (s.unfocus.performMop m g) m.gang h)
    (hne : h.strands ≠ []) :
    exec (.matrixOpComplete m.id) s = .next ((s.unfocus.performMop m g).closeMop m g) := by
  obtain ⟨hfind, hready, hgang, -⟩ := hr
  have hfoc : ((s.unfocus.performMop m g).closeMop m g).focused = false := by
    rw [State.closeMop_only]
    exact hv.focused.trans s.unfocus_focused
  have hend : ((s.unfocus.performMop m g).closeMop m g).gangOf m.gang = some h := by
    rw [State.closeMop_only]
    exact hv.gang
  show Host.Outcome.next _ = _
  simp only [hfind, hready, hgang, if_true]
  exact congrArg _ (State.reap_of_strands hfoc hend hne)

/-- An operation that is no fill and whose effect is on its gang, and perhaps on the count of free values. -/
theorem matrixOpComplete_ends {s : State} {m : MOp} {g h : Gang} {c : Nat} (hr : s.unfocus.MopReady m g)
    (hfill : fillsSlot m.instr = false)
    (hv : State.GangBecomes { s.unfocus with freeCount := c } (s.unfocus.performMop m g) m.gang h)
    (hne : h.strands ≠ []) :
    ∃ t, exec (.matrixOpComplete m.id) s = .next t ∧ t.freeCount = c ∧
      s.unfocus.MopEnds { t with freeCount := s.unfocus.freeCount } m h := by
  have hv' : State.GangBecomes { s.unfocus with slots := s.unfocus.slots, freeCount := c }
      (s.unfocus.performMop m g) m.gang h := hv
  have hslots : ((s.unfocus.performMop m g).closeMop m g).slots = s.unfocus.slots := by
    rw [State.closeMop_slots g hfill, hv.frame]
  refine ⟨_, exec_matrixOpComplete hr hv' hne, ?_, ?_⟩
  · rw [State.closeMop_only, hv.frame]
  · have hends := State.closeMop_ends g hv'
    rw [← hslots] at hends
    exact hends

/-- An operation that is no fill and whose whole effect is on its gang. -/
theorem matrixOpComplete_ends_gang {s : State} {m : MOp} {g h : Gang} (hr : s.unfocus.MopReady m g)
    (hfill : fillsSlot m.instr = false) (hv : s.unfocus.GangBecomes (s.unfocus.performMop m g) m.gang h)
    (hne : h.strands ≠ []) :
    ∃ t, exec (.matrixOpComplete m.id) s = .next t ∧ s.unfocus.MopEnds t m h := by
  obtain ⟨t, ht, hc, hends⟩ := matrixOpComplete_ends (c := s.unfocus.freeCount) hr hfill hv hne
  rw [← hc] at hends
  exact ⟨t, ht, hends⟩

end Sys2Proof.Machine
end

section
/-! SUPPORT. What the V results and the accumulator results of a matrix operation leave in its gang. -/

namespace Sys2Proof.Machine

/-! ## V registers -/

/-- The words of `k` registers from `d` on in some lanes. -/
def vCells (d k : Nat) (ls : List Nat) (f : Nat → Nat → Word) : List (Nat × Nat × Word) :=
  (List.range k).flatMap fun j => ls.map fun l => (d + j, l, f j l)

theorem mem_vCells {d k : Nat} {ls : List Nat} {f : Nat → Nat → Word} {r l : Nat} {v : Word} :
    (r, l, v) ∈ vCells d k ls f ↔ ∃ j, j < k ∧ l ∈ ls ∧ r = d + j ∧ v = f j l := by
  simp only [vCells, List.mem_flatMap, List.mem_range, List.mem_map, Prod.mk.injEq]
  constructor
  · rintro ⟨j, hj, l', hl, rfl, rfl, rfl⟩
    exact ⟨j, hj, hl, rfl, rfl⟩
  · rintro ⟨j, hj, hl, rfl, rfl⟩
    exact ⟨j, hj, l, hl, rfl, rfl, rfl⟩

theorem Gang.putV_eq (g : Gang) (vs : List (Nat × Nat × Word)) :
    g.putV vs = { g with vregs := smSetAll 0 g.vregs (vs.map fun x => (64 * x.1 + x.2.1, x.2.2)) } := by
  induction vs generalizing g with
  | nil => rfl
  | cons x r ih =>
    rw [Gang.putV, List.foldl_cons]
    exact ih _

/-- Registers of some lanes written, each reads as its word and every other register of a lane as before. -/
theorem Gang.readV_putV_vCells (g : Gang) (d k : Nat) (f : Nat → Nat → Word) {ls : List Nat} (hls : ∀ l ∈ ls, l < 64) :
    (∀ j l, j < k → l ∈ ls → (g.putV (vCells d k ls f)).readV (d + j) l = f j l) ∧
      ∀ r l, l < 64 → r < d ∨ d + k ≤ r ∨ l ∉ ls → (g.putV (vCells d k ls f)).readV r l = g.readV r l := by
  have hkey : ∀ r l, l < 64 → ∀ v, (64 * r + l, v) ∈ (vCells d k ls f).map (fun x => (64 * x.1 + x.2.1, x.2.2)) →
      (r, l, v) ∈ vCells d k ls f := by
    intro r l hl v hv
    obtain ⟨⟨r', l', v'⟩, hx, he⟩ := List.mem_map.mp hv
    obtain ⟨j, -, hl', -, -⟩ := mem_vCells.mp hx
    have hlt := hls l' hl'
    obtain ⟨hrl, rfl⟩ : 64 * r' + l' = 64 * r + l ∧ v' = v := by simpa using he
    obtain ⟨rfl, rfl⟩ : r' = r ∧ l' = l := by omega
    exact hx
  rw [Gang.putV_eq]
  refine ⟨fun j l hj hl => smGet_smSetAll_mem _ ?_ fun w hw => ?_, fun r l hl hne => smGet_smSetAll_notMem _ fun w hw => ?_⟩
  · exact List.mem_map.mpr ⟨(d + j, l, f j l), mem_vCells.mpr ⟨j, hj, hl, rfl, rfl⟩, rfl⟩
  · obtain ⟨j', -, -, hj', rfl⟩ := mem_vCells.mp (hkey _ _ (hls l hl) w hw)
    rw [Nat.add_left_cancel hj']
  · obtain ⟨j, hj, hl', hr, -⟩ := mem_vCells.mp (hkey r l hl w hw)
    rcases hne with hne | hne | hne
    · omega
    · omega
    · exact hne hl'

/-- The gang that a gang becomes when results land in its registers: the registers written, and no strand's transient value
left of one (R102, R105). -/
def Gang.lands (g : Gang) (vs : List (Nat × Nat × Word)) : Gang :=
  { g.putV vs with strands := g.strands.map fun t => t.land (vs.map fun v => (v.1, v.2.1)) }

theorem Strand.land_only (t : Strand) (cells : List (Nat × Nat)) : { t.land cells with trans := [] } = { t with trans := [] } := by
  unfold Strand.land
  split <;> rfl

theorem Gang.lands_strands (g : Gang) (vs : List (Nat × Nat × Word)) :
    (g.lands vs).strands.map (fun t => { t with trans := [] }) = g.strands.map fun t => { t with trans := [] } := by
  simp [Gang.lands, Strand.land_only]

theorem State.putLanes_becomes {u : State} (hu : u.focused = false) {n : Nat} {g : Gang} (hg : u.gangOf n = some g)
    (vs : List (Nat × Nat × Word)) : u.GangBecomes (u.putLanes n vs) n (g.lands vs) := by
  have hput := State.modGang_becomes hu hg (F := fun g => g.putV vs) fun g => by rw [Gang.putV_eq]
  have hland := State.modGang_becomes (hput.focused.trans hu) hput.gang
    (F := fun g => { g with strands := g.strands.map fun t => t.land (vs.map fun v => (v.1, v.2.1)) }) fun _ => rfl
  have hboth := hput.trans hland
  have e : u.putLanes n vs = (u.modGang n fun g => g.putV vs).modGang n
      fun g => { g with strands := g.strands.map fun t => t.land (vs.map fun v => (v.1, v.2.1)) } := by
    unfold State.putLanes State.landed
    exact if_neg (by simp [hboth.focused, hu])
  rw [e]
  rw [Gang.putV_eq] at hboth
  rw [Gang.lands, Gang.putV_eq]
  exact hboth

/-! ## Which words an operation writes to V registers -/

theorem perLane_eq_vCells (m : MOp) (d : Nat) (f : Nat → Word) :
    perLane m d f = vCells d 1 (lanesOf m.mask) fun _ => f := by simp [perLane, vCells]

theorem lanesOf_eq_filter (m : Mask) : lanesOf m = (List.range 64).filter m.getLsbD := by
  unfold lanesOf; exact lanesBelow_eq_filter 64 m

theorem lowLane_eq_find? (m : Mask) : lowLane m = ((List.range 64).find? m.getLsbD).getD 64 := by
  rw [lowLane, lanesOf_eq_filter, List.headD_eq_head?_getD, List.head?_filter]

theorem Gang.btRows_getD (g : Gang) (n : Nat) {i : Nat} (hi : i < 64) : (g.btRows n).getD i 0 = g.btRow n i := by
  simp [Gang.btRows, hi]

theorem colCount_btRows (g : Gang) (n : Nat) (m : Mask) (j : Nat) :
    colCount (g.btRows n) (lanesOf m) j = ((lanesOf m).filter fun i => g.bit n i j).length := by
  unfold colCount
  congr 1
  refine List.filter_congr fun i hi => ?_
  rw [g.btRows_getD n (mem_lanesOf hi).1, Gang.bit]

theorem extractLsb'_word (x : Mask) (j : Nat) : x.extractLsb' (32 * j) 32 = BitVec.ofNat 32 (x.toNat / 2 ^ (32 * j)) := by
  rw [BitVec.extractLsb', Nat.shiftRight_eq_div_pow]

theorem MOp.vResults_of_mopV {g : Gang} {m : MOp} {d k : Nat} {f : Nat → Nat → Word}
    (h : mopV g m m.instr = some (d, k, f)) : m.vResults g = some (vCells d k (lanesOf m.mask) f) := by
  unfold mopV at h
  split at h
  next hi =>
    cases h
    simp only [MOp.vResults, hi, accRead, vCells]
  next hi =>
    cases h
    simp only [MOp.vResults, hi, perLane_eq_vCells, popMask, lanesOf_eq_filter (Gang.btRow _ _ _), Gang.bit]
  next hi =>
    cases h
    simp only [MOp.vResults, hi, perLane_eq_vCells, colCount_btRows]
  next hi =>
    cases h
    simp only [MOp.vResults, hi, perLane_eq_vCells, lowLane_eq_find?, Gang.bit]
  next hi =>
    cases h
    simp only [MOp.vResults, hi, perLane, vCells, show List.range 2 = [0, 1] from rfl, List.flatMap_cons, List.flatMap_nil,
      List.append_nil, ← extractLsb'_word, Nat.mul_zero, Nat.mul_one, Nat.add_zero]
  next => cases h

theorem State.performMop_of_vResults (s : State) {m : MOp} {g : Gang} {vs : List (Nat × Nat × Word)}
    (h : m.vResults g = some vs) : s.performMop m g = s.putLanes m.gang vs := by
  have hvs := h
  unfold MOp.vResults at h
  unfold State.performMop
  split at h
  next hi => simp only [hi, hvs]
  next hi => simp only [hi, hvs]
  next hi => simp only [hi, hvs]
  next hi => simp only [hi, hvs]
  next hi => simp only [hi, hvs]
  next => cases h

/-! ## Accumulator elements -/

/-- A gang has become one with elements of some rows of an accumulator tile written, and nothing else has changed. -/
def Gang.WritesAcc (g h : Gang) (ls : List Nat) (d lo hi : Nat) (f : Nat → Nat → Word) : Prop :=
  h = { g with acc := h.acc } ∧ (∀ i j, i ∈ ls → lo ≤ j → j < hi → h.readAcc d i j = f i j) ∧
    ∀ n i j, i < 64 → j < 64 → n ≠ d ∨ i ∉ ls ∨ j < lo ∨ hi ≤ j → h.readAcc n i j = g.readAcc n i j

/-- The elements of `n` columns of some rows of an accumulator tile, from column `lo` on. -/
def accCells (d lo n : Nat) (ls : List Nat) (f : Nat → Nat → Word) : List (Nat × Word) :=
  ls.flatMap fun l => (List.range n).map fun j => (accKey d l (lo + j), f l (lo + j))

/-- Elements of an accumulator tile lie at one key each. -/
theorem accKey_inj {n n' i i' j j' : Nat} (hi : i < 64) (hj : j < 64) (hi' : i' < 64) (hj' : j' < 64)
    (h : accKey n i j = accKey n' i' j') : n = n' ∧ i = i' ∧ j = j' := by
  unfold accKey at h
  omega

theorem mem_accCells {d lo n : Nat} {ls : List Nat} {f : Nat → Nat → Word} (hls : ∀ l ∈ ls, l < 64) (hn : lo + n ≤ 64)
    {k i j : Nat} (hi : i < 64) (hj : j < 64) {v : Word} :
    (accKey k i j, v) ∈ accCells d lo n ls f ↔ k = d ∧ i ∈ ls ∧ lo ≤ j ∧ j < lo + n ∧ v = f i j := by
  simp only [accCells, List.mem_flatMap, List.mem_range, List.mem_map, Prod.mk.injEq]
  constructor
  · rintro ⟨l, hl, c, hc, hkey, rfl⟩
    obtain ⟨rfl, rfl, rfl⟩ := accKey_inj (hls l hl) (by omega) hi hj hkey
    exact ⟨rfl, hl, by omega, by omega, rfl⟩
  · rintro ⟨rfl, hl, hlo, hhi, rfl⟩
    refine ⟨i, hl, j - lo, by omega, ?_⟩
    rw [show lo + (j - lo) = j by omega]
    exact ⟨rfl, rfl⟩

theorem Gang.putAcc_writesAcc (g : Gang) (d : Nat) {lo n : Nat} (hn : lo + n ≤ 64) {ls : List Nat}
    (hls : ∀ l ∈ ls, l < 64) (f : Nat → Nat → Word) : g.WritesAcc (g.putAcc (accCells d lo n ls f)) ls d lo (lo + n) f := by
  refine ⟨rfl, fun i j hi hlo hhi => smGet_smSetAll_mem _ ?_ fun w hw => ?_, fun k i j hi hj hne =>
    smGet_smSetAll_notMem _ fun w hw => ?_⟩
  · exact (mem_accCells hls hn (hls i hi) (by omega)).mpr ⟨rfl, hi, hlo, hhi, rfl⟩
  · exact ((mem_accCells hls hn (hls i hi) (by omega)).mp hw).2.2.2.2
  · obtain ⟨rfl, hmem, hlo, hhi, -⟩ := (mem_accCells hls hn hi hj).mp hw
    rcases hne with hne | hne | hne | hne
    · exact hne rfl
    · exact hne hmem
    · omega
    · omega

theorem smGet_dropRows (d : Nat) (ls : List Nat) (acc : SMap Word) (a : Nat) :
    smGet 0 (ls.foldl (fun acc l => smDrop acc (accKey d l 0) (accKey d l 0 + 64)) acc) a =
      if ∃ l ∈ ls, accKey d l 0 ≤ a ∧ a < accKey d l 0 + 64 then 0 else smGet 0 acc a := by
  induction ls generalizing acc with
  | nil => simp
  | cons l r ih =>
    rw [List.foldl_cons, ih, smGet_smDrop]
    by_cases hr : ∃ l ∈ r, accKey d l 0 ≤ a ∧ a < accKey d l 0 + 64
    · simp [hr]
    · by_cases hl : accKey d l 0 ≤ a ∧ a < accKey d l 0 + 64 <;> simp [hr, hl]

theorem Gang.zeroRows_writesAcc (g : Gang) (d : Nat) {ls : List Nat} (hls : ∀ l ∈ ls, l < 64) :
    g.WritesAcc (g.zeroRows d ls) ls d 0 64 fun _ _ => 0 := by
  refine ⟨rfl, fun i j hi _ hj => ?_, fun n i j hi hj hne => ?_⟩
  · refine (smGet_dropRows ..).trans (if_pos ⟨i, hi, ?_⟩)
    unfold accKey
    omega
  · refine (smGet_dropRows ..).trans (if_neg ?_)
    rintro ⟨l, hl, hlo, hhi⟩
    have hlt := hls l hl
    unfold accKey at hlo hhi
    obtain ⟨rfl, rfl⟩ : n = d ∧ i = l := by omega
    rcases hne with hne | hne | hne | hne
    · exact hne rfl
    · exact hne hl
    · omega
    · omega

/-! ## Products -/

theorem accWrite_eq_accCells (m : MOp) (d a col nreg : Nat) :
    accWrite m d a col nreg = accCells d col nreg (lanesOf m.mask) fun l j => m.readV (a + (j - col)) l := by
  simp [accWrite, accCells]

theorem mmaRows_eq_accCells (g : Gang) (m : MOp) (d : Nat) (x y : Slot) (fx fy : Fmt) (pi arow : Nat) (scaled : Bool) :
    mmaRows g m d x y fx fy pi arow scaled = accCells d 0 64 (lanesOf m.mask) fun l j =>
      mmaElement (g.readAcc d l j) (x.row fx scaled ((arow + l) % 64)) (y.row fy scaled j) (32 / fx.width) pi := by
  simp only [mmaRows, accCells, Nat.zero_add]
  refine congrArg (fun F => (lanesOf m.mask).flatMap F) (funext fun l => List.map_congr_left fun j hj => ?_)
  have hcol : ((List.range 64).map fun j => y.row fy scaled j).getD j [] = y.row fy scaled j := by
    simp [List.mem_range.mp hj]
  rw [hcol]

theorem freeRows_eq_accCells (m : MOp) (d free : Nat) : freeRows m d free =
    accCells d 0 64 (lanesOf m.mask) fun l j => BitVec.ofNat 32 (Config.freeNat (free + 64 * l + j)) := by
  simp [freeRows, accCells]

theorem State.slotRead_still {u : State} {g : Gang} {k : Nat} {x : Slot} (h : u.stillSlot g k = some x) :
    u.slotRead g k = (u, some x) := by
  obtain ⟨hx, hnone⟩ := Option.filter_eq_some_iff.mp h
  unfold State.slotRead
  rw [hx]
  simp only [Option.isNone_iff_eq_none.mp hnone]

/-- Reading a slot moves the count of free values and nothing else. -/
theorem State.slotRead_bound {u : State} {g : Gang} {k : Nat} (h : u.slotAt g k ≠ none) :
    ∃ c x, u.slotRead g k = ({ u with freeCount := c }, some x) := by
  obtain ⟨x, hx⟩ := Option.ne_none_iff_exists'.mp h
  unfold State.slotRead
  rw [hx]
  dsimp only
  split
  · exact ⟨_, _, rfl⟩
  · exact ⟨_, _, rfl⟩

/-- The elements that MMA, or scaled MMAS, writes from slots that no OLOAD is writing. -/
def mmaResult (u : State) (g : Gang) (d a b pi arow : Nat) (scaled : Bool) : Option (Nat × Nat × Nat × (Nat → Nat → Word)) :=
  match u.stillSlot g a, u.stillSlot g b with
  | some x, some y =>
    match fmtOf x.ftag, fmtOf y.ftag with
    | some fx, some fy =>
      if mmaWidth x.ftag = mmaWidth y.ftag ∧ mmaWidth x.ftag ≠ none then
        some (d, 0, 64, fun l j => mmaElement (g.readAcc d l j) (x.row fx scaled ((arow + l) % 64))
          (y.row fy scaled j) (32 / fx.width) pi)
      else none
    | _, _ => none
  | _, _ => none

theorem State.runMma_still {u : State} (hu : u.focused = false) {g : Gang} (hg : u.gangOf g.id = some g) (m : MOp)
    {d a b pi arow lo hi : Nat} {scaled : Bool} {d' : Nat} {f : Nat → Nat → Word}
    (h : mmaResult u g d a b pi arow scaled = some (d', lo, hi, f)) :
    ∃ h, u.GangBecomes (u.runMma g m d a b pi arow scaled) g.id h ∧ g.WritesAcc h (lanesOf m.mask) d' lo hi f := by
  unfold mmaResult at h
  split at h
  next x y hx hy =>
    split at h
    next fx fy hfx hfy =>
      split at h
      next hw =>
        obtain ⟨hsame, hsome⟩ := hw
        obtain ⟨v, hv⟩ := Option.ne_none_iff_exists'.mp hsome
        cases h
        have e : u.runMma g m d a b pi arow scaled =
            u.modGang g.id fun g => g.putAcc (mmaRows g m d x y fx fy pi arow scaled) := by
          unfold State.runMma
          simp [State.slotRead_still hx, State.slotRead_still hy, hfx, hfy, ← hsame, hv]
        rw [e]
        refine ⟨_, State.modGang_becomes hu hg fun _ => rfl, ?_⟩
        rw [mmaRows_eq_accCells]
        exact g.putAcc_writesAcc d (by decide) (fun l hl => (mem_lanesOf hl).1) _
      next => cases h
    next => cases h
  next => cases h

/-- Whatever a product reads of slots that are written meanwhile, it writes elements of its rows (R233). -/
theorem State.runMma_bound {u : State} (hu : u.focused = false) {g : Gang} (hg : u.gangOf g.id = some g) (m : MOp)
    {d a b : Nat} (pi arow : Nat) (scaled : Bool) (ha : u.slotAt g a ≠ none) (hb : u.slotAt g b ≠ none) :
    ∃ c h f, State.GangBecomes { u with freeCount := c } (u.runMma g m d a b pi arow scaled) g.id h ∧
      g.WritesAcc h (lanesOf m.mask) d 0 64 f := by
  have puts : ∀ (c : Nat) (F : Gang → Nat → Nat → Word), ∃ h f,
      State.GangBecomes { u with freeCount := c }
        (State.modGang { u with freeCount := c } g.id fun g => g.putAcc (accCells d 0 64 (lanesOf m.mask) (F g))) g.id h ∧
      g.WritesAcc h (lanesOf m.mask) d 0 64 f := fun c F =>
    ⟨_, F g, State.modGang_becomes (u := { u with freeCount := c }) hu hg fun _ => rfl,
      g.putAcc_writesAcc d (by decide) (fun l hl => (mem_lanesOf hl).1) _⟩
  obtain ⟨c, x, hx⟩ := State.slotRead_bound ha
  obtain ⟨e, y, hy⟩ := State.slotRead_bound (u := { u with freeCount := c }) hb
  unfold State.runMma
  simp only [hx, hy, mmaRows_eq_accCells, freeRows_eq_accCells]
  split
  · split
    · exact ⟨e, puts e _⟩
    · exact ⟨e + 4096, puts (e + 4096) _⟩
  · exact ⟨e + 4096, puts (e + 4096) _⟩

/-- What an operation with accumulator results leaves (R236, R237). -/
theorem State.performMop_acc {u : State} (hu : u.focused = false) {m : MOp} {g : Gang} (hg : u.gangOf m.gang = some g)
    {d lo hi : Nat} {f : Nat → Nat → Word} (h : mopAcc u g m m.instr = some (d, lo, hi, f)) :
    ∃ h, u.GangBecomes (u.performMop m g) m.gang h ∧ g.WritesAcc h (lanesOf m.mask) d lo hi f := by
  have hlanes : ∀ l ∈ lanesOf m.mask, l < 64 := fun l hl => (mem_lanesOf hl).1
  have hid := State.gangOf_id hu hg
  have hown : u.gangOf g.id = some g := by rw [hid]; exact hg
  have multiplies : ∀ (a b pi arow e : Nat) (scaled : Bool), mmaResult u g e a b pi arow scaled = some (d, lo, hi, f) →
      ∃ h, u.GangBecomes (u.runMma g m e a b pi arow scaled) m.gang h ∧ g.WritesAcc h (lanesOf m.mask) d lo hi f := by
    intro a b pi arow e scaled hres
    rw [← hid]
    exact State.runMma_still hu hown m hres
  unfold mopAcc at h
  split at h
  next hinstr =>
    cases h
    simp only [State.performMop, hinstr]
    exact ⟨_, State.modGang_becomes hu hg fun _ => rfl, g.zeroRows_writesAcc _ hlanes⟩
  next col nreg _ hinstr =>
    obtain ⟨hcols, hres⟩ : col.toNat + nreg.toNat ≤ 64 ∧ _ := Option.ite_none_right_eq_some.mp h
    cases hres
    simp only [State.performMop, hinstr, accWrite_eq_accCells]
    exact ⟨_, State.modGang_becomes hu hg fun _ => rfl, g.putAcc_writesAcc _ hcols hlanes _⟩
  next e a b _ pi arow _ hinstr =>
    simp only [State.performMop, hinstr]
    exact multiplies a.toNat b.toNat pi.toNat arow.toNat e.toNat false h
  next e a b _ pi arow _ hinstr =>
    simp only [State.performMop, hinstr]
    exact multiplies a.toNat b.toNat pi.toNat arow.toNat e.toNat true h
  next => cases h

end Sys2Proof.Machine
end

section
/-! SUPPORT. What the bit-tile results of a matrix operation leave: tiles as relations, and the closure of one. -/

namespace Sys2Proof.Machine

/-! ## Rows of bits -/

/-- A list of 64 rows is the tile of a relation (R241). -/
structure Shows (rows : List Mask) (f : Nat → Nat → Bool) : Prop where
  length : rows.length = 64
  bit : ∀ i j, i < 64 → j < 64 → (rows.getD i 0).getLsbD j = f i j

theorem row_getD {rows : List Mask} {i : Nat} (hi : i < rows.length) : rows.getD i 0 = rows[i] := by
  rw [List.getD_eq_getElem?_getD, List.getElem?_eq_getElem hi, Option.getD_some]

theorem Gang.btRows_shows (g : Gang) (n : Nat) : Shows (g.btRows n) (g.bit n) :=
  ⟨by simp [Gang.btRows], fun i j hi _ => by rw [g.btRows_getD n hi, Gang.bit]⟩

/-- Tiles of one relation are one tile. -/
theorem Shows.ext {rows rows' : List Mask} {f : Nat → Nat → Bool} (h : Shows rows f) (h' : Shows rows' f) : rows = rows' := by
  refine List.ext_getElem (h.length.trans h'.length.symm) fun i hi hi' => ?_
  have h64 : i < 64 := h.length ▸ hi
  refine BitVec.eq_of_getLsbD_eq fun j hj => ?_
  have hbit := (h.bit i j h64 hj).trans (h'.bit i j h64 hj).symm
  rwa [row_getD hi, row_getD hi'] at hbit

theorem Shows.congr {rows : List Mask} {f f' : Nat → Nat → Bool} (h : Shows rows f)
    (hf : ∀ i j, i < 64 → j < 64 → f i j = f' i j) : Shows rows f' :=
  ⟨h.length, fun i j hi hj => (h.bit i j hi hj).trans (hf i j hi hj)⟩

theorem Shows.zipWith {a b : List Mask} {f f' : Nat → Nat → Bool} (ha : Shows a f) (hb : Shows b f')
    {op : Mask → Mask → Mask} {bop : Bool → Bool → Bool}
    (hop : ∀ x y j, (op x y).getLsbD j = bop (x.getLsbD j) (y.getLsbD j)) :
    Shows (List.zipWith op a b) fun i j => bop (f i j) (f' i j) := by
  refine ⟨by simp [ha.length, hb.length], fun i j hi hj => ?_⟩
  have hia : i < a.length := ha.length ▸ hi
  have hib : i < b.length := hb.length ▸ hi
  have hi' : i < (List.zipWith op a b).length := by
    rw [List.length_zipWith]
    exact Nat.lt_min.mpr ⟨hia, hib⟩
  rw [row_getD hi', List.getElem_zipWith, ← row_getD hia, ← row_getD hib, hop, ha.bit i j hi hj, hb.bit i j hi hj]

/-- Rows given one by one. -/
theorem shows_map_range {r : Nat → Mask} {f : Nat → Nat → Bool}
    (h : ∀ i j, i < 64 → j < 64 → (r i).getLsbD j = f i j) : Shows ((List.range 64).map r) f := by
  refine ⟨by simp, fun i j hi hj => ?_⟩
  rw [← h i j hi hj]
  simp [hi]

theorem Shows.map {a : List Mask} {f f' : Nat → Nat → Bool} (ha : Shows a f) {op : Mask → Mask}
    (hop : ∀ i j, i < 64 → j < 64 → (op (a.getD i 0)).getLsbD j = f' i j) : Shows (a.map op) f' := by
  refine ⟨by simp [ha.length], fun i j hi hj => ?_⟩
  have hia : i < a.length := ha.length ▸ hi
  rw [← hop i j hi hj]
  simp [hia]

theorem laneBit_getLsbD {l j : Nat} (hj : j < 64) : (laneBit l).getLsbD j = (l == j) := by
  rw [Bool.eq_iff_iff, beq_iff_eq, laneBit, BitVec.getLsbD_shiftLeft, BitVec.getLsbD_one]
  have hwidth : 0 < 64 := by decide
  simp only [hj, hwidth, decide_true, Bool.true_and, Bool.and_eq_true, Bool.not_eq_true', decide_eq_true_eq,
    decide_eq_false_iff_not]
  omega

theorem getLsbD_foldl_or (b : Nat → Mask) (ks : List Nat) (z : Mask) (j : Nat) :
    (ks.foldl (fun acc k => acc ||| b k) z).getLsbD j = (z.getLsbD j || ks.any fun k => (b k).getLsbD j) := by
  induction ks generalizing z with
  | nil => simp
  | cons k r ih => simp [ih, Bool.or_assoc]

theorem rowBits_getLsbD (f : Nat → Bool) {j : Nat} (hj : j < 64) : (rowBits f).getLsbD j = f j := by
  rw [rowBits, maskOf, getLsbD_foldl_or]
  simp only [laneBit_getLsbD hj, List.any_filter]
  rw [Bool.eq_iff_iff]
  simp [hj]

/-- A tile transposed (R244). -/
theorem Shows.transpose {a : List Mask} {f : Nat → Nat → Bool} (ha : Shows a f) : Shows (btTranspose a) fun i j => f j i :=
  shows_map_range fun i j hi hj => by rw [rowBits_getLsbD _ hj, ha.bit j i hj hi]

/-- Relations composed (R244). -/
theorem Shows.compose {a b : List Mask} {f f' : Nat → Nat → Bool} (ha : Shows a f) (hb : Shows b f') :
    Shows (btCompose a b) fun i j => (List.range 64).any fun k => f i k && f' k j := by
  refine ha.map fun i j hi hj => ?_
  have hzero : (0 : Mask).getLsbD j = false := BitVec.getLsbD_zero
  rw [getLsbD_foldl_or, lanesOf_eq_filter, List.any_filter, hzero, Bool.false_or, Bool.eq_iff_iff]
  simp only [List.any_eq_true, List.mem_range, Bool.and_eq_true]
  refine exists_congr fun k => and_congr_right fun hk => ?_
  rw [ha.bit i k hi hk, hb.bit k j hk hj]

/-! ## The closure of a relation (R245) -/

theorem closeSteps_closeStep (f : Nat → Nat → Bool) (n : Nat) : closeSteps (closeStep f) n = closeSteps f (n + 1) := by
  induction n with
  | zero => rfl
  | succ n ih => rw [closeSteps, ih]; rfl

/-- The steps of the closure are the first squarings that still add to the relation. -/
theorem btClosure_shows {fuel n : Nat} (hn : n ≤ fuel) {t : List Mask} {f : Nat → Nat → Bool} (ht : Shows t f) (c : Nat)
    (hadds : ∀ k, k < n → ∃ i j, i < 64 ∧ j < 64 ∧ closeSteps f (k + 1) i j ≠ closeSteps f k i j)
    (hends : n < fuel → ∀ i j, i < 64 → j < 64 → closeSteps f (n + 1) i j = closeSteps f n i j) :
    (btClosure fuel t c).2 = c + n ∧ Shows (btClosure fuel t c).1 (closeSteps f n) := by
  induction fuel generalizing n t f c with
  | zero =>
    obtain rfl : n = 0 := by omega
    exact ⟨rfl, ht⟩
  | succ fuel ih =>
    have hstep : Shows (List.zipWith (fun x y => x ||| y) t (btCompose t t)) (closeStep f) :=
      ht.zipWith (bop := Bool.or) (ht.compose ht) fun x y j => BitVec.getLsbD_or
    unfold btClosure
    dsimp only
    cases n with
    | zero =>
      have hsame : List.zipWith (fun x y => x ||| y) t (btCompose t t) = t :=
        (hstep.congr (hends (Nat.succ_pos _))).ext ht
      rw [if_pos hsame]
      exact ⟨rfl, ht⟩
    | succ n =>
      have hmore : List.zipWith (fun x y => x ||| y) t (btCompose t t) ≠ t := by
        intro hsame
        rw [hsame] at hstep
        obtain ⟨i, j, hi, hj, hne⟩ := hadds 0 (Nat.succ_pos _)
        exact hne ((hstep.bit i j hi hj).symm.trans (ht.bit i j hi hj))
      rw [if_neg hmore, ← closeSteps_closeStep, show c + (n + 1) = c + 1 + n by omega]
      refine ih (by omega) hstep (c + 1) (fun k hk => ?_) fun hk => ?_
      · rw [closeSteps_closeStep, closeSteps_closeStep]
        exact hadds (k + 1) (by omega)
      · rw [closeSteps_closeStep, closeSteps_closeStep]
        exact hends (by omega)

/-! ## Bit tiles written -/

/-- A gang has become one with some rows of a bit tile written, and nothing else has changed. -/
def Gang.WritesBits (g h : Gang) (d : Nat) (rows : List Nat) (f : Nat → Nat → Bool) : Prop :=
  h = { g with bt := h.bt } ∧ (∀ i j, i ∈ rows → j < 64 → h.bit d i j = f i j) ∧
    ∀ n i, i < 64 → n ≠ d ∨ i ∉ rows → h.btRow n i = g.btRow n i

theorem Gang.putBt_writesBits (g : Gang) (d : Nat) {rows : List Nat} (hrows : ∀ i ∈ rows, i < 64) {r : Nat → Mask}
    {f : Nat → Nat → Bool} (hf : ∀ i ∈ rows, ∀ j, j < 64 → (r i).getLsbD j = f i j) :
    g.WritesBits (g.putBt d (rows.map fun i => (i, r i))) d rows f := by
  have hmem : ∀ n i, i < 64 → ∀ w, (64 * n + i, w) ∈ (rows.map fun i => (i, r i)).map (fun x => (64 * d + x.1, x.2)) ↔
      n = d ∧ i ∈ rows ∧ w = r i := by
    intro n i hi w
    simp only [List.map_map, List.mem_map, Function.comp, Prod.mk.injEq]
    constructor
    · rintro ⟨k, hk, hkey, rfl⟩
      have hlt := hrows k hk
      obtain ⟨rfl, rfl⟩ : n = d ∧ i = k := by omega
      exact ⟨rfl, hk, rfl⟩
    · rintro ⟨rfl, hi', rfl⟩
      exact ⟨i, hi', rfl, rfl⟩
  refine ⟨rfl, fun i j hi hj => ?_, fun n i hi hne => smGet_smSetAll_notMem _ fun w hw => ?_⟩
  · have hrow : (g.putBt d (rows.map fun i => (i, r i))).btRow d i = r i :=
      smGet_smSetAll_mem _ ((hmem d i (hrows i hi) _).mpr ⟨rfl, hi, rfl⟩)
        fun w hw => ((hmem d i (hrows i hi) w).mp hw).2.2
    rw [Gang.bit, hrow, hf i hi j hj]
  · obtain ⟨rfl, hi', -⟩ := (hmem n i hi w).mp hw
    rcases hne with hne | hne
    · exact hne rfl
    · exact hne hi'

theorem Gang.putTile_writesBits (g : Gang) (d : Nat) {rows : List Mask} {f : Nat → Nat → Bool} (h : Shows rows f) :
    g.WritesBits (g.putTile d rows) d (List.range 64) f := by
  have hzip : (List.range 64).zip rows = (List.range 64).map fun i => (i, rows.getD i 0) := by
    refine List.ext_getElem (by simp [h.length]) fun i hi hi' => ?_
    have hrow : i < rows.length := by simpa [h.length] using hi'
    simp [hrow]
  rw [Gang.putTile, hzip]
  exact g.putBt_writesBits d (fun i hi => List.mem_range.mp hi) fun i hi j hj => h.bit i j (List.mem_range.mp hi) hj

/-! ## Which bits an operation writes -/

theorem append_words_getLsbD (x y : Word) {j : Nat} :
    (x ++ y).getLsbD j = if j < 32 then y.getLsbD j else x.getLsbD (j - 32) := by
  rw [BitVec.getLsbD_append]

/-- What an operation with bit-tile results leaves (R240, R243, R244). -/
theorem State.performMop_bits {u : State} (hu : u.focused = false) {m : MOp} {g : Gang} (hg : u.gangOf m.gang = some g)
    {d : Nat} {rows : List Nat} {f : Nat → Nat → Bool} (h : mopBits u g m m.instr = some (d, rows, f)) :
    ∃ h, u.GangBecomes (u.performMop m g) m.gang h ∧ g.WritesBits h d rows f := by
  have hlanes : ∀ l ∈ lanesOf m.mask, l < 64 := fun l hl => (mem_lanesOf hl).1
  have hrows := g.btRows_shows
  have tile : ∀ (F : Gang → List Mask), Shows (F g) f → rows = List.range 64 →
      u.performMop m g = u.onGang m (fun g => g.putTile d (F g)) →
      ∃ h, u.GangBecomes (u.performMop m g) m.gang h ∧ g.WritesBits h d rows f := by
    intro F hF hr he
    rw [he, hr]
    exact ⟨_, State.modGang_becomes hu hg fun _ => rfl, g.putTile_writesBits d hF⟩
  have lanes : ∀ (r : Nat → Mask), (∀ i ∈ lanesOf m.mask, ∀ j, j < 64 → (r i).getLsbD j = f i j) → rows = lanesOf m.mask →
      u.performMop m g = u.onGang m (fun g => g.putBt d ((lanesOf m.mask).map fun i => (i, r i))) →
      ∃ h, u.GangBecomes (u.performMop m g) m.gang h ∧ g.WritesBits h d rows f := by
    intro r hr hrows he
    rw [he, hrows]
    exact ⟨_, State.modGang_becomes hu hg fun _ => rfl, g.putBt_writesBits d hlanes hr⟩
  unfold mopBits at h
  split at h
  next hi =>
    cases h
    exact tile _ ((hrows _).zipWith (bop := Bool.and) (hrows _) fun _ _ _ => BitVec.getLsbD_and) rfl
      (by simp only [State.performMop, hi]; rfl)
  next hi =>
    cases h
    exact tile _ ((hrows _).zipWith (bop := Bool.or) (hrows _) fun _ _ _ => BitVec.getLsbD_or) rfl
      (by simp only [State.performMop, hi]; rfl)
  next hi =>
    cases h
    exact tile _ ((hrows _).zipWith (bop := bne) (hrows _) fun _ _ _ => BitVec.getLsbD_xor) rfl
      (by simp only [State.performMop, hi]; rfl)
  next a _ hi =>
    cases h
    refine tile (fun g => (g.btRows a.toNat).map fun x => ~~~x) ((hrows _).map fun i j hi' hj => ?_) rfl
      (by simp only [State.performMop, hi])
    rw [BitVec.getLsbD_not, (hrows a.toNat).bit i j hi' hj]
    simp [hj]
  next a _ hi =>
    cases h
    exact tile (fun g => btTranspose (g.btRows a.toNat)) (hrows _).transpose rfl (by simp only [State.performMop, hi])
  next a b _ hi =>
    cases h
    exact tile (fun g => btCompose (g.btRows a.toNat) (g.btRows b.toNat)) ((hrows _).compose (hrows _)) rfl
      (by simp only [State.performMop, hi])
  next hi =>
    cases h
    exact tile (fun _ => (List.range 64).map laneBit) (shows_map_range fun i j _ hj => laneBit_getLsbD hj) rfl
      (by simp only [State.performMop, hi])
  next a _ _ hi =>
    cases h
    exact lanes (fun l => m.readV (a.toNat + 1) l ++ m.readV a.toNat l) (fun i _ j _ => append_words_getLsbD _ _) rfl
      (by simp only [State.performMop, hi])
  next hi =>
    cases h
    refine lanes _ (fun i _ j hj => ?_) rfl (by simp only [State.performMop, hi]; rfl)
    rw [rowBits_getLsbD _ hj]
    simp only [ocmpColumn]
    cases m.mask.getLsbD j <;> simp
  next hi =>
    split at h
    next => cases h
    next x hx =>
      cases h
      refine lanes _ (fun i _ j hj => ?_) rfl
        (by simp only [State.performMop, hi, if_true, State.slotRead_still hx]; rfl)
      rw [rowBits_getLsbD _ hj]
      simp [ocmpColumn, smRead_eq]
  next => cases h

end Sys2Proof.Machine
end

section
/-! SUPPORT. The array's start of an operation, fills of slots, and the end of every kind of matrix operation. -/

namespace Sys2Proof.Machine

/-! ## Fills of slots (R234) -/

/-- A byte of a slot's data, or of its scales. -/
def Slot.byteAt (z : Slot) (sc : Bool) (c : Nat) : Byte := if sc then smGet 127 z.scales c else smGet 0 z.data c

theorem rowPlace {size off : Nat} (r : Nat) (hoff : off < size) : (size * r + off) / size = r ∧ (size * r + off) % size = off :=
  ⟨by rw [Nat.mul_add_div (by omega), Nat.div_eq_of_lt hoff, Nat.add_zero], by rw [Nat.mul_add_mod, Nat.mod_eq_of_lt hoff]⟩

section

variable {m : MOp} {a row woff nreg size : Nat}

theorem mem_fillBytes_of {l j b : Nat} (hl : l ∈ lanesOf m.mask) (hj : j < nreg) (hb : b < 4) :
    (size * ((row + l) % 64) + 4 * (woff + j) + b, (m.readV (a + j) l).extractLsb' (8 * b) 8) ∈
      fillBytes m a row woff nreg size := by
  simp only [fillBytes, List.mem_flatMap, List.mem_map, List.mem_range]
  exact ⟨l, hl, j, hj, b, hb, rfl⟩

/-- A byte of a fill lies in the row of its lane, at the word of its register. -/
theorem place_of_mem_fillBytes (hsize : 4 * (woff + nreg) ≤ size) {c : Nat} {v : Byte}
    (h : (c, v) ∈ fillBytes m a row woff nreg size) :
    ∃ l j b, l ∈ lanesOf m.mask ∧ j < nreg ∧ b < 4 ∧ c / size = (row + l) % 64 ∧ c % size = 4 * (woff + j) + b ∧
      v = (m.readV (a + j) l).extractLsb' (8 * b) 8 := by
  simp only [fillBytes, List.mem_flatMap, List.mem_map, List.mem_range, Prod.mk.injEq] at h
  obtain ⟨l, hl, j, hj, b, hb, rfl, rfl⟩ := h
  have hoff : 4 * (woff + j) + b < size := by omega
  obtain ⟨hrow, hword⟩ := rowPlace ((row + l) % 64) hoff
  rw [← Nat.add_assoc] at hrow hword
  exact ⟨l, j, b, hl, hj, hb, hrow, hword, rfl⟩

/-- A table that a fill is written to reads as the registers' bytes in the words of the lanes' rows, and as before elsewhere. -/
theorem smGet_fillBytes (d : Byte) (t : SMap Byte) (hsize : 4 * (woff + nreg) ≤ size) :
    (∀ l j b, l ∈ lanesOf m.mask → j < nreg → b < 4 →
      smGet d (smSetAll d t (fillBytes m a row woff nreg size)) (size * ((row + l) % 64) + 4 * (woff + j) + b) =
        (m.readV (a + j) l).extractLsb' (8 * b) 8) ∧
    ∀ c, (∀ l ∈ lanesOf m.mask, c / size ≠ (row + l) % 64) ∨ c % size < 4 * woff ∨ 4 * (woff + nreg) ≤ c % size →
      smGet d (smSetAll d t (fillBytes m a row woff nreg size)) c = smGet d t c := by
  refine ⟨fun l j b hl hj hb => smGet_smSetAll_mem _ (mem_fillBytes_of hl hj hb) fun w hw => ?_,
    fun c hc => smGet_smSetAll_notMem _ fun w hw => ?_⟩
  · obtain ⟨l', j', b', hl', -, hb', hrow, hword, rfl⟩ := place_of_mem_fillBytes hsize hw
    obtain ⟨hr, ho⟩ := rowPlace (size := size) (off := 4 * (woff + j) + b) ((row + l) % 64) (by omega)
    rw [← Nat.add_assoc] at hr ho
    have hlt := (mem_lanesOf hl).1
    have hlt' := (mem_lanesOf hl').1
    obtain rfl : l' = l := by omega
    obtain ⟨rfl, rfl⟩ : j' = j ∧ b' = b := by omega
    rfl
  · obtain ⟨l, j, b, hl, hj, hb, hrow, hword, -⟩ := place_of_mem_fillBytes hsize hw
    rcases hc with hc | hc
    · exact hc l hl hrow
    · omega

end

theorem Slot.fill_byteAt (x : Slot) (m : MOp) (a : Nat) (fmt : BitVec 8) (row woff nreg : Nat) (sc : Bool) (free c : Nat) :
    (x.fill m a fmt row woff nreg sc free).byteAt sc c =
      let d : Byte := if sc then 127 else 0
      smGet d (smSetAll d (if sc then x.scales else x.data) (fillBytes m a row woff nreg (if sc then 8 else 128))) c := by
  cases sc <;> rfl

theorem Slot.byteAt_eq (x : Slot) (sc : Bool) (c : Nat) :
    x.byteAt sc c = smGet (if sc then 127 else 0 : Byte) (if sc then x.scales else x.data) c := by
  cases sc <;> rfl

/-- As a fill leaves its queue, what its slot is planned to hold may follow, and nothing else of any slot (R229). -/
theorem State.closeMop_slotBecomes {v : State} {m : MOp} {g : Gang} {y : Slot} {p : Pre} {k a : BitVec 7} {fmt : BitVec 8}
    {fs sc w : Bool} {row : BitVec 6} {woff : BitVec 5} {nreg : BitVec 6} (hi : m.instr = .ofill p k a fmt fs row woff nreg sc w)
    (hy : v.slotAt g k.toNat = some y) :
    ∃ z, v.SlotBecomes (v.closeMop m g) g k.toNat z ∧
      z = { y with planTag := z.planTag, planSval := z.planSval } := by
  unfold State.closeMop
  dsimp only
  generalize hs : ({ (v.count m.vd 3 (m.occupancy g)).charge m.vd (dieOf m.core) 1 (m.occupancy g) with
    mops := _ } : State) = s
  have hslots : s.slots = v.slots := by rw [← hs]; simp
  have hat : ∀ c n, s.slotOf c n = v.slotOf c n := fun c n => by unfold State.slotOf; rw [hslots]
  have hy' : s.slotAt g k.toNat = some y := by simpa only [State.slotAt, hat] using hy
  have hsame : v.SlotBecomes s g k.toNat y := ⟨hy', fun c n _ => hat c n⟩
  unfold State.replan
  rw [hi]
  dsimp only
  split
  · exact ⟨y, hsame, rfl⟩
  · refine ⟨_, hsame.trans (State.modSlot_becomes hy' ?_ ?_), ?_⟩ <;> cases sc <;> rfl

/-- A slot that an OFILL has ended on: the registers' bytes stand in the words of the lanes' rows, its tag or its scale-valid
bit is as the fill says, and it holds what it held otherwise. -/
def Slot.FilledFrom (x y : Slot) (m : MOp) (a : Nat) (fmt : BitVec 8) (row woff nreg : Nat) (sc : Bool) : Prop :=
  let size := if sc then 8 else 128
  (sc = false → y.ftag = fmt ∧ y.sval = x.sval ∧ y.scales = x.scales) ∧
  (sc = true → y.sval = true ∧ y.ftag = x.ftag ∧ y.data = x.data) ∧
  (∀ l j b, l ∈ lanesOf m.mask → j < nreg → b < 4 →
    y.byteAt sc (size * ((row + l) % 64) + 4 * (woff + j) + b) = (m.readV (a + j) l).extractLsb' (8 * b) 8) ∧
  ∀ c, (∀ l ∈ lanesOf m.mask, c / size ≠ (row + l) % 64) ∨ c % size < 4 * woff ∨ 4 * (woff + nreg) ≤ c % size →
    y.byteAt sc c = x.byteAt sc c

theorem Slot.fill_filledFrom (x : Slot) (m : MOp) (a : Nat) (fmt : BitVec 8) {row woff nreg : Nat} {sc : Bool} (free : Nat)
    (hsize : 4 * (woff + nreg) ≤ if sc then 8 else 128) :
    x.FilledFrom (x.fill m a fmt row woff nreg sc free) m a fmt row woff nreg sc := by
  obtain ⟨hin, hout⟩ := smGet_fillBytes (m := m) (a := a) (row := row) (if sc then 127 else 0 : Byte)
    (if sc then x.scales else x.data) hsize
  refine ⟨?_, ?_, fun l j b hl hj hb => ?_, fun c hc => ?_⟩
  · rintro rfl; exact ⟨rfl, rfl, rfl⟩
  · rintro rfl; exact ⟨rfl, rfl, rfl⟩
  · rw [Slot.fill_byteAt]; exact hin l j b hl hj hb
  · rw [Slot.fill_byteAt, Slot.byteAt_eq]; exact hout c hc

theorem Slot.FilledFrom.replanned {x y z : Slot} {m : MOp} {a row woff nreg : Nat} {fmt : BitVec 8} {sc : Bool}
    (h : x.FilledFrom y m a fmt row woff nreg sc) (hz : z = { y with planTag := z.planTag, planSval := z.planSval }) :
    x.FilledFrom z m a fmt row woff nreg sc := by
  rw [hz]; exact h

/-- An OFILL changes its slot and takes free values, and its gang is as it was. -/
theorem State.performMop_fill {u : State} {m : MOp} {g : Gang} {x : Slot} {p : Pre} {k a : BitVec 7} {fmt : BitVec 8}
    {fs sc w : Bool} {row : BitVec 6} {woff : BitVec 5} {nreg : BitVec 6} (hg : u.gangOf m.gang = some g)
    (hi : m.instr = .ofill p k a fmt fs row woff nreg sc w) (hx : u.slotAt g k.toNat = some x) :
    State.GangBecomes { u with slots := (u.performMop m g).slots, freeCount := u.freeCount + 8193 } (u.performMop m g)
      m.gang g ∧
    u.SlotBecomes (u.performMop m g) g k.toNat
      (x.fill m a.toNat fmt row.toNat woff.toNat nreg.toNat sc u.freeCount) := by
  have hperform : u.performMop m g = State.modSlot { u with freeCount := u.freeCount + 8193 } g k.toNat fun x =>
      x.fill m a.toNat fmt row.toNat woff.toNat nreg.toNat sc u.freeCount := by simp only [State.performMop, hi]
  have hframe : u.performMop m g = { u with slots := (u.performMop m g).slots, freeCount := u.freeCount + 8193 } := by
    rw [hperform]; exact State.modSlot_only ..
  constructor
  · rw [← hframe]
    refine State.GangBecomes.refl ?_
    rw [hframe]
    exact hg
  · rw [hperform]
    exact State.modSlot_becomes (s := { u with freeCount := u.freeCount + 8193 }) hx
      (by cases sc <;> rfl) (by cases sc <;> rfl)

theorem fill_ends {s : State} {m : MOp} {g : Gang} {x : Slot} {p : Pre} {k a : BitVec 7} {fmt : BitVec 8} {fs sc w : Bool}
    {row : BitVec 6} {woff : BitVec 5} {nreg : BitVec 6} (hr : s.unfocus.MopReady m g)
    (hi : m.instr = .ofill p k a fmt fs row woff nreg sc w) (hx : s.unfocus.slotAt g k.toNat = some x)
    (hsize : 4 * (woff.toNat + nreg.toNat) ≤ if sc then 8 else 128) :
    ∃ t y, exec (.matrixOpComplete m.id) s = .next t ∧
      s.unfocus.MopEnds { t with slots := s.unfocus.slots, freeCount := s.unfocus.freeCount } m g ∧
      s.unfocus.SlotBecomes t g k.toNat y ∧ x.FilledFrom y m a.toNat fmt row.toNat woff.toNat nreg.toNat sc := by
  obtain ⟨hself, hslot⟩ := State.performMop_fill hr.gang hi hx
  obtain ⟨z, hz, hplan⟩ := State.closeMop_slotBecomes hi hslot.1
  exact ⟨_, z, exec_matrixOpComplete hr hself hr.strands, State.closeMop_ends g hself, hslot.trans hz,
    (x.fill_filledFrom m a.toNat fmt _ hsize).replanned hplan⟩

/-! ## The closure of a bit tile (R245) -/

theorem closure_ends {s : State} {m : MOp} {g : Gang} {p : Pre} {d a x : BitVec 7} {fs : Bool} {n : Nat}
    (hr : s.unfocus.MopReady m g) (hi : m.instr = .btclos p d a x fs) (hn : n ≤ 6)
    (hadds : ∀ k, k < n → ∃ i j, i < 64 ∧ j < 64 ∧ closeSteps (g.bit a.toNat) (k + 1) i j ≠ closeSteps (g.bit a.toNat) k i j)
    (hends : n < 6 → ∀ i j, i < 64 → j < 64 → closeSteps (g.bit a.toNat) (n + 1) i j = closeSteps (g.bit a.toNat) n i j) :
    ∃ t h, exec (.matrixOpComplete m.id) s = .next t ∧ s.unfocus.MopEnds t m h ∧
      h.strands = (g.strands.map fun t =>
        if s.unfocus.issuerOf m.gang m.strand m.id = some t.idx then t.setS x.toNat (BitVec.ofNat 32 n) else t) ∧
      g.WritesBits { h with strands := g.strands } d.toNat (List.range 64) (closeSteps (g.bit a.toNat) n) := by
  have hgang := hr.gang
  obtain ⟨hcount, hshows⟩ := btClosure_shows hn (g.btRows_shows a.toNat) 0 hadds hends
  generalize hc : btClosure 6 (g.btRows a.toNat) 0 = r at hcount hshows
  have htile := State.modGang_becomes s.unfocus_focused hgang (F := fun g => g.putTile d.toNat r.1) fun _ => rfl
  have hstrand := State.modIssuer_becomes (htile.focused.trans s.unfocus_focused) htile.gang m.strand m.id
    fun t => t.setS x.toNat (BitVec.ofNat 32 r.2)
  rw [State.issuerOf_congr hgang htile.gang rfl, hcount, Nat.zero_add] at hstrand
  have hboth := htile.trans hstrand
  have hperform : s.unfocus.performMop m g =
      (s.unfocus.modGang m.gang fun g => g.putTile d.toNat r.1).modIssuer m.gang m.strand m.id
        fun t => t.setS x.toNat (BitVec.ofNat 32 n) := by
    simp only [State.performMop, hi, hc, hcount, Nat.zero_add]
    rfl
  rw [← hperform] at hboth
  obtain ⟨t, ht, hleaves⟩ := matrixOpComplete_ends_gang hr (by rw [hi]; rfl) hboth
    (by simpa [Gang.putTile, Gang.putBt] using hr.strands)
  exact ⟨t, _, ht, hleaves, rfl, g.putTile_writesBits d.toNat hshows⟩

/-! ## The start of an operation -/

theorem theArrayStartsItsNextOperation : Claims.TheArrayStartsItsNextOperation := by
  intro s core
  have hexec : exec (.matrixOpStart core) s = execMatrixOpStart core s := rfl
  refine ⟨?_, fun m hm hfree => ⟨?_, ?_, ?_⟩⟩
  · rintro (hnone | hbusy)
    · simp only [hexec, execMatrixOpStart, event, hnone]
    · rw [hexec, execMatrixOpStart, event]
      split
      · rfl
      · rw [if_pos hbusy]
  · rintro (hadmitted | hpreempted)
    · simp [hexec, execMatrixOpStart, event, hm, hfree, hadmitted, State.putMop]
    · simp [hexec, execMatrixOpStart, event, hm, hfree, hpreempted, State.putMop]
  · intro hheld hstays hdeferred
    simp [hexec, execMatrixOpStart, event, hm, hfree, hheld, hstays, hdeferred]
  · intro hheld hstays hdeferred
    simp [hexec, execMatrixOpStart, event, hm, hfree, hheld, hstays, hdeferred, State.putMop]

/-! ## The statements -/

theorem Gang.WritesAcc.strands {g h : Gang} {ls : List Nat} {d lo hi : Nat} {f : Nat → Nat → Word}
    (hw : g.WritesAcc h ls d lo hi f) : h.strands = g.strands := by
  rw [hw.1]

theorem Gang.WritesBits.strands {g h : Gang} {rows : List Nat} {d : Nat} {f : Nat → Nat → Bool}
    (hw : g.WritesBits h d rows f) : h.strands = g.strands := by
  rw [hw.1]

theorem product_ends {s : State} {m : MOp} {g : Gang} {d a b : BitVec 7} (hr : s.unfocus.MopReady m g)
    (hi : ∃ p fs pi arow w, m.instr = .mma p d a b fs pi arow w ∨ m.instr = .mmas p d a b fs pi arow w)
    (ha : s.unfocus.slotAt g a.toNat ≠ none) (hb : s.unfocus.slotAt g b.toNat ≠ none) :
    ∃ t h f, exec (.matrixOpComplete m.id) s = .next t ∧
      s.unfocus.MopEnds { t with freeCount := s.unfocus.freeCount } m h ∧
      g.WritesAcc h (lanesOf m.mask) d.toNat 0 64 f := by
  have hgang := hr.gang
  have hid := State.gangOf_id s.unfocus_focused hgang
  have hown : s.unfocus.gangOf g.id = some g := by rw [hid]; exact hgang
  obtain ⟨p, fs, pi, arow, w, hi⟩ := hi
  have hrun : fillsSlot m.instr = false ∧ ∃ scaled,
      s.unfocus.performMop m g = s.unfocus.runMma g m d.toNat a.toNat b.toNat pi.toNat arow.toNat scaled := by
    rcases hi with hi | hi
    · exact ⟨by rw [hi]; rfl, false, by simp only [State.performMop, hi]⟩
    · exact ⟨by rw [hi]; rfl, true, by simp only [State.performMop, hi]⟩
  obtain ⟨hfill, scaled, hperform⟩ := hrun
  obtain ⟨c, h, f, hbecomes, hw⟩ :=
    State.runMma_bound s.unfocus_focused hown m (d := d.toNat) pi.toNat arow.toNat scaled ha hb
  rw [← hperform, hid] at hbecomes
  obtain ⟨t, ht, -, hends⟩ := matrixOpComplete_ends hr hfill hbecomes (hw.strands ▸ hr.strands)
  exact ⟨t, h, f, ht, hends, hw⟩

theorem matrixResults : Claims.MatrixResults := by
  intro s m g u hr
  have hfoc : u.focused = false := s.unfocus_focused
  have hgang := hr.gang
  have hstrands := hr.strands
  refine ⟨fun d k f hres => ?_, fun d lo hi f hres => ?_, fun d rows f hres => ?_, fun d a b hi ha hb => ?_,
    fun p d a x fs n hi hn hadds hends => ?_, fun p k a fmt fs row woff nreg sc w x hi hx hdata hscales => ?_⟩
  · have hlands := State.putLanes_becomes hfoc hgang (vCells d k (lanesOf m.mask) f)
    rw [← State.performMop_of_vResults u (MOp.vResults_of_mopV hres)] at hlands
    obtain ⟨t, ht, hends⟩ := matrixOpComplete_ends_gang hr (fillsSlot_eq_false (P := mopV g m) (by intros; rfl) hres) hlands
      (by simpa [Gang.lands] using hstrands)
    obtain ⟨hin, hout⟩ := g.readV_putV_vCells d k f (ls := lanesOf m.mask) fun l hl => (mem_lanesOf hl).1
    exact ⟨t, _, ht, hends, by rw [Gang.lands, Gang.putV_eq], g.lands_strands _, hin, hout⟩
  · obtain ⟨h, hbecomes, hw⟩ := State.performMop_acc hfoc hgang hres
    obtain ⟨t, ht, hends⟩ := matrixOpComplete_ends_gang hr (fillsSlot_eq_false (P := mopAcc u g m) (by intros; rfl) hres) hbecomes
      (hw.strands ▸ hstrands)
    exact ⟨t, h, ht, hends, hw⟩
  · obtain ⟨h, hbecomes, hw⟩ := State.performMop_bits hfoc hgang hres
    obtain ⟨t, ht, hends⟩ := matrixOpComplete_ends_gang hr (fillsSlot_eq_false (P := mopBits u g m) (by intros; rfl) hres) hbecomes
      (hw.strands ▸ hstrands)
    exact ⟨t, h, ht, hends, hw⟩
  · obtain ⟨t, h, f, ht, hends, hacc, -, hkept⟩ := product_ends hr hi ha hb
    exact ⟨t, h, ht, hends, hacc, fun n i j hi hj hne => hkept n i j hi hj (hne.imp_right .inl)⟩
  · obtain ⟨t, h, ht, hleaves, hset, hbt, hin, hout⟩ := closure_ends hr hi hn hadds hends
    refine ⟨t, h, ht, hleaves, ?_, fun i j hi' hj => hin i j (List.mem_range.mpr hi') hj,
      fun k i hi' hk => hout k i hi' (.inl hk), hset⟩
    exact congrArg (fun q : Gang => { q with strands := h.strands }) hbt
  · have hsize : 4 * (woff.toNat + nreg.toNat) ≤ if sc then 8 else 128 := by
      cases sc with
      | false => exact Nat.mul_le_mul_left 4 (hdata rfl)
      | true => exact Nat.mul_le_mul_left 4 (hscales rfl)
    obtain ⟨t, y, ht, hends, ⟨hat, hothers⟩, hfalse, htrue, hin, hout⟩ := fill_ends hr hi hx hsize
    exact ⟨t, y, ht, hends, hat, hothers, hfalse, htrue, hin, hout⟩

/-- Settles O36: the array starts, or defers, the operation that is next, and an operation that ends writes its result, in
registers, accumulator elements, bits or a slot, and nothing else. -/
theorem matrixOperationsWriteTheirResults : Obligations.MatrixOperationsWriteTheirResults :=
  ⟨theArrayStartsItsNextOperation, matrixResults⟩

end Sys2Proof.Machine
end
